-- ==== Sys2Proof/Word.lean ====
section
/-! DEFINITION. Plain arithmetic over words: signed readings, bit fields, bytes and saturation.
A register value is a natural number below 2 ^ width of its field (spec/00_scope.md R7). -/

namespace Sys2Proof

/-- The value of the low `w` bits of `v` read as two's complement. -/
def sint (w v : Nat) : Int :=
  if v % 2 ^ w < 2 ^ (w - 1) then (v % 2 ^ w : Nat) else (v % 2 ^ w : Nat) - (2 ^ w : Nat)

/-- The `w`-bit two's-complement word of an integer; what does not fit wraps. -/
def uint (w : Nat) (x : Int) : Nat := (x % (2 ^ w : Nat)).toNat

/-- Bits [lo + w - 1 : lo] of `v`. -/
def bits (v lo w : Nat) : Nat := v / 2 ^ lo % 2 ^ w

/-- `v` with bits [lo + w - 1 : lo] replaced by the low `w` bits of `x`. -/
def setBits (v lo w x : Nat) : Nat :=
  v / 2 ^ (lo + w) * 2 ^ (lo + w) + x % 2 ^ w * 2 ^ lo + v % 2 ^ lo

/-- Bit `i` of `v`. -/
def bitAt (v i : Nat) : Bool := v / 2 ^ i % 2 == 1

/-- The number of ones among the low `w` bits of `v`. -/
def popCount : Nat → Nat → Nat
  | 0, _ => 0
  | w + 1, v => v % 2 + popCount w (v / 2)

/-- `x` brought into the range from `lo` to `hi`. -/
def clampI (lo hi x : Int) : Int := max lo (min hi x)

/-- `a + b`, saturating at the largest `w`-bit count. -/
def satAdd (w a b : Nat) : Nat := min (a + b) (2 ^ w - 1)

/-- The low `n` bytes of `v`, least significant first (R7). -/
def leBytes : Nat → Nat → List Nat
  | 0, _ => []
  | n + 1, v => v % 256 :: leBytes n (v / 256)

/-- The value of bytes, least significant first (R7). -/
def leVal : List Nat → Nat
  | [] => 0
  | b :: bs => b % 256 + 256 * leVal bs

/-- `n` bytes of `bs` from offset `o` as a little-endian value; bytes past the end count as 0. -/
def leAt (bs : List Nat) (o n : Nat) : Nat := leVal ((bs.drop o).take n)

/-- Byte `o` of `bs`; 0 past the end. -/
def byteAt (bs : List Nat) (o : Nat) : Nat := bs.getD o 0 % 256

/-- Every byte of `bs` from offset `o`, `n` of them, is 0. -/
def zeroBytes (bs : List Nat) (o n : Nat) : Bool := ((bs.drop o).take n).all (· % 256 == 0)

/-- Division rounding up. -/
def ceilDiv (a b : Nat) : Nat := (a + b - 1) / b

/-- `n` rounded up to a multiple of `m`. -/
def roundUp (n m : Nat) : Nat := ceilDiv n m * m

/-- The integer nearest to `a / b` for a positive `b`, a tie going away from zero. -/
def roundDiv (a : Int) (b : Nat) : Int :=
  if 0 ≤ a then (2 * a + b) / (2 * b) else -((2 * (-a) + b) / (2 * b))

/-- `a / 2 ^ k` rounded to nearest, a tie going towards plus infinity. -/
def roundShift (a : Int) (k : Nat) : Int := (a + (2 ^ k / 2 : Nat)) / (2 ^ k : Nat)

/-- The index of the first element of `l` that satisfies `p`, counted from `i`. -/
def findIdxFrom {α : Type} (p : α → Bool) : List α → Nat → Option Nat
  | [], _ => none
  | a :: l, i => if p a then some i else findIdxFrom p l (i + 1)

/-- The numbers below `n` for which `p` holds, in ascending order. -/
def whichBelow (n : Nat) (p : Nat → Bool) : List Nat := (List.range n).filter p

/-- The largest number that can be built on `r` from the bits below `k` so that `p`, which holds up to some number and
not beyond it, holds. -/
def searchFrom (p : Nat → Bool) : Nat → Nat → Nat
  | 0, r => r
  | k + 1, r => if p (r + 2 ^ k) then searchFrom p k (r + 2 ^ k) else searchFrom p k r

/-- The largest number below `2 ^ k` with `p`, for a `p` that holds at 0 and up to some number. -/
def searchMax (k : Nat) (p : Nat → Bool) : Nat := searchFrom p k 0

/-- The integer part of the square root, for numbers below `2 ^ 128`. -/
def isqrt (a : Nat) : Nat := searchMax 64 fun n => decide (n * n ≤ a)

/-- The sum of a list of integers. -/
def sumI (l : List Int) : Int := l.foldl (· + ·) 0

/-- The magnitude of an integer as a natural number. -/
def absI (x : Int) : Nat := x.natAbs

/-- An exact fraction: numerator over `den + 1`, in lowest terms when made by `Frac.mk'`. -/
structure Frac where
  num : Int := 0
  den : Nat := 0
deriving DecidableEq, Repr

/-- `a / b` in lowest terms; `b` is not 0. -/
def Frac.mk' (a : Int) (b : Nat) : Frac :=
  let g := max 1 (Nat.gcd a.natAbs b)
  { num := a / g, den := b / g - 1 }

/-- The denominator. -/
def Frac.d (x : Frac) : Nat := x.den + 1

/-- The sum of two fractions. -/
def Frac.add (x y : Frac) : Frac := Frac.mk' (x.num * y.d + y.num * x.d) (x.d * y.d)

/-- A fraction divided by `2 ^ k`. -/
def Frac.shr (x : Frac) (k : Nat) : Frac := Frac.mk' x.num (x.d * 2 ^ k)

/-- The fraction with its sign changed. -/
def Frac.neg (x : Frac) : Frac := { x with num := -x.num }

/-- `x < y`. -/
def Frac.lt (x y : Frac) : Bool := decide (x.num * y.d < y.num * x.d)

/-- `x` brought into the range from `-m` to `m`. -/
def Frac.clamp (m x : Frac) : Frac := if m.lt x then m else if x.lt m.neg then m.neg else x

/-- The magnitude of a fraction. -/
def Frac.abs (x : Frac) : Frac := { x with num := x.num.natAbs }

end Sys2Proof
end

