-- ==== Sys2Proof/Syntax.lean ====
section
/-! DEFINITION. The commands: one constructor per row of spec/opcode_table.json. -/

namespace Sys2Proof

/-- The masters of R43 that reach the registers. -/
inductive Master where
  | pcie | serial
deriving DecidableEq, Repr

/-- The number of a master in SYS_ACC_ERR.MASTER. -/
def Master.code : Master → Nat
  | .pcie => 0
  | .serial => 1

/-- A received symbol as the detector hands it on: level index and the reliabilities of its MSB and LSB (R157). -/
structure RxSym where
  a : Fin 4
  relM : Fin 16
  relL : Fin 16
deriving DecidableEq, Repr

/-- A run of decided PAM4 level indices: the index before the run, and the run (R160, R251). -/
structure Levels where
  prev : Fin 4
  run : List (Fin 4)
deriving DecidableEq, Repr

/-- What one lane decided in an epoch: its local index on the die, the symbol before its first one, and the symbols of
whole interleave blocks (R187, R195). -/
structure EpochIn where
  lane : Fin 96
  prev : RxSym
  syms : List RxSym
deriving DecidableEq, Repr

/-- One try of a capacitor weight measurement (R120): the two results for each of the ten weights, in 1/256 LSB, and the
decisions that stand for the codes +127 and -127 (bit b for weight b, as in R104). -/
structure WeightTry where
  w1 : List Nat
  w2 : List Nat
  hi : BitVec 10
  lo : BitVec 10
deriving DecidableEq, Repr

/-- What one visit measured of one element, in the resolution units of its registers; a list of pairs holds the two
results of each attempt, in order (R120). `odd` names the second converter of a fused pair. -/
inductive Meas where
  /-- A sub-slice: each comparator's pair (by comparator), the weights, the two spare units of each of the three most
  significant weights, offset and gain. -/
  | subSlice (odd : Bool) (g q : Fin 9) (comps : List (Fin 3 × Int × Int)) (weights : List WeightTry)
      (spares : List (Nat × Nat)) (ofs gain : List (Int × Int))
  /-- A group: gain, timing skew and bandwidth. -/
  | group (odd : Bool) (g : Fin 9) (gain skew bw : List (Int × Int))
  /-- The pair skew of a fused pair. -/
  | pair (skew : List (Int × Int))
  /-- A transmit unary cell 0-15, or the binary segment 16. -/
  | cell (odd : Bool) (c : Fin 17) (trim : List (Int × Int))
deriving DecidableEq, Repr

/-- A change of the datapath that waits for its islands (R73): lead lane n leaves OFF for a cause of LANE_STATE, or a
BIST run starts. -/
inductive Change where
  | lane (n : Fin 192) (cause : Fin 10)
  | bist (ring : Fin 65536) (idx : Fin 65536) (mask : Fin 8)
deriving DecidableEq, Repr

/-- A FIFO of R68: of a lane towards the receive DSP or the DAC, of a host lane towards its transmitter or from its
receiver, of a brim die's capture taps (0 west, 1 east), and of the PCIe and the DRAM boundary in each direction. -/
inductive Fifo where
  | adc (n : Fin 192) | dac (n : Fin 192) | hostTx (m : Fin 384) | hostRx (m : Fin 384)
  | capture (d : Fin 2) | pcie (out : Bool) | dram (out : Bool)
deriving DecidableEq, Repr

/-- One millisecond's reading of a sensor whose conversion completed: the raw value and the temperature (R383, R384). -/
structure Reading where
  raw : BitVec 16
  temp : BitVec 16
deriving DecidableEq, Repr

/-- A frame that Roloz firmware asks the serial port master for (R402, R407): target, a read data phase, the command and
address bytes, the dummy clocks, the lanes and rate of each phase, coded as PH_CMD of R412, and the bytes of a data phase
that writes. -/
structure FwFrame where
  tgt : Fin 32
  read : Bool
  phData : Fin 8
  cmd : List (BitVec 8) := []
  addr : List (BitVec 8) := []
  dummy : Fin 32 := 0
  phCmd : Fin 8 := 0
  phAddr : Fin 8 := 0
  data : List (BitVec 8) := []
deriving DecidableEq, Repr

/-- Its data phase is DDR. -/
def FwFrame.ddr (f : FwFrame) : Bool := decide (4 ≤ f.phData.val)

/-- An entry of the MSI-X table as the host writes it, with its mask bit (R290). -/
structure MsixEntry where
  vector : Fin 2048
  addr : BitVec 64
  data : BitVec 32
  mask : Bool
deriving DecidableEq, Repr

/-- What the firmware writes into MSPM_CFG, MSPM_XIP_CFG0 and MSPM_XIP_CFG1 as it starts (R425). -/
structure FwInit where
  cfg : BitVec 32
  xip0 : BitVec 32
  xip1 : BitVec 32
deriving DecidableEq, Repr

/-- The commands. `n` numbers a lane, `m` of `Fin 384` a host lane, `q` and `i` a command ring and the index of the
descriptor in it; the operands of a row are explained at its meaning. -/
inductive Instr where
  /-- REGISTER_WRITE, R54. -/
  | registerWrite (m : Master) (off : Fin 67108864) (len : Nat) (allBytes : Bool) (vs : List (BitVec 32))
  /-- W1C_WRITE, R59. -/
  | w1cWrite (m : Master) (off : Fin 67108864) (v : BitVec 32)
  /-- RC_READ, R32. -/
  | rcRead (m : Master) (off : Fin 67108864) (len : Nat)
  /-- MULTIWORD_LOW_READ, R56. -/
  | multiwordLowRead (m : Master) (off : Fin 67108864) (both : Bool)
  /-- MULTIWORD_STAGED_WRITE, R58. -/
  | multiwordStagedWrite (m : Master) (off : Fin 67108864) (v : BitVec 32)
  /-- STATE_REQ_RUN, R62. -/
  | stateReqRun (m : Master)
  /-- STATE_REQ_SAFE, R62. -/
  | stateReqSafe (m : Master)
  /-- STATE_REQ_SETUP, R62. -/
  | stateReqSetup (m : Master)
  /-- SYS_SWRST, R84. -/
  | sysSwrst (m : Master)
  /-- POWER_UP, R84. -/
  | powerUp
  /-- POWER_DOWN, R83. -/
  | powerDown
  /-- RESET_PIN, R84. -/
  | resetPin
  /-- PCIE_FUNDAMENTAL_RESET, R84. -/
  | pcieFundamentalReset
  /-- PERST_ENDPOINT_RESET, R85. -/
  | perstEndpointReset
  /-- FUNCTION_LEVEL_RESET, R267. -/
  | functionLevelReset
  /-- D3HOT_ENTRY, R267. -/
  | d3hotEntry
  /-- RESET_END, R84. -/
  | resetEnd (src : Fin 4) (chain : Bool)
      (avs : (Bool × Bool × Bool) × Option (BitVec 10) × Option (BitVec 10) × Option (BitVec 10))
  /-- ENDPOINT_READY, R85. -/
  | endpointReady
  /-- LINK_DOWN_TIMEOUT, R90. -/
  | linkDownTimeout
  /-- WATCHDOG_EXPIRED, R89. -/
  | watchdogExpired (imageOk : Bool)
  /-- BRIDGE_TIMEOUT, R437. -/
  | bridgeTimeout (east : Bool)
  /-- PLL_LOCK_TIMEOUT, R437. -/
  | pllLockTimeout (mask : Fin 16)
  /-- FW_MEMORY_ERROR, R437. -/
  | fwMemoryError
  /-- FW_CHECK_FAIL, R437. -/
  | fwCheckFail (code : BitVec 8)
  /-- DUMP_ENTRY, R440. -/
  | dumpEntry
  /-- HOST_DUMP_LINK_LOST, R440. -/
  | hostDumpLinkLost
  /-- DUMP_COMPLETE, R443. -/
  | dumpComplete (fw : List (BitVec 8))
  /-- DUMP_FLASH_TIMEOUT, R444. -/
  | dumpFlashTimeout
  /-- LREFCLK_ABSENT, R460. -/
  | lrefclkAbsent
  /-- LREFCLK_RETURN, R460. -/
  | lrefclkReturn
  /-- BOOT_HEADERS_READ, R432. -/
  | bootHeadersRead (a b : List (BitVec 8))
  /-- BOOT_IMAGE_LOADED, R432. -/
  | bootImageLoaded (body : List (BitVec 8)) (init : FwInit)
  /-- SYS_HBOOT_GO, R434. -/
  | sysHbootGo (m : Master)
  /-- HOST_IMAGE_LOADED, R434. -/
  | hostImageLoaded (ok : Bool) (init : FwInit)
  /-- NVM_RECORD_LOAD, R145. -/
  | nvmRecordLoad
  /-- BOOT_COMPLETE, R433. -/
  | bootComplete
  /-- MARGIN_MEASURE, R70. -/
  | marginMeasure (i : Fin 40) (rate : BitVec 32)
  /-- RATE_RAISE_READY, R73. -/
  | rateRaiseReady (c : Change)
  /-- RATE_RAISE_TIMEOUT, R73. -/
  | rateRaiseTimeout (c : Change)
  /-- SUPPLY_LOOP_EVAL, R75. -/
  | supplyLoopEval
  /-- AVS_TRANSACTION_DONE, R75. -/
  | avsTransactionDone (r : Fin 3) (ok : Bool)
  /-- AVS_STATUS_READ, R77. -/
  | avsStatusRead (r : Fin 3) (statusOk fault targetOk : Bool) (mv : BitVec 16)
  /-- AVS_FAULT_RETRY, R77. -/
  | avsFaultRetry (r : Fin 3) (good : Bool)
  /-- FIFO_SLIP, R69. -/
  | fifoSlip (x : Fifo × Bool)
  /-- CONVERTER_RUNNING, R95. -/
  | converterRunning (n : Fin 192)
  /-- AGC_PERIOD, R97. -/
  | agcPeriod (n : Fin 192)
  /-- FE_WALK_STEP, R98. -/
  | feWalkStep (n : Fin 192)
  /-- ADC_WINDOW, R107. -/
  | adcWindow (n : Fin 192) (samples : List (BitVec 10))
  /-- MAP_CHANGE, R102. -/
  | mapChange (n : Fin 192)
  /-- FOREGROUND_PASS_START, R128. -/
  | foregroundPassStart (d : Fin 2)
  /-- FG_DONE, R126. -/
  | fgDone (n : Fin 192) (rx tx : List Meas)
  /-- CAL_WAIT_RETRY, R129. -/
  | calWaitRetry (n : Fin 192)
  /-- CARDING_SLOT, R132. -/
  | cardingSlot (n : Fin 192) (ms : List Meas)
  /-- TX_CELL_SWAP, R218. -/
  | txCellSwap (n : Fin 192)
  /-- LANE_TEMP_REPORT, R135. -/
  | laneTempReport (n : Fin 192)
  /-- RAMP_STEP, R136. -/
  | rampStep (n : Fin 192)
  /-- NVM_COMMIT_START, R142. -/
  | nvmCommitStart
  /-- SCHEDULED_COMMIT, R143. -/
  | scheduledCommit
  /-- NVM_COMMIT_RESUME, R142. -/
  | nvmCommitResume
  /-- NVM_COMMIT_TIMEOUT, R142. -/
  | nvmCommitTimeout
  /-- NVM_PROGRAM_DONE, R142. -/
  | nvmProgramDone (bad : List (Nat × BitVec 8))
  /-- NVM_ERASE_DONE, R142. -/
  | nvmEraseDone
  /-- ADAPTATION_STEP, R161. -/
  | adaptationStep (n : Fin 192) (prev : Fin 4) (k : Nat) (xs : List (BitVec 8))
  /-- TIMING_UPDATE, R167. -/
  | timingUpdate (n : Fin 192) (prev : Fin 4) (xs : List (BitVec 8))
  /-- ACQ_STEP_END, R170. -/
  | acqStepEnd (n : Fin 192)
  /-- CTLE_TRY_END, R171. -/
  | ctleTryEnd (n : Fin 192) (prev : Fin 4) (xs : List (BitVec 8))
  /-- EQ_WINDOW, R172. -/
  | eqWindow (n : Fin 192) (prev : Fin 4) (xs : List (BitVec 8))
  /-- ACQ_TIMEOUT, R172. -/
  | acqTimeout (n : Fin 192)
  /-- INNER_HUNT_TEST, R189. -/
  | innerHuntTest (n : Fin 192) (prev : RxSym) (xs : List RxSym)
  /-- POOL_EPOCH, R195. -/
  | poolEpoch (d : Fin 2) (ins : List EpochIn)
  /-- DECODE_DELIVER, R196. -/
  | decodeDeliver (d : Fin 2)
  /-- POOL_WINDOW, R197. -/
  | poolWindow (d : Fin 2)
  /-- RS_CODEWORD, R199. -/
  | rsCodeword (n : Fin 192) (word : Levels)
  /-- PAYLOAD_LOCK_TIMEOUT, R233. -/
  | payloadLockTimeout (n : Fin 192)
  /-- PAYLOAD_START, R230. -/
  | payloadStart (n : Fin 192)
  /-- HOLDOVER_GRACE_EXPIRY, R232. -/
  | holdoverGraceExpiry (n : Fin 192)
  /-- DRAIN_COMPLETE, R235. -/
  | drainComplete (n : Fin 192)
  /-- TX_SAT_WINDOW, R215. -/
  | txSatWindow (n : Fin 192) (x : Nat × Levels × Levels)
  /-- UNSQUELCH_RAMP_END, R223. -/
  | unsquelchRampEnd (n : Fin 192)
  /-- SWING_WALK_STEP, R219. -/
  | swingWalkStep (n : Fin 192)
  /-- TX_PARAM_APPLY, R227. -/
  | txParamApply (n : Fin 192)
  /-- SLOT_FAULT, R239. -/
  | slotFault (k : Fin 24)
  /-- SLOT_FAULT_CLEAR, R222. -/
  | slotFaultClear (k : Fin 24)
  /-- HOST_ALIGN_TEST, R245. -/
  | hostAlignTest (m : Fin 384) (word : Levels) (start : Int)
  /-- CDR_LOCK, R252. -/
  | cdrLock (m : Fin 384)
  /-- HOST_LINK_DOWN, R252. -/
  | hostLinkDown (m : Fin 384) (sig : Bool)
  /-- LOOPBACK_SLIP, R250. -/
  | loopbackSlip (x : Fin 192 × Bool)
  /-- RING_ENABLE, R270. -/
  | ringEnable (m : Master) (q : Fin 32768) (ok : Bool)
  /-- RING_DISABLE, R271. -/
  | ringDisable (m : Master) (q : Fin 32768)
  /-- DOORBELL, R273; with no value a read of BAR2, R48. -/
  | doorbell (off : Fin 2097152) (len : Nat) (allBytes : Bool) (v : Option (BitVec 32))
  /-- EVT_ROUTE_WRITE, R287. -/
  | evtRouteWrite (m : Master) (k : Fin 34) (v : BitVec 32)
  /-- MSIX_UNMASK, R290: the host writes a table entry. -/
  | msixUnmask (e : MsixEntry)
  /-- DESCRIPTOR_FETCH, R276. -/
  | descriptorFetch (q : Fin 32768) (ok : Bool)
  /-- JOB_START, R278. -/
  | jobStart (q : Fin 32768) (i : Fin 65536)
  /-- HOST_READ_ERROR, R281. -/
  | hostReadError (q : Fin 32768) (i : Fin 65536)
  /-- COMPLETION_WRITE, R284. -/
  | completionWrite (q : Fin 32768)
  /-- EVENT_DELIVER, R288. -/
  | eventDeliver (q : Fin 32768)
  /-- IRQ_COAL_TIMER, R291. -/
  | irqCoalTimer (q : Fin 32768)
  /-- TRIGGER_TICK, R305. -/
  | triggerTick
  /-- CAPTURE_UNIT_WRITE, R306. -/
  | captureUnitWrite (b : Fin 256) (prev : Fin 4) (before own after : List (BitVec 8)) (full : Bool)
  /-- CAPTURE_TIMEOUT, R312. -/
  | captureTimeout (b : Fin 256)
  /-- DRAM_TEMP_READ, R307. -/
  | dramTempRead (temp : BitVec 16)
  /-- CAPTURE_READ_DONE, R315. -/
  | captureReadDone (k : Fin 4096)
  /-- PLANK_JOB_START, R43. -/
  | plankJobStart
  /-- PLANK_JOB_END, R324. -/
  | plankJobEnd (e : Fin 8)
  /-- PLANK_ENGINE_FAULT, R325. -/
  | plankEngineFault (e : Fin 8)
  /-- HB_TIMER_TRIGGER, R345. -/
  | hbTimerTrigger (c : Fin 2)
  /-- HB_PWM_TRIGGER, R345. -/
  | hbPwmTrigger (c : Fin 2)
  /-- HB_BUS_GRANT, R331. -/
  | hbBusGrant
  /-- HB_CONVERSION, R331. -/
  | hbConversion (c : Fin 2) (raw : BitVec 20)
  /-- HB_Q_READ, R350. -/
  | hbQRead (m : Master) (c : Fin 2)
  /-- HB_SELFCAL_STEP, R354. -/
  | hbSelfcalStep (c : Fin 2) (m1 m2 : Int)
  /-- HB_STOPPED, R351. -/
  | hbStopped (c : Fin 2)
  /-- HB_EXC_CHECK, R344. -/
  | hbExcCheck (k : Fin 8) (mv : BitVec 16) (limit : Bool)
  /-- DAC_SLEW_TICK, R366. -/
  | dacSlewTick (c : Fin 48)
  /-- RANGE_CLAMP_END, R367. -/
  | rangeClampEnd (c : Fin 48)
  /-- HK_CLEAR_PIN, R368. -/
  | hkClearPin
  /-- HK_CLEAR_PIN_END, R370. -/
  | hkClearPinEnd
  /-- PWM_PERIOD_START, R373. -/
  | pwmPeriodStart (p : Fin 24)
  /-- THERMAL_TICK, R391. -/
  | thermalTick (readings : List (Option Reading))
  /-- SENSOR_READMIT, R384. -/
  | sensorReadmit (m : Master) (w : Fin 4) (v : BitVec 32)
  /-- MSPM_FRAME, R407. -/
  | mspmFrame (fw : Option FwFrame) (data : List (BitVec 8)) (strobe : Bool)
  /-- XIP_READ, R409. -/
  | xipRead (line : Fin 1048576)
  /-- MSP_POLL_WAIT, R413. -/
  | mspPollWait (q : Fin 32768) (i : Fin 65536)
  /-- MSP_POLL_TIMEOUT, R413. -/
  | mspPollTimeout (q : Fin 32768) (i : Fin 65536)
  /-- SLAVE_READ, R416. -/
  | slaveRead (shape : Bool) (addr : BitVec 32) (whole : Bool) (words : Nat)
  /-- SLAVE_WRITE, R418. -/
  | slaveWrite (shape : Bool) (addr : BitVec 32) (whole : Bool) (words : List (BitVec 32)) (cut : Bool)
  /-- SLAVE_STATUS, R415. -/
  | slaveStatus (shape : Bool) (words : Nat)
  /-- SLAVE_FETCH, R417. -/
  | slaveFetch (shape : Bool) (words : Nat)
  /-- SLAVE_FETCH_DONE, R416. -/
  | slaveFetchDone
  /-- CHAIN_RELEASE, R422. -/
  | chainRelease (shape : Bool) (clocks : Nat) (word : BitVec 512)
  /-- BIST_DONE, R447. -/
  | bistDone (sigs : BitVec 64 × BitVec 64 × BitVec 64) (mems : BitVec 16 × BitVec 16 × BitVec 16)
  /-- TELEMETRY_PERIOD, R450. -/
  | telemetryPeriod (k : Fin 64)
  /-- TELEMETRY_QUEUE_RECORD, R450. -/
  | telemetryQueueRecord (k : Fin 64) (period : Bool)
  /-- NOP, R279. -/
  | nop (q : Fin 32768) (i : Fin 65536)
  /-- FENCE, R279. -/
  | fence (q : Fin 32768) (i : Fin 65536)
  /-- LANE_CONFIG, R260. -/
  | laneConfig (q : Fin 32768) (i : Fin 65536)
  /-- LANE_ENABLE, R236. -/
  | laneEnable (q : Fin 32768) (i : Fin 65536)
  /-- LANE_DISABLE, R237. -/
  | laneDisable (q : Fin 32768) (i : Fin 65536)
  /-- LANE_LOOPBACK, R262. -/
  | laneLoopback (q : Fin 32768) (i : Fin 65536)
  /-- LANE_MAP, R263. -/
  | laneMap (q : Fin 32768) (i : Fin 65536)
  /-- LANE_PAIR, R264. -/
  | lanePair (q : Fin 32768) (i : Fin 65536)
  /-- EQ_PARAM, R181. -/
  | eqParam (q : Fin 32768) (i : Fin 65536)
  /-- TX_PARAM, R227. -/
  | txParam (q : Fin 32768) (i : Fin 65536)
  /-- FEC_CONFIG, R204. -/
  | fecConfig (q : Fin 32768) (i : Fin 65536)
  /-- POOL_CONFIG, R205. -/
  | poolConfig (q : Fin 32768) (i : Fin 65536)
  /-- CAL_RUN, R146. -/
  | calRun (q : Fin 32768) (i : Fin 65536)
  /-- CAL_POLICY, R147. -/
  | calPolicy (q : Fin 32768) (i : Fin 65536)
  /-- CAL_COMMIT, R148. -/
  | calCommit (q : Fin 32768) (i : Fin 65536)
  /-- CAL_RESTORE, R149. -/
  | calRestore (q : Fin 32768) (i : Fin 65536)
  /-- CAPTURE_ARM, R303. -/
  | captureArm (q : Fin 32768) (i : Fin 65536)
  /-- CAPTURE_ABORT, R313. -/
  | captureAbort (q : Fin 32768) (i : Fin 65536)
  /-- CAPTURE_READ, R315. -/
  | captureRead (q : Fin 32768) (i : Fin 65536)
  /-- PLANK_COMPRESS, R321. -/
  | plankCompress (q : Fin 32768) (i : Fin 65536)
  /-- PLANK_DECOMPRESS, R323. -/
  | plankDecompress (q : Fin 32768) (i : Fin 65536)
  /-- HB_SCAN_SET, R358. -/
  | hbScanSet (q : Fin 32768) (i : Fin 65536)
  /-- HB_START, R359. -/
  | hbStart (q : Fin 32768) (i : Fin 65536)
  /-- HB_STOP, R360. -/
  | hbStop (q : Fin 32768) (i : Fin 65536)
  /-- HB_URGENT, R353. -/
  | hbUrgent (q : Fin 32768) (i : Fin 65536)
  /-- HB_SELFCAL, R362. -/
  | hbSelfcal (q : Fin 32768) (i : Fin 65536)
  /-- HB_EXCITE, R363. -/
  | hbExcite (q : Fin 32768) (i : Fin 65536)
  /-- HK_DAC_SET, R379. -/
  | hkDacSet (q : Fin 32768) (i : Fin 65536)
  /-- HK_DAC_RANGE, R380. -/
  | hkDacRange (q : Fin 32768) (i : Fin 65536)
  /-- HK_PWM_SET, R381. -/
  | hkPwmSet (q : Fin 32768) (i : Fin 65536)
  /-- THERM_LIMITS, R397. -/
  | thermLimits (q : Fin 32768) (i : Fin 65536)
  /-- THERM_SHED_ORDER, R398. -/
  | thermShedOrder (q : Fin 32768) (i : Fin 65536)
  /-- MSP_XFER, R413. -/
  | mspXfer (q : Fin 32768) (i : Fin 65536)
  /-- TELEMETRY_SUBSCRIBE, R449. -/
  | telemetrySubscribe (q : Fin 32768) (i : Fin 65536)
  /-- BIST_RUN, R447. -/
  | bistRun (q : Fin 32768) (i : Fin 65536)
  /-- DUMP_REQUEST, R445. -/
  | dumpRequest (q : Fin 32768) (i : Fin 65536)
  /-- TIME_SET, R452. -/
  | timeSet (q : Fin 32768) (i : Fin 65536)
  /-- LINK_L0_EXIT, R90. -/
  | linkL0Exit
  /-- LINK_L0_ENTRY, R90. -/
  | linkL0Entry
  /-- BUS_MASTER_ENABLE_WRITE, R267. -/
  | busMasterEnableWrite (enable : Bool)
  /-- D3HOT_EXIT, R267. -/
  | d3hotExit
  /-- WATCHDOG_RESTART, R89. -/
  | watchdogRestart
  /-- SLOT_FLT_N_CHANGE, R222. -/
  | slotFltNChange (k : Fin 24) (high : Bool)
  /-- PRBS_CHECK, R253. -/
  | prbsCheck (m : Fin 384) (errs : List Bool)
  /-- PWM_ACTIVE_END, R375. -/
  | pwmActiveEnd (p : Fin 24)
  /-- SLAVE_UNDEFINED_COMMAND, R420. -/
  | slaveUndefinedCommand (shape : Bool) (cmd : Option (BitVec 8))
deriving DecidableEq, Repr

end Sys2Proof
end

