-- ==== Sys2Proof/Decode.lean ====
section
/-! DEFINITION. Table words. The commands are accesses, pins, timers and descriptors; spec/opcode_table.json gives no row
bits, so no word spells one. -/

namespace Sys2Proof

/-- The command that a table word spells: none, since no row of the table has bits. -/
def decodeTableWord (_nbits _w : Nat) : Option Instr := none

end Sys2Proof
end

