-- ==== Sys2Proof/Config.lean ====
section
/-! DEFINITION. What an implementation fixes and what the spec leaves open. An opaque constant has no body: nothing
can be proved of its value, so a claim that holds holds for every value (free values of the log). -/

namespace Sys2Proof.Config

/-- Fused content by register offset and field (die identity, silicon stepping, expected BIST signatures),
R65, R448. Free value (log 7). -/
opaque fused : Nat → Nat → Nat

/-- The level index that the FIR of a lane sees for a symbol before the first one of the chain (R214 gives none);
the second argument counts back from the first symbol. Free value (log 9). -/
opaque symbolBefore : Nat → Nat → Nat

/-- Whether a value that the manual gives without its rounding goes to the upper of its two neighbours; the first
argument names the place, the others the quotient. Free value (log 10). -/
opaque roundsUp : Nat → Int → Nat → Bool

/-- A value the manual does not state for its argument; the first argument names the place. Free value (log 12). -/
opaque unstated : Nat → Nat → Nat

/-- The nominal capacitor weight `b` of a sub-slice: the manual calls it nominal and gives no number (R145, R150).
Free value (log 6). -/
opaque nominalWeight : Nat → Nat

/-- The required token rate of a control or management island, which the manual calls fixed (R71). Free value
(log 11). -/
opaque fixedRate : Nat → Nat

/-- Where the copy of SYS_TIME on a brim die stands at an instant, within 2 ns of the crown's: 0 to 4 nanoseconds above
2 ns behind it (R20). The first argument is the die, 0 brim west and 2 brim east. Free value (log 24). -/
opaque timeOffset : Nat → Nat → Nat

/-- What R319 leaves open of a Plank stream, which is a function of the frame and of EFFORT, DEPTH, TABLES, LOG2_FRAME
and FIRST_INDEX. Free values (log 36): the hash of 3 bytes; the order in which the candidates at a position are examined,
a number for each distance; how many symbols a block takes that begins after so many bytes; the lengths of the code of at
most so many bits that is built from symbol counts; and the symbols in which a table of lengths is sent. -/
opaque hash3 : Nat → Nat
opaque candidateOrder : List Nat → Nat → Nat → Nat
opaque blockTokens : List Nat → Nat → Nat
opaque codeLengths : Nat → List Nat → List Nat
opaque lengthRuns : List Nat → List (Nat × Nat)

end Sys2Proof.Config

namespace Sys2Proof

/-- `a / b` as one of its two neighbouring integers, exact where `b` divides `a` (log 10); `site` names the place. -/
def freeDiv (site : Nat) (a : Int) (b : Nat) : Int :=
  if a % b = 0 then a / b else a / b + (Config.roundsUp site a b).toNat

/-- The square root of `a / b` as one of its two neighbouring integers, exact where it is one (log 10). -/
def freeSqrt (site : Nat) (a b : Nat) : Nat :=
  let r := isqrt (a / b)
  if r * r * b = a then r else r + (Config.roundsUp site a b).toNat

end Sys2Proof
end

