-- ==== Sys2Proof/Machine/Codes.lean ====
section
/-! DEFINITION. The codes of the line and the host links: inner code, Chase-II, interleave, Gray mapping, test patterns
and the outer code (spec/07_fec_decoder_pool.md R184-R192, R198; R211, R246, R251). -/

namespace Sys2Proof.Machine

open Sys2Proof

/-! ### The inner code, R184-R186 -/

/-- Multiplication by α in GF(2^8) with x^8 + x^4 + x^3 + x^2 + 1. -/
def gf8x (a : Nat) : Nat := if a * 2 < 256 then a * 2 else (a * 2 - 256) ^^^ 0x1D

/-- α^d. -/
def gf8pow : Nat → Nat
  | 0 => 1
  | d + 1 => gf8x (gf8pow d)

/-- log_α of a non-zero element. -/
def gf8log (v : Nat) : Nat := go 255 1 0
where
  /-- Searches the powers from `p` = α^e on. -/
  go : Nat → Nat → Nat → Nat
  | 0, _, e => e
  | k + 1, p, e => if p = v then e else go k (gf8x p) (e + 1)

/-- The syndrome of the bits of a word; `d` is one more than the degree of the first. -/
def syndromeFrom : List Bool → Nat → Nat
  | [], _ => 0
  | b :: bs, d => (if b then gf8pow (d - 1) else 0) ^^^ syndromeFrom bs (d - 1)

/-- The syndrome of a received word of 144 bits. -/
def syndrome (v : List Bool) : Nat := syndromeFrom v 144

/-- The outcome of a decoder. -/
inductive Verdict where
  | clean | corrected | detected
deriving DecidableEq, Repr

/-- `v` with bit `i` flipped. -/
def flip (v : List Bool) (i : Nat) : List Bool := v.set i (!(v.getD i false))

/-- The hard decode of R186. -/
def hardDecode (v : List Bool) : List Bool × Verdict :=
  let s := syndrome v
  if s = 0 then (v, .clean)
  else
    let e := gf8log s
    if e ≤ 143 then (flip v (143 - e), .corrected) else (v, .detected)

/-- The codeword of 136 information bits: the parity bits are the syndrome they leave, highest degree first (R184). -/
def innerEncode (m : List Bool) : List Bool :=
  let p := syndrome m
  m ++ (List.range 8).map fun i => bitAt p (7 - i)

/-! ### Chase-II, R191 -/

/-- The positions in order of reliability, the least first and ties to the lower index. -/
def insertRel (x : Nat × Nat) : List (Nat × Nat) → List (Nat × Nat)
  | [] => [x]
  | y :: t => if x.2 < y.2 then x :: y :: t else y :: insertRel x t

/-- The `t` least reliable positions. -/
def leastRel (rel : List Nat) (t : Nat) : List Nat :=
  ((((List.range rel.length).zip rel).foldl (fun l x => insertRel x l) []).take t).map (·.1)

/-- Sum of reliabilities and number of positions where `w` differs from `v`. -/
def distance (v w : List Bool) (rel : List Nat) : Nat × Nat :=
  let ds := ((v.zip w).zip rel).filter fun x => x.1.1 != x.1.2
  (ds.foldl (fun m x => m + x.2) 0, ds.length)

/-- The test word of pattern `b`. -/
def testWord (v : List Bool) (lrb : List Nat) (b : Nat) : List Bool :=
  ((List.range lrb.length).zip lrb).foldl (fun w x => if bitAt b x.1 then flip w x.2 else w) v

/-- Chase-II over `t` positions. -/
def chase (v : List Bool) (rel : List Nat) (t : Nat) : List Bool × Verdict :=
  let lrb := leastRel rel t
  let best := (List.range (2 ^ t)).foldl (fun best b =>
    let (w, r) := hardDecode (testWord v lrb b)
    if r == .detected then best
    else
      let (m, d) := distance v w rel
      match best with
      | none => some (w, m, d)
      | some (_, bm, bd) => if m < bm || (m == bm && d < bd) then some (w, m, d) else best)
    (none : Option (List Bool × Nat × Nat))
  match best with
  | none => (v, .detected)
  | some (w, _, _) => (w, .corrected)

/-! ### Interleave, R160, R187 -/

/-- A received symbol's bits with their reliabilities. -/
structure BitPair where
  m : Bool
  l : Bool
  rm : Nat
  rl : Nat
deriving DecidableEq, Repr

/-- Gray demapping of a level index: MSB and LSB (R160). -/
def demap (g : Nat) : Bool × Bool := (g ≥ 2, g == 1 || g == 2)

/-- Precoding decoding and Gray demapping of a run of symbols after one with index `pa` and reliabilities `pm`, `pl`
(R160). -/
def demapRun (pre : Bool) : Nat → Nat → Nat → List RxSym → List BitPair
  | _, _, _, [] => []
  | pa, pm, pl, x :: xs =>
    let (m, l) := demap (if pre then (x.a + pa) % 4 else x.a)
    let p : BitPair := if pre then { m := m, l := l, rm := min pm x.relM, rl := min pl x.relL }
      else { m := m, l := l, rm := x.relM, rl := x.relL }
    p :: demapRun pre x.a x.relM x.relL xs

/-- The bits that a host receiver makes of decided level indices after the index `p`: polarity, precoding decoded, Gray
demapped (R251). -/
def hostReceive (invert precode : Bool) : Nat → List (Fin 4) → List Bool
  | _, [] => []
  | p, a :: as =>
    let x (v : Nat) : Nat := if invert then 3 - v else v
    let b := demap (if precode then (x a + x p) % 4 else x a)
    b.1 :: b.2 :: hostReceive invert precode a as

/-- Codeword w of a block of 288 symbols: bits and reliabilities in transmission order (R187). -/
def codewordOf (b : Array BitPair) (w : Nat) : List (Bool × Nat) :=
  (List.range 144).map fun i =>
    let m := i / 2
    if i % 2 = 0 then
      let x := b.getD (4 * m + w) ⟨false, false, 0, 0⟩
      (x.m, x.rm)
    else
      let x := b.getD (4 * m + (w + 2) % 4) ⟨false, false, 0, 0⟩
      (x.l, x.rl)

/-- The codewords of whole blocks, earliest first; `k` bounds the number of blocks. -/
def codewords : Nat → List BitPair → List (List (Bool × Nat))
  | 0, _ => []
  | k + 1, b =>
    if b.length < 288 then []
    else ((List.range 4).map (codewordOf (b.take 288).toArray)) ++ codewords k (b.drop 288)

/-- The codewords of a run of received symbols after the symbol `prev`. -/
def received (pre : Bool) (prev : RxSym) (xs : List RxSym) : List (List (Bool × Nat)) :=
  let ps := demapRun pre prev.a prev.relM prev.relL xs
  codewords (ps.length / 288) ps

/-- The 288 bit pairs, MSB first, that carry four codewords (R187). -/
def interleave (cs : List (List Bool)) : List Nat :=
  (List.range 288).map fun t =>
    let m := t / 4
    let w := t % 4
    2 * ((cs.getD w []).getD (2 * m) false).toNat + ((cs.getD ((w + 2) % 4) []).getD (2 * m + 1) false).toNat

/-- The bit pairs of a block of 544 information bits (R187, R209). -/
def encodeBlock (bs : List Bool) : List Nat :=
  interleave ((List.range 4).map fun w => innerEncode ((bs.drop (136 * w)).take 136))

/-- The four codewords of each block in the order in which their last bits arrive: the MSB of symbol 286 ends no
codeword before its LSB does, and codewords that end in one symbol keep their order in the stream (R187, R195; DEDUCED,
log 82). The order of a block undoes itself. -/
def byCompletion {α : Type} : List α → List α
  | a :: b :: c :: d :: l => a :: c :: b :: d :: byCompletion l
  | l => l

/-! ### Test patterns and Gray mapping, R211, R246, R247, R251 -/

/-- Gray mapping of a bit pair, MSB first: 00, 01, 11, 10 are 0, 1, 2, 3 (R211). -/
def gray (v : Nat) : Nat := if v = 2 then 3 else if v = 3 then 2 else v

/-- One bit of PRBS31, x^31 + x^28 + 1, and the register after it; the register holds the last 31 bits, the newest at
bit 0 (R246). -/
def prbs31 (r : Nat) : Bool × Nat :=
  let b := bitAt r 30 != bitAt r 27
  (b, r * 2 % 2 ^ 31 + b.toNat)

/-- One bit of PRBS13, x^13 + x^12 + x^2 + x + 1, as IEEE 802.3 defines it (R247, R251; PRESUMED, log 84). -/
def prbs13 (r : Nat) : Bool × Nat :=
  let b := (bitAt r 12 != bitAt r 11) != (bitAt r 1 != bitAt r 0)
  (b, r * 2 % 2 ^ 13 + b.toNat)

/-- `k` bits of a generator, and its register after them. -/
def prbsBits (gen : Nat → Bool × Nat) : Nat → Nat → List Bool × Nat
  | 0, r => ([], r)
  | k + 1, r =>
    let (b, r) := gen r
    let (bs, r) := prbsBits gen k r
    (b :: bs, r)

/-- Bits in pairs, the first of a pair as its MSB (R210). -/
def bitPairs : List Bool → List Nat
  | a :: b :: l => (2 * a.toNat + b.toNat) :: bitPairs l
  | _ => []

/-- 1/(1+D) precoding of level indices after one that was sent as `p` (R212). -/
def precodeRun : Nat → List Nat → List Nat
  | _, [] => []
  | p, g :: gs =>
    let x := (g + 4 - p % 4) % 4
    x :: precodeRun x gs

/-! ### The outer code, R198: RS(544,514) over GF(2^10), as IEEE 802.3 defines it -/

/-- Multiplication by α in GF(2^10) with x^10 + x^3 + 1. -/
def gf10x (a : Nat) : Nat := if a * 2 < 1024 then a * 2 else (a * 2 - 1024) ^^^ 0x9

/-- The product of two elements. -/
def gf10mul (a b : Nat) : Nat := go 10 a b
where
  /-- Adds `a` shifted for each bit of `b`. -/
  go : Nat → Nat → Nat → Nat
  | 0, _, _ => 0
  | k + 1, a, b => (if b % 2 = 1 then a else 0) ^^^ go k (gf10x a) (b / 2)

/-- α^d. -/
def gf10pow : Nat → Nat
  | 0 => 1
  | d + 1 => gf10x (gf10pow d)

/-- The inverse: the 1,022nd power, by squaring. -/
def gf10inv (a : Nat) : Nat := go 9 (gf10mul a a)
where
  /-- The product of the successive squares. -/
  go : Nat → Nat → Nat
  | 0, _ => 1
  | k + 1, p => gf10mul p (go k (gf10mul p p))

/-- A polynomial, lowest degree first, at `x`. -/
def polyAt (p : List Nat) (x : Nat) : Nat := p.foldr (fun c acc => c ^^^ gf10mul acc x) 0

/-- Syndromes 0-29 of a word whose first symbol has the highest degree. -/
def rsSyndromes (v : List Nat) : List Nat :=
  (List.range 30).map fun j => let a := gf10pow j; v.foldl (fun acc c => gf10mul acc a ^^^ c) 0

/-- The state of the Berlekamp-Massey recursion. -/
structure Massey where
  c : List Nat := [1]
  b : List Nat := [1]
  len : Nat := 0
  gap : Nat := 1
  d : Nat := 1
deriving DecidableEq, Repr

/-- The sum of two polynomials. -/
def polyAdd : List Nat → List Nat → List Nat
  | [], q => q
  | p, [] => p
  | a :: p, b :: q => (a ^^^ b) :: polyAdd p q

/-- One step on syndrome `n`. -/
def masseyStep (syn : List Nat) (k : Massey) (n : Nat) : Massey :=
  let d := (List.range (k.len + 1)).foldl (fun acc i => acc ^^^ gf10mul (k.c.getD i 0) (syn.getD (n - i) 0)) 0
  if d = 0 then { k with gap := k.gap + 1 }
  else
    let f := gf10mul d (gf10inv k.d)
    let t := polyAdd k.c (List.replicate k.gap 0 ++ k.b.map (gf10mul f))
    if 2 * k.len ≤ n then { c := t, b := k.c, len := n + 1 - k.len, gap := 1, d := d }
    else { k with c := t, gap := k.gap + 1 }

/-- The product of two polynomials, cut to 30 terms. -/
def polyMul30 (p q : List Nat) : List Nat :=
  (List.range 30).map fun k =>
    (List.range (k + 1)).foldl (fun acc i => acc ^^^ gf10mul (p.getD i 0) (q.getD (k - i) 0)) 0

/-- The formal derivative. -/
def polyDeriv (p : List Nat) : List Nat := (List.range (p.length - 1)).map fun i => if i % 2 = 0 then p.getD (i + 1) 0 else 0

/-- A received RS codeword of 544 symbols: the corrected word and the number of corrected symbols, or none where no
codeword lies within 15 symbols. -/
def rsDecode (v : List Nat) : Option (List Nat × Nat) :=
  let syn := rsSyndromes v
  if syn.all (· == 0) then some (v, 0)
  else
    let k := (List.range 30).foldl (masseyStep syn) {}
    let om := polyMul30 syn k.c
    let dv := polyDeriv k.c
    let n := v.length
    let fixed := (List.range n).map fun i =>
      let deg := n - 1 - i
      let xi := gf10pow (1023 - deg % 1023)
      if polyAt k.c xi = 0 then
        v.getD i 0 ^^^ gf10mul (gf10pow deg) (gf10mul (polyAt om xi) (gf10inv (polyAt dv xi)))
      else v.getD i 0
    let cnt := ((v.zip fixed).filter fun x => x.1 != x.2).length
    if k.len ≤ 15 && cnt ≤ 15 && (rsSyndromes fixed).all (· == 0) then some (fixed, cnt) else none

/-- The 10-bit symbols of a stream of bits, and the bits of symbols: the first bit is the least significant one
(IEEE 802.3; PRESUMED, log 83). -/
def symbolsOf : Nat → List Bool → List Nat
  | 0, _ => []
  | k + 1, bs => ((bs.take 10).foldr (fun b a => b.toNat + 2 * a) 0) :: symbolsOf k (bs.drop 10)
def bitsOfSymbols (v : List Nat) : List Bool := v.flatMap fun x => (List.range 10).map (bitAt x)

end Sys2Proof.Machine
end

