-- ==== Sys2Proof/Machine/Tab.lean ====
section
/-! DEFINITION. Sparse data: a table keyed by number, in one canonical form, and byte memory as a list of
Host.Cell in the same form. A key that is not listed reads as the table's default, so that an entry equal to
the default is never listed and equal contents are equal data. -/

namespace Sys2Proof

/-- A sparse table: keys strictly rising, no entry at its default. -/
abbrev Tab (α : Type) := List (Nat × α)

/-- The entry at `k`, or `d` where the table lists none. -/
def Tab.get {α : Type} : Tab α → Nat → α → α
  | [], _, d => d
  | (j, v) :: t, k, d => if j = k then v else Tab.get t k d

/-- Lists `v` at `k`, keeping the keys in order. -/
def Tab.put {α : Type} : Tab α → Nat → α → Tab α
  | [], k, v => [(k, v)]
  | (j, w) :: t, k, v =>
    if k < j then (k, v) :: (j, w) :: t else if j = k then (k, v) :: t else (j, w) :: Tab.put t k v

/-- The table without an entry at `k`. -/
def Tab.del {α : Type} : Tab α → Nat → Tab α
  | [], _ => []
  | (j, w) :: t, k => if j = k then Tab.del t k else (j, w) :: Tab.del t k

/-- The table with `v` at `k`, where `d` is the default there. -/
def Tab.set {α : Type} [DecidableEq α] (t : Tab α) (k : Nat) (v d : α) : Tab α :=
  if v = d then t.del k else t.put k v

/-- The keys rise strictly from one above `lo` on. -/
def Tab.sortedFrom {α : Type} : Option Nat → Tab α → Bool
  | _, [] => true
  | lo, (j, _) :: t => (match lo with | none => true | some l => decide (l < j)) && Tab.sortedFrom (some j) t

/-- Byte memory: a canonical list of cells. -/
abbrev Mem := List Host.Cell

/-- What a byte of `Mem` reads as where no cell is listed. Host memory: DESIGN CHOICE 0 (log 1). -/
def Mem.blank : BitVec 8 := 0

/-- The byte at `a`. -/
def Mem.read (m : Mem) (a : Nat) : BitVec 8 := Tab.get m a Mem.blank

/-- The memory with byte `b` at `a`. -/
def Mem.write (m : Mem) (a : Nat) (b : BitVec 8) : Mem := Tab.set m a b Mem.blank

/-- The canonical form: addresses strictly rising and no cell at the blank value. -/
def Mem.wf (m : Mem) : Bool := Tab.sortedFrom none m && m.all (fun c => c.2 != Mem.blank)

/-- `n` bytes from `a` on, as numbers. -/
def Mem.readN (m : Mem) (a n : Nat) : List Nat := (List.range n).map fun k => (m.read (a + k)).toNat

/-- The little-endian value of `n` bytes at `a` (R7). -/
def Mem.readLE (m : Mem) (a n : Nat) : Nat := leVal (m.readN a n)

/-- The memory with the bytes `bs` written from `a` on, in ascending order. -/
def Mem.writeBytes (m : Mem) (a : Nat) : List Nat → Mem
  | [] => m
  | b :: bs => Mem.writeBytes (m.write a (BitVec.ofNat 8 b)) (a + 1) bs

end Sys2Proof
end

