-- ==== Sys2Proof/Machine/Regs.lean ====
section
/-! DEFINITION. The register map as data: every register of the manual with its offset, index dimensions and
fields, as the register tables of spec/02 to spec/16 give them. A field is known by its register's base offset and its
lowest bit, counted from bit 0 of the register's first word; `multi` marks a value wider than one word (R55). -/

namespace Sys2Proof

/-- The access codes of R9. -/
inductive Acc where
  | rw | ro | wo | w1c | rc | lk
deriving DecidableEq, Repr

/-- How a field's reset value depends on its index; `const` is the value of the table. -/
inductive RstKind where
  | const | nominal | fused | index | fir | identity | xbarA | xbarB | owner | role | zone | shedOrder | kept
deriving DecidableEq, Repr

/-- One field: the register's base offset, the lowest bit, the width, the access code and the reset value. -/
structure Fld where
  base : Nat
  lo : Nat
  width : Nat
  acc : Acc
  rst : Nat
  kind : RstKind := .const
deriving DecidableEq, Repr

/-- The field's number: unique for every field of the map. -/
def Fld.id (f : Fld) : Nat := f.base * 512 + f.lo

/-- One register: base offset, words, index dimensions (count, stride) from the outermost in, and its fields. -/
structure RegSpec where
  base : Nat
  words : Nat
  dims : List (Nat × Nat)
  fields : List Fld
deriving DecidableEq, Repr

namespace F

/-! ### Register model (R60) -/

def SYS_ID_PART : Fld := ⟨0x0, 16, 16, .ro, 0xD192, .const⟩
def SYS_ID_FAMILY : Fld := ⟨0x0, 8, 8, .ro, 0x1, .const⟩
def SYS_ID_SILICON : Fld := ⟨0x0, 0, 8, .ro, 0x0, .fused⟩
def SYS_STATE_LAST_REQ : Fld := ⟨0x4, 16, 4, .ro, 0x0, .const⟩
def SYS_STATE_IN_TRANSITION : Fld := ⟨0x4, 9, 1, .ro, 0x0, .const⟩
def SYS_STATE_REQ_REJECTED : Fld := ⟨0x4, 8, 1, .w1c, 0x0, .const⟩
def SYS_STATE_PREV_STATE : Fld := ⟨0x4, 4, 4, .ro, 0x0, .const⟩
def SYS_STATE_STATE : Fld := ⟨0x4, 0, 4, .ro, 0x1, .const⟩
def SYS_STATE_REQ_REQ : Fld := ⟨0x8, 0, 4, .wo, 0x0, .const⟩
def SYS_SWRST_KEY : Fld := ⟨0xC, 0, 32, .wo, 0x0, .const⟩
def SYS_TIME_TIME : Fld := ⟨0x10, 0, 64, .ro, 0x0, .const⟩
def SYS_RST_CAUSE_THERMAL : Fld := ⟨0x18, 4, 1, .ro, 0x0, .kept⟩
def SYS_RST_CAUSE_PCIE : Fld := ⟨0x18, 3, 1, .ro, 0x0, .kept⟩
def SYS_RST_CAUSE_SOFT : Fld := ⟨0x18, 2, 1, .ro, 0x0, .kept⟩
def SYS_RST_CAUSE_PIN : Fld := ⟨0x18, 1, 1, .ro, 0x0, .kept⟩
def SYS_RST_CAUSE_POWER : Fld := ⟨0x18, 0, 1, .ro, 0x0, .kept⟩
def SYS_ACC_ERR_MASTER : Fld := ⟨0x1C, 8, 2, .ro, 0x0, .const⟩
def SYS_ACC_ERR_OVERRUN : Fld := ⟨0x1C, 4, 1, .w1c, 0x0, .const⟩
def SYS_ACC_ERR_PARTIAL : Fld := ⟨0x1C, 3, 1, .w1c, 0x0, .const⟩
def SYS_ACC_ERR_BAD_VALUE : Fld := ⟨0x1C, 2, 1, .w1c, 0x0, .const⟩
def SYS_ACC_ERR_LK_WRITE : Fld := ⟨0x1C, 1, 1, .w1c, 0x0, .const⟩
def SYS_ACC_ERR_UNMAPPED : Fld := ⟨0x1C, 0, 1, .w1c, 0x0, .const⟩
def SYS_ACC_ERR_ADDR_IN_BAR2 : Fld := ⟨0x20, 31, 1, .ro, 0x0, .const⟩
def SYS_ACC_ERR_ADDR_ADDR : Fld := ⟨0x20, 0, 26, .ro, 0x0, .const⟩
def SYS_DUMP_BUF_ADDR : Fld := ⟨0x28, 0, 64, .lk, 0x0, .const⟩
def SYS_DUMP_BUF_SIZE_SIZE : Fld := ⟨0x30, 0, 32, .lk, 0x0, .const⟩
def SYS_ID_LOT_LO_LOT_A : Fld := ⟨0x100, 0, 32, .ro, 0x0, .fused⟩
def SYS_ID_LOT_HI_WAFER : Fld := ⟨0x104, 16, 5, .ro, 0x0, .fused⟩
def SYS_ID_LOT_HI_LOT_B : Fld := ⟨0x104, 0, 16, .ro, 0x0, .fused⟩
def SYS_ID_POS_DIE : Fld := ⟨0x108, 16, 2, .ro, 0x0, .index⟩
def SYS_ID_POS_Y : Fld := ⟨0x108, 8, 8, .ro, 0x0, .fused⟩
def SYS_ID_POS_X : Fld := ⟨0x108, 0, 8, .ro, 0x0, .fused⟩

/-! ### Fabric, power and state (R91) -/

def SYS_SAFE_CAUSE_AVS_FAULT : Fld := ⟨0x40, 3, 1, .w1c, 0x0, .const⟩
def SYS_SAFE_CAUSE_LINK_DOWN : Fld := ⟨0x40, 2, 1, .w1c, 0x0, .const⟩
def SYS_SAFE_CAUSE_FW_WATCHDOG : Fld := ⟨0x40, 1, 1, .w1c, 0x0, .const⟩
def SYS_SAFE_CAUSE_HOST : Fld := ⟨0x40, 0, 1, .ro, 0x0, .const⟩
def SYS_FIFO_SLIP_COUNT : Fld := ⟨0x44, 0, 32, .rc, 0x0, .const⟩
def SYS_ISL_MARGIN_TS_PASS : Fld := ⟨0x200, 20, 5, .ro, 0x10, .const⟩
def SYS_ISL_MARGIN_CRITICAL : Fld := ⟨0x200, 18, 1, .ro, 0x0, .const⟩
def SYS_ISL_MARGIN_AT_CAP : Fld := ⟨0x200, 17, 1, .ro, 0x0, .const⟩
def SYS_ISL_MARGIN_BELOW_TARGET : Fld := ⟨0x200, 16, 1, .ro, 0x0, .const⟩
def SYS_ISL_MARGIN_MARGIN : Fld := ⟨0x200, 0, 16, .ro, 0xFFFF, .const⟩
def SYS_RAIL_STAT_AVS_FAULT : Fld := ⟨0x300, 31, 1, .ro, 0x0, .const⟩
def SYS_RAIL_STAT_CAP : Fld := ⟨0x300, 16, 10, .ro, 0x352, .const⟩
def SYS_RAIL_STAT_SETPOINT : Fld := ⟨0x300, 0, 10, .ro, 0x2EE, .const⟩
def SYS_RAIL_CFG_VMAX : Fld := ⟨0x1000, 16, 10, .lk, 0x352, .const⟩
def SYS_RAIL_CFG_VMIN : Fld := ⟨0x1000, 0, 10, .lk, 0x28A, .const⟩
def SYS_FAB_CFG_RELEASE : Fld := ⟨0x1010, 16, 16, .lk, 0x1400, .const⟩
def SYS_FAB_CFG_TARGET : Fld := ⟨0x1010, 0, 16, .lk, 0x1267, .const⟩
def SYS_RESET_CFG_PERST_MODE : Fld := ⟨0x1014, 0, 1, .lk, 0x0, .const⟩

/-! ### Lane converters (R116) -/

def LANE_FE_STAT_FUSED_ROLE : Fld := ⟨0x1000100, 28, 2, .ro, 0x0, .const⟩
def LANE_FE_STAT_ISO_OPEN : Fld := ⟨0x1000100, 27, 1, .ro, 0x1, .const⟩
def LANE_FE_STAT_FE_ON : Fld := ⟨0x1000100, 26, 1, .ro, 0x0, .const⟩
def LANE_FE_STAT_SIG_PRESENT : Fld := ⟨0x1000100, 25, 1, .ro, 0x0, .const⟩
def LANE_FE_STAT_AGC_LIMIT : Fld := ⟨0x1000100, 24, 1, .ro, 0x0, .const⟩
def LANE_FE_STAT_CTLE_CODE : Fld := ⟨0x1000100, 16, 6, .ro, 0x10, .const⟩
def LANE_FE_STAT_VGA_CODE : Fld := ⟨0x1000100, 8, 7, .ro, 0x18, .const⟩
def LANE_ADC_STAT_SPARE_GROUP : Fld := ⟨0x1000104, 24, 4, .ro, 0x8, .const⟩
def LANE_ADC_STAT_NO_GROUP_SPARE : Fld := ⟨0x1000104, 23, 1, .ro, 0x0, .const⟩
def LANE_ADC_STAT_CLEAN_COUNT : Fld := ⟨0x1000104, 16, 5, .ro, 0x0, .const⟩
def LANE_ADC_STAT_HOLD : Fld := ⟨0x1000104, 15, 1, .ro, 0x0, .const⟩
def LANE_ADC_STAT_RUNNING : Fld := ⟨0x1000104, 14, 1, .ro, 0x0, .const⟩
def LANE_ADC_STAT_NO_SS_SPARE : Fld := ⟨0x1000104, 0, 9, .ro, 0x0, .const⟩
def LANE_ADC_CLIP_COUNT : Fld := ⟨0x1000108, 0, 48, .rc, 0x0, .const⟩
def LANE_ADC_WIN_LAST_CLIPS : Fld := ⟨0x1000110, 16, 16, .ro, 0x0, .const⟩
def LANE_ADC_WIN_RMS : Fld := ⟨0x1000110, 0, 16, .ro, 0x0, .const⟩
def LANE_ADC_PEAK_PEAK_POS : Fld := ⟨0x1000114, 8, 8, .ro, 0x0, .const⟩
def LANE_ADC_PEAK_PEAK_NEG : Fld := ⟨0x1000114, 0, 8, .ro, 0x0, .const⟩
def LANE_ADC_HOLDS_COUNT : Fld := ⟨0x1000118, 0, 32, .rc, 0x0, .const⟩
def LANE_ADC_EVT_AGC_LIMIT : Fld := ⟨0x100011C, 2, 1, .w1c, 0x0, .const⟩
def LANE_ADC_EVT_SIGNAL_LOST : Fld := ⟨0x100011C, 1, 1, .w1c, 0x0, .const⟩
def LANE_ADC_EVT_OVERLOAD : Fld := ⟨0x100011C, 0, 1, .w1c, 0x0, .const⟩
def LANE_ADC_GMAP_P : Fld := ⟨0x1000120, 0, 32, .ro, 0x76543210, .const⟩
def LANE_ADC_SMAP_P : Fld := ⟨0x1000124, 0, 32, .ro, 0x76543210, .const⟩
def LANE_ADC_MAPCHG_COUNT : Fld := ⟨0x1000148, 0, 32, .rc, 0x0, .const⟩
def LANE_FE_CFG_CTLE_AUTO : Fld := ⟨0x1001000, 24, 1, .lk, 0x1, .const⟩
def LANE_FE_CFG_CTLE_CODE : Fld := ⟨0x1001000, 16, 6, .lk, 0x10, .const⟩
def LANE_FE_CFG_VGA_AUTO : Fld := ⟨0x1001000, 15, 1, .lk, 0x1, .const⟩
def LANE_FE_CFG_VGA_CODE : Fld := ⟨0x1001000, 8, 7, .lk, 0x18, .const⟩
def LANE_FE_CFG_INVERT : Fld := ⟨0x1001000, 0, 1, .lk, 0x0, .const⟩
def LANE_AGC_CFG_PERIOD : Fld := ⟨0x1001004, 16, 4, .lk, 0x4, .const⟩
def LANE_AGC_CFG_TARGET_RMS : Fld := ⟨0x1001004, 0, 8, .lk, 0x30, .const⟩
def LANE_SIGDET_CFG_THRESH_RMS : Fld := ⟨0x1001008, 0, 8, .lk, 0x8, .const⟩

/-! ### Calibration (R150, R151) -/

def LANE_CAL_STAT_RET_SS : Fld := ⟨0x1000200, 20, 4, .ro, 0x0, .const⟩
def LANE_CAL_STAT_GRP_RETIRED : Fld := ⟨0x1000200, 19, 1, .ro, 0x0, .const⟩
def LANE_CAL_STAT_SPARE_EXHAUSTED : Fld := ⟨0x1000200, 18, 1, .ro, 0x0, .const⟩
def LANE_CAL_STAT_STORED_IN_USE : Fld := ⟨0x1000200, 17, 1, .ro, 0x0, .const⟩
def LANE_CAL_STAT_NOISY : Fld := ⟨0x1000200, 16, 1, .ro, 0x0, .const⟩
def LANE_CAL_STAT_SUSPECT : Fld := ⟨0x1000200, 8, 8, .ro, 0x0, .const⟩
def LANE_CAL_STAT_CARD_PAUSED : Fld := ⟨0x1000200, 3, 1, .ro, 0x0, .const⟩
def LANE_CAL_STAT_PHASE : Fld := ⟨0x1000200, 0, 3, .ro, 0x0, .const⟩
def LANE_CAL_COUNT_COUNT : Fld := ⟨0x1000204, 0, 32, .ro, 0x0, .const⟩
def LANE_CAL_TIME_TIME : Fld := ⟨0x1000208, 0, 64, .ro, 0x0, .const⟩
def LANE_CAL_TEMP_TEMP : Fld := ⟨0x1000210, 0, 16, .ro, 0x0, .const⟩
def LANE_CAL_ACT_WAIT_RETRIES : Fld := ⟨0x1000214, 16, 16, .ro, 0x0, .const⟩
def LANE_CAL_ACT_ACT : Fld := ⟨0x1000214, 0, 16, .ro, 0x0, .const⟩
def LANE_CAL_CARD_SLOTS : Fld := ⟨0x1000218, 0, 32, .ro, 0x0, .const⟩
def LANE_CAL_DISAGREE_COUNT : Fld := ⟨0x100021C, 0, 32, .rc, 0x0, .const⟩
def LANE_CAL_EVT_SPARE_EXHAUSTED : Fld := ⟨0x1000220, 3, 1, .w1c, 0x0, .const⟩
def LANE_CAL_EVT_RETIRED : Fld := ⟨0x1000220, 2, 1, .w1c, 0x0, .const⟩
def LANE_CAL_EVT_SUSPECT : Fld := ⟨0x1000220, 1, 1, .w1c, 0x0, .const⟩
def LANE_CAL_EVT_CAL_WAIT : Fld := ⟨0x1000220, 0, 1, .w1c, 0x0, .const⟩
def LANE_CAL_CFG_ACCEPT_STORED : Fld := ⟨0x1001100, 25, 1, .lk, 0x0, .const⟩
def LANE_CAL_CFG_CARD_EN : Fld := ⟨0x1001100, 24, 1, .lk, 0x1, .const⟩
def LANE_CAL_CFG_TEMP_STEP : Fld := ⟨0x1001100, 16, 8, .lk, 0xC, .const⟩
def LANE_CAL_CFG_RAMP_US : Fld := ⟨0x1001100, 0, 16, .lk, 0x3E8, .const⟩
def LANE_CAL_ACT_CFG_ACT_THRESH : Fld := ⟨0x1001104, 0, 16, .lk, 0x20, .const⟩
def LANE_CAL_SS_GAIN : Fld := ⟨0x1002000, 16, 16, .ro, 0x0, .nominal⟩
def LANE_CAL_SS_OFFSET : Fld := ⟨0x1002000, 0, 16, .ro, 0x0, .nominal⟩
def LANE_CAL_SS_SUSPECT : Fld := ⟨0x1002000, 62, 2, .ro, 0x0, .const⟩
def LANE_CAL_SS_RETIRED : Fld := ⟨0x1002000, 61, 1, .ro, 0x0, .const⟩
def LANE_CAL_SS_FAILED : Fld := ⟨0x1002000, 60, 1, .ro, 0x0, .const⟩
def LANE_CAL_SS_CAP : Fld := ⟨0x1002000, 54, 6, .ro, 0x0, .const⟩
def LANE_CAL_SS_COMP_RET : Fld := ⟨0x1002000, 51, 3, .ro, 0x0, .const⟩
def LANE_CAL_SS_COMP_SEL : Fld := ⟨0x1002000, 49, 2, .ro, 0x0, .const⟩
def LANE_CAL_SS_CTRIM : Fld := ⟨0x1002000, 32, 8, .ro, 0x0, .const⟩
def LANE_CAL_SS_W0 : Fld := ⟨0x1002000, 64, 16, .ro, 0x0, .nominal⟩
def LANE_CAL_SS_W1 : Fld := ⟨0x1002000, 80, 16, .ro, 0x0, .nominal⟩
def LANE_CAL_SS_W2 : Fld := ⟨0x1002000, 96, 16, .ro, 0x0, .nominal⟩
def LANE_CAL_SS_W3 : Fld := ⟨0x1002000, 112, 16, .ro, 0x0, .nominal⟩
def LANE_CAL_SS_W4 : Fld := ⟨0x1002000, 128, 16, .ro, 0x0, .nominal⟩
def LANE_CAL_SS_W5 : Fld := ⟨0x1002000, 144, 16, .ro, 0x0, .nominal⟩
def LANE_CAL_SS_W6 : Fld := ⟨0x1002000, 160, 16, .ro, 0x0, .nominal⟩
def LANE_CAL_SS_W7 : Fld := ⟨0x1002000, 176, 16, .ro, 0x0, .nominal⟩
def LANE_CAL_SS_W8 : Fld := ⟨0x1002000, 192, 16, .ro, 0x0, .nominal⟩
def LANE_CAL_SS_W9 : Fld := ⟨0x1002000, 208, 16, .ro, 0x0, .nominal⟩
def LANE_CAL_GRP_GAIN : Fld := ⟨0x1002C00, 16, 16, .ro, 0x0, .nominal⟩
def LANE_CAL_GRP_BW : Fld := ⟨0x1002C00, 0, 16, .ro, 0x0, .nominal⟩
def LANE_CAL_GRP_SUSPECT : Fld := ⟨0x1002C00, 62, 2, .ro, 0x0, .const⟩
def LANE_CAL_GRP_RETIRED : Fld := ⟨0x1002C00, 61, 1, .ro, 0x0, .const⟩
def LANE_CAL_GRP_FAILED : Fld := ⟨0x1002C00, 60, 1, .ro, 0x0, .const⟩
def LANE_CAL_GRP_SKEW : Fld := ⟨0x1002C00, 32, 10, .ro, 0x0, .nominal⟩
def LANE_CAL_PAIR_SUSPECT : Fld := ⟨0x1002C90, 30, 2, .ro, 0x0, .const⟩
def LANE_CAL_PAIR_FAILED : Fld := ⟨0x1002C90, 28, 1, .ro, 0x0, .const⟩
def LANE_CAL_PAIR_SKEW : Fld := ⟨0x1002C90, 0, 10, .ro, 0x0, .nominal⟩
def LANE_CAL_TX_SUSPECT : Fld := ⟨0x1002D00, 30, 2, .ro, 0x0, .const⟩
def LANE_CAL_TX_RETIRED : Fld := ⟨0x1002D00, 29, 1, .ro, 0x0, .const⟩
def LANE_CAL_TX_SPARE : Fld := ⟨0x1002D00, 28, 1, .ro, 0x0, .const⟩
def LANE_CAL_TX_FAILED : Fld := ⟨0x1002D00, 27, 1, .ro, 0x0, .const⟩
def LANE_CAL_TX_TRIM : Fld := ⟨0x1002D00, 0, 6, .ro, 0x0, .const⟩
def LANE_CAL_TXB_SUSPECT : Fld := ⟨0x1002D40, 30, 2, .ro, 0x0, .const⟩
def LANE_CAL_TXB_RETIRED : Fld := ⟨0x1002D40, 29, 1, .ro, 0x0, .const⟩
def LANE_CAL_TXB_SPARE : Fld := ⟨0x1002D40, 28, 1, .ro, 0x0, .const⟩
def LANE_CAL_TXB_FAILED : Fld := ⟨0x1002D40, 27, 1, .ro, 0x0, .const⟩
def LANE_CAL_TXB_TRIM : Fld := ⟨0x1002D40, 0, 6, .ro, 0x0, .const⟩
def CAL_NVM_STAT_EXPLICIT_LEFT : Fld := ⟨0x20000, 8, 4, .ro, 0x8, .const⟩
def CAL_NVM_STAT_EMPTY : Fld := ⟨0x20000, 7, 1, .ro, 0x0, .const⟩
def CAL_NVM_STAT_DEFERRED : Fld := ⟨0x20000, 6, 1, .ro, 0x0, .const⟩
def CAL_NVM_STAT_COMMIT_BUSY : Fld := ⟨0x20000, 5, 1, .ro, 0x0, .const⟩
def CAL_NVM_STAT_ERASE_PENDING : Fld := ⟨0x20000, 4, 1, .ro, 0x0, .const⟩
def CAL_NVM_STAT_OTHER : Fld := ⟨0x20000, 2, 2, .ro, 0x0, .const⟩
def CAL_NVM_STAT_ACTIVE_VALID : Fld := ⟨0x20000, 1, 1, .ro, 0x0, .const⟩
def CAL_NVM_STAT_ACTIVE_BANK : Fld := ⟨0x20000, 0, 1, .ro, 0x0, .const⟩
def CAL_NVM_SEQ_SEQ : Fld := ⟨0x20004, 0, 32, .ro, 0x0, .const⟩
def CAL_NVM_CYC_CYCLES : Fld := ⟨0x20008, 0, 32, .ro, 0x0, .const⟩
def CAL_COMMIT_TIME_TIME : Fld := ⟨0x20010, 0, 64, .ro, 0x0, .const⟩
def CAL_EVT_BANK_BAD : Fld := ⟨0x20018, 3, 1, .w1c, 0x0, .const⟩
def CAL_EVT_INHIBIT : Fld := ⟨0x20018, 2, 1, .w1c, 0x0, .const⟩
def CAL_EVT_COMMIT_FAIL : Fld := ⟨0x20018, 1, 1, .w1c, 0x0, .const⟩
def CAL_EVT_NVM_EMPTY : Fld := ⟨0x20018, 0, 1, .w1c, 0x0, .const⟩
def CAL_CFG_SCHED_EN : Fld := ⟨0x21000, 0, 1, .lk, 0x1, .const⟩

/-! ### Receive equalisation (R179) -/

def LANE_EQ_STAT_ACQ_FAIL : Fld := ⟨0x1000300, 26, 3, .ro, 0x0, .const⟩
def LANE_EQ_STAT_WARM : Fld := ⟨0x1000300, 25, 1, .ro, 0x0, .const⟩
def LANE_EQ_STAT_T2 : Fld := ⟨0x1000300, 24, 1, .ro, 0x0, .const⟩
def LANE_EQ_STAT_FRZ_HOST : Fld := ⟨0x1000300, 19, 1, .ro, 0x0, .const⟩
def LANE_EQ_STAT_FRZ_SIGNAL : Fld := ⟨0x1000300, 18, 1, .ro, 0x0, .const⟩
def LANE_EQ_STAT_FRZ_OVERLOAD : Fld := ⟨0x1000300, 17, 1, .ro, 0x0, .const⟩
def LANE_EQ_STAT_FRZ_LOL : Fld := ⟨0x1000300, 16, 1, .ro, 0x0, .const⟩
def LANE_EQ_STAT_DET_MLSE : Fld := ⟨0x1000300, 8, 1, .ro, 0x0, .const⟩
def LANE_EQ_STAT_LOCKED : Fld := ⟨0x1000300, 4, 1, .ro, 0x0, .const⟩
def LANE_EQ_STAT_ACQ_STEP : Fld := ⟨0x1000300, 0, 4, .ro, 0x0, .const⟩
def LANE_EQ_SNR_SNR_AVG : Fld := ⟨0x1000304, 16, 16, .ro, 0x0, .const⟩
def LANE_EQ_SNR_SNR : Fld := ⟨0x1000304, 0, 16, .ro, 0x0, .const⟩
def LANE_TR_STAT_FREQ : Fld := ⟨0x1000308, 16, 16, .ro, 0x0, .const⟩
def LANE_TR_STAT_PHASE : Fld := ⟨0x1000308, 8, 8, .ro, 0x0, .const⟩
def LANE_TR_STAT_FREQ_LIMIT : Fld := ⟨0x1000308, 0, 1, .ro, 0x0, .const⟩
def LANE_EQ_LVL_L0 : Fld := ⟨0x100030C, 0, 16, .ro, 0x0, .const⟩
def LANE_EQ_LVL_L1 : Fld := ⟨0x100030C, 16, 16, .ro, 0x0, .const⟩
def LANE_EQ_LVL_L2 : Fld := ⟨0x100030C, 32, 16, .ro, 0x0, .const⟩
def LANE_EQ_LVL_L3 : Fld := ⟨0x100030C, 48, 16, .ro, 0x0, .const⟩
def LANE_EQ_H1_LIMIT : Fld := ⟨0x1000314, 16, 1, .ro, 0x0, .const⟩
def LANE_EQ_H1_H1 : Fld := ⟨0x1000314, 0, 16, .ro, 0x0, .const⟩
def LANE_EQ_LOL_COUNT : Fld := ⟨0x1000318, 0, 32, .rc, 0x0, .const⟩
def LANE_EQ_ACQ_COUNT : Fld := ⟨0x100031C, 0, 32, .rc, 0x0, .const⟩
def LANE_EQ_ACQ_TIME_TIME : Fld := ⟨0x1000320, 0, 32, .ro, 0x0, .const⟩
def LANE_EQ_EVT_TAP_LIMIT : Fld := ⟨0x1000324, 4, 1, .w1c, 0x0, .const⟩
def LANE_EQ_EVT_FREQ_LIMIT : Fld := ⟨0x1000324, 3, 1, .w1c, 0x0, .const⟩
def LANE_EQ_EVT_ACQ_FAIL : Fld := ⟨0x1000324, 2, 1, .w1c, 0x0, .const⟩
def LANE_EQ_EVT_LOCK_LOST : Fld := ⟨0x1000324, 1, 1, .w1c, 0x0, .const⟩
def LANE_EQ_EVT_LOCKED : Fld := ⟨0x1000324, 0, 1, .w1c, 0x0, .const⟩
def LANE_EQ_STEPS_COUNT : Fld := ⟨0x1000328, 0, 32, .ro, 0x0, .const⟩
def LANE_EQ_CFG_MLSE_THRESH : Fld := ⟨0x1001200, 24, 8, .lk, 0x4D, .const⟩
def LANE_EQ_CFG_CURSOR : Fld := ⟨0x1001200, 16, 6, .lk, 0x8, .const⟩
def LANE_EQ_CFG_CURSOR_F : Fld := ⟨0x1001200, 8, 6, .lk, 0x10, .const⟩
def LANE_EQ_CFG_ADAPT_LVL : Fld := ⟨0x1001200, 6, 1, .lk, 0x1, .const⟩
def LANE_EQ_CFG_ADAPT_H1 : Fld := ⟨0x1001200, 5, 1, .lk, 0x1, .const⟩
def LANE_EQ_CFG_ADAPT_FFE : Fld := ⟨0x1001200, 4, 1, .lk, 0x1, .const⟩
def LANE_EQ_CFG_RX_PRECODE : Fld := ⟨0x1001200, 3, 1, .lk, 0x0, .const⟩
def LANE_EQ_CFG_DET : Fld := ⟨0x1001200, 0, 2, .lk, 0x0, .const⟩
def LANE_EQ_MU_LVL : Fld := ⟨0x1001204, 24, 5, .lk, 0xA, .const⟩
def LANE_EQ_MU_H1 : Fld := ⟨0x1001204, 16, 5, .lk, 0xC, .const⟩
def LANE_EQ_MU_TRK_FFE : Fld := ⟨0x1001204, 8, 5, .lk, 0xE, .const⟩
def LANE_EQ_MU_ACQ_FFE : Fld := ⟨0x1001204, 0, 5, .lk, 0x8, .const⟩
def LANE_TR_CFG_KI_TRK : Fld := ⟨0x1001208, 24, 5, .lk, 0x12, .const⟩
def LANE_TR_CFG_KP_TRK : Fld := ⟨0x1001208, 16, 5, .lk, 0x8, .const⟩
def LANE_TR_CFG_KI_ACQ : Fld := ⟨0x1001208, 8, 5, .lk, 0xE, .const⟩
def LANE_TR_CFG_KP_ACQ : Fld := ⟨0x1001208, 0, 5, .lk, 0x5, .const⟩
def LANE_EQ_LOCK_CFG_ACQ_TIMEOUT : Fld := ⟨0x100120C, 24, 8, .lk, 0x5, .const⟩
def LANE_EQ_LOCK_CFG_UNLOCK_MARGIN : Fld := ⟨0x100120C, 16, 8, .lk, 0x30, .const⟩
def LANE_EQ_LOCK_CFG_LOCK_SNR : Fld := ⟨0x100120C, 0, 16, .lk, 0xE00, .const⟩
def LANE_EQ_FFE_HELD : Fld := ⟨0x1003000, 17, 1, .ro, 0x0, .const⟩
def LANE_EQ_FFE_LIMIT : Fld := ⟨0x1003000, 16, 1, .ro, 0x0, .const⟩
def LANE_EQ_FFE_COEF : Fld := ⟨0x1003000, 0, 16, .ro, 0x0, .const⟩

/-! ### FEC and pool (R202, R203) -/

def LANE_FEC_STAT_SOFT_EN : Fld := ⟨0x1000400, 8, 1, .ro, 0x1, .const⟩
def LANE_FEC_STAT_OUTER_MODE : Fld := ⟨0x1000400, 6, 2, .ro, 0x1, .const⟩
def LANE_FEC_STAT_OUTER_LOCKED : Fld := ⟨0x1000400, 3, 1, .ro, 0x0, .const⟩
def LANE_FEC_STAT_INNER_LOCKED : Fld := ⟨0x1000400, 2, 1, .ro, 0x0, .const⟩
def LANE_FEC_STAT_HUNTING : Fld := ⟨0x1000400, 1, 1, .ro, 0x0, .const⟩
def LANE_FEC_STAT_INNER_ON : Fld := ⟨0x1000400, 0, 1, .ro, 0x0, .const⟩
def LANE_FEC_CW_COUNT : Fld := ⟨0x1000408, 0, 64, .rc, 0x0, .const⟩
def LANE_FEC_CLEAN_COUNT : Fld := ⟨0x1000410, 0, 64, .rc, 0x0, .const⟩
def LANE_FEC_FULL_COUNT : Fld := ⟨0x1000418, 0, 64, .rc, 0x0, .const⟩
def LANE_FEC_REDUCED_COUNT : Fld := ⟨0x1000420, 0, 64, .rc, 0x0, .const⟩
def LANE_FEC_HARD_COUNT : Fld := ⟨0x1000428, 0, 64, .rc, 0x0, .const⟩
def LANE_FEC_UNCORR_COUNT : Fld := ⟨0x1000430, 0, 64, .rc, 0x0, .const⟩
def LANE_FEC_BITS_COUNT : Fld := ⟨0x1000438, 0, 64, .rc, 0x0, .const⟩
def LANE_FEC_RS_CW_COUNT : Fld := ⟨0x1000440, 0, 64, .rc, 0x0, .const⟩
def LANE_FEC_RS_SYM_COUNT : Fld := ⟨0x1000448, 0, 64, .rc, 0x0, .const⟩
def LANE_FEC_RS_UNCORR_COUNT : Fld := ⟨0x1000450, 0, 64, .rc, 0x0, .const⟩
def LANE_FEC_RESERVED_COUNT : Fld := ⟨0x1000458, 0, 64, .rc, 0x0, .const⟩
def LANE_FEC_LOL_OUTER : Fld := ⟨0x1000460, 16, 16, .rc, 0x0, .const⟩
def LANE_FEC_LOL_INNER : Fld := ⟨0x1000460, 0, 16, .rc, 0x0, .const⟩
def LANE_FEC_EVT_RS_UNCORR : Fld := ⟨0x1000464, 2, 1, .w1c, 0x0, .const⟩
def LANE_FEC_EVT_OUTER_LOL : Fld := ⟨0x1000464, 1, 1, .w1c, 0x0, .const⟩
def LANE_FEC_EVT_INNER_LOL : Fld := ⟨0x1000464, 0, 1, .w1c, 0x0, .const⟩
def LANE_FEC_CFG_LOCK_ZMIN : Fld := ⟨0x1001300, 8, 8, .lk, 0x8, .const⟩
def LANE_FEC_CFG_SOFT_EN : Fld := ⟨0x1001300, 4, 1, .lk, 0x1, .const⟩
def LANE_FEC_CFG_OUTER_MODE : Fld := ⟨0x1001300, 0, 2, .lk, 0x1, .const⟩
def LANE_POOL_CFG_RES : Fld := ⟨0x1001304, 0, 7, .lk, 0x0, .const⟩
def LANE_FEC_RS_HIST_COUNT : Fld := ⟨0x1004000, 0, 32, .rc, 0x0, .const⟩
def POOL_STAT_RES_SUM : Fld := ⟨0x10F000, 16, 12, .ro, 0x0, .const⟩
def POOL_STAT_PTR : Fld := ⟨0x10F000, 8, 7, .ro, 0x0, .const⟩
def POOL_STAT_LEVEL : Fld := ⟨0x10F000, 0, 2, .ro, 0x0, .const⟩
def POOL_DEMAND_COUNT : Fld := ⟨0x10F008, 0, 64, .rc, 0x0, .const⟩
def POOL_FULL_COUNT : Fld := ⟨0x10F010, 0, 64, .rc, 0x0, .const⟩
def POOL_REDUCED_COUNT : Fld := ⟨0x10F018, 0, 64, .rc, 0x0, .const⟩
def POOL_STARVED_COUNT : Fld := ⟨0x10F020, 0, 64, .rc, 0x0, .const⟩
def POOL_RED_EPOCHS_COUNT : Fld := ⟨0x10F028, 0, 32, .rc, 0x0, .const⟩
def POOL_HARD_EPOCHS_COUNT : Fld := ⟨0x10F02C, 0, 32, .rc, 0x0, .const⟩
def POOL_PEAK_PEAK : Fld := ⟨0x10F030, 0, 14, .rc, 0x0, .const⟩
def POOL_EVT_HARD : Fld := ⟨0x10F034, 1, 1, .w1c, 0x0, .const⟩
def POOL_EVT_REDUCED : Fld := ⟨0x10F034, 0, 1, .w1c, 0x0, .const⟩

/-! ### Transmit path (R225) -/

def LANE_TX_STAT_SPARE_CELL : Fld := ⟨0x1000500, 24, 4, .ro, 0xF, .const⟩
def LANE_TX_STAT_NO_CELL_SPARE : Fld := ⟨0x1000500, 23, 1, .ro, 0x0, .const⟩
def LANE_TX_STAT_SWING_CODE : Fld := ⟨0x1000500, 16, 7, .ro, 0x28, .const⟩
def LANE_TX_STAT_PD_ACTIVE : Fld := ⟨0x1000500, 8, 1, .ro, 0x0, .const⟩
def LANE_TX_STAT_WALKING : Fld := ⟨0x1000500, 7, 1, .ro, 0x0, .const⟩
def LANE_TX_STAT_RAMPING : Fld := ⟨0x1000500, 6, 1, .ro, 0x0, .const⟩
def LANE_TX_STAT_DRV_ON : Fld := ⟨0x1000500, 5, 1, .ro, 0x0, .const⟩
def LANE_TX_STAT_SQUELCHED : Fld := ⟨0x1000500, 4, 1, .ro, 0x1, .const⟩
def LANE_TX_STAT_SQ_HOST : Fld := ⟨0x1000500, 3, 1, .ro, 0x0, .const⟩
def LANE_TX_STAT_SQ_LANE : Fld := ⟨0x1000500, 2, 1, .ro, 0x1, .const⟩
def LANE_TX_STAT_SQ_SHED : Fld := ⟨0x1000500, 1, 1, .ro, 0x0, .const⟩
def LANE_TX_STAT_SQ_SLOT : Fld := ⟨0x1000500, 0, 1, .ro, 0x0, .const⟩
def LANE_TX_SAT_COUNT : Fld := ⟨0x1000504, 0, 32, .rc, 0x0, .const⟩
def LANE_TX_SQCNT_SLOT : Fld := ⟨0x1000508, 16, 16, .rc, 0x0, .const⟩
def LANE_TX_SQCNT_OTHER : Fld := ⟨0x1000508, 0, 16, .rc, 0x0, .const⟩
def LANE_TX_EVT_SATURATION : Fld := ⟨0x100050C, 1, 1, .w1c, 0x0, .const⟩
def LANE_TX_EVT_SLOT_SQUELCH : Fld := ⟨0x100050C, 0, 1, .w1c, 0x0, .const⟩
def LANE_TX_CFG_HOST_SQUELCH : Fld := ⟨0x1001400, 27, 1, .lk, 0x0, .const⟩
def LANE_TX_CFG_INVERT : Fld := ⟨0x1001400, 26, 1, .lk, 0x0, .const⟩
def LANE_TX_CFG_PD_EN : Fld := ⟨0x1001400, 25, 1, .lk, 0x0, .const⟩
def LANE_TX_CFG_PRECODE : Fld := ⟨0x1001400, 24, 1, .lk, 0x0, .const⟩
def LANE_TX_CFG_UNSQ : Fld := ⟨0x1001400, 16, 3, .lk, 0x2, .const⟩
def LANE_TX_CFG_SWING : Fld := ⟨0x1001400, 0, 7, .lk, 0x28, .const⟩
def LANE_TX_FIR_COEF : Fld := ⟨0x1001410, 0, 12, .lk, 0x0, .fir⟩
def LANE_TX_PD_E0 : Fld := ⟨0x1005000, 0, 8, .lk, 0x0, .identity⟩
def LANE_TX_PD_E1 : Fld := ⟨0x1005000, 8, 8, .lk, 0x0, .identity⟩
def LANE_TX_PD_E2 : Fld := ⟨0x1005000, 16, 8, .lk, 0x0, .identity⟩
def LANE_TX_PD_E3 : Fld := ⟨0x1005000, 24, 8, .lk, 0x0, .identity⟩

/-! ### Lanes, slots and host links (R257-R259) -/

def LANE_STAT_PREV_STATE : Fld := ⟨0x1000000, 24, 3, .ro, 0x0, .const⟩
def LANE_STAT_ACQ_FAILS : Fld := ⟨0x1000000, 20, 4, .ro, 0x0, .const⟩
def LANE_STAT_RESTORE_PENDING : Fld := ⟨0x1000000, 19, 1, .ro, 0x0, .const⟩
def LANE_STAT_DEG_SPARE : Fld := ⟨0x1000000, 18, 1, .ro, 0x0, .const⟩
def LANE_STAT_HOST_ALIGNED : Fld := ⟨0x1000000, 17, 1, .ro, 0x0, .const⟩
def LANE_STAT_SLOT_FAULT : Fld := ⟨0x1000000, 16, 1, .ro, 0x0, .const⟩
def LANE_STAT_SHED : Fld := ⟨0x1000000, 15, 1, .ro, 0x0, .const⟩
def LANE_STAT_ENABLE_PENDING : Fld := ⟨0x1000000, 14, 1, .ro, 0x0, .const⟩
def LANE_STAT_PAYLOAD : Fld := ⟨0x1000000, 13, 1, .ro, 0x0, .const⟩
def LANE_STAT_HOLDOVER : Fld := ⟨0x1000000, 12, 1, .ro, 0x0, .const⟩
def LANE_STAT_LOOPBACK : Fld := ⟨0x1000000, 8, 3, .ro, 0x0, .const⟩
def LANE_STAT_MODE : Fld := ⟨0x1000000, 4, 2, .ro, 0x0, .const⟩
def LANE_STAT_STATE : Fld := ⟨0x1000000, 0, 3, .ro, 0x0, .const⟩
def LANE_STATE_TIME_TIME : Fld := ⟨0x1000008, 0, 64, .ro, 0x0, .const⟩
def LANE_DOWN_COUNT : Fld := ⟨0x1000010, 0, 32, .rc, 0x0, .const⟩
def LANE_HOLDOVERS_COUNT : Fld := ⟨0x1000014, 0, 32, .rc, 0x0, .const⟩
def LANE_SLIP_COUNT : Fld := ⟨0x1000018, 0, 32, .rc, 0x0, .const⟩
def LANE_EVT_HOST_ALIGN_LOST : Fld := ⟨0x100001C, 3, 1, .w1c, 0x0, .const⟩
def LANE_EVT_SLOT_FAULT : Fld := ⟨0x100001C, 2, 1, .w1c, 0x0, .const⟩
def LANE_EVT_HOLDOVER : Fld := ⟨0x100001C, 1, 1, .w1c, 0x0, .const⟩
def LANE_EVT_DOWN : Fld := ⟨0x100001C, 0, 1, .w1c, 0x0, .const⟩
def LANE_GBX_STAT_B_ALIGNED : Fld := ⟨0x1000020, 17, 1, .ro, 0x0, .const⟩
def LANE_GBX_STAT_A_ALIGNED : Fld := ⟨0x1000020, 16, 1, .ro, 0x0, .const⟩
def LANE_GBX_STAT_SKEW : Fld := ⟨0x1000020, 0, 16, .ro, 0x0, .const⟩
def LANE_CFG_ACQ_RETRY : Fld := ⟨0x1001500, 16, 4, .lk, 0x8, .const⟩
def LANE_CFG_GRACE : Fld := ⟨0x1001500, 8, 8, .lk, 0x40, .const⟩
def LANE_CFG_LOOPBACK : Fld := ⟨0x1001500, 4, 3, .lk, 0x0, .const⟩
def LANE_CFG_MODE : Fld := ⟨0x1001500, 0, 2, .lk, 0x0, .const⟩
def SLOT_STAT_FLT : Fld := ⟨0x100000, 0, 24, .ro, 0x0, .const⟩
def SLOT_EVT_FLT : Fld := ⟨0x100004, 0, 24, .w1c, 0x0, .const⟩
def SLOT_FLT_CNT_COUNT : Fld := ⟨0x100100, 0, 32, .rc, 0x0, .const⟩
def XBAR_MAP_B_VALID : Fld := ⟨0x110000, 31, 1, .lk, 0x1, .const⟩
def XBAR_MAP_B : Fld := ⟨0x110000, 16, 9, .lk, 0x0, .xbarB⟩
def XBAR_MAP_A_VALID : Fld := ⟨0x110000, 15, 1, .lk, 0x1, .const⟩
def XBAR_MAP_A : Fld := ⟨0x110000, 0, 9, .lk, 0x0, .xbarA⟩
def SLOT_EN_CFG_EN : Fld := ⟨0x110400, 0, 24, .lk, 0x0, .const⟩
def HSL_STAT_OWNER : Fld := ⟨0x2000000, 8, 8, .ro, 0x0, .owner⟩
def HSL_STAT_PRBS_LOCK : Fld := ⟨0x2000000, 7, 1, .ro, 0x0, .const⟩
def HSL_STAT_FILL : Fld := ⟨0x2000000, 6, 1, .ro, 0x0, .const⟩
def HSL_STAT_ALIGNED : Fld := ⟨0x2000000, 5, 1, .ro, 0x0, .const⟩
def HSL_STAT_CDR_LOCK : Fld := ⟨0x2000000, 4, 1, .ro, 0x0, .const⟩
def HSL_STAT_RX_SIG : Fld := ⟨0x2000000, 3, 1, .ro, 0x0, .const⟩
def HSL_STAT_POWERED : Fld := ⟨0x2000000, 2, 1, .ro, 0x0, .const⟩
def HSL_STAT_ROLE : Fld := ⟨0x2000000, 0, 2, .ro, 0x0, .role⟩
def HSL_PRBS_ERR_COUNT : Fld := ⟨0x2000004, 0, 32, .rc, 0x0, .const⟩
def HSL_EVT_ALIGN_LOST : Fld := ⟨0x2000008, 1, 1, .w1c, 0x0, .const⟩
def HSL_EVT_CDR_LOST : Fld := ⟨0x2000008, 0, 1, .w1c, 0x0, .const⟩
def HSL_CFG_PRBS_CHK : Fld := ⟨0x2000400, 10, 2, .lk, 0x0, .const⟩
def HSL_CFG_PRBS_GEN : Fld := ⟨0x2000400, 8, 2, .lk, 0x0, .const⟩
def HSL_CFG_FILL : Fld := ⟨0x2000400, 4, 2, .lk, 0x0, .const⟩
def HSL_CFG_RX_PRECODE : Fld := ⟨0x2000400, 3, 1, .lk, 0x0, .const⟩
def HSL_CFG_TX_PRECODE : Fld := ⟨0x2000400, 2, 1, .lk, 0x0, .const⟩
def HSL_CFG_RX_INVERT : Fld := ⟨0x2000400, 1, 1, .lk, 0x0, .const⟩
def HSL_CFG_TX_INVERT : Fld := ⟨0x2000400, 0, 1, .lk, 0x0, .const⟩
def HSL_TX_FIR_POST1 : Fld := ⟨0x2000404, 24, 8, .lk, 0x0, .const⟩
def HSL_TX_FIR_MAIN : Fld := ⟨0x2000404, 16, 8, .lk, 0x40, .const⟩
def HSL_TX_FIR_PRE1 : Fld := ⟨0x2000404, 8, 8, .lk, 0x0, .const⟩
def HSL_TX_FIR_PRE2 : Fld := ⟨0x2000404, 0, 8, .lk, 0x0, .const⟩

/-! ### Rings (R297, R298) -/

def RNG_CTL_ENABLE : Fld := ⟨0x80000, 0, 1, .rw, 0x0, .const⟩
def RNG_STAT_JOBS : Fld := ⟨0x80004, 16, 16, .ro, 0x0, .const⟩
def RNG_STAT_ERR : Fld := ⟨0x80004, 8, 4, .ro, 0x0, .const⟩
def RNG_STAT_OVERFLOW : Fld := ⟨0x80004, 7, 1, .ro, 0x0, .const⟩
def RNG_STAT_PHASE : Fld := ⟨0x80004, 6, 1, .ro, 0x1, .const⟩
def RNG_STAT_ENABLE_PENDING : Fld := ⟨0x80004, 5, 1, .ro, 0x0, .const⟩
def RNG_STAT_TYPE : Fld := ⟨0x80004, 2, 3, .ro, 0x0, .const⟩
def RNG_STAT_STATE : Fld := ⟨0x80004, 0, 2, .ro, 0x0, .const⟩
def RNG_IDX_HOST_IDX : Fld := ⟨0x80008, 16, 16, .ro, 0x0, .const⟩
def RNG_IDX_DEV_IDX : Fld := ⟨0x80008, 0, 16, .ro, 0x0, .const⟩
def RNG_CNT_COUNT : Fld := ⟨0x8000C, 0, 32, .rc, 0x0, .const⟩
def RNG_ENG_STAT_JOBS : Fld := ⟨0x400, 0, 13, .ro, 0x0, .const⟩
def RNG_ENG_EVT_HOST_READ_ERR : Fld := ⟨0x404, 2, 1, .w1c, 0x0, .const⟩
def RNG_ENG_EVT_OVERFLOW : Fld := ⟨0x404, 1, 1, .w1c, 0x0, .const⟩
def RNG_ENG_EVT_RING_ERROR : Fld := ⟨0x404, 0, 1, .w1c, 0x0, .const⟩
def EVT_PEND_PEND : Fld := ⟨0x440, 0, 32, .ro, 0x0, .const⟩
def RNG_TABLE_ADDR : Fld := ⟨0x1100, 0, 64, .rw, 0x0, .const⟩
def EVT_ROUTE_VALID : Fld := ⟨0x1144, 31, 1, .rw, 0x0, .const⟩
def EVT_ROUTE_RING : Fld := ⟨0x1144, 0, 15, .rw, 0x0, .const⟩
def EVT_SLOT_ROUTE_VALID : Fld := ⟨0x1180, 31, 1, .rw, 0x0, .const⟩
def EVT_SLOT_ROUTE_RING : Fld := ⟨0x1180, 0, 15, .rw, 0x0, .const⟩

/-! ### Capture and Plank (R326, R327) -/

def CAP_STAT_EXT_REFRESH : Fld := ⟨0x70000, 31, 1, .ro, 0x0, .const⟩
def CAP_STAT_FREE_PAGES : Fld := ⟨0x70000, 0, 14, .ro, 0x2000, .const⟩
def CAP_BUDGET_RATE : Fld := ⟨0x70004, 0, 32, .ro, 0xF4240, .const⟩
def CAP_RES_RATE_RATE : Fld := ⟨0x70008, 0, 32, .ro, 0x0, .const⟩
def CAP_OPP_RATE_RATE : Fld := ⟨0x7000C, 0, 32, .ro, 0x0, .const⟩
def CAP_MISSED_COUNT : Fld := ⟨0x70010, 0, 32, .rc, 0x0, .const⟩
def CAP_LOST_COUNT : Fld := ⟨0x70018, 0, 64, .rc, 0x0, .const⟩
def CAP_DRAM_TEMP_TEMP : Fld := ⟨0x70020, 0, 16, .ro, 0x0, .const⟩
def CAP_EVT_EXT_REFRESH : Fld := ⟨0x70024, 2, 1, .w1c, 0x0, .const⟩
def CAP_EVT_GAP : Fld := ⟨0x70024, 1, 1, .w1c, 0x0, .const⟩
def CAP_EVT_MISSED : Fld := ⟨0x70024, 0, 1, .w1c, 0x0, .const⟩
def CAP_BATT_STAT_STATE : Fld := ⟨0x70400, 29, 3, .ro, 0x0, .const⟩
def CAP_BATT_STAT_CLASS : Fld := ⟨0x70400, 28, 1, .ro, 0x0, .const⟩
def CAP_BATT_STAT_END_CAUSE : Fld := ⟨0x70400, 24, 4, .ro, 0x0, .const⟩
def CAP_BATT_STAT_TRIGGERED : Fld := ⟨0x70400, 23, 1, .ro, 0x0, .const⟩
def CAP_BATT_STAT_LOG2_D : Fld := ⟨0x70400, 20, 3, .ro, 0x0, .const⟩
def CAP_BATT_STAT_PAGES : Fld := ⟨0x70400, 0, 14, .ro, 0x0, .const⟩
def CAP_BATT_INFO_TYPE : Fld := ⟨0x71000, 24, 8, .ro, 0x0, .const⟩
def CAP_BATT_INFO_MODE : Fld := ⟨0x71000, 16, 8, .ro, 0x0, .const⟩
def CAP_BATT_INFO_LANE : Fld := ⟨0x71000, 0, 16, .ro, 0x0, .const⟩
def CAP_BATT_INFO_ARM_RING : Fld := ⟨0x71000, 32, 16, .ro, 0x0, .const⟩
def CAP_BATT_INFO_RECORDS : Fld := ⟨0x71000, 64, 32, .ro, 0x0, .const⟩
def CAP_BATT_INFO_LOST : Fld := ⟨0x71000, 96, 32, .ro, 0x0, .const⟩
def CAP_BATT_INFO_TRIG_TIME : Fld := ⟨0x71000, 128, 64, .ro, 0x0, .const⟩
def CAP_BATT_INFO_TRIG_UNIT : Fld := ⟨0x71000, 192, 48, .ro, 0x0, .const⟩
def PLK_ENG_STAT_OUT_OF_SERVICE : Fld := ⟨0x60000, 31, 1, .ro, 0x0, .const⟩
def PLK_ENG_STAT_BUSY : Fld := ⟨0x60000, 30, 1, .ro, 0x0, .const⟩
def PLK_ENG_STAT_DECOMP : Fld := ⟨0x60000, 16, 1, .ro, 0x0, .const⟩
def PLK_ENG_STAT_RING : Fld := ⟨0x60000, 0, 15, .ro, 0x0, .const⟩
def PLK_JOBS_COUNT : Fld := ⟨0x60020, 0, 32, .rc, 0x0, .const⟩
def PLK_IN_COUNT : Fld := ⟨0x60028, 0, 64, .rc, 0x0, .const⟩
def PLK_OUT_COUNT : Fld := ⟨0x60030, 0, 64, .rc, 0x0, .const⟩
def PLK_ERR_COUNT : Fld := ⟨0x60040, 0, 32, .rc, 0x0, .const⟩
def PLK_OUT_FULL_COUNT : Fld := ⟨0x60064, 0, 32, .rc, 0x0, .const⟩
def PLK_EVT_ENGINE_FAULT : Fld := ⟨0x60068, 0, 1, .w1c, 0x0, .const⟩

/-! ### Hatband (R356, R357) -/

def HB_STAT_BUS : Fld := ⟨0x30000, 2, 2, .ro, 0x0, .const⟩
def HB_STAT_MODE : Fld := ⟨0x30000, 0, 2, .ro, 0x0, .const⟩
def HB_EVT_CAL_KEPT : Fld := ⟨0x30004, 5, 1, .w1c, 0x0, .const⟩
def HB_EVT_EXC_FAULT : Fld := ⟨0x30004, 4, 1, .w1c, 0x0, .const⟩
def HB_EVT_BURNOUT : Fld := ⟨0x30004, 3, 1, .w1c, 0x0, .const⟩
def HB_EVT_URGENT_DROPPED : Fld := ⟨0x30004, 2, 1, .w1c, 0x0, .const⟩
def HB_EVT_TRIG_MISS : Fld := ⟨0x30004, 1, 1, .w1c, 0x0, .const⟩
def HB_EVT_QUEUE_FULL : Fld := ⟨0x30004, 0, 1, .w1c, 0x0, .const⟩
def HB_EXC_STAT_LIMIT : Fld := ⟨0x30008, 16, 8, .ro, 0x0, .const⟩
def HB_EXC_STAT_IN_RANGE : Fld := ⟨0x30008, 8, 8, .ro, 0x0, .const⟩
def HB_EXC_STAT_ON : Fld := ⟨0x30008, 0, 8, .ro, 0x0, .const⟩
def HB_CONV_STAT_STATE : Fld := ⟨0x30040, 30, 2, .ro, 0x0, .const⟩
def HB_CONV_STAT_ENABLE_PENDING : Fld := ⟨0x30040, 29, 1, .ro, 0x0, .const⟩
def HB_CONV_STAT_SELFCAL : Fld := ⟨0x30040, 28, 1, .ro, 0x0, .const⟩
def HB_CONV_STAT_URGENT : Fld := ⟨0x30040, 27, 1, .ro, 0x0, .const⟩
def HB_CONV_STAT_STEP : Fld := ⟨0x30040, 16, 8, .ro, 0x0, .const⟩
def HB_CONV_STAT_QCOUNT : Fld := ⟨0x30040, 0, 12, .ro, 0x0, .const⟩
def HB_URGENT_DROPPED_COUNT : Fld := ⟨0x30044, 0, 32, .rc, 0x0, .const⟩
def HB_TRIG_MISS_COUNT : Fld := ⟨0x30048, 0, 32, .rc, 0x0, .const⟩
def HB_Q_OVERRUN_COUNT : Fld := ⟨0x3004C, 0, 32, .rc, 0x0, .const⟩
def HB_ABORTS_COUNT : Fld := ⟨0x30050, 0, 32, .rc, 0x0, .const⟩
def HB_BURNOUT_COUNT : Fld := ⟨0x30054, 0, 32, .rc, 0x0, .const⟩
def HB_LAST_ENTRY : Fld := ⟨0x30058, 0, 64, .ro, 0x0, .const⟩
def HB_CAL_STAT_STALE : Fld := ⟨0x30060, 24, 8, .ro, 0xFF, .const⟩
def HB_CAL_STAT_KEPT_GAIN : Fld := ⟨0x30060, 16, 8, .ro, 0x0, .const⟩
def HB_CAL_STAT_KEPT_OFS : Fld := ⟨0x30060, 8, 8, .ro, 0x0, .const⟩
def HB_CAL_STAT_KEPT_RGAIN : Fld := ⟨0x30060, 0, 8, .ro, 0x0, .const⟩
def HB_CAL_TIME_TIME : Fld := ⟨0x30064, 0, 64, .ro, 0x0, .const⟩
def HB_Q_ENTRY : Fld := ⟨0x31000, 0, 64, .rc, 0x0, .const⟩
def HB_CFG_MODE : Fld := ⟨0x31100, 0, 2, .lk, 0x0, .const⟩
def HB_SCAN_CFG_BO_EVERY : Fld := ⟨0x31110, 16, 8, .lk, 0x1, .const⟩
def HB_SCAN_CFG_PWM : Fld := ⟨0x31110, 8, 5, .lk, 0x0, .const⟩
def HB_SCAN_CFG_SUPPRESS : Fld := ⟨0x31110, 4, 1, .lk, 0x0, .const⟩
def HB_SCAN_CFG_EDGE : Fld := ⟨0x31110, 2, 2, .lk, 0x1, .const⟩
def HB_SCAN_CFG_TRIG : Fld := ⟨0x31110, 0, 2, .lk, 0x0, .const⟩
def HB_SCAN_CFG_PERIOD : Fld := ⟨0x31110, 32, 20, .lk, 0x3E8, .const⟩
def HB_SCAN_CFG_LEN : Fld := ⟨0x31110, 80, 9, .lk, 0x0, .const⟩
def HB_SCAN_CFG_DELAY : Fld := ⟨0x31110, 64, 16, .lk, 0x0, .const⟩
def HB_EXC_CFG_EN : Fld := ⟨0x31140, 31, 1, .lk, 0x0, .const⟩
def HB_EXC_CFG_SETTLE : Fld := ⟨0x31140, 16, 8, .lk, 0x10, .const⟩
def HB_EXC_CFG_MV : Fld := ⟨0x31140, 0, 12, .lk, 0x9C4, .const⟩
def HB_SCAN_LIST_STEP_HI : Fld := ⟨0x31200, 16, 10, .lk, 0x0, .const⟩
def HB_SCAN_LIST_STEP_LO : Fld := ⟨0x31200, 0, 10, .lk, 0x0, .const⟩
def HB_CAL_OFS_FACTOR : Fld := ⟨0x31600, 0, 16, .ro, 0x0, .const⟩
def HB_CAL_GAIN_FACTOR : Fld := ⟨0x31620, 0, 16, .ro, 0x0, .const⟩
def HB_CAL_RGAIN_FACTOR : Fld := ⟨0x31680, 0, 16, .ro, 0x0, .const⟩
def HB_PT_CFG_BO_10UA : Fld := ⟨0x32000, 25, 1, .lk, 0x0, .const⟩
def HB_PT_CFG_BO_MODE : Fld := ⟨0x32000, 23, 2, .lk, 0x0, .const⟩
def HB_PT_CFG_EXC_USE : Fld := ⟨0x32000, 22, 1, .lk, 0x0, .const⟩
def HB_PT_CFG_EXC : Fld := ⟨0x32000, 19, 3, .lk, 0x0, .const⟩
def HB_PT_CFG_RATIO : Fld := ⟨0x32000, 18, 1, .lk, 0x0, .const⟩
def HB_PT_CFG_SHIFT : Fld := ⟨0x32000, 14, 4, .lk, 0x0, .const⟩
def HB_PT_CFG_AVG : Fld := ⟨0x32000, 10, 4, .lk, 0x0, .const⟩
def HB_PT_CFG_AR_MAX : Fld := ⟨0x32000, 7, 3, .lk, 0x7, .const⟩
def HB_PT_CFG_AR_MIN : Fld := ⟨0x32000, 4, 3, .lk, 0x0, .const⟩
def HB_PT_CFG_AUTO : Fld := ⟨0x32000, 3, 1, .lk, 0x0, .const⟩
def HB_PT_CFG_RANGE : Fld := ⟨0x32000, 0, 3, .lk, 0x0, .const⟩
def HB_PT_STAT_LAST_BURNOUT : Fld := ⟨0x33000, 22, 1, .ro, 0x0, .const⟩
def HB_PT_STAT_LAST_OVR : Fld := ⟨0x33000, 21, 1, .ro, 0x0, .const⟩
def HB_PT_STAT_SETTLE : Fld := ⟨0x33000, 12, 9, .ro, 0x0, .const⟩
def HB_PT_STAT_UP : Fld := ⟨0x33000, 8, 4, .ro, 0x0, .const⟩
def HB_PT_STAT_HOLD : Fld := ⟨0x33000, 3, 5, .ro, 0x0, .const⟩
def HB_PT_STAT_RANGE : Fld := ⟨0x33000, 0, 3, .ro, 0x0, .const⟩

/-! ### Housekeeping (R377, R378) -/

def HK_STAT_CLR_PIN : Fld := ⟨0x40000, 0, 1, .ro, 0x0, .const⟩
def HK_EVT_FORCED : Fld := ⟨0x40004, 1, 1, .w1c, 0x0, .const⟩
def HK_EVT_CLEAR_PIN : Fld := ⟨0x40004, 0, 1, .w1c, 0x0, .const⟩
def HK_DAC_STAT_RANGE_PENDING : Fld := ⟨0x40100, 26, 1, .ro, 0x0, .const⟩
def HK_DAC_STAT_HELD : Fld := ⟨0x40100, 25, 1, .ro, 0x1, .const⟩
def HK_DAC_STAT_FORCE_SHED : Fld := ⟨0x40100, 24, 1, .ro, 0x0, .const⟩
def HK_DAC_STAT_FORCE_FLT : Fld := ⟨0x40100, 23, 1, .ro, 0x0, .const⟩
def HK_DAC_STAT_FORCE_CLR : Fld := ⟨0x40100, 22, 1, .ro, 0x0, .const⟩
def HK_DAC_STAT_CLAMP : Fld := ⟨0x40100, 21, 1, .ro, 0x0, .const⟩
def HK_DAC_STAT_SLEWING : Fld := ⟨0x40100, 20, 1, .ro, 0x0, .const⟩
def HK_DAC_STAT_RANGE : Fld := ⟨0x40100, 16, 2, .ro, 0x0, .const⟩
def HK_DAC_STAT_OUT : Fld := ⟨0x40100, 0, 16, .ro, 0x0, .const⟩
def HK_DAC_TARGET_RANGE : Fld := ⟨0x40200, 16, 2, .ro, 0x0, .const⟩
def HK_DAC_TARGET_TARGET : Fld := ⟨0x40200, 0, 16, .ro, 0x0, .const⟩
def HK_PWM_STAT_PIN : Fld := ⟨0x40300, 5, 1, .ro, 0x0, .const⟩
def HK_PWM_STAT_FORCE_SHED : Fld := ⟨0x40300, 4, 1, .ro, 0x0, .const⟩
def HK_PWM_STAT_FORCE_FLT : Fld := ⟨0x40300, 3, 1, .ro, 0x0, .const⟩
def HK_PWM_STAT_ENABLE_PENDING : Fld := ⟨0x40300, 2, 1, .ro, 0x0, .const⟩
def HK_PWM_STAT_STATE : Fld := ⟨0x40300, 0, 2, .ro, 0x0, .const⟩
def HK_DAC_CFG_STEP : Fld := ⟨0x41000, 16, 13, .lk, 0x1, .const⟩
def HK_DAC_CFG_FORCE_SHED : Fld := ⟨0x41000, 4, 1, .lk, 0x0, .const⟩
def HK_DAC_CFG_FORCE_FLT : Fld := ⟨0x41000, 3, 1, .lk, 0x0, .const⟩
def HK_DAC_CFG_RELEASE : Fld := ⟨0x41000, 2, 1, .lk, 0x0, .const⟩
def HK_DAC_CFG_RANGE : Fld := ⟨0x41000, 0, 2, .lk, 0x0, .const⟩
def HK_DAC_CFG_PERIOD : Fld := ⟨0x41000, 48, 16, .lk, 0x1, .const⟩
def HK_DAC_CFG_CLEAR : Fld := ⟨0x41000, 32, 16, .lk, 0x0, .const⟩
def HK_PWM_CFG_PERIOD : Fld := ⟨0x41200, 16, 16, .lk, 0xFA0, .const⟩
def HK_PWM_CFG_HIGH : Fld := ⟨0x41200, 0, 16, .lk, 0x0, .const⟩
def HK_PWM_CFG_FORCE_SHED : Fld := ⟨0x41200, 37, 1, .lk, 0x0, .const⟩
def HK_PWM_CFG_FORCE_FLT : Fld := ⟨0x41200, 36, 1, .lk, 0x0, .const⟩
def HK_PWM_CFG_POL : Fld := ⟨0x41200, 35, 1, .lk, 0x0, .const⟩
def HK_PWM_CFG_PRESC : Fld := ⟨0x41200, 32, 3, .lk, 0x0, .const⟩

/-! ### Thermal (R395, R396) -/

def THM_STAT_HOT_ZONE : Fld := ⟨0x10000, 24, 5, .ro, 0x0, .const⟩
def THM_STAT_COLD_INHIBIT : Fld := ⟨0x10000, 19, 1, .ro, 0x0, .const⟩
def THM_STAT_COLD_WARN : Fld := ⟨0x10000, 18, 1, .ro, 0x0, .const⟩
def THM_STAT_MAX_LEVEL : Fld := ⟨0x10000, 16, 2, .ro, 0x0, .const⟩
def THM_STAT_FLOOR : Fld := ⟨0x10000, 8, 5, .ro, 0x0, .const⟩
def THM_STAT_STEP : Fld := ⟨0x10000, 0, 5, .ro, 0x0, .const⟩
def THM_EVT_COLD_INHIBIT : Fld := ⟨0x10004, 3, 1, .w1c, 0x0, .const⟩
def THM_EVT_SENSOR_FAIL : Fld := ⟨0x10004, 2, 1, .w1c, 0x0, .const⟩
def THM_EVT_SHED : Fld := ⟨0x10004, 1, 1, .w1c, 0x0, .const⟩
def THM_EVT_THROTTLE : Fld := ⟨0x10004, 0, 1, .w1c, 0x0, .const⟩
def THM_SHED_SLOT : Fld := ⟨0x10008, 0, 24, .ro, 0x0, .const⟩
def THM_DEV_TEMP_COLDEST : Fld := ⟨0x1000C, 16, 16, .ro, 0x0, .const⟩
def THM_DEV_TEMP_HOTTEST : Fld := ⟨0x1000C, 0, 16, .ro, 0x0, .const⟩
def THM_CNT_SHEDS : Fld := ⟨0x10010, 16, 16, .rc, 0x0, .const⟩
def THM_CNT_THROTTLES : Fld := ⟨0x10010, 0, 16, .rc, 0x0, .const⟩
def THM_SHUT_INFO_VALID : Fld := ⟨0x10014, 31, 1, .ro, 0x0, .kept⟩
def THM_SHUT_INFO_ZONE : Fld := ⟨0x10014, 24, 5, .ro, 0x0, .kept⟩
def THM_SHUT_INFO_TEMP : Fld := ⟨0x10014, 0, 16, .ro, 0x0, .kept⟩
def THM_ZONE_LEVEL : Fld := ⟨0x10100, 30, 2, .ro, 0x0, .const⟩
def THM_ZONE_SUBST : Fld := ⟨0x10100, 29, 1, .ro, 0x0, .const⟩
def THM_ZONE_NO_SENSOR : Fld := ⟨0x10100, 28, 1, .ro, 0x0, .const⟩
def THM_ZONE_VALID : Fld := ⟨0x10100, 24, 4, .ro, 0x0, .const⟩
def THM_ZONE_TEMP : Fld := ⟨0x10100, 0, 16, .ro, 0x0, .const⟩
def THM_SENSOR_FAILED : Fld := ⟨0x10200, 31, 1, .ro, 0x0, .const⟩
def THM_SENSOR_CAUSE : Fld := ⟨0x10200, 28, 3, .ro, 0x0, .const⟩
def THM_SENSOR_ZONE : Fld := ⟨0x10200, 23, 5, .ro, 0x0, .zone⟩
def THM_SENSOR_TEMP : Fld := ⟨0x10200, 0, 16, .ro, 0x0, .const⟩
def THM_SENSOR_FAIL_FAIL : Fld := ⟨0x10400, 0, 32, .w1c, 0x0, .const⟩
def THM_ZONE_LIM_THROTTLE : Fld := ⟨0x11000, 16, 16, .lk, 0x6B0, .const⟩
def THM_ZONE_LIM_WARN : Fld := ⟨0x11000, 0, 16, .lk, 0x640, .const⟩
def THM_ZONE_LIM_OFFSET : Fld := ⟨0x11000, 56, 8, .lk, 0x18, .const⟩
def THM_ZONE_LIM_HYST : Fld := ⟨0x11000, 48, 8, .lk, 0xC, .const⟩
def THM_ZONE_LIM_SHUTDOWN : Fld := ⟨0x11000, 32, 16, .lk, 0x730, .const⟩
def THM_COLD_LIM_INHIBIT : Fld := ⟨0x11100, 16, 16, .lk, 0xFF60, .const⟩
def THM_COLD_LIM_WARN : Fld := ⟨0x11100, 0, 16, .lk, 0x0, .const⟩
def THM_TIMING_LO_STEP_MS : Fld := ⟨0x11104, 16, 10, .lk, 0xA, .const⟩
def THM_TIMING_LO_SHED_MS : Fld := ⟨0x11104, 0, 14, .lk, 0x32, .const⟩
def THM_TIMING_HI_RETREAT_MS : Fld := ⟨0x11108, 0, 14, .lk, 0x64, .const⟩
def THM_SHED_ORDER_E0 : Fld := ⟨0x11110, 0, 8, .lk, 0x0, .shedOrder⟩
def THM_SHED_ORDER_E1 : Fld := ⟨0x11110, 8, 8, .lk, 0x0, .shedOrder⟩
def THM_SHED_ORDER_E2 : Fld := ⟨0x11110, 16, 8, .lk, 0x0, .shedOrder⟩
def THM_SHED_ORDER_E3 : Fld := ⟨0x11110, 24, 8, .lk, 0x0, .shedOrder⟩
def THM_SHED_COUNT_COUNT : Fld := ⟨0x11128, 0, 5, .lk, 0x18, .const⟩

/-! ### Serial port (R424, R425) -/

def MSPM_STAT_BUSY : Fld := ⟨0x50000, 15, 1, .ro, 0x0, .const⟩
def MSPM_STAT_CONT_ACTIVE : Fld := ⟨0x50000, 14, 1, .ro, 0x0, .const⟩
def MSPM_STAT_CLASS : Fld := ⟨0x50000, 12, 2, .ro, 0x0, .const⟩
def MSPM_STAT_TGT : Fld := ⟨0x50000, 0, 5, .ro, 0x0, .const⟩
def MSPM_EVT_POLL_TIMEOUT : Fld := ⟨0x50004, 1, 1, .w1c, 0x0, .const⟩
def MSPM_EVT_DQS_TIMEOUT : Fld := ⟨0x50004, 0, 1, .w1c, 0x0, .const⟩
def MSPM_FRAMES_COUNT : Fld := ⟨0x50008, 0, 32, .rc, 0x0, .const⟩
def MSPM_XIP_HIT_COUNT : Fld := ⟨0x5000C, 0, 32, .rc, 0x0, .const⟩
def MSPM_XIP_MISS_COUNT : Fld := ⟨0x50010, 0, 32, .rc, 0x0, .const⟩
def MSPS_STAT_MODE : Fld := ⟨0x50040, 15, 1, .ro, 0x0, .kept⟩
def MSPS_STAT_SHAPE : Fld := ⟨0x50040, 14, 1, .ro, 0x0, .const⟩
def MSPS_STAT_FETCH : Fld := ⟨0x50040, 12, 2, .ro, 0x0, .const⟩
def MSPS_STAT_WORDS : Fld := ⟨0x50040, 0, 5, .ro, 0x0, .const⟩
def MSPS_EVT_CHAIN_ERR : Fld := ⟨0x50044, 4, 1, .w1c, 0x0, .const⟩
def MSPS_EVT_FETCH_FULL : Fld := ⟨0x50044, 3, 1, .w1c, 0x0, .const⟩
def MSPS_EVT_WR_IGNORED : Fld := ⟨0x50044, 2, 1, .w1c, 0x0, .const⟩
def MSPS_EVT_FRAME_ERR : Fld := ⟨0x50044, 1, 1, .w1c, 0x0, .const⟩
def MSPS_EVT_END_OF_MAP : Fld := ⟨0x50044, 0, 1, .w1c, 0x0, .const⟩
def MSPS_ERRS_COUNT : Fld := ⟨0x50048, 0, 32, .rc, 0x0, .const⟩
def MSPS_FETCH_ADDR_ADDR : Fld := ⟨0x5004C, 0, 26, .ro, 0x0, .const⟩
def MSPM_CFG_MIN_DESEL : Fld := ⟨0x51000, 24, 4, .lk, 0x2, .const⟩
def MSPM_CFG_SAMPLE_DLY : Fld := ⟨0x51000, 18, 3, .lk, 0x0, .const⟩
def MSPM_CFG_CPOL : Fld := ⟨0x51000, 17, 1, .lk, 0x0, .const⟩
def MSPM_CFG_CPHA : Fld := ⟨0x51000, 16, 1, .lk, 0x0, .const⟩
def MSPM_CFG_DIV : Fld := ⟨0x51000, 0, 8, .lk, 0x20, .const⟩
def MSPM_XIP_CFG0_EN : Fld := ⟨0x51004, 31, 1, .lk, 0x0, .const⟩
def MSPM_XIP_CFG0_CONT_EN : Fld := ⟨0x51004, 30, 1, .lk, 0x0, .const⟩
def MSPM_XIP_CFG0_PREFETCH_EN : Fld := ⟨0x51004, 29, 1, .lk, 0x0, .const⟩
def MSPM_XIP_CFG0_XIP_TGT : Fld := ⟨0x51004, 24, 5, .lk, 0x0, .const⟩
def MSPM_XIP_CFG0_ADDR_LEN : Fld := ⟨0x51004, 20, 3, .lk, 0x3, .const⟩
def MSPM_XIP_CFG0_DUMMY : Fld := ⟨0x51004, 15, 5, .lk, 0x0, .const⟩
def MSPM_XIP_CFG0_CMD_LEN : Fld := ⟨0x51004, 13, 2, .lk, 0x1, .const⟩
def MSPM_XIP_CFG0_PH_DATA : Fld := ⟨0x51004, 9, 3, .lk, 0x0, .const⟩
def MSPM_XIP_CFG0_PH_ADDR : Fld := ⟨0x51004, 6, 3, .lk, 0x0, .const⟩
def MSPM_XIP_CFG0_PH_CMD : Fld := ⟨0x51004, 3, 3, .lk, 0x0, .const⟩
def MSPM_XIP_CFG1_EXIT_BYTE : Fld := ⟨0x51008, 24, 8, .lk, 0xFF, .const⟩
def MSPM_XIP_CFG1_MODE_BYTE : Fld := ⟨0x51008, 16, 8, .lk, 0x0, .const⟩
def MSPM_XIP_CFG1_CMD1 : Fld := ⟨0x51008, 8, 8, .lk, 0x0, .const⟩
def MSPM_XIP_CFG1_CMD0 : Fld := ⟨0x51008, 0, 8, .lk, 0x3, .const⟩

/-! ### Management (R453) -/

def SYS_BOOT_STAT_LAST_FAIL : Fld := ⟨0x500, 30, 2, .ro, 0x0, .kept⟩
def SYS_BOOT_STAT_ERROR : Fld := ⟨0x500, 20, 4, .ro, 0x0, .const⟩
def SYS_BOOT_STAT_PHASE : Fld := ⟨0x500, 16, 4, .ro, 0x0, .const⟩
def SYS_BOOT_STAT_FALLBACK : Fld := ⟨0x500, 11, 1, .ro, 0x0, .const⟩
def SYS_BOOT_STAT_SLOT : Fld := ⟨0x500, 9, 2, .ro, 0x0, .const⟩
def SYS_BOOT_STAT_VALID_B : Fld := ⟨0x500, 8, 1, .ro, 0x0, .const⟩
def SYS_BOOT_STAT_VALID_A : Fld := ⟨0x500, 7, 1, .ro, 0x0, .const⟩
def SYS_BOOT_STAT_STRAP : Fld := ⟨0x500, 0, 2, .ro, 0x0, .kept⟩
def SYS_BOOT_TIME_VALUE : Fld := ⟨0x504, 0, 32, .ro, 0x0, .const⟩
def SYS_FW_VER_VALUE : Fld := ⟨0x508, 0, 32, .ro, 0x0, .const⟩
def SYS_FW_SEQ_VALUE : Fld := ⟨0x50C, 0, 32, .ro, 0x0, .const⟩
def SYS_FAULT_CAUSE_VALID : Fld := ⟨0x520, 31, 1, .ro, 0x0, .kept⟩
def SYS_FAULT_CAUSE_PREV_STATE : Fld := ⟨0x520, 16, 4, .ro, 0x0, .kept⟩
def SYS_FAULT_CAUSE_DETAIL : Fld := ⟨0x520, 8, 8, .ro, 0x0, .kept⟩
def SYS_FAULT_CAUSE_CAUSE : Fld := ⟨0x520, 0, 8, .ro, 0x0, .kept⟩
def SYS_FAULT_TIME_TIME : Fld := ⟨0x524, 0, 64, .ro, 0x0, .kept⟩
def SYS_DUMP_STAT_FLASH : Fld := ⟨0x530, 4, 4, .ro, 0x0, .kept⟩
def SYS_DUMP_STAT_HOST : Fld := ⟨0x530, 0, 4, .ro, 0x0, .kept⟩
def SYS_DUMP_BYTES_BYTES : Fld := ⟨0x534, 0, 32, .ro, 0x0, .kept⟩
def SYS_BIST_STAT_RUNNING : Fld := ⟨0x540, 31, 1, .ro, 0x0, .const⟩
def SYS_BIST_STAT_FAIL : Fld := ⟨0x540, 8, 6, .ro, 0x0, .const⟩
def SYS_BIST_STAT_LAST_MASK : Fld := ⟨0x540, 0, 6, .ro, 0x0, .const⟩
def SYS_BIST_SIG_EXPECTED : Fld := ⟨0x550, 0, 64, .ro, 0x0, .fused⟩
def SYS_BIST_SIG_MEASURED : Fld := ⟨0x550, 64, 64, .ro, 0x0, .const⟩
def SYS_MBIST_FAIL_GROUP : Fld := ⟨0x580, 0, 16, .ro, 0x0, .const⟩
def SYS_HBOOT_ADDR_VALUE : Fld := ⟨0x5C0, 0, 64, .rw, 0x0, .const⟩
def SYS_HBOOT_LEN_VALUE : Fld := ⟨0x5C8, 0, 32, .rw, 0x0, .const⟩
def SYS_HBOOT_GO_KEY : Fld := ⟨0x5CC, 0, 32, .wo, 0x0, .const⟩
def SYS_TLM_STAT_STATE : Fld := ⟨0x600, 30, 2, .ro, 0x0, .const⟩
def SYS_TLM_STAT_CONV : Fld := ⟨0x600, 29, 1, .ro, 0x0, .const⟩
def SYS_TLM_STAT_MISSED : Fld := ⟨0x600, 0, 16, .rc, 0x0, .const⟩

end F

/-- Register model (R60). -/
def regTable02 : List RegSpec := [
  ⟨0x0, 1, [], [F.SYS_ID_PART, F.SYS_ID_FAMILY, F.SYS_ID_SILICON]⟩,
    ⟨0x4, 1, [], [F.SYS_STATE_LAST_REQ, F.SYS_STATE_IN_TRANSITION, F.SYS_STATE_REQ_REJECTED, F.SYS_STATE_PREV_STATE,
    F.SYS_STATE_STATE]⟩,
  ⟨0x8, 1, [], [F.SYS_STATE_REQ_REQ]⟩,
  ⟨0xC, 1, [], [F.SYS_SWRST_KEY]⟩,
  ⟨0x10, 2, [], [F.SYS_TIME_TIME]⟩,
    ⟨0x18, 1, [], [F.SYS_RST_CAUSE_THERMAL, F.SYS_RST_CAUSE_PCIE, F.SYS_RST_CAUSE_SOFT, F.SYS_RST_CAUSE_PIN,
    F.SYS_RST_CAUSE_POWER]⟩,
    ⟨0x1C, 1, [], [F.SYS_ACC_ERR_MASTER, F.SYS_ACC_ERR_OVERRUN, F.SYS_ACC_ERR_PARTIAL, F.SYS_ACC_ERR_BAD_VALUE,
    F.SYS_ACC_ERR_LK_WRITE, F.SYS_ACC_ERR_UNMAPPED]⟩,
  ⟨0x20, 1, [], [F.SYS_ACC_ERR_ADDR_IN_BAR2, F.SYS_ACC_ERR_ADDR_ADDR]⟩,
  ⟨0x28, 2, [], [F.SYS_DUMP_BUF_ADDR]⟩,
  ⟨0x30, 1, [], [F.SYS_DUMP_BUF_SIZE_SIZE]⟩,
  ⟨0x100, 1, [(3, 0x10)], [F.SYS_ID_LOT_LO_LOT_A]⟩,
  ⟨0x104, 1, [(3, 0x10)], [F.SYS_ID_LOT_HI_WAFER, F.SYS_ID_LOT_HI_LOT_B]⟩,
  ⟨0x108, 1, [(3, 0x10)], [F.SYS_ID_POS_DIE, F.SYS_ID_POS_Y, F.SYS_ID_POS_X]⟩]

/-- Fabric, power and state (R91). -/
def regTable03 : List RegSpec := [
    ⟨0x40, 1, [], [F.SYS_SAFE_CAUSE_AVS_FAULT, F.SYS_SAFE_CAUSE_LINK_DOWN, F.SYS_SAFE_CAUSE_FW_WATCHDOG,
    F.SYS_SAFE_CAUSE_HOST]⟩,
  ⟨0x44, 1, [], [F.SYS_FIFO_SLIP_COUNT]⟩,
    ⟨0x200, 1, [(40, 0x4)], [F.SYS_ISL_MARGIN_TS_PASS, F.SYS_ISL_MARGIN_CRITICAL, F.SYS_ISL_MARGIN_AT_CAP,
    F.SYS_ISL_MARGIN_BELOW_TARGET, F.SYS_ISL_MARGIN_MARGIN]⟩,
  ⟨0x300, 1, [(3, 0x4)], [F.SYS_RAIL_STAT_AVS_FAULT, F.SYS_RAIL_STAT_CAP, F.SYS_RAIL_STAT_SETPOINT]⟩,
  ⟨0x1000, 1, [(3, 0x4)], [F.SYS_RAIL_CFG_VMAX, F.SYS_RAIL_CFG_VMIN]⟩,
  ⟨0x1010, 1, [], [F.SYS_FAB_CFG_RELEASE, F.SYS_FAB_CFG_TARGET]⟩,
  ⟨0x1014, 1, [], [F.SYS_RESET_CFG_PERST_MODE]⟩]

/-- Lane converters (R116). -/
def regTable04 : List RegSpec := [
    ⟨0x1000100, 1, [(192, 0x10000)], [F.LANE_FE_STAT_FUSED_ROLE, F.LANE_FE_STAT_ISO_OPEN, F.LANE_FE_STAT_FE_ON,
    F.LANE_FE_STAT_SIG_PRESENT, F.LANE_FE_STAT_AGC_LIMIT, F.LANE_FE_STAT_CTLE_CODE, F.LANE_FE_STAT_VGA_CODE]⟩,
    ⟨0x1000104, 1, [(192, 0x10000)], [F.LANE_ADC_STAT_SPARE_GROUP, F.LANE_ADC_STAT_NO_GROUP_SPARE,
    F.LANE_ADC_STAT_CLEAN_COUNT, F.LANE_ADC_STAT_HOLD, F.LANE_ADC_STAT_RUNNING, F.LANE_ADC_STAT_NO_SS_SPARE]⟩,
  ⟨0x1000108, 2, [(192, 0x10000)], [F.LANE_ADC_CLIP_COUNT]⟩,
  ⟨0x1000110, 1, [(192, 0x10000)], [F.LANE_ADC_WIN_LAST_CLIPS, F.LANE_ADC_WIN_RMS]⟩,
  ⟨0x1000114, 1, [(192, 0x10000)], [F.LANE_ADC_PEAK_PEAK_POS, F.LANE_ADC_PEAK_PEAK_NEG]⟩,
  ⟨0x1000118, 1, [(192, 0x10000)], [F.LANE_ADC_HOLDS_COUNT]⟩,
  ⟨0x100011C, 1, [(192, 0x10000)], [F.LANE_ADC_EVT_AGC_LIMIT, F.LANE_ADC_EVT_SIGNAL_LOST, F.LANE_ADC_EVT_OVERLOAD]⟩,
  ⟨0x1000120, 1, [(192, 0x10000)], [F.LANE_ADC_GMAP_P]⟩,
  ⟨0x1000124, 1, [(192, 0x10000), (9, 0x4)], [F.LANE_ADC_SMAP_P]⟩,
  ⟨0x1000148, 1, [(192, 0x10000)], [F.LANE_ADC_MAPCHG_COUNT]⟩,
    ⟨0x1001000, 1, [(192, 0x10000)], [F.LANE_FE_CFG_CTLE_AUTO, F.LANE_FE_CFG_CTLE_CODE, F.LANE_FE_CFG_VGA_AUTO,
    F.LANE_FE_CFG_VGA_CODE, F.LANE_FE_CFG_INVERT]⟩,
  ⟨0x1001004, 1, [(192, 0x10000)], [F.LANE_AGC_CFG_PERIOD, F.LANE_AGC_CFG_TARGET_RMS]⟩,
  ⟨0x1001008, 1, [(192, 0x10000)], [F.LANE_SIGDET_CFG_THRESH_RMS]⟩]

/-- Calibration (R150, R151). -/
def regTable05 : List RegSpec := [
    ⟨0x1000200, 1, [(192, 0x10000)], [F.LANE_CAL_STAT_RET_SS, F.LANE_CAL_STAT_GRP_RETIRED,
    F.LANE_CAL_STAT_SPARE_EXHAUSTED, F.LANE_CAL_STAT_STORED_IN_USE, F.LANE_CAL_STAT_NOISY, F.LANE_CAL_STAT_SUSPECT,
    F.LANE_CAL_STAT_CARD_PAUSED, F.LANE_CAL_STAT_PHASE]⟩,
  ⟨0x1000204, 1, [(192, 0x10000)], [F.LANE_CAL_COUNT_COUNT]⟩,
  ⟨0x1000208, 2, [(192, 0x10000)], [F.LANE_CAL_TIME_TIME]⟩,
  ⟨0x1000210, 1, [(192, 0x10000)], [F.LANE_CAL_TEMP_TEMP]⟩,
  ⟨0x1000214, 1, [(192, 0x10000)], [F.LANE_CAL_ACT_WAIT_RETRIES, F.LANE_CAL_ACT_ACT]⟩,
  ⟨0x1000218, 1, [(192, 0x10000)], [F.LANE_CAL_CARD_SLOTS]⟩,
  ⟨0x100021C, 1, [(192, 0x10000)], [F.LANE_CAL_DISAGREE_COUNT]⟩,
    ⟨0x1000220, 1, [(192, 0x10000)], [F.LANE_CAL_EVT_SPARE_EXHAUSTED, F.LANE_CAL_EVT_RETIRED,
    F.LANE_CAL_EVT_SUSPECT, F.LANE_CAL_EVT_CAL_WAIT]⟩,
    ⟨0x1001100, 1, [(192, 0x10000)], [F.LANE_CAL_CFG_ACCEPT_STORED, F.LANE_CAL_CFG_CARD_EN,
    F.LANE_CAL_CFG_TEMP_STEP, F.LANE_CAL_CFG_RAMP_US]⟩,
  ⟨0x1001104, 1, [(192, 0x10000)], [F.LANE_CAL_ACT_CFG_ACT_THRESH]⟩,
    ⟨0x1002000, 8, [(192, 0x10000), (9, 0x120), (9, 0x20)], [F.LANE_CAL_SS_GAIN, F.LANE_CAL_SS_OFFSET,
    F.LANE_CAL_SS_SUSPECT, F.LANE_CAL_SS_RETIRED, F.LANE_CAL_SS_FAILED, F.LANE_CAL_SS_CAP, F.LANE_CAL_SS_COMP_RET,
    F.LANE_CAL_SS_COMP_SEL, F.LANE_CAL_SS_CTRIM, F.LANE_CAL_SS_W0, F.LANE_CAL_SS_W1, F.LANE_CAL_SS_W2,
    F.LANE_CAL_SS_W3, F.LANE_CAL_SS_W4, F.LANE_CAL_SS_W5, F.LANE_CAL_SS_W6, F.LANE_CAL_SS_W7, F.LANE_CAL_SS_W8,
    F.LANE_CAL_SS_W9]⟩,
    ⟨0x1002C00, 4, [(192, 0x10000), (9, 0x10)], [F.LANE_CAL_GRP_GAIN, F.LANE_CAL_GRP_BW, F.LANE_CAL_GRP_SUSPECT,
    F.LANE_CAL_GRP_RETIRED, F.LANE_CAL_GRP_FAILED, F.LANE_CAL_GRP_SKEW]⟩,
  ⟨0x1002C90, 1, [(192, 0x10000)], [F.LANE_CAL_PAIR_SUSPECT, F.LANE_CAL_PAIR_FAILED, F.LANE_CAL_PAIR_SKEW]⟩,
    ⟨0x1002D00, 1, [(192, 0x10000), (16, 0x4)], [F.LANE_CAL_TX_SUSPECT, F.LANE_CAL_TX_RETIRED, F.LANE_CAL_TX_SPARE,
    F.LANE_CAL_TX_FAILED, F.LANE_CAL_TX_TRIM]⟩,
    ⟨0x1002D40, 1, [(192, 0x10000)], [F.LANE_CAL_TXB_SUSPECT, F.LANE_CAL_TXB_RETIRED, F.LANE_CAL_TXB_SPARE,
    F.LANE_CAL_TXB_FAILED, F.LANE_CAL_TXB_TRIM]⟩,
    ⟨0x20000, 1, [], [F.CAL_NVM_STAT_EXPLICIT_LEFT, F.CAL_NVM_STAT_EMPTY, F.CAL_NVM_STAT_DEFERRED,
    F.CAL_NVM_STAT_COMMIT_BUSY, F.CAL_NVM_STAT_ERASE_PENDING, F.CAL_NVM_STAT_OTHER, F.CAL_NVM_STAT_ACTIVE_VALID,
    F.CAL_NVM_STAT_ACTIVE_BANK]⟩,
  ⟨0x20004, 1, [], [F.CAL_NVM_SEQ_SEQ]⟩,
  ⟨0x20008, 1, [(2, 0x4)], [F.CAL_NVM_CYC_CYCLES]⟩,
  ⟨0x20010, 2, [], [F.CAL_COMMIT_TIME_TIME]⟩,
  ⟨0x20018, 1, [], [F.CAL_EVT_BANK_BAD, F.CAL_EVT_INHIBIT, F.CAL_EVT_COMMIT_FAIL, F.CAL_EVT_NVM_EMPTY]⟩,
  ⟨0x21000, 1, [], [F.CAL_CFG_SCHED_EN]⟩]

/-- Receive equalisation (R179). -/
def regTable06 : List RegSpec := [
    ⟨0x1000300, 1, [(192, 0x10000)], [F.LANE_EQ_STAT_ACQ_FAIL, F.LANE_EQ_STAT_WARM, F.LANE_EQ_STAT_T2,
    F.LANE_EQ_STAT_FRZ_HOST, F.LANE_EQ_STAT_FRZ_SIGNAL, F.LANE_EQ_STAT_FRZ_OVERLOAD, F.LANE_EQ_STAT_FRZ_LOL,
    F.LANE_EQ_STAT_DET_MLSE, F.LANE_EQ_STAT_LOCKED, F.LANE_EQ_STAT_ACQ_STEP]⟩,
  ⟨0x1000304, 1, [(192, 0x10000)], [F.LANE_EQ_SNR_SNR_AVG, F.LANE_EQ_SNR_SNR]⟩,
  ⟨0x1000308, 1, [(192, 0x10000)], [F.LANE_TR_STAT_FREQ, F.LANE_TR_STAT_PHASE, F.LANE_TR_STAT_FREQ_LIMIT]⟩,
  ⟨0x100030C, 2, [(192, 0x10000)], [F.LANE_EQ_LVL_L0, F.LANE_EQ_LVL_L1, F.LANE_EQ_LVL_L2, F.LANE_EQ_LVL_L3]⟩,
  ⟨0x1000314, 1, [(192, 0x10000)], [F.LANE_EQ_H1_LIMIT, F.LANE_EQ_H1_H1]⟩,
  ⟨0x1000318, 1, [(192, 0x10000)], [F.LANE_EQ_LOL_COUNT]⟩,
  ⟨0x100031C, 1, [(192, 0x10000)], [F.LANE_EQ_ACQ_COUNT]⟩,
  ⟨0x1000320, 1, [(192, 0x10000)], [F.LANE_EQ_ACQ_TIME_TIME]⟩,
    ⟨0x1000324, 1, [(192, 0x10000)], [F.LANE_EQ_EVT_TAP_LIMIT, F.LANE_EQ_EVT_FREQ_LIMIT, F.LANE_EQ_EVT_ACQ_FAIL,
    F.LANE_EQ_EVT_LOCK_LOST, F.LANE_EQ_EVT_LOCKED]⟩,
  ⟨0x1000328, 1, [(192, 0x10000)], [F.LANE_EQ_STEPS_COUNT]⟩,
    ⟨0x1001200, 1, [(192, 0x10000)], [F.LANE_EQ_CFG_MLSE_THRESH, F.LANE_EQ_CFG_CURSOR, F.LANE_EQ_CFG_CURSOR_F,
    F.LANE_EQ_CFG_ADAPT_LVL, F.LANE_EQ_CFG_ADAPT_H1, F.LANE_EQ_CFG_ADAPT_FFE, F.LANE_EQ_CFG_RX_PRECODE,
    F.LANE_EQ_CFG_DET]⟩,
  ⟨0x1001204, 1, [(192, 0x10000)], [F.LANE_EQ_MU_LVL, F.LANE_EQ_MU_H1, F.LANE_EQ_MU_TRK_FFE, F.LANE_EQ_MU_ACQ_FFE]⟩,
    ⟨0x1001208, 1, [(192, 0x10000)], [F.LANE_TR_CFG_KI_TRK, F.LANE_TR_CFG_KP_TRK, F.LANE_TR_CFG_KI_ACQ,
    F.LANE_TR_CFG_KP_ACQ]⟩,
    ⟨0x100120C, 1, [(192, 0x10000)], [F.LANE_EQ_LOCK_CFG_ACQ_TIMEOUT, F.LANE_EQ_LOCK_CFG_UNLOCK_MARGIN,
    F.LANE_EQ_LOCK_CFG_LOCK_SNR]⟩,
  ⟨0x1003000, 1, [(192, 0x10000), (48, 0x4)], [F.LANE_EQ_FFE_HELD, F.LANE_EQ_FFE_LIMIT, F.LANE_EQ_FFE_COEF]⟩]

/-- FEC and pool (R202, R203). -/
def regTable07 : List RegSpec := [
    ⟨0x1000400, 1, [(192, 0x10000)], [F.LANE_FEC_STAT_SOFT_EN, F.LANE_FEC_STAT_OUTER_MODE,
    F.LANE_FEC_STAT_OUTER_LOCKED, F.LANE_FEC_STAT_INNER_LOCKED, F.LANE_FEC_STAT_HUNTING, F.LANE_FEC_STAT_INNER_ON]⟩,
  ⟨0x1000408, 2, [(192, 0x10000)], [F.LANE_FEC_CW_COUNT]⟩,
  ⟨0x1000410, 2, [(192, 0x10000)], [F.LANE_FEC_CLEAN_COUNT]⟩,
  ⟨0x1000418, 2, [(192, 0x10000)], [F.LANE_FEC_FULL_COUNT]⟩,
  ⟨0x1000420, 2, [(192, 0x10000)], [F.LANE_FEC_REDUCED_COUNT]⟩,
  ⟨0x1000428, 2, [(192, 0x10000)], [F.LANE_FEC_HARD_COUNT]⟩,
  ⟨0x1000430, 2, [(192, 0x10000)], [F.LANE_FEC_UNCORR_COUNT]⟩,
  ⟨0x1000438, 2, [(192, 0x10000)], [F.LANE_FEC_BITS_COUNT]⟩,
  ⟨0x1000440, 2, [(192, 0x10000)], [F.LANE_FEC_RS_CW_COUNT]⟩,
  ⟨0x1000448, 2, [(192, 0x10000)], [F.LANE_FEC_RS_SYM_COUNT]⟩,
  ⟨0x1000450, 2, [(192, 0x10000)], [F.LANE_FEC_RS_UNCORR_COUNT]⟩,
  ⟨0x1000458, 2, [(192, 0x10000)], [F.LANE_FEC_RESERVED_COUNT]⟩,
  ⟨0x1000460, 1, [(192, 0x10000)], [F.LANE_FEC_LOL_OUTER, F.LANE_FEC_LOL_INNER]⟩,
  ⟨0x1000464, 1, [(192, 0x10000)], [F.LANE_FEC_EVT_RS_UNCORR, F.LANE_FEC_EVT_OUTER_LOL, F.LANE_FEC_EVT_INNER_LOL]⟩,
  ⟨0x1001300, 1, [(192, 0x10000)], [F.LANE_FEC_CFG_LOCK_ZMIN, F.LANE_FEC_CFG_SOFT_EN, F.LANE_FEC_CFG_OUTER_MODE]⟩,
  ⟨0x1001304, 1, [(192, 0x10000)], [F.LANE_POOL_CFG_RES]⟩,
  ⟨0x1004000, 1, [(192, 0x10000), (17, 0x4)], [F.LANE_FEC_RS_HIST_COUNT]⟩,
  ⟨0x10F000, 1, [(2, 0x100)], [F.POOL_STAT_RES_SUM, F.POOL_STAT_PTR, F.POOL_STAT_LEVEL]⟩,
  ⟨0x10F008, 2, [(2, 0x100)], [F.POOL_DEMAND_COUNT]⟩,
  ⟨0x10F010, 2, [(2, 0x100)], [F.POOL_FULL_COUNT]⟩,
  ⟨0x10F018, 2, [(2, 0x100)], [F.POOL_REDUCED_COUNT]⟩,
  ⟨0x10F020, 2, [(2, 0x100)], [F.POOL_STARVED_COUNT]⟩,
  ⟨0x10F028, 1, [(2, 0x100)], [F.POOL_RED_EPOCHS_COUNT]⟩,
  ⟨0x10F02C, 1, [(2, 0x100)], [F.POOL_HARD_EPOCHS_COUNT]⟩]

/-- FEC and pool (R202, R203). -/
def regTable07b : List RegSpec := [
  ⟨0x10F030, 1, [(2, 0x100)], [F.POOL_PEAK_PEAK]⟩,
  ⟨0x10F034, 1, [(2, 0x100)], [F.POOL_EVT_HARD, F.POOL_EVT_REDUCED]⟩]

/-- Transmit path (R225). -/
def regTable08 : List RegSpec := [
    ⟨0x1000500, 1, [(192, 0x10000)], [F.LANE_TX_STAT_SPARE_CELL, F.LANE_TX_STAT_NO_CELL_SPARE,
    F.LANE_TX_STAT_SWING_CODE, F.LANE_TX_STAT_PD_ACTIVE, F.LANE_TX_STAT_WALKING, F.LANE_TX_STAT_RAMPING,
    F.LANE_TX_STAT_DRV_ON, F.LANE_TX_STAT_SQUELCHED, F.LANE_TX_STAT_SQ_HOST, F.LANE_TX_STAT_SQ_LANE,
    F.LANE_TX_STAT_SQ_SHED, F.LANE_TX_STAT_SQ_SLOT]⟩,
  ⟨0x1000504, 1, [(192, 0x10000)], [F.LANE_TX_SAT_COUNT]⟩,
  ⟨0x1000508, 1, [(192, 0x10000)], [F.LANE_TX_SQCNT_SLOT, F.LANE_TX_SQCNT_OTHER]⟩,
  ⟨0x100050C, 1, [(192, 0x10000)], [F.LANE_TX_EVT_SATURATION, F.LANE_TX_EVT_SLOT_SQUELCH]⟩,
    ⟨0x1001400, 1, [(192, 0x10000)], [F.LANE_TX_CFG_HOST_SQUELCH, F.LANE_TX_CFG_INVERT, F.LANE_TX_CFG_PD_EN,
    F.LANE_TX_CFG_PRECODE, F.LANE_TX_CFG_UNSQ, F.LANE_TX_CFG_SWING]⟩,
  ⟨0x1001410, 1, [(192, 0x10000), (16, 0x4)], [F.LANE_TX_FIR_COEF]⟩,
  ⟨0x1005000, 1, [(192, 0x10000), (64, 0x4)], [F.LANE_TX_PD_E0, F.LANE_TX_PD_E1, F.LANE_TX_PD_E2, F.LANE_TX_PD_E3]⟩]

/-- Lanes, slots and host links (R257-R259). -/
def regTable09 : List RegSpec := [
    ⟨0x1000000, 1, [(192, 0x10000)], [F.LANE_STAT_PREV_STATE, F.LANE_STAT_ACQ_FAILS, F.LANE_STAT_RESTORE_PENDING,
    F.LANE_STAT_DEG_SPARE, F.LANE_STAT_HOST_ALIGNED, F.LANE_STAT_SLOT_FAULT, F.LANE_STAT_SHED,
    F.LANE_STAT_ENABLE_PENDING, F.LANE_STAT_PAYLOAD, F.LANE_STAT_HOLDOVER, F.LANE_STAT_LOOPBACK, F.LANE_STAT_MODE,
    F.LANE_STAT_STATE]⟩,
  ⟨0x1000008, 2, [(192, 0x10000)], [F.LANE_STATE_TIME_TIME]⟩,
  ⟨0x1000010, 1, [(192, 0x10000)], [F.LANE_DOWN_COUNT]⟩,
  ⟨0x1000014, 1, [(192, 0x10000)], [F.LANE_HOLDOVERS_COUNT]⟩,
  ⟨0x1000018, 1, [(192, 0x10000)], [F.LANE_SLIP_COUNT]⟩,
    ⟨0x100001C, 1, [(192, 0x10000)], [F.LANE_EVT_HOST_ALIGN_LOST, F.LANE_EVT_SLOT_FAULT, F.LANE_EVT_HOLDOVER,
    F.LANE_EVT_DOWN]⟩,
  ⟨0x1000020, 1, [(192, 0x10000)], [F.LANE_GBX_STAT_B_ALIGNED, F.LANE_GBX_STAT_A_ALIGNED, F.LANE_GBX_STAT_SKEW]⟩,
  ⟨0x1001500, 1, [(192, 0x10000)], [F.LANE_CFG_ACQ_RETRY, F.LANE_CFG_GRACE, F.LANE_CFG_LOOPBACK, F.LANE_CFG_MODE]⟩,
  ⟨0x100000, 1, [], [F.SLOT_STAT_FLT]⟩,
  ⟨0x100004, 1, [], [F.SLOT_EVT_FLT]⟩,
  ⟨0x100100, 1, [(24, 0x4)], [F.SLOT_FLT_CNT_COUNT]⟩,
  ⟨0x110000, 1, [(192, 0x4)], [F.XBAR_MAP_B_VALID, F.XBAR_MAP_B, F.XBAR_MAP_A_VALID, F.XBAR_MAP_A]⟩,
  ⟨0x110400, 1, [], [F.SLOT_EN_CFG_EN]⟩,
    ⟨0x2000000, 1, [(384, 0x2000)], [F.HSL_STAT_OWNER, F.HSL_STAT_PRBS_LOCK, F.HSL_STAT_FILL, F.HSL_STAT_ALIGNED,
    F.HSL_STAT_CDR_LOCK, F.HSL_STAT_RX_SIG, F.HSL_STAT_POWERED, F.HSL_STAT_ROLE]⟩,
  ⟨0x2000004, 1, [(384, 0x2000)], [F.HSL_PRBS_ERR_COUNT]⟩,
  ⟨0x2000008, 1, [(384, 0x2000)], [F.HSL_EVT_ALIGN_LOST, F.HSL_EVT_CDR_LOST]⟩,
    ⟨0x2000400, 1, [(384, 0x2000)], [F.HSL_CFG_PRBS_CHK, F.HSL_CFG_PRBS_GEN, F.HSL_CFG_FILL, F.HSL_CFG_RX_PRECODE,
    F.HSL_CFG_TX_PRECODE, F.HSL_CFG_RX_INVERT, F.HSL_CFG_TX_INVERT]⟩,
  ⟨0x2000404, 1, [(384, 0x2000)], [F.HSL_TX_FIR_POST1, F.HSL_TX_FIR_MAIN, F.HSL_TX_FIR_PRE1, F.HSL_TX_FIR_PRE2]⟩]

/-- Rings (R297, R298). -/
def regTable10 : List RegSpec := [
  ⟨0x80000, 1, [(32768, 0x10)], [F.RNG_CTL_ENABLE]⟩,
    ⟨0x80004, 1, [(32768, 0x10)], [F.RNG_STAT_JOBS, F.RNG_STAT_ERR, F.RNG_STAT_OVERFLOW, F.RNG_STAT_PHASE,
    F.RNG_STAT_ENABLE_PENDING, F.RNG_STAT_TYPE, F.RNG_STAT_STATE]⟩,
  ⟨0x80008, 1, [(32768, 0x10)], [F.RNG_IDX_HOST_IDX, F.RNG_IDX_DEV_IDX]⟩,
  ⟨0x8000C, 1, [(32768, 0x10)], [F.RNG_CNT_COUNT]⟩,
  ⟨0x400, 1, [], [F.RNG_ENG_STAT_JOBS]⟩,
  ⟨0x404, 1, [], [F.RNG_ENG_EVT_HOST_READ_ERR, F.RNG_ENG_EVT_OVERFLOW, F.RNG_ENG_EVT_RING_ERROR]⟩,
  ⟨0x440, 1, [(32, 0x4)], [F.EVT_PEND_PEND]⟩,
  ⟨0x1100, 2, [], [F.RNG_TABLE_ADDR]⟩,
  ⟨0x1144, 1, [(10, 0x4)], [F.EVT_ROUTE_VALID, F.EVT_ROUTE_RING]⟩,
  ⟨0x1180, 1, [(24, 0x4)], [F.EVT_SLOT_ROUTE_VALID, F.EVT_SLOT_ROUTE_RING]⟩]

/-- Capture and Plank (R326, R327). -/
def regTable11 : List RegSpec := [
  ⟨0x70000, 1, [], [F.CAP_STAT_EXT_REFRESH, F.CAP_STAT_FREE_PAGES]⟩,
  ⟨0x70004, 1, [], [F.CAP_BUDGET_RATE]⟩,
  ⟨0x70008, 1, [], [F.CAP_RES_RATE_RATE]⟩,
  ⟨0x7000C, 1, [], [F.CAP_OPP_RATE_RATE]⟩,
  ⟨0x70010, 1, [], [F.CAP_MISSED_COUNT]⟩,
  ⟨0x70018, 2, [], [F.CAP_LOST_COUNT]⟩,
  ⟨0x70020, 1, [], [F.CAP_DRAM_TEMP_TEMP]⟩,
  ⟨0x70024, 1, [], [F.CAP_EVT_EXT_REFRESH, F.CAP_EVT_GAP, F.CAP_EVT_MISSED]⟩,
    ⟨0x70400, 1, [(256, 0x4)], [F.CAP_BATT_STAT_STATE, F.CAP_BATT_STAT_CLASS, F.CAP_BATT_STAT_END_CAUSE,
    F.CAP_BATT_STAT_TRIGGERED, F.CAP_BATT_STAT_LOG2_D, F.CAP_BATT_STAT_PAGES]⟩,
    ⟨0x71000, 8, [(256, 0x20)], [F.CAP_BATT_INFO_TYPE, F.CAP_BATT_INFO_MODE, F.CAP_BATT_INFO_LANE,
    F.CAP_BATT_INFO_ARM_RING, F.CAP_BATT_INFO_RECORDS, F.CAP_BATT_INFO_LOST, F.CAP_BATT_INFO_TRIG_TIME,
    F.CAP_BATT_INFO_TRIG_UNIT]⟩,
    ⟨0x60000, 1, [(8, 0x4)], [F.PLK_ENG_STAT_OUT_OF_SERVICE, F.PLK_ENG_STAT_BUSY, F.PLK_ENG_STAT_DECOMP,
    F.PLK_ENG_STAT_RING]⟩,
  ⟨0x60020, 1, [], [F.PLK_JOBS_COUNT]⟩,
  ⟨0x60028, 2, [], [F.PLK_IN_COUNT]⟩,
  ⟨0x60030, 2, [], [F.PLK_OUT_COUNT]⟩,
  ⟨0x60040, 1, [(9, 0x4)], [F.PLK_ERR_COUNT]⟩,
  ⟨0x60064, 1, [], [F.PLK_OUT_FULL_COUNT]⟩,
  ⟨0x60068, 1, [], [F.PLK_EVT_ENGINE_FAULT]⟩]

/-- Hatband (R356, R357). -/
def regTable12 : List RegSpec := [
  ⟨0x30000, 1, [], [F.HB_STAT_BUS, F.HB_STAT_MODE]⟩,
    ⟨0x30004, 1, [], [F.HB_EVT_CAL_KEPT, F.HB_EVT_EXC_FAULT, F.HB_EVT_BURNOUT, F.HB_EVT_URGENT_DROPPED,
    F.HB_EVT_TRIG_MISS, F.HB_EVT_QUEUE_FULL]⟩,
  ⟨0x30008, 1, [], [F.HB_EXC_STAT_LIMIT, F.HB_EXC_STAT_IN_RANGE, F.HB_EXC_STAT_ON]⟩,
    ⟨0x30040, 1, [(2, 0x40)], [F.HB_CONV_STAT_STATE, F.HB_CONV_STAT_ENABLE_PENDING, F.HB_CONV_STAT_SELFCAL,
    F.HB_CONV_STAT_URGENT, F.HB_CONV_STAT_STEP, F.HB_CONV_STAT_QCOUNT]⟩,
  ⟨0x30044, 1, [(2, 0x40)], [F.HB_URGENT_DROPPED_COUNT]⟩,
  ⟨0x30048, 1, [(2, 0x40)], [F.HB_TRIG_MISS_COUNT]⟩,
  ⟨0x3004C, 1, [(2, 0x40)], [F.HB_Q_OVERRUN_COUNT]⟩,
  ⟨0x30050, 1, [(2, 0x40)], [F.HB_ABORTS_COUNT]⟩,
  ⟨0x30054, 1, [(2, 0x40)], [F.HB_BURNOUT_COUNT]⟩,
  ⟨0x30058, 2, [(2, 0x40)], [F.HB_LAST_ENTRY]⟩,
    ⟨0x30060, 1, [(2, 0x40)], [F.HB_CAL_STAT_STALE, F.HB_CAL_STAT_KEPT_GAIN, F.HB_CAL_STAT_KEPT_OFS,
    F.HB_CAL_STAT_KEPT_RGAIN]⟩,
  ⟨0x30064, 2, [(2, 0x40)], [F.HB_CAL_TIME_TIME]⟩,
  ⟨0x31000, 2, [(2, 0x8)], [F.HB_Q_ENTRY]⟩,
  ⟨0x31100, 1, [], [F.HB_CFG_MODE]⟩,
    ⟨0x31110, 3, [(2, 0x10)], [F.HB_SCAN_CFG_BO_EVERY, F.HB_SCAN_CFG_PWM, F.HB_SCAN_CFG_SUPPRESS,
    F.HB_SCAN_CFG_EDGE, F.HB_SCAN_CFG_TRIG, F.HB_SCAN_CFG_PERIOD, F.HB_SCAN_CFG_LEN, F.HB_SCAN_CFG_DELAY]⟩,
  ⟨0x31140, 1, [(8, 0x4)], [F.HB_EXC_CFG_EN, F.HB_EXC_CFG_SETTLE, F.HB_EXC_CFG_MV]⟩,
  ⟨0x31200, 1, [(2, 0x200), (128, 0x4)], [F.HB_SCAN_LIST_STEP_HI, F.HB_SCAN_LIST_STEP_LO]⟩,
  ⟨0x31600, 1, [(2, 0x40), (8, 0x4)], [F.HB_CAL_OFS_FACTOR]⟩,
  ⟨0x31620, 1, [(2, 0x40), (8, 0x4)], [F.HB_CAL_GAIN_FACTOR]⟩,
  ⟨0x31680, 1, [(2, 0x20), (8, 0x4)], [F.HB_CAL_RGAIN_FACTOR]⟩,
    ⟨0x32000, 1, [(1024, 0x4)], [F.HB_PT_CFG_BO_10UA, F.HB_PT_CFG_BO_MODE, F.HB_PT_CFG_EXC_USE, F.HB_PT_CFG_EXC,
    F.HB_PT_CFG_RATIO, F.HB_PT_CFG_SHIFT, F.HB_PT_CFG_AVG, F.HB_PT_CFG_AR_MAX, F.HB_PT_CFG_AR_MIN, F.HB_PT_CFG_AUTO,
    F.HB_PT_CFG_RANGE]⟩,
    ⟨0x33000, 1, [(1024, 0x4)], [F.HB_PT_STAT_LAST_BURNOUT, F.HB_PT_STAT_LAST_OVR, F.HB_PT_STAT_SETTLE,
    F.HB_PT_STAT_UP, F.HB_PT_STAT_HOLD, F.HB_PT_STAT_RANGE]⟩]

/-- Housekeeping (R377, R378). -/
def regTable13 : List RegSpec := [
  ⟨0x40000, 1, [], [F.HK_STAT_CLR_PIN]⟩,
  ⟨0x40004, 1, [], [F.HK_EVT_FORCED, F.HK_EVT_CLEAR_PIN]⟩,
    ⟨0x40100, 1, [(48, 0x4)], [F.HK_DAC_STAT_RANGE_PENDING, F.HK_DAC_STAT_HELD, F.HK_DAC_STAT_FORCE_SHED,
    F.HK_DAC_STAT_FORCE_FLT, F.HK_DAC_STAT_FORCE_CLR, F.HK_DAC_STAT_CLAMP, F.HK_DAC_STAT_SLEWING,
    F.HK_DAC_STAT_RANGE, F.HK_DAC_STAT_OUT]⟩,
  ⟨0x40200, 1, [(48, 0x4)], [F.HK_DAC_TARGET_RANGE, F.HK_DAC_TARGET_TARGET]⟩,
    ⟨0x40300, 1, [(24, 0x4)], [F.HK_PWM_STAT_PIN, F.HK_PWM_STAT_FORCE_SHED, F.HK_PWM_STAT_FORCE_FLT,
    F.HK_PWM_STAT_ENABLE_PENDING, F.HK_PWM_STAT_STATE]⟩,
    ⟨0x41000, 2, [(48, 0x8)], [F.HK_DAC_CFG_STEP, F.HK_DAC_CFG_FORCE_SHED, F.HK_DAC_CFG_FORCE_FLT,
    F.HK_DAC_CFG_RELEASE, F.HK_DAC_CFG_RANGE, F.HK_DAC_CFG_PERIOD, F.HK_DAC_CFG_CLEAR]⟩,
    ⟨0x41200, 2, [(24, 0x8)], [F.HK_PWM_CFG_PERIOD, F.HK_PWM_CFG_HIGH, F.HK_PWM_CFG_FORCE_SHED,
    F.HK_PWM_CFG_FORCE_FLT, F.HK_PWM_CFG_POL, F.HK_PWM_CFG_PRESC]⟩]

/-- Thermal (R395, R396). -/
def regTable14 : List RegSpec := [
    ⟨0x10000, 1, [], [F.THM_STAT_HOT_ZONE, F.THM_STAT_COLD_INHIBIT, F.THM_STAT_COLD_WARN, F.THM_STAT_MAX_LEVEL,
    F.THM_STAT_FLOOR, F.THM_STAT_STEP]⟩,
  ⟨0x10004, 1, [], [F.THM_EVT_COLD_INHIBIT, F.THM_EVT_SENSOR_FAIL, F.THM_EVT_SHED, F.THM_EVT_THROTTLE]⟩,
  ⟨0x10008, 1, [], [F.THM_SHED_SLOT]⟩,
  ⟨0x1000C, 1, [], [F.THM_DEV_TEMP_COLDEST, F.THM_DEV_TEMP_HOTTEST]⟩,
  ⟨0x10010, 1, [], [F.THM_CNT_SHEDS, F.THM_CNT_THROTTLES]⟩,
  ⟨0x10014, 1, [], [F.THM_SHUT_INFO_VALID, F.THM_SHUT_INFO_ZONE, F.THM_SHUT_INFO_TEMP]⟩,
    ⟨0x10100, 1, [(30, 0x4)], [F.THM_ZONE_LEVEL, F.THM_ZONE_SUBST, F.THM_ZONE_NO_SENSOR, F.THM_ZONE_VALID,
    F.THM_ZONE_TEMP]⟩,
  ⟨0x10200, 1, [(128, 0x4)], [F.THM_SENSOR_FAILED, F.THM_SENSOR_CAUSE, F.THM_SENSOR_ZONE, F.THM_SENSOR_TEMP]⟩,
  ⟨0x10400, 1, [(4, 0x4)], [F.THM_SENSOR_FAIL_FAIL]⟩,
    ⟨0x11000, 2, [(30, 0x8)], [F.THM_ZONE_LIM_THROTTLE, F.THM_ZONE_LIM_WARN, F.THM_ZONE_LIM_OFFSET,
    F.THM_ZONE_LIM_HYST, F.THM_ZONE_LIM_SHUTDOWN]⟩,
  ⟨0x11100, 1, [], [F.THM_COLD_LIM_INHIBIT, F.THM_COLD_LIM_WARN]⟩,
  ⟨0x11104, 1, [], [F.THM_TIMING_LO_STEP_MS, F.THM_TIMING_LO_SHED_MS]⟩,
  ⟨0x11108, 1, [], [F.THM_TIMING_HI_RETREAT_MS]⟩,
  ⟨0x11110, 1, [(6, 0x4)], [F.THM_SHED_ORDER_E0, F.THM_SHED_ORDER_E1, F.THM_SHED_ORDER_E2, F.THM_SHED_ORDER_E3]⟩,
  ⟨0x11128, 1, [], [F.THM_SHED_COUNT_COUNT]⟩]

/-- Serial port (R424, R425). -/
def regTable15 : List RegSpec := [
  ⟨0x50000, 1, [], [F.MSPM_STAT_BUSY, F.MSPM_STAT_CONT_ACTIVE, F.MSPM_STAT_CLASS, F.MSPM_STAT_TGT]⟩,
  ⟨0x50004, 1, [], [F.MSPM_EVT_POLL_TIMEOUT, F.MSPM_EVT_DQS_TIMEOUT]⟩,
  ⟨0x50008, 1, [], [F.MSPM_FRAMES_COUNT]⟩,
  ⟨0x5000C, 1, [], [F.MSPM_XIP_HIT_COUNT]⟩,
  ⟨0x50010, 1, [], [F.MSPM_XIP_MISS_COUNT]⟩,
  ⟨0x50040, 1, [], [F.MSPS_STAT_MODE, F.MSPS_STAT_SHAPE, F.MSPS_STAT_FETCH, F.MSPS_STAT_WORDS]⟩,
    ⟨0x50044, 1, [], [F.MSPS_EVT_CHAIN_ERR, F.MSPS_EVT_FETCH_FULL, F.MSPS_EVT_WR_IGNORED, F.MSPS_EVT_FRAME_ERR,
    F.MSPS_EVT_END_OF_MAP]⟩,
  ⟨0x50048, 1, [], [F.MSPS_ERRS_COUNT]⟩,
  ⟨0x5004C, 1, [], [F.MSPS_FETCH_ADDR_ADDR]⟩,
  ⟨0x51000, 1, [], [F.MSPM_CFG_MIN_DESEL, F.MSPM_CFG_SAMPLE_DLY, F.MSPM_CFG_CPOL, F.MSPM_CFG_CPHA, F.MSPM_CFG_DIV]⟩,
    ⟨0x51004, 1, [], [F.MSPM_XIP_CFG0_EN, F.MSPM_XIP_CFG0_CONT_EN, F.MSPM_XIP_CFG0_PREFETCH_EN,
    F.MSPM_XIP_CFG0_XIP_TGT, F.MSPM_XIP_CFG0_ADDR_LEN, F.MSPM_XIP_CFG0_DUMMY, F.MSPM_XIP_CFG0_CMD_LEN,
    F.MSPM_XIP_CFG0_PH_DATA, F.MSPM_XIP_CFG0_PH_ADDR, F.MSPM_XIP_CFG0_PH_CMD]⟩,
    ⟨0x51008, 1, [], [F.MSPM_XIP_CFG1_EXIT_BYTE, F.MSPM_XIP_CFG1_MODE_BYTE, F.MSPM_XIP_CFG1_CMD1,
    F.MSPM_XIP_CFG1_CMD0]⟩]

/-- Management (R453). -/
def regTable16 : List RegSpec := [
    ⟨0x500, 1, [], [F.SYS_BOOT_STAT_LAST_FAIL, F.SYS_BOOT_STAT_ERROR, F.SYS_BOOT_STAT_PHASE,
    F.SYS_BOOT_STAT_FALLBACK, F.SYS_BOOT_STAT_SLOT, F.SYS_BOOT_STAT_VALID_B, F.SYS_BOOT_STAT_VALID_A,
    F.SYS_BOOT_STAT_STRAP]⟩,
  ⟨0x504, 1, [], [F.SYS_BOOT_TIME_VALUE]⟩,
  ⟨0x508, 1, [], [F.SYS_FW_VER_VALUE]⟩,
  ⟨0x50C, 1, [], [F.SYS_FW_SEQ_VALUE]⟩,
    ⟨0x520, 1, [], [F.SYS_FAULT_CAUSE_VALID, F.SYS_FAULT_CAUSE_PREV_STATE, F.SYS_FAULT_CAUSE_DETAIL,
    F.SYS_FAULT_CAUSE_CAUSE]⟩,
  ⟨0x524, 2, [], [F.SYS_FAULT_TIME_TIME]⟩,
  ⟨0x530, 1, [], [F.SYS_DUMP_STAT_FLASH, F.SYS_DUMP_STAT_HOST]⟩,
  ⟨0x534, 1, [], [F.SYS_DUMP_BYTES_BYTES]⟩,
  ⟨0x540, 1, [], [F.SYS_BIST_STAT_RUNNING, F.SYS_BIST_STAT_FAIL, F.SYS_BIST_STAT_LAST_MASK]⟩,
  ⟨0x550, 4, [(3, 0x10)], [F.SYS_BIST_SIG_EXPECTED, F.SYS_BIST_SIG_MEASURED]⟩,
  ⟨0x580, 1, [(3, 0x4)], [F.SYS_MBIST_FAIL_GROUP]⟩,
  ⟨0x5C0, 2, [], [F.SYS_HBOOT_ADDR_VALUE]⟩,
  ⟨0x5C8, 1, [], [F.SYS_HBOOT_LEN_VALUE]⟩,
  ⟨0x5CC, 1, [], [F.SYS_HBOOT_GO_KEY]⟩,
  ⟨0x600, 1, [(64, 0x4)], [F.SYS_TLM_STAT_STATE, F.SYS_TLM_STAT_CONV, F.SYS_TLM_STAT_MISSED]⟩]

/-- Every register of BAR0 (R46). -/
def regTable : List RegSpec :=
    regTable02 ++ regTable03 ++ regTable04 ++ regTable05 ++ regTable06 ++ regTable07 ++ regTable07b ++ regTable08 ++
    regTable09 ++ regTable10 ++ regTable11 ++ regTable12 ++ regTable13 ++ regTable14 ++ regTable15 ++ regTable16

end Sys2Proof
end

