-- ==== Sys2Proof/Machine/RegValues.lean ====
section
/-! DEFINITION. The reset value of a field at an index, and the register file. -/

namespace Sys2Proof

/-- The zone of an on-die sensor, R383. -/
def sensorZone (t : Nat) : Nat :=
  if t < 48 then t / 4 else if t < 56 then 12 else if t < 72 then 13 + (t - 56) / 4
  else if t < 80 then 17 else 18 + (t - 80) / 4

/-- The reset value of field `f` at index `i`, as its register table gives it; the cases whose value depends on the
index are those of R10, R60, R225, R226, R258, R259, R383 and R396. -/
def Fld.resetAt (f : Fld) (i : Nat) : Nat :=
  match f.kind with
  | .const => f.rst
  | .nominal => if f.lo < 64 then f.rst else Config.nominalWeight ((f.lo - 64) / 16) % 2 ^ f.width
  | .kept => f.rst
  | .fused => Config.fused f.id i % 2 ^ f.width
  | .index => i
  | .fir => if i % 16 = 4 then 0x400 else 0
  | .identity => let e := 4 * (i % 64) + f.lo / 8; if e = 0x80 then 0x81 else e
  | .xbarA => 2 * i
  | .xbarB => 2 * i + 1
  | .owner => i / 2
  | .role => if i % 2 = 0 then 1 else 2
  | .zone => sensorZone i
  | .shedOrder => 23 - (4 * i + f.lo / 8)

/-- The register file: field number, then index. -/
abbrev Regs := Tab (Tab Nat)

/-- The value of field `f` at index `i`. -/
def Regs.get (r : Regs) (f : Fld) (i : Nat) : Nat := Tab.get (Tab.get r f.id []) i (f.resetAt i)

/-- The file with `v`, cut to the field's width, in field `f` at index `i`. -/
def Regs.set (r : Regs) (f : Fld) (i v : Nat) : Regs :=
  Tab.set r f.id (Tab.set (Tab.get r f.id []) i (v % 2 ^ f.width) (f.resetAt i)) []

end Sys2Proof
end

