-- ==== Sys2Proof/Machine/State.lean ====
section
/-! DEFINITION. The state of the block as plain data: the register file, the state the manual implies beside it,
host memory, and the queue of waiting commands. -/

namespace Sys2Proof.Machine

open Sys2Proof

/-- The stops of the block. -/
inductive Fault where
  /-- Raised by no meaning at present: every access the spec describes has an effect. Safe: a stop proves nothing. -/
  | unreachable
deriving DecidableEq, Repr

/-- The refusals. -/
inductive Refusal where
  /-- An arm whose command has no meaning yet; safe. -/
  | notModelled (mnemonic : String)
deriving DecidableEq, Repr

/-- Completion status codes, R295. -/
inductive Status where
  | ok | badOpcode | badParam | enablePending | notAllowed | exhausted | outFull | dataError | aborted
  | thermalInhibit | calRejected | timeout | dropped | internal
deriving DecidableEq, Repr

/-- The code of a status, R295. -/
def Status.code : Status → Nat
  | .ok => 0 | .badOpcode => 1 | .badParam => 2 | .enablePending => 3 | .notAllowed => 4 | .exhausted => 5
  | .outFull => 6 | .dataError => 7 | .aborted => 8 | .thermalInhibit => 9 | .calRejected => 10 | .timeout => 11
  | .dropped => 12 | .internal => 15

/-- Device states, R61. -/
inductive DevState where
  | off | reset | boot | setup | run | safe | fault | dump
deriving DecidableEq, Repr

/-- The code of a device state, R61. -/
def DevState.code : DevState → Nat
  | .off => 0 | .reset => 1 | .boot => 2 | .setup => 3 | .run => 4 | .safe => 5 | .fault => 6 | .dump => 7

/-- The device state of a code; SYS_STATE.STATE never holds a code above 7 (R61). -/
def DevState.ofCode : Nat → DevState
  | 0 => .off | 1 => .reset | 2 => .boot | 3 => .setup | 4 => .run | 5 => .safe | 6 => .fault | _ => .dump

/-- An undelivered event held at its source, R35, R285. -/
structure Held where
  src : Nat
  code : Nat
  count : Nat := 1
  sat : Bool := false
  delayed : Bool := false
  state : Nat := 0
  time : Nat := 0
  data : List Nat := []
deriving DecidableEq, Repr

/-- What the device keeps of a ring's table entry, and its interrupt moderation, R269, R289, R291. -/
structure RingH where
  base : Nat := 0
  log2 : Nat := 0
  cq : Nat := 0
  vector : Nat := 0
  irqEn : Bool := false
  coalCount : Nat := 0
  coalTime : Nat := 0
  headWb : Nat := 0
  u : Nat := 0
  timer : Bool := false
  lastMarker : Bool := false
  waiting : Bool := false
deriving DecidableEq, Repr

/-- What a running job waits for before it finishes; the number is the item's index. -/
inductive Wait where
  | laneUp (n : Nat)        -- LANE_ENABLE: lane n has left OFF or been refused (R236)
  | laneOff (n : Nat)       -- LANE_DISABLE: lane n OFF (R237)
  | poolEpoch (d : Nat)     -- POOL_CONFIG (R205)
  | fecMode (n : Nat)       -- FEC_CONFIG at a codeword boundary (R200, R204)
  | foreground (n : Nat)    -- CAL_RUN foreground of lane n (R146)
  | fullPass (n : Nat)      -- CAL_RUN full pass of lane n (R146)
  | txCells (n : Nat)       -- CAL_RUN transmit cell pass of lane n (R146)
  | restored (n : Nat)      -- CAL_RESTORE ramps of lane n (R149)
  | ctleWalk (n : Nat) | vgaWalk (n : Nat)   -- EQ_PARAM walks (R98, R181)
  | agc (n : Nat)           -- EQ_PARAM's AGC values, taken at an AGC period (R181)
  | swing (n : Nat)         -- TX_PARAM swing walk (R219, R227)
  | txApply (n : Nat)       -- TX_PARAM applied at a DAC word boundary (R227)
  | commit                  -- CAL_COMMIT (R142, R148)
  | capRead (ring idx : Nat) -- CAPTURE_READ copy (R315)
  | battFree (b : Nat)      -- CAPTURE_ABORT with FREE (R313)
  | plank                   -- a Plank job (R321, R323)
  | conv (c : Nat)          -- HB_STOP on converter c, or HB_START on converter c - 2 (R359, R360)
  | urgent                  -- HB_URGENT (R361)
  | selfcal (c : Nat)       -- HB_SELFCAL (R362)
  | excite (k at_ : Nat)    -- HB_EXCITE on output k since the instant it acted (R363)
  | dacRange (c : Nat)      -- HK_DAC_RANGE clamp (R380)
  | pwm (p : Nat)           -- HK_PWM_SET: stop of channel p, start of p - 24, timing of p - 48 (R381)
  | xfer                    -- MSP_XFER (R413)
  | telemetry (k : Nat)     -- TELEMETRY_SUBSCRIBE stop (R449)
  | bist                    -- BIST_RUN (R447)
deriving DecidableEq, Repr

/-- Where a job stands, R276, R278. -/
inductive JobPhase where
  | fetched | started | running | due
deriving DecidableEq, Repr

/-- A job: one fetched descriptor, R274, R276, and the completion it earns, R282; `lost` once a ring engine reset has
discarded its completion and its host writes (R292). -/
structure Job where
  ring : Nat
  idx : Nat
  desc : List Nat
  phase : JobPhase := .fetched
  lost : Bool := false
  failed : Option Status := none
  waits : List Wait := []
  status : Status := .ok
  subcode : Nat := 0
  r0 : Nat := 0
  r1 : Nat := 0
  time : Nat := 0
  at_ : Nat := 0
deriving DecidableEq, Repr

/-- An interrupt message that has been sent: the memory write that its vector's table entry gave (R290). -/
structure Msg where
  vector : Nat
  addr : Nat
  data : Nat
deriving DecidableEq, Repr

/-- The PCIe function as the host has set it, R266, R267, R290: no memory request leaves while Bus Master Enable is 0,
in D3hot or with the link out of L0. `msix` holds the address and the data of an entry of the MSI-X table that the host has
written, `unmasked` and `msixPend` are the mask and pending bits of a vector,
`msiWait` and `tableWait` the interrupt messages and table reads that wait for requests to be allowed, and `tableFail`
the rings whose awaited table read will return an error. -/
structure Pcie where
  bme : Bool := false
  d3hot : Bool := false
  linkL0 : Bool := false
  ready : Bool := false
  linkDown : Bool := false
  msix : Tab (Nat × Nat) := []
  unmasked : Tab Bool := []
  msixPend : Tab Bool := []
  msiWait : List Nat := []
  tableWait : List Nat := []
  tableFail : List Nat := []
deriving DecidableEq, Repr

/-- The transmit side of a lane that no register shows: the squelch episode (its beginning, and the released state), the
instant its release ramp began and the UNSQ it began with, the instant its last whole swing code began, the number of
samples since the chain started, the window under way with its saturated symbols and the saturation episode, the precoder
state, the last level indices sent (newest first), the last DAC code and those of the last run of symbols, the gearbox's
bits since the last mark, whether it delivers host data, its fill generator and its buffer, the last codeword looped, the
encoder's bit pairs still to be sent, the staging predistortion table where it differs from the active one, and the
changes that wait for a DAC word boundary (R207-R227, R246, R250). -/
structure TxH where
  released : Bool := false
  episodeAt : Nat := 0
  rampAt : Nat := 0
  ramp : Nat := 0
  walkAt : Nat := 0
  k : Nat := 0
  winN : Nat := 0
  winSat : Nat := 0
  satEpisode : Bool := false
  precoder : Nat := 0
  sent : List Nat := []
  dacCode : Int := 0
  codes : List Int := []
  pos : Nat := 0
  data : Bool := false
  prbs : Nat := 0
  buf : List Bool := []
  looped : List Bool := []
  out : List Nat := []
  staging : Option (List Nat) := none
  pendFir : Option (List Nat) := none
  pendPd : Option (List Nat) := none
  pendPdEn : Option Bool := none
  pendCell : List Nat := []
deriving DecidableEq, Repr

/-- A window of corrected samples under way: their number, the clipped ones, the sum of squares and the highest and
the lowest code (R107, R116). -/
structure Win where
  n : Nat := 0
  clips : Nat := 0
  sq : Nat := 0
  hi : Int := -127
  lo : Int := 127
deriving DecidableEq, Repr

/-- What a sample finds at its conversion: the time, the overload hold, the isolation switch open, INVERT, and LOCKED and
FROZEN of the equaliser (R104, R114, R176). -/
structure Seen where
  time : Nat := 0
  hold : Bool := false
  iso : Bool := false
  invert : Bool := false
  locked : Bool := false
  frozen : Bool := false
deriving DecidableEq, Repr

/-- A unit of 512 samples of the sample tap: its number (that of the converter's stream when it is complete), what its first
sample found, whether one of its samples clipped, a map change applied inside it, or the
isolation switch was open, and its corrected and its raw samples, newest first while it is under way (R113, R114). -/
structure TapUnit where
  no : Nat := 0
  seen : Seen := {}
  clip : Bool := false
  mapchg : Bool := false
  iso : Bool := false
  out : List Nat := []
  raw : List Nat := []
deriving DecidableEq, Repr

/-- The converter of a lane beside its registers: the index of its next sample (R101), x of R104 of the sample before the
last, the last sample's x with the bandwidth correction of its group and its raw code, which wait for the sample after it,
and what that sample found, the window under way (R107), the unit of the sample tap under way and the last two complete
ones, newest first (R113), the front end given to a foreground pass (R99), the AGC period's sum of squares and number of
samples (R97), the windows in a row that qualify for a signal change (R99), the overload at VGA code 0 (R109), INVERT,
CTLE_AUTO, VGA_AUTO, TARGET_RMS and THRESH_RMS in force (R117, R181), the targets of commanded walks (R98), the scheduled
map changes, oldest first: group (9 for the map of groups), and the physical element that goes out, with the sample index
of the last change and that at which an overload hold began (R102, R108). -/
structure AdcH where
  k : Nat := 0
  lastX : Option Int := none
  cur : Option (Int × Int × Int) := none
  seen : Seen := {}
  win : Win := {}
  tap : TapUnit := {}
  units : List TapUnit := []
  pass : Bool := false
  agcSum : Nat := 0
  agcN : Nat := 0
  low : Nat := 0
  high : Nat := 0
  overLimit : Bool := false
  invert : Bool := false
  ctleAuto : Bool := false
  vgaAuto : Bool := false
  target : Nat := 0
  thresh : Nat := 0
  vgaWalk : Option Nat := none
  ctleWalk : Option Nat := none
  maps : List (Nat × Nat) := []
  mapK : Option Nat := none
  holdK : Nat := 0
deriving DecidableEq, Repr

/-- The receive DSP of a lane beside its registers: when it entered ACQUIRE and when its step or trial began, the
consecutive windows that qualify or fail (R172), the SNR of the last 1,000 windows, the frequency integrator and the
interpolator phase in UI (R167), the integrator at its end in the last window (R172), the CTLE trials done with their
error and those still to do (R171), a change that forbids a warm acquisition (R173), the first pre-cursor held (R162), a
recorded host freeze (R165), the level order of the last window, an episode of a value at its range end (R154), the
instant of the last CTLE code step (R174), and the last record of the history tap (R177). -/
structure EqH where
  acqAt : Nat := 0
  stepAt : Nat := 0
  good : Nat := 0
  badSnr : Nat := 0
  badFreq : Nat := 0
  snrs : List Nat := []
  freqI : Frac := {}
  phase : Frac := {}
  tried : List (Nat × Frac) := []
  toTry : List Nat := []
  fine : Bool := false
  changed : Bool := false
  preHeld : Bool := false
  hostFreeze : Bool := false
  misordered : Bool := false
  freqHeld : Bool := false
  limited : Bool := false
  boostAt : Option Nat := none
  hist : List Nat := []
deriving DecidableEq, Repr

/-- The inner and outer hunts of a lane with the clean count of the last test (R189, R199), the outer mode that waits for
a codeword boundary (R200), whether inner lock held at some time of the epoch under way (R196), and the decoded stream
that the outer stage has yet to take, with the number of its first block since inner lock, modulo 10 (R192, R199). -/
structure FecH where
  offset : Nat := 0
  lastOffset : Nat := 0
  pass : Nat := 0
  fail : Nat := 0
  huntAt : Nat := 0
  cand : Nat := 0
  lastCand : Nat := 0
  oPass : Nat := 0
  oFail : Nat := 0
  pendMode : Option Nat := none
  active : Bool := false
  lastZ : Nat := 0
  stream : List Bool := []
  blk : Nat := 0
deriving DecidableEq, Repr

/-- What the decoder made of one lane's inner codewords of an epoch: the counts that move at delivery, and the
information bits in stream order (R192, R201). -/
structure EpochLane where
  lane : Nat
  cw : Nat := 0
  clean : Nat := 0
  full : Nat := 0
  reduced : Nat := 0
  hard : Nat := 0
  uncorr : Nat := 0
  bits : Nat := 0
  reserved : Nat := 0
  info : List Bool := []
deriving DecidableEq, Repr

/-- An epoch of a pool that waits for its delivery (R196, R201). -/
structure EpochRes where
  lanes : List EpochLane
  demand : Nat
  full : Nat
  reduced : Nat
  starved : Nat
deriving DecidableEq, Repr

/-- A decoder pool: the reservations in force (R194), the epochs to deliver, and the window under way with its level
and its worst epoch, the last window's level, and the episode (R197). -/
structure PoolH where
  res : Tab Nat := []
  due : List EpochRes := []
  level : Nat := 0
  worstReq : Nat := 0
  worstCount : Nat := 0
  windowAt : Nat := 0
  episodeAt : Option Nat := none
  lastAbove : Nat := 0
  quiet : Nat := 0
deriving DecidableEq, Repr

/-- A fulling ramp: the element's fields with their values at its start and their targets, what its selector fields take
with the last step, its length and its present step (R136). -/
structure Ramp where
  lane : Nat
  elem : Nat
  vals : List (Nat × Int × Int)
  sel : List Nat := []
  n : Nat
  t : Nat := 0
deriving DecidableEq, Repr

/-- The calibration of a lane beside its registers: a foreground pass wanted or running, when it started, the sum of
squares and the number of the samples of its residual activity and whether that is measured, its last attempt, the sweeps'
directions (upwards), an open carding slot, the slots done of a full pass or a transmit cell pass, a full pass that
waits, a full pass due at TRACK, the mode of the last pass, the last measured offsets of the comparators, and the Good
results of elements out of service, which ramp once they return, the spare units in use of the three most significant
weights of a sub-slice (bit 0 the first, bit 1 the second), and the sets of values that wait for a boundary: element,
values, selecting fields (R105, R123, R125-R140). -/
structure CalH where
  want : Bool := false
  running : Bool := false
  fgAt : Nat := 0
  actSq : Nat := 0
  actN : Nat := 0
  measured : Bool := false
  lastTry : Nat := 0
  upG : Bool := false
  upS : List Bool := List.replicate 9 false
  upT : Bool := false
  slotOpen : Bool := false
  full : Option Nat := none
  cells : Option Nat := none
  pending : Bool := false
  onTrack : Bool := false
  passMode : Nat := 0
  comps : Tab (List Int) := []
  targets : Tab (List Int) := []
  units : Tab (List Nat) := []
  due : List (Nat × List Int × List Nat) := []
deriving DecidableEq, Repr

/-- Lane control beside its registers: the cause of a drain, when holdover began, an ended holdover that waits for its
payload, and whether the next codeword goes to host lane B (R230, R232, R244). -/
structure LaneH where
  drainCause : Nat := 1
  holdAt : Nat := 0
  resume : Option Nat := none
  nextB : Bool := false
deriving DecidableEq, Repr

/-- A host lane beside its registers: the alignment hunt (R245), the start of its last codeword in host symbols, the
PRBS checker's run of good symbols and its window (R253), the bits it sent to the host last (R244), and what the
buffer of a host loopback repeats before, or drops of, the next ones (R250). -/
structure HostH where
  cand : Nat := 0
  last : Nat := 0
  pass : Nat := 0
  fail : Nat := 0
  start : Int := 0
  run : Nat := 0
  seen : Nat := 0
  errs : Nat := 0
  sent : List Bool := []
  owed : List Bool := []
  skip : Nat := 0
deriving DecidableEq, Repr

/-- A commit, waiting for the program port or holding it (R142): explicit with its job, or scheduled. -/
structure Commit where
  explicit : Bool
  ring : Nat := 0
  idx : Nat := 0
deriving DecidableEq, Repr

/-- Where the commit that holds the port stands (R142, R144). -/
inductive CommitPhase where
  | waitTemp | erasing | erasingLog | programming
  | held   -- the target is erased, its program held by the device state (R86)
deriving DecidableEq, Repr

/-- The commit that holds the program port. -/
structure Running where
  commit : Commit
  phase : CommitPhase
  deadline : Nat
  fails : Nat := 0
  programs : Nat := 0
  deferred : Bool := false
  target : Nat := 0
  staging : List Nat := []
deriving DecidableEq, Repr

/-- The calibration controller's NVM side (R138-R145): the contents where they differ from an erased 0xFF, the commits
that wait, the one that runs, an erase of the older bank to be done now, the count of powered seconds it started from,
and a pass completed since the active snapshot, and since the one in the staging buffer, and the load of BOOT done. -/
structure NvmH where
  bytes : Tab (BitVec 8) := []
  queue : List Commit := []
  running : Option Running := none
  eraseNow : Bool := false
  baseS : Nat := 0
  passed : Bool := false
  passedNew : Bool := false
  loaded : Bool := false
deriving DecidableEq, Repr

/-- A raise of required rates: the change, the islands it raised, when, and whether a BIST run it was for has started,
which keeps its rates until it ends (R73, R447). -/
structure Raise where
  change : Change
  islands : List Nat
  from_ : Nat
  started : Bool := false
deriving DecidableEq, Repr

/-- The supply loop of a rail: the transition rate written to its regulator in mV/us (0 before any), the instant of its
last step, the target being sent, the failures in a row (R74, R75, R77). -/
structure RailH where
  slew : Nat := 0
  stepAt : Option Nat := none
  target : Option Nat := none
  fails : Nat := 0
deriving DecidableEq, Repr

/-- An elastic FIFO that has slipped: the words it holds, and the words discarded and delivered again at its slips
(R68, R69). -/
structure FifoH where
  fill : Nat
  dropped : Nat := 0
  repeated : Nat := 0
deriving DecidableEq, Repr

/-- The fabric beside its registers: an island's last four sustainable rates, newest first (R70), the last instant its
margin lay below the release level (R75), the islands under MARGIN_LOW (R76), the rails, the raises that wait (R73),
the instant the loop started, and the FIFOs by number (R68). -/
structure FabH where
  rates : Tab (List Nat) := []
  lowAt : Tab Nat := []
  low : List Nat := []
  rails : Tab RailH := []
  raises : List Raise := []
  loopAt : Nat := 0
  fifos : Tab FifoH := []
deriving DecidableEq, Repr

/-- A position of a batt: a record with its header's fields, or a lost one (R300, R311). -/
structure Rec where
  lost : Bool
  flags : Nat
  mode : Nat
  unit : Nat
  time : Nat
  data : List Nat
deriving DecidableEq, Repr

/-- A batt beside its registers, as armed (R303) and as it went: the event records to skip, a LINK batt that ended, the
admitted or granted rate, the order of its grant, the occurrence and the unit of its trigger, the last unit offered, its
positions oldest first, the phase of a share of R310, and its end. -/
structure BattH where
  trig : Nat := 0
  link : Nat := 0
  pre : Nat := 0
  post : Nat := 0
  arg : Nat := 0
  timeout : Nat := 0
  maxD : Nat := 0
  armAt : Nat := 0
  armTime : Nat := 0
  skip : Nat := 0
  dead : Bool := false
  rate : Nat := 0
  order : Nat := 0
  trigTime : Nat := 0
  unit : Option Nat := none
  last : Option Nat := none
  recs : List Rec := []
  share : Option Nat := none
  endTime : Nat := 0
deriving DecidableEq, Repr

/-- A copy of CAPTURE_READ in flight (R315); `lost` after a ring engine reset, which discards its host writes (R292);
`ready` while its last write waits for the link (R43). -/
structure CapRead where
  ring : Nat
  idx : Nat
  batt : Nat
  offset : Nat
  count : Nat
  addr : Nat
  lost : Bool := false
  ready : Bool := false
deriving DecidableEq, Repr

/-- The capture store beside its registers: batts, copies in flight, warm and cool readings in a row, when extended
refresh began, the round-robin pointer of opportunistic grants and the number of grants so far (R307, R309, R310). -/
structure CapH where
  batts : Tab BattH := []
  reads : List CapRead := []
  hot : Nat := 0
  cool : Nat := 0
  hotAt : Nat := 0
  ptr : Nat := 0
  grants : Nat := 0
deriving DecidableEq, Repr

/-- A Plank job, waiting or at an engine; `lost` after a ring engine reset (R292); `ready` while its last write waits for
the link (R43). -/
structure PlankJob where
  job : Job
  lost : Bool := false
  ready : Bool := false
deriving DecidableEq, Repr

/-- Plank: the jobs that wait for an engine, the engines' jobs, and the round-robin pointer over rings (R43, R327). -/
structure PlankH where
  waiting : List PlankJob := []
  engines : Tab (List PlankJob) := []
  ptr : Nat := 0
deriving DecidableEq, Repr

/-- An urgent request (R353); `lost` after a ring engine reset (R292). -/
structure Urgent where
  ring : Nat
  idx : Nat
  point : Nat
  noQueue : Bool
  lost : Bool := false
deriving DecidableEq, Repr

/-- A visit (R331): the point with its configuration word and range at the start, the urgent request it serves, whether
it waits for the bus, still has its discarded and its check conversion before it, its kept conversions so far with their
sum and flags, and the word that a configuration change replaced meanwhile. -/
structure Visit where
  point : Nat
  cfg : Nat
  range : Nat
  urgent : Option Urgent := none
  waitBus : Bool := false
  discard : Bool := false
  check : Bool := false
  kept : Nat := 0
  sum : Int := 0
  ovr : Bool := false
  burn : Bool := false
  settling : Bool := false
  nbr : Bool := false
  hold : Bool := false
  late : Option Nat := none
deriving DecidableEq, Repr

/-- A self-calibration (R354): its step of 24, the attempt, whether the step runs, and the results of this run. -/
structure SelfCal where
  step : Nat := 0
  attempt : Nat := 1
  runs : Bool := false
  skipped : Nat := 0
  kept : Nat := 0
deriving DecidableEq, Repr

/-- A Hatband converter beside its registers: a scan cycle under way and whether its step is done, the cycles since the
start, the visit, the previous point, the discharge owed and the point that clipped, waiting urgent requests, the
conversions a second converter still owes in INTERLEAVED mode, the self-calibration, the queue with its next number and
its episode, a PWM delay under way, and a FLUSH that waits (R331-R355). -/
structure ConvH where
  cycle : Bool := false
  stepDone : Bool := false
  cycleNo : Nat := 0
  visit : Option Visit := none
  prev : Option Nat := none
  nbrDue : Bool := false
  nbrPoint : Nat := 0
  urgents : List Urgent := []
  more : Nat := 0
  cal : Option SelfCal := none
  queue : List Nat := []
  seq : Nat := 0
  full : Bool := false
  delay : Bool := false
  flush : Bool := false
deriving DecidableEq, Repr

/-- Hatband beside its registers: the converters, the bus arbiter's pointer (R43), the expansion select pins (R332), and
of each excitation the instant of its fault (R344). -/
structure HbH where
  conv : Tab ConvH := []
  busPtr : Nat := 0
  mxEn : Bool := false
  mxAddr : Nat := 0
  excOut : Tab (Option Nat) := []
deriving DecidableEq, Repr

/-- A DAC channel beside its registers: when its force episode began and whether a slot fault or shed took part, the
range a clamp leads to, and the range change that waits for a force to end (R367-R370). -/
structure DacH where
  forcedAt : Nat := 0
  posted : Bool := false
  clampTo : Nat := 0
  pendTo : Nat := 0
deriving DecidableEq, Repr

/-- A PWM channel beside its registers: the timing in force (R373) and when its force episode began (R376). -/
structure PwmH where
  period : Nat := 4000
  high : Nat := 0
  presc : Nat := 0
  forcedAt : Nat := 0
deriving DecidableEq, Repr

/-- The housekeeping outputs beside their registers: HK_CLR_N low, when its force began, and the ranges in force with the
clear codes as PWRGD fell (R371). -/
structure HkH where
  dac : Tab DacH := []
  pwm : Tab PwmH := []
  clrLow : Bool := false
  clrAt : Nat := 0
  offOut : List (Nat × Nat) := []
deriving DecidableEq, Repr

/-- A slot's SLOT_FLT_N: the pin is low, a low pulse has begun that the filter has not taken as a fault, and when the
filtered state went low (R222). -/
structure SlotH where
  low : Bool := false
  pulse : Bool := false
  faultAt : Nat := 0
deriving DecidableEq, Repr

/-- The judgement history of an on-die sensor (R384, R385, R388): readings in a row without a conversion and with one
raw value, that value, the previous reading, readings in a row in disagreement, the first reading after a
re-admission, readings in a row judged valid, and whether its last valid reading was its zone's highest. -/
structure SensorH where
  noConv : Nat := 0
  same : Nat := 0
  raw : Nat := 0
  prev : Option Int := none
  dis : Nat := 0
  first : Bool := false
  good : Nat := 0
  top : Bool := false
deriving DecidableEq, Repr

/-- A threshold's flag with its counts of consecutive readings (R386, R389). -/
structure Dwell where
  on : Bool := false
  up : Nat := 0
  down : Nat := 0
deriving DecidableEq, Repr

/-- A zone beside its registers: readings in a row of its last two sensors in disagreement, its three flags, the failed
sensors that substitute it with the floor, and whether it has had a reading (R384-R386). -/
structure ZoneH where
  pair : Nat := 0
  warn : Dwell := {}
  throttle : Dwell := {}
  shut : Dwell := {}
  subst : List Nat := []
  floor : Nat := 0
  has : Bool := false
deriving DecidableEq, Repr

/-- The thermal manager beside its registers: the cold flags, the milliseconds since the last step change (which starts
above every limit) and of calm, the shed slots with when they were shed, last shed last, and the rails whose cap is
frozen (R389-R393). -/
structure ThmH where
  sensors : Tab SensorH := []
  zones : Tab ZoneH := []
  coldWarn : Dwell := {}
  coldInhibit : Dwell := {}
  coldAt : Nat := 0
  since : Nat := 1048576
  calm : Nat := 0
  shed : List (Nat × Nat) := []
  frozen : List Nat := []
deriving DecidableEq, Repr

/-- A line fill that waits for the master: the line, whether it is a prefetch, and whether a read waits for it (R409). -/
structure Fill where
  line : Nat
  prefetch : Bool
  reader : Bool := !prefetch
deriving DecidableEq, Repr

/-- An MSP_XFER on the master: its job, the frames sent, the last byte read, and a wait between polls (R413). -/
structure Xfer where
  job : Job
  frames : Nat := 0
  last : Nat := 0
  waits : Bool := false
deriving DecidableEq, Repr

/-- A frame that the block builds on the serial port master (R402): its class and target, the bytes of its command and its
address, the dummy clocks with a mode byte, the bytes of its data phase and their direction, and the lanes and rate of
each phase, coded as PH_CMD of R412. -/
structure Frame where
  cls : Nat
  tgt : Nat
  cmd : List Nat := []
  addr : List Nat := []
  dummy : Nat := 0
  mode : Option Nat := none
  read : Bool := false
  data : List Nat := []
  phCmd : Nat := 0
  phAddr : Nat := 0
  phData : Nat := 0
deriving DecidableEq, Repr

/-- The management serial port beside its registers: the execute-in-place lines with their content, the most recently
used first, the fills and transfers that wait, the round-robin pointer over rings, the addresses of a slave fetch, the
words fetched, the shift register of chain mode, the frames of the last grant, MSPM_SEL, the target in continuous mode,
which MSPM_STAT shows unless it is frozen, and the line that the last read of the window was served from (R405, R408-R410,
R413, R416, R421). -/
structure MspH where
  lines : List (Nat × List Nat) := []
  fills : List Fill := []
  xfers : List Xfer := []
  ptr : Nat := 0
  fetch : List Nat := []
  fetched : List Nat := []
  chain : Nat := 0
  sent : List Frame := []
  sel : Nat := 0
  cont : Bool := false
  window : List Nat := []
deriving DecidableEq, Repr

/-- A telemetry subscription (R449, R450): its ranges as (offset, words), the record buffer, the period and the tail
write-back, the last SEQ, the periods missed since the last record, a record that waits to be written, a stop that
waits for it, and the ring it was asked for on (R43). -/
structure SubH where
  op : Nat := 0
  conv : Nat := 0
  ranges : List (Nat × Nat) := []
  base : Nat := 0
  size : Nat := 0
  count : Nat := 0
  period : Nat := 0
  tail : Nat := 0
  seq : Nat := 0
  missed : Nat := 0
  waiting : Option (List Nat) := none
  stopping : Bool := false
  ring : Nat := 0
deriving DecidableEq, Repr

/-- Where a dump goes (R440): ended once the flash summary was stopped. -/
inductive DumpTo where
  | host | flash | ended
deriving DecidableEq, Repr

/-- A transition under way: the state it leads to, the instant of its trigger, and the request where the host asked for it
(R60, R62, R88). -/
structure Trans where
  dest : DevState
  at_ : Nat
  host : Option (Master × Nat) := none
deriving DecidableEq, Repr

/-- Power, reset, boot and fault beside their registers: the instants of RESET entry, of BOOT entry and of the watchdog's
last load, the transitions under way in order (R60, R88), PERST_N asserted and the endpoint not ready since, the instant
of its release where it is known (0 else), the instant at which RST_N rises again, a thermal RESET not yet released and
its event not yet posted, the image headers of slots A and B with the slots still to be tried, LREFCLK absent, the instant
at which the oscillator last gained or lost a nanosecond, the registers and the powered time as they stood at FAULT entry,
the registers that a BIST run saved, the header of the image that runs, the HOST_TAG, the dump under way, whether this
FAULT has had its dump, and the flash summary last written (R84, R89, R387, R432, R438, R440, R444, R445, R447, R460). -/
structure SysH where
  resetAt : Nat := 0
  bootAt : Nat := 0
  wdAt : Nat := 0
  trans : List Trans := []
  perstLow : Bool := false
  perstUntil : Nat := 0
  rstUntil : Nat := 0
  thermalHold : Bool := false
  shutPost : Bool := false
  headers : List (List Nat) := []
  order : List Nat := []
  lrefAbsent : Bool := false
  oscNs : Nat := 0
  snap : Regs := []
  snapNs : Nat := 0
  bist : Regs := []
  fwHdr : List Nat := []
  tag : Nat := 0
  dump : Option DumpTo := none
  dumped : Bool := false
  summary : List Nat := []
deriving DecidableEq, Repr

/-- An instruction of the test access port (R468); `other` is any that the manual does not name. -/
inductive TapInstr where
  | bypass | idcode | extest | extestPulse | extestTrain | other
deriving DecidableEq, Repr

/-- The test access port: its instruction register, which holds IDCODE after a reset of the port (R468). -/
structure TapH where
  ir : TapInstr := .idcode
deriving DecidableEq, Repr

/-- The state of the block. `pending` is the queue of commands; `now` counts nanoseconds and `poweredNs` those with
power (R143); `readData` is the data the last register read answered with and `msiSent` the interrupt messages sent,
oldest first (both the model's own record of an output). `occ` holds the occurrences of events since the last trigger
tick (R305), `fresh` numbers the free values used so far (log 12), `arb` holds the round-robin pointers of the PCIe and
job slot arbiters (R41), `grants` names the ring of every job slot granted and not yet filled by a fetch (R42, R43), and
`orphans` are the jobs that had started and not yet acted when a ring engine reset took their rings (R292). -/
structure State where
  pending : List Instr := []
  now : Nat := 0
  regs : Regs := []
  hostMem : Mem := []
  latches : List ((Nat × Nat × Nat) × Nat) := []
  staged : List ((Nat × Nat × Nat) × Nat) := []
  readData : List Nat := []
  pcie : Pcie := {}
  held : List Held := []
  occ : List (Nat × Nat × Nat) := []
  rings : Tab RingH := []
  jobs : List Job := []
  msiSent : List Msg := []
  fresh : Nat := 0
  tx : Tab TxH := []
  adc : Tab AdcH := []
  eq : Tab EqH := []
  fec : Tab FecH := []
  pool : Tab PoolH := []
  cal : Tab CalH := []
  ramps : List Ramp := []
  lane : Tab LaneH := []
  host : Tab HostH := []
  nvm : NvmH := {}
  poweredNs : Nat := 0
  fab : FabH := {}
  cap : CapH := {}
  plank : PlankH := {}
  hb : HbH := {}
  hk : HkH := {}
  slots : Tab SlotH := []
  thm : ThmH := {}
  msp : MspH := {}
  subs : Tab SubH := []
  sys : SysH := {}
  orphans : List Job := []
  arb : Tab Nat := []
  grants : List Nat := []
  tap : TapH := {}
deriving DecidableEq, Repr

/-- The machine right after power-up reset: RESET, every register at its reset value, the cause of RESET recorded
(R60, R84); `queue` and host memory empty. -/
def State.reset : State := { regs := Regs.set [] F.SYS_RST_CAUSE_POWER 0 1 }

end Sys2Proof.Machine
end

