-- ==== Sys2Proof/Machine/Ops.lean ====
section
/-! DEFINITION. The operations every chapter uses: register fields, events, host memory, interrupt messages, jobs. -/

namespace Sys2Proof.Machine

open Sys2Proof

/-- What a command answers. -/
abbrev Out := Host.Outcome State Fault Refusal

namespace State

/-! ### Registers -/

/-- The value of field `f` at index `i`. -/
def r (s : State) (f : Fld) (i : Nat := 0) : Nat := s.regs.get f i

/-- The state with `v`, cut to the field's width, in field `f` at index `i`. -/
def w (s : State) (f : Fld) (i v : Nat) : State := { s with regs := s.regs.set f i v }

/-- The field is not zero. -/
def on (s : State) (f : Fld) (i : Nat := 0) : Bool := s.r f i != 0

/-- Writes a flag. -/
def wb (s : State) (f : Fld) (i : Nat) (b : Bool) : State := s.w f i b.toNat

/-- Adds to a count that saturates at the largest value of its field (R9, R32). -/
def inc (s : State) (f : Fld) (i : Nat) (k : Nat := 1) : State := s.w f i (satAdd f.width (s.r f i) k)

/-- The value of a field read as two's complement. -/
def ri (s : State) (f : Fld) (i : Nat := 0) : Int := sint f.width (s.r f i)

/-- Writes a two's-complement value. -/
def wi (s : State) (f : Fld) (i : Nat) (v : Int) : State := s.w f i (uint f.width v)

/-- Applies `g` once for each element of a list, in order. -/
def each {α : Type} (s : State) (l : List α) (g : State → α → State) : State := l.foldl g s

/-- The fields of the register with a base offset. -/
def fieldsOf (base : Nat) : List Fld :=
  match regTable.find? fun sp => sp.base == base with
  | some sp => sp.fields
  | none => []

/-- The content of a register at index `i`, all its words together, from the fields it holds. -/
def image (s : State) (base i : Nat) : Nat := (fieldsOf base).foldl (fun a f => a + s.r f i * 2 ^ f.lo) 0

/-- Word `k` of it. -/
def wordImage (s : State) (base i k : Nat) : Nat := bits (s.image base i) (32 * k) 32

/-- Every field that lies in word `k` of the register takes its bits of `v`. -/
def loadWord (s : State) (base i k v : Nat) : State :=
  s.each ((fieldsOf base).filter fun f => f.lo / 32 == k) fun s f => s.w f i (v / 2 ^ (f.lo - 32 * k))

/-! ### The device state, R61 -/

/-- The device state in force. -/
def dev (s : State) : DevState := DevState.ofCode (s.r F.SYS_STATE_STATE)

/-- BOOT, SETUP, RUN or SAFE: the states in which the block works (R86). -/
def live (s : State) : Bool :=
  match s.dev with
  | .boot | .setup | .run | .safe => true
  | _ => false

/-- SETUP, RUN or SAFE: rings are serviced (R86, R276). -/
def serviced (s : State) : Bool :=
  match s.dev with
  | .setup | .run | .safe => true
  | _ => false

/-- The device is powered: any state but OFF. -/
def powered (s : State) : Bool := s.dev != .off

/-- FAULT or DUMP: register owners are frozen (R438). -/
def frozen (s : State) : Bool := s.dev == .fault || s.dev == .dump

/-- The function and the ports are there: BOOT, SETUP, RUN, SAFE, FAULT or DUMP. -/
def booted (s : State) : Bool := s.live || s.frozen

/-- SYS_TIME in nanoseconds (R8). -/
def sysTime (s : State) : Nat := s.r F.SYS_TIME_TIME

/-- The die on which the events of a source arise: 0 brim west, 1 crown, 2 brim east (R20, R286, log 24). -/
def dieOf (src : Nat) : Nat :=
  if src < 96 then 0 else if src < 192 then 2 else if src < 384 then 0 else if src < 576 then 2
  else if src < 588 then 0 else if src < 600 then 2 else if src = 600 then 0 else if src = 601 then 2
  else if src < 618 then 0 else if 626 ≤ src && src < 642 then 2 else 1

/-- SYS_TIME as die d reads it: the crown's own, or a brim copy within 2 ns of it (R20). -/
def dieTime (s : State) (d : Nat) : Nat :=
  if d = 1 then s.sysTime else (s.sysTime + 2 ^ 64 + Config.timeOffset d s.now % 5 - 2) % 2 ^ 64

/-- The die on which what a running job waits for comes about: the brim of the item's lane or pool, else the crown
(R20, log 24). -/
def waitDie : Wait → Nat
  | .laneUp n | .laneOff n | .fecMode n | .foreground n | .fullPass n | .txCells n | .restored n | .ctleWalk n
  | .vgaWalk n | .agc n | .swing n | .txApply n => dieOf n
  | .poolEpoch d => dieOf (600 + d)
  | _ => 1

/-! ### Arbitration, R40-R43 -/

/-- How far index i lies ahead of a round-robin pointer, counted cyclically over the ring numbers (R41). -/
def ahead (ptr i : Nat) : Nat := (i + 65536 - ptr % 65536) % 65536

/-- Of the indices of the pending requesters of one class, the first at or after the pointer (R41). -/
def rrPick (ptr : Nat) : List Nat → Option Nat
  | [] => none
  | i :: l => some (l.foldl (fun a b => if ahead ptr b < ahead ptr a then b else a) i)

/-- A pending request: its class by rank, and its index (R41). -/
structure Req where
  cls : Nat
  idx : Nat
deriving DecidableEq, Repr

/-- The grant among simultaneous requests: the class of the highest rank, within it by round robin, where `ptr` is the
pointer of a class (R41). -/
def arbitrate (ptr : Nat → Nat) : List Req → Option Req
  | [] => none
  | r :: l =>
    let c := l.foldl (fun a q => min a q.cls) r.cls
    (rrPick (ptr c) (((r :: l).filter fun q => q.cls == c).map Req.idx)).map fun i => ⟨c, i⟩

/-- The pointer of an arbiter's class: 1 to 3 the classes of PCIe upstream, 4 the job slots, 5 the descriptor fetches
(R43); and the state with it behind index i. -/
def ptrOf (s : State) (a : Nat) : Nat := s.arb.get a 0
def granted (s : State) (a i : Nat) : State := { s with arb := s.arb.set a (i + 1) 0 }

/-! ### PCIe, R267 -/

/-- The device may issue memory requests. -/
def canIssue (s : State) : Bool := s.pcie.bme && !s.pcie.d3hot && s.pcie.linkL0

/-- The write that the message of a vector is, as its table entry stands (R290). -/
def message (s : State) (v : Nat) : Msg :=
  let e := s.pcie.msix.get v (0, 0)
  ⟨v, e.1, e.2⟩

/-- The interrupt message of a vector is sent, waits for its mask, or waits for requests to be allowed
(R267, R290). -/
def sendMsi (s : State) (v : Nat) : State :=
  if s.pcie.unmasked.get v false then
    if s.canIssue then { s with msiSent := s.msiSent ++ [s.message v] }
    else { s with pcie := { s.pcie with msiWait := s.pcie.msiWait ++ [v] } }
  else { s with pcie := { s.pcie with msixPend := s.pcie.msixPend.set v true false } }

/-! ### Rings, R268-R273, R283, R291 -/

/-- What the device keeps of ring `q`. -/
def ring (s : State) (q : Nat) : RingH := s.rings.get q {}

/-- The state with ring `q`'s kept part replaced. -/
def setRing (s : State) (q : Nat) (h : RingH) : State := { s with rings := s.rings.set q h {} }

/-- The number of entries of ring `q`. -/
def ringSize (s : State) (q : Nat) : Nat := 2 ^ (s.ring q).log2

/-- Ring `q` is ACTIVE with type `ty`. -/
def ringIs (s : State) (q ty : Nat) : Bool := s.r F.RNG_STAT_STATE q == 1 && s.r F.RNG_STAT_TYPE q == ty

/-- Entries the device may still write into completion or event ring `q` (R272). -/
def ringFree (s : State) (q : Nat) : Nat :=
  let n := s.ringSize q
  n - 1 - (s.r F.RNG_IDX_DEV_IDX q + n - s.r F.RNG_IDX_HOST_IDX q) % n

/-- Interrupt moderation sends the message now: U and the timer clear (R291). -/
def ringSend (s : State) (q : Nat) : State :=
  (s.setRing q { s.ring q with u := 0, timer := false }).sendMsi (s.ring q).vector

/-- An entry is counted, and the message sent where the count or a COAL_TIME of 0 asks for it (R291). -/
def ringCount (s : State) (q : Nat) : State :=
  let h := s.ring q
  let s := s.setRing q { h with u := h.u + 1, timer := h.timer || h.u == 0 }
  if h.u + 1 ≥ h.coalCount || h.coalTime == 0 then s.ringSend q else s

/-- Interrupt moderation after an entry write, as the pseudocode of R291 runs: `noIrq` is skipped, `marker` sends at
once, and every entry not skipped is counted. -/
def ringIrq (s : State) (q : Nat) (noIrq marker : Bool) : State :=
  if !(s.ring q).irqEn || noIrq then s else (if marker then s.ringSend q else s).ringCount q

/-- Writes a 32-byte entry, whose PHASE bit 15 of the word at byte 2 is still 0, into ring `q` and moves DEV_IDX;
PHASE toggles at the wrap (R283). -/
def ringWrite (s : State) (q : Nat) (entry : List Nat) (noIrq marker : Bool) : State :=
  let i := s.r F.RNG_IDX_DEV_IDX q
  let ph := s.r F.RNG_STAT_PHASE q
  let e := entry.set 3 (byteAt entry 3 + 128 * ph)
  let s := { s with hostMem := s.hostMem.writeBytes ((s.ring q).base + 32 * i) e }
  let j := (i + 1) % s.ringSize q
  let s := s.w F.RNG_IDX_DEV_IDX q j
  let s := if j = 0 then s.w F.RNG_STAT_PHASE q (1 - ph) else s
  let s := s.setRing q { s.ring q with lastMarker := marker }
  s.ringIrq q noIrq marker

/-! ### Events, R35, R285-R288 -/

/-- The slot a source is tied to, R286; host lanes 192-575 go with the slot of their owner. -/
def slotOf (s : State) (src : Nat) : Option Nat :=
  if src < 192 then some (src / 8)
  else if src < 576 then
    let o := s.r F.HSL_STAT_OWNER (src - 192)
    some (if s.r F.HSL_STAT_ROLE (src - 192) = 0 then (src - 192) / 16 else o / 8)
  else if src < 600 then some (src - 576)
  else if 656 ≤ src && src < 704 then some ((src - 656) / 2)
  else if 704 ≤ src && src < 728 then some (src - 704)
  else none

/-- The ring an event of `src` with `code` is routed to, whether or not it can take it (R287). -/
def routeOf (s : State) (src code : Nat) : Option Nat :=
  let g := code / 4096
  let common := if 1 ≤ g && g ≤ 10 && s.on F.EVT_ROUTE_VALID (g - 1) then some (s.r F.EVT_ROUTE_RING (g - 1)) else none
  match s.slotOf src with
  | some k => if s.on F.EVT_SLOT_ROUTE_VALID k then some (s.r F.EVT_SLOT_ROUTE_RING k) else common
  | none => common

/-- An event waits at its source for a reason other than the ordinary arbitration (R285, DELAYED). -/
def blocked (s : State) (e : Held) : Bool :=
  !s.serviced || !s.canIssue ||
    (match s.routeOf e.src e.code with
     | some q => !s.ringIs q 4 || s.ringFree q < 2 || s.on F.RNG_STAT_OVERFLOW q
     | none => true)

/-- Marks the held events that wait for such a reason now. -/
def markDelayed (s : State) : State :=
  { s with held := s.held.map fun e => { e with delayed := e.delayed || s.blocked e } }

/-- Items of an event's DATA: (width, value) each at the next multiple of its width (R285). -/
def packFrom : List (Nat × Nat) → List Nat → List Nat
  | [], acc => acc
  | (w, v) :: t, acc => packFrom t (acc ++ List.replicate (roundUp acc.length w - acc.length) 0 ++ leBytes w v)

/-- The 16 bytes of DATA. -/
def pack (items : List (Nat × Nat)) : List Nat := (packFrom items [] ++ List.replicate 16 0).take 16

/-- Counts one more occurrence of a held event, saturating at 65,535 (R35, R285). -/
def heldAgain (e : Held) : Held :=
  if e.count < 65535 then { e with count := e.count + 1 } else { e with sat := true }

/-- The event `src`, `code` is held already. -/
def isHeld (s : State) (src code : Nat) : Bool := s.held.any fun e => e.src == src && e.code == code

/-- A source posts an event: it is held, or coalesced into the one held under the same code (R35). Nothing is posted
once the register owners are frozen (R438, log 21) or without power. The occurrence is recorded for the EVENT
triggers of batts (R305). -/
def post (s : State) (src code : Nat) (items : List (Nat × Nat) := []) : State :=
  if s.frozen || !s.powered then s
  else
    let at_ := s.dieTime (dieOf src)
    let s := { s with occ := s.occ ++ [(src, code, at_)] }
    if s.isHeld src code then
      { s with held := s.held.map fun e => if e.src == src && e.code == code then heldAgain e else e }
    else
      let e : Held := { src := src, code := code, state := s.dev.code, time := at_, data := pack items }
      { s with held := s.held ++ [{ e with delayed := s.blocked e }] }

/-- The source number of the system, R286. -/
def sysSrc : Nat := 761

/-! ### Jobs, R276-R284 -/

/-- The state with job `j` of the list rewritten by `g`. -/
def mapJob (s : State) (ring idx : Nat) (g : Job → Job) : State :=
  { s with jobs := s.jobs.map fun j => if j.ring == ring && j.idx == idx then g j else j }

/-- The job at a ring index, if one is in flight. -/
def job? (s : State) (ring idx : Nat) : Option Job := s.jobs.find? fun j => j.ring == ring && j.idx == idx

/-- A job has finished: its completion is due with this status and these results (R282). -/
def Job.finished (j : Job) (st : Status) (sub r0 r1 now time : Nat) : Job :=
  { j with phase := .due, waits := [], status := st, subcode := sub, r0 := r0 % 2 ^ 64, r1 := r1 % 2 ^ 64,
           at_ := now, time := time }

/-- The job finishes now, by what the crown judges (R20, log 24); a job already due keeps the completion it has. -/
def finish (s : State) (ring idx : Nat) (st : Status) (r0 : Nat := 0) (r1 : Nat := 0) (sub : Nat := 0) : State :=
  s.mapJob ring idx fun j =>
    if j.phase == .due then j else Job.finished j st sub r0 r1 s.now s.sysTime

/-- The job runs on until every one of `ws` is resolved; with none it finishes at once with `st`. -/
def await (s : State) (ring idx : Nat) (ws : List Wait) (st : Status := .ok) (r0 : Nat := 0) (r1 : Nat := 0) : State :=
  if ws.isEmpty then s.finish ring idx st r0 r1
  else s.mapJob ring idx fun j => { j with phase := .running, waits := ws, status := st, r0 := r0, r1 := r1 }

/-- One running job learns that `x` is resolved with `st`: the first status other than OK stays, but for ABORTED, which
comes before CAL_REJECTED (R146); the job finishes with the last of its waits. -/
def Job.resolved (x : Wait) (st : Status) (now time : Nat) (j : Job) : Job :=
  if j.phase == .running && j.waits.contains x then
    let st' := if st == .aborted && j.status == .calRejected then .aborted
      else if j.status == .ok || j.status == .enablePending then (if st == .ok then j.status else st) else j.status
    let ws := j.waits.filter (· != x)
    if ws.isEmpty then Job.finished j st' 0 j.r0 j.r1 now time else { j with waits := ws, status := st' }
  else j

/-- `x` is resolved with `st` for every job that waits for it; TIME is that of the die on which it came about (R20). -/
def resolve (s : State) (x : Wait) (st : Status := .ok) : State :=
  { s with jobs := s.jobs.map (Job.resolved x st s.now (s.dieTime (waitDie x))) }

/-- Some job waits for `x`. -/
def awaited (s : State) (x : Wait) : Bool := s.jobs.any fun j => j.phase == .running && j.waits.contains x

/-! ### Access errors, R63 -/

/-- The error bits one access sets, R477. -/
structure ErrBits where
  unmapped : Bool := false
  lkWrite : Bool := false
  badValue : Bool := false
  partialAcc : Bool := false
deriving DecidableEq, Repr

/-- The bits of two words of one access together (R63). -/
def ErrBits.or (a b : ErrBits) : ErrBits :=
  ⟨a.unmapped || b.unmapped, a.lkWrite || b.lkWrite, a.badValue || b.badValue, a.partialAcc || b.partialAcc⟩

/-- No bit is set. -/
def ErrBits.none? (e : ErrBits) : Bool := !(e.unmapped || e.lkWrite || e.badValue || e.partialAcc)

/-- The bits as SYS_ACC_ERR[3:0]. -/
def ErrBits.toNat (e : ErrBits) : Nat :=
  e.unmapped.toNat + 2 * e.lkWrite.toNat + 4 * e.badValue.toNat + 8 * e.partialAcc.toNat

/-- SYS_ACC_ERR[3:0] as it stands. -/
def accErrLow (s : State) : Nat :=
  s.r F.SYS_ACC_ERR_UNMAPPED + 2 * s.r F.SYS_ACC_ERR_LK_WRITE + 4 * s.r F.SYS_ACC_ERR_BAD_VALUE
    + 8 * s.r F.SYS_ACC_ERR_PARTIAL

/-- One access errs with the bits `e`: the first error captures master and address and posts ACCESS_ERROR, a later one
sets OVERRUN (R63). `src` is 0 for PCIe and 1 for the serial slave. -/
def accErr (s : State) (e : ErrBits) (src addr : Nat) (bar2 : Bool) : State :=
  if e.none? then s
  else
    let first := s.accErrLow == 0
    let set (s : State) (b : Bool) (f : Fld) : State := if b then s.w f 0 1 else s
    let s := set (set (set (set s e.unmapped F.SYS_ACC_ERR_UNMAPPED) e.lkWrite F.SYS_ACC_ERR_LK_WRITE)
      e.badValue F.SYS_ACC_ERR_BAD_VALUE) e.partialAcc F.SYS_ACC_ERR_PARTIAL
    if first then
      let s := s.w F.SYS_ACC_ERR_MASTER 0 src
      let s := s.wb F.SYS_ACC_ERR_ADDR_IN_BAR2 0 bar2
      let s := s.w F.SYS_ACC_ERR_ADDR_ADDR 0 addr
      s.post sysSrc 0xA003
        [(4, e.toNat + 16 * s.r F.SYS_ACC_ERR_OVERRUN + 256 * src), (4, addr % 2 ^ 26 + if bar2 then 2 ^ 31 else 0)]
    else s.w F.SYS_ACC_ERR_OVERRUN 0 1

end State

/-- The command acts where the block works, and leaves the state alone where the device state rules it out
(log 3). -/
def whenLive (s : State) (t : State → State) : Out := .next (if s.live then t s else s)

end Sys2Proof.Machine
end

