-- ==== Sys2Proof/Machine/Rings.lean ====
section
/-! DEFINITION. The ring engine: rings, doorbells, descriptor fetch, job order, completions, event delivery and
interrupts (spec/10_command_rings.md). -/

namespace Sys2Proof.Machine

open Sys2Proof

namespace State

/-- A ring enters ERROR with a cause of RNG_STAT.ERR, and RING_ERROR is posted (R273, R296). -/
def ringError (s : State) (q err : Nat) : State :=
  let s := (s.w F.RNG_STAT_STATE q 3).w F.RNG_STAT_ERR q err
  let s := s.w F.RNG_ENG_EVT_RING_ERROR 0 1
  s.markDelayed.post sysSrc 0xA005 [(2, q), (1, err)]

/-- The host address of ring q's table entry (R269). -/
def tableEntry (s : State) (q : Nat) : Nat := s.r F.RNG_TABLE_ADDR + 64 * q

/-- The fields common to every type hold in a ring table entry (R269). -/
def entryCommon (e : List Nat) : Bool :=
  leAt e 0 8 % 4096 == 0 && 1 ≤ byteAt e 8 && byteAt e 8 ≤ 4 && 4 ≤ byteAt e 9 && byteAt e 9 ≤ 16 &&
    byteAt e 15 == 0 && zeroBytes e 18 6 && zeroBytes e 32 32

/-- The fields of the entry's own type hold, and those it does not use are 0 (R269). -/
def entryTyped (e : List Nat) : Bool :=
  if byteAt e 8 ≤ 2 then
    leAt e 10 2 ≤ 32767 && leAt e 12 2 == 0 && byteAt e 14 == 0 && leAt e 16 2 == 0 && leAt e 24 8 % 4 == 0
  else
    leAt e 10 2 == 0 && leAt e 12 2 / 2048 % 16 == 0 && 1 ≤ byteAt e 14 && leAt e 24 8 == 0

/-- What the device keeps of a good entry. -/
def entryKept (e : List Nat) : RingH :=
  { base := leAt e 0 8, log2 := byteAt e 9, cq := leAt e 10 2, vector := leAt e 12 2 % 2048,
    irqEn := leAt e 12 2 / 32768 == 1, coalCount := byteAt e 14, coalTime := leAt e 16 2, headWb := leAt e 24 8 }

/-- The table read of a DISABLED ring and what it leads to (R270); `ok` is false where the read returned an error
completion or poisoned data. -/
def ringLoad (s : State) (q : Nat) (ok : Bool) : State :=
  if !ok then s.ringError q 5
  else
    let e := s.hostMem.readN (s.tableEntry q) 64
    if !(entryCommon e && entryTyped e) then s.ringError q 1
    else
      let ty := byteAt e 8
      let s := ((s.setRing q (entryKept e)).w F.RNG_STAT_TYPE q ty).w F.RNG_STAT_PHASE q (if ty ≤ 2 then 0 else 1)
      if ty ≤ 2 && !s.ringIs (leAt e 10 2) 3 then s.ringError q 2
      else
        let s := (s.w F.RNG_STAT_STATE q 1).w F.RNG_STAT_ERR q 0
        let s := (s.w F.RNG_IDX_DEV_IDX q 0).w F.RNG_IDX_HOST_IDX q 0
        s.w F.RNG_STAT_OVERFLOW q 0

/-- The read that the enable of ring q awaits, with whether it will fail; and that it awaits none (R267, R270). -/
def tableAwait (s : State) (q : Nat) (wait ok : Bool) : State :=
  let ws := s.pcie.tableWait.filter (· != q)
  let fs := s.pcie.tableFail.filter (· != q)
  { s with pcie := { s.pcie with tableWait := if wait then ws ++ [q] else ws,
                                 tableFail := if ok then fs else fs ++ [q] } }

/-- The table read waits while the device can issue no memory request (R267). -/
def ringEnableNow (s : State) (q : Nat) (ok : Bool) : State :=
  if s.canIssue then s.ringLoad q ok else s.tableAwait q true ok

/-- An accepted write of 1 to RNG_CTL.ENABLE (R270). -/
def ringEnable (s : State) (q : Nat) (ok : Bool) : State :=
  let s := s.w F.RNG_CTL_ENABLE q 1
  match s.r F.RNG_STAT_STATE q with
  | 0 => if s.pcie.tableWait.contains q then s else s.ringEnableNow q ok
  | 2 => (s.w F.RNG_STAT_ENABLE_PENDING q 1).tableAwait q false ok
  | _ => s

/-- Ring q becomes DISABLED; an enable that waited is acted on (R270, R271). -/
def ringDisabled (s : State) (q : Nat) : State :=
  let s := ((s.w F.RNG_STAT_STATE q 0).w F.RNG_STAT_ERR q 0).w F.RNG_STAT_TYPE q 0
  let s := (s.w F.RNG_STAT_OVERFLOW q 0).w F.RNG_STAT_PHASE q 1
  if s.on F.RNG_STAT_ENABLE_PENDING q then
    let ok := !s.pcie.tableFail.contains q
    ((s.w F.RNG_STAT_ENABLE_PENDING q 0).tableAwait q false true).ringEnableNow q ok
  else s

/-- Some command ring that names completion ring q is ACTIVE or STOPPING (R271). -/
def cqInUse (s : State) (q : Nat) : Bool :=
  s.rings.any fun p =>
    p.2.cq == q && 1 ≤ s.r F.RNG_STAT_TYPE p.1 && s.r F.RNG_STAT_TYPE p.1 ≤ 2 &&
      (s.r F.RNG_STAT_STATE p.1 == 1 || s.r F.RNG_STAT_STATE p.1 == 2)

/-- Jobs of ring q are in flight. -/
def ringJobs (s : State) (q : Nat) : Nat := (s.jobs.filter fun j => j.ring == q).length

/-- The write of 0 to RNG_CTL.ENABLE is ignored for this ring (R271). -/
def disableIgnored (s : State) (q : Nat) : Bool :=
  s.r F.RNG_STAT_TYPE q == 3 && s.r F.RNG_STAT_STATE q != 3 && s.cqInUse q

/-- An accepted write of 0 to RNG_CTL.ENABLE (R271). -/
def ringDisable (s : State) (q : Nat) : State :=
  let s := (s.w F.RNG_CTL_ENABLE q 0).w F.RNG_STAT_ENABLE_PENDING q 0
  let s := s.tableAwait q false true
  if s.r F.RNG_STAT_STATE q = 0 then s
  else if s.r F.RNG_STAT_TYPE q ≤ 2 && s.ringJobs q > 0 then
    (s.w F.RNG_STAT_STATE q 2).w F.RNG_STAT_ERR q 0
  else (s.ringDisabled q).markDelayed

/-- The device or the ring ignores this write of RNG_CTL(q) (R270, R271, check 3 of R477). -/
def ringCtlBad (s : State) (q v : Nat) : Bool := !s.serviced || (v % 2 == 0 && s.disableIgnored q)

/-- What an accepted write of RNG_CTL(q) does. -/
def ringCtlDo (s : State) (q v : Nat) (ok : Bool) : State :=
  if v % 2 = 1 then s.ringEnable q ok else s.ringDisable q

/-- A write of RNG_CTL(q) that passed the form and address checks: the state check of R477 and then the effect. -/
def ringCtlWrite (s : State) (m : Master) (q v : Nat) (ok : Bool) : State :=
  if s.ringCtlBad q v then s.accErr { badValue := true } m.code (0x80000 + 16 * q) false else s.ringCtlDo q v ok

/-- A doorbell's value lies outside what R273 allows. -/
def doorbellBad (s : State) (q v : Nat) : Bool :=
  let n := s.ringSize q
  let old := s.r F.RNG_IDX_HOST_IDX q
  let d := s.r F.RNG_IDX_DEV_IDX q
  v ≥ n || (3 ≤ s.r F.RNG_STAT_TYPE q && (v + n - old) % n > (d + n - old) % n)

/-- A doorbell write to an ACTIVE ring (R272, R273). -/
def doorbellActive (s : State) (q v : Nat) : State :=
  if s.doorbellBad q v then s.ringError q 3 else s.w F.RNG_IDX_HOST_IDX q v

/-- A BAR2 write of `len` bytes at `off`, judged under R477. -/
def bar2Write (s : State) (off len : Nat) (allBytes : Bool) (v : Nat) : State :=
  if !(len == 4 && off % 4 == 0 && allBytes) then s.accErr { partialAcc := true } 0 off true
  else if off % 64 != 0 then s.accErr { unmapped := true } 0 off true
  else if s.frozen || s.r F.RNG_STAT_STATE (off / 64) != 1 then s.accErr { badValue := true } 0 off true
  else s.doorbellActive (off / 64) (v % 2 ^ 32)

/-- A BAR2 access: a write is judged under R477, a read of any form answers zeros and has no effect (R48, R49). -/
def bar2Access (s : State) (off len : Nat) (allBytes : Bool) (v : Option Nat) : State :=
  match v with
  | none => { s with readData := List.replicate (ceilDiv len 4) 0 }
  | some v => s.bar2Write off len allBytes v

/-- Requests that waited are issued (R267). -/
def flushIssue (s : State) : State :=
  if !(s.canIssue && s.serviced) then s
  else
    let ms := s.pcie.msiWait
    let qs := s.pcie.tableWait
    let bad := s.pcie.tableFail
    let s := { s with msiSent := s.msiSent ++ ms.map s.message,
                      pcie := { s.pcie with msiWait := [], tableWait := [], tableFail := bad.filter fun q => !qs.contains q } }
    s.each qs fun s q => s.ringLoad q (!bad.contains q)

/-! ### Commands, R274-R279, R294 -/

/-- A row of the opcode table of R294: the states it acts in and the buffers its home chapter uses. -/
structure OpInfo where
  setup : Bool
  run : Bool
  safe : Bool
  buf0 : Bool := false
  buf1 : Bool := false
deriving DecidableEq, Repr

/-- The opcode table, R294. -/
def opInfo : Nat → Option OpInfo
  | 0x01 | 0x02 | 0x10 | 0x13 | 0x18 | 0x19 | 0x1C | 0x1D | 0x21 | 0x23 | 0x31 => some ⟨true, true, true, false, false⟩
  | 0x14 | 0x15 => some ⟨true, true, true, false, false⟩
  | 0x11 => some ⟨false, true, false, false, false⟩
  | 0x12 | 0x20 | 0x22 | 0x30 => some ⟨false, true, true, false, false⟩
  | 0x32 => some ⟨true, true, true, false, true⟩
  | 0x38 | 0x39 => some ⟨true, true, true, true, true⟩
  | 0x40 => some ⟨true, true, true, true, false⟩
  | 0x41 | 0x42 | 0x43 | 0x44 | 0x45 | 0x48 | 0x49 | 0x4A | 0x50 | 0x51 => some ⟨true, true, true, false, false⟩
  | 0x58 | 0x60 => some ⟨true, true, true, true, true⟩
  | 0x70 | 0x72 => some ⟨true, true, true, false, false⟩
  | 0x71 => some ⟨false, false, true, false, false⟩
  | _ => none

/-- The device state accepts the opcode (R294). -/
def opState (s : State) (o : OpInfo) : Bool :=
  match s.dev with
  | .setup => o.setup
  | .run => o.run
  | .safe => o.safe
  | _ => false

/-- The first three checks of R275 on a fetched descriptor. -/
def fetchCheck (s : State) (d : List Nat) : Option Status :=
  match opInfo (byteAt d 0) with
  | none => some .badOpcode
  | some o =>
    if byteAt d 1 ≥ 4 || !zeroBytes d 2 2 || !zeroBytes d 28 4 ||
        (!o.buf0 && !(zeroBytes d 4 4 && zeroBytes d 8 8)) || (!o.buf1 && !(zeroBytes d 16 8 && zeroBytes d 24 4)) then
      some .badParam
    else if !s.opState o then some .notAllowed
    else none

/-- The most jobs a command ring may have in flight (R276). -/
def ringLimit (s : State) (q : Nat) : Nat := if s.r F.RNG_STAT_TYPE q = 1 then 16 else 512

/-- How many descriptors the next fetch of ring q asks for, at most 8 (R276): up to the ring's last entry, its own limit,
and the first ring index still in flight. -/
def fetchWant (s : State) (q : Nat) : Nat → Nat
  | 0 => 0
  | k + 1 =>
    let n := s.ringSize q
    let dv := s.r F.RNG_IDX_DEV_IDX q
    let done := 8 - (k + 1)
    let i := dv + done
    if done ≥ (s.r F.RNG_IDX_HOST_IDX q + n - dv) % n || i ≥ n || s.ringJobs q + done ≥ s.ringLimit q ||
        (s.job? q i).isSome then 0
    else 1 + fetchWant s q k

/-- The ACTIVE command rings that ask for job slots now, in ring order. -/
def fetchRings (s : State) : List Nat :=
  (s.rings.map (·.1)).filter fun q =>
    s.r F.RNG_STAT_STATE q == 1 && s.r F.RNG_STAT_TYPE q ≤ 2 && s.fetchWant q 8 != 0

/-- A job slot is free and a ring asks for more than it was granted: the ring that round robin chooses gets it
(R41-R43, R276). -/
def slotGrant (s : State) : State :=
  match rrPick (s.ptrOf 4) (s.fetchRings.filter fun q => s.grants.count q < s.fetchWant q 8) with
  | some q => if s.jobs.length + s.grants.length < 4096 then { s with grants := s.grants ++ [q] }.granted 4 q else s
  | none => s

/-- The job slots are granted one at a time, as long as one is free and wanted; a ring that no longer asks has none. -/
def slotsDeal (s : State) : State :=
  let s := { s with grants := s.grants.filter s.fetchRings.contains }
  s.each (List.range (8 * s.fetchRings.length)) fun s _ => s.slotGrant

/-- Of the rings to which job slots are granted, the one whose descriptors are read next (R41, R43). -/
def fetchTurn (s : State) : Option Nat := rrPick (s.ptrOf 5) s.grants

/-- How many descriptors the next fetch of ring q reads: the first `k` of those it asks for, while it has the turn and as
far as job slots were granted to it (R41-R43, R276). -/
def fetchCount (s : State) (q k : Nat) : Nat :=
  if s.fetchTurn == some q then min (s.fetchWant q k) (s.grants.count q) else 0

/-- The job of the descriptor at ring index i. -/
def jobOf (s : State) (q i : Nat) : Job :=
  let d := s.hostMem.readN ((s.ring q).base + 64 * i) 64
  { ring := q, idx := i, desc := d, failed := s.fetchCheck d }

/-- DEV_IDX is written to the ring's head write-back address, when it has one (R277). -/
def headWrite (s : State) (q : Nat) : State :=
  if (s.ring q).headWb = 0 then s
  else { s with hostMem := s.hostMem.writeBytes (s.ring q).headWb (leBytes 4 (s.r F.RNG_IDX_DEV_IDX q)) }

/-- The device reads `n` descriptors of ring q, and the job slots granted to it are taken or free again (R276). -/
def fetchRead (s : State) (q n : Nat) (ok : Bool) : State :=
  let s := ({ s with grants := s.grants.filter (· != q) }).granted 5 q
  if !ok then s.ringError q 4
  else
    let dv := s.r F.RNG_IDX_DEV_IDX q
    let js := (List.range n).map fun k => s.jobOf q (dv + k)
    let s := { s with jobs := s.jobs ++ js }
    (s.w F.RNG_IDX_DEV_IDX q ((dv + n) % s.ringSize q)).headWrite q

/-- The device fetches descriptors of ring q, once job slots are granted and the turn is the ring's (R43, R276). -/
def fetch (s : State) (q : Nat) (ok : Bool) : State :=
  if !(s.serviced && s.canIssue && s.r F.RNG_STAT_STATE q == 1 && s.r F.RNG_STAT_TYPE q ≤ 2) then s
  else
    let s := s.slotsDeal
    if s.fetchCount q 8 = 0 then s else s.fetchRead q (s.fetchCount q 8) ok

/-- A job with BARRIER set, or a FENCE (R278, R279). -/
def Job.barrier (j : Job) : Bool := byteAt j.desc 1 % 2 == 1 || byteAt j.desc 0 == 2

/-- A FENCE with SCOPE 1 (R279). -/
def Job.wide (j : Job) : Bool := byteAt j.desc 0 == 2 && byteAt j.desc 32 == 1

/-- The jobs fetched before the job at (q, i). -/
def jobsBefore (s : State) (q i : Nat) : List Job := s.jobs.takeWhile fun j => !(j.ring == q && j.idx == i)

/-- The ring order, BARRIER and FENCE conditions let the job start (R278, R279). -/
def mayStart (s : State) (j : Job) : Bool :=
  let before := s.jobsBefore j.ring j.idx
  let own := before.filter fun k => k.ring == j.ring
  if Job.wide j then before.isEmpty
  else if s.r F.RNG_STAT_TYPE j.ring == 1 || Job.barrier j then own.isEmpty
  else own.all fun k => !Job.barrier k

/-- A job ends at its start; a Plank job counts as one that completed (R275, R327). -/
def jobRefused (s : State) (j : Job) (st : Status) : State :=
  let s := s.finish j.ring j.idx st
  if byteAt j.desc 0 == 0x38 || byteAt j.desc 0 == 0x39 then s.inc F.PLK_JOBS_COUNT 0 else s

/-- A fetched job starts; one that failed its checks, or that the device state no longer accepts, completes
(R275, R278, log 22). -/
def jobStart (s : State) (q i : Nat) : State :=
  match s.job? q i with
  | none => s
  | some j =>
    if !(s.serviced && j.phase == .fetched && s.mayStart j) then s
    else
      match j.failed with
      | some st => s.jobRefused j st
      | none =>
        match opInfo (byteAt j.desc 0) with
        | none => s.jobRefused j .badOpcode
        | some o =>
          if s.opState o then s.mapJob q i fun j => { j with phase := .started }
          else s.jobRefused j .notAllowed

/-- The job of an opcode that has started and not yet acted. -/
def started? (s : State) (op q i : Nat) : Option Job :=
  match s.job? q i with
  | some j => if s.serviced && j.phase == .started && byteAt j.desc 0 == op then some j else none
  | none => none

/-- The earlier of two due jobs: by finishing time, then by ring number (R284). -/
def sooner (a b : Job) : Job := if b.at_ < a.at_ || (b.at_ == a.at_ && b.ring < a.ring) then b else a

/-- The completion due to completion ring q before any other of that ring (R284). -/
def firstDue (s : State) (q : Nat) : Option Job :=
  match s.jobs.filter fun j => j.phase == .due && (s.ring j.ring).cq == q with
  | [] => none
  | j :: js => some (js.foldl sooner j)

/-- The 32 bytes of a completion without its PHASE (R282). -/
def complBytes (s : State) (j : Job) : List Nat :=
  leBytes 2 j.idx ++ leBytes 2 j.ring ++ [j.status.code, j.subcode % 256, byteAt j.desc 0, s.dev.code] ++
    leBytes 8 j.time ++ leBytes 8 j.r0 ++ leBytes 8 j.r1

/-- After a completion of ring q was written: a STOPPING ring without jobs becomes DISABLED (R271). -/
def afterCompletion (s : State) (q : Nat) : State :=
  if s.r F.RNG_STAT_STATE q == 2 && s.ringJobs q == 0 then s.ringDisabled q else s

/-- The completion of job j is written into ring q and its job slot is freed. -/
def completeInto (s : State) (q : Nat) (j : Job) : State :=
  let s := s.ringWrite q (s.complBytes j) (byteAt j.desc 1 / 2 % 2 == 1) false
  let s := s.setRing q { s.ring q with waiting := false }
  let s := if j.status == .ok then s else s.inc F.RNG_CNT_COUNT j.ring
  ({ s with jobs := s.jobs.filter fun k => !(k.ring == j.ring && k.idx == j.idx) }).afterCompletion j.ring

/-! ### The order of writes to the host, R41-R43, R288 -/

/-- The event is routed to ring q. -/
def routedTo (s : State) (q : Nat) (e : Held) : Bool := s.routeOf e.src e.code == some q

/-- Of two events, the one R288 delivers first: by TIME, then by source. -/
def evFirst (a b : Held) : Held := if b.time < a.time || (b.time == a.time && b.src < a.src) then b else a

/-- The events bound for ring q, of each source the first that occurred (R36). -/
def heads (s : State) (q : Nat) : List Held → List Nat → List Held
  | [], _ => []
  | e :: t, seen =>
    if s.routedTo q e && !seen.contains e.src then e :: heads s q t (e.src :: seen) else heads s q t seen

/-- The event that ring q receives before any other of that ring (R288). -/
def firstEvent (s : State) (q : Nat) : Option Held :=
  match s.heads q s.held [] with
  | [] => none
  | e :: t => some (t.foldl evFirst e)

/-- Ring q has an entry to write, and room for it. -/
def ringWants (s : State) (q : Nat) : Bool :=
  (s.ringIs q 3 && s.ringFree q != 0 && (s.firstDue q).isSome) ||
    (s.ringIs q 4 && (2 ≤ s.ringFree q || (s.ringFree q == 1 && !(s.ring q).lastMarker)) && (s.firstEvent q).isSome)

/-- The copies of captures and the Plank outputs that wait for their last write, by ring and descriptor index (R43). -/
def outWaiting (s : State) : List (Nat × Nat) :=
  ((s.cap.reads.filter (·.ready)).map fun r => (r.ring, r.idx)) ++
    ((s.plank.engines.flatMap (·.2)).filter (·.ready)).map fun p => (p.job.ring, p.job.idx)

/-- The writes to the host that are pending: completions and events by ring, then telemetry records, then captures and
Plank outputs (R43). -/
def upRequests (s : State) : List Req :=
  (((s.rings.map (·.1)).filter s.ringWants).map fun q => ⟨1, q⟩) ++
    ((s.subs.filter fun x => x.2.waiting.isSome).map fun x => ⟨2, x.2.ring⟩) ++ s.outWaiting.map fun x => ⟨3, x.1⟩

/-- A write of this class and ring is granted the PCIe link before every other that is pending. -/
def upTurn (s : State) (r : Req) : Bool := arbitrate s.ptrOf (r :: s.upRequests) == some r

/-- A capture copy or a Plank output of ring q and descriptor index i may be written: the link is granted to the ring, and
none of the ring with a lower index waits (R41, R43). -/
def outTurn (s : State) (q i : Nat) : Bool := s.upTurn ⟨3, q⟩ && s.outWaiting.all fun x => x.1 != q || i ≤ x.2

/-- The next completion due to completion ring q, where no room is left or the link is granted to it (R43, R284). -/
def nextDue (s : State) (q : Nat) : Option Job := if s.ringWants q && !s.upTurn ⟨1, q⟩ then none else s.firstDue q

/-- The next event for event ring q, where no room is left or the link is granted to it (R43, R288). -/
def nextEvent (s : State) (q : Nat) : Option Held := if s.ringWants q && !s.upTurn ⟨1, q⟩ then none else s.firstEvent q

/-- A completion due to ring q is written when room allows; the first wait of an episode is counted (R284). -/
def completionWrite (s : State) (q : Nat) : State :=
  match s.nextDue q with
  | none => s
  | some j =>
    if !(s.serviced && s.canIssue && s.ringIs q 3) then s
    else if s.ringFree q = 0 then
      if (s.ring q).waiting then s
      else (s.setRing q { s.ring q with waiting := true }).inc F.RNG_CNT_COUNT q
    else (s.completeInto q j).granted 1 q

/-! ### Event delivery, R287-R289 -/

/-- The 32 bytes of an event without its PHASE (R285). -/
def eventBytes (e : Held) : List Nat :=
  leBytes 2 e.code ++ leBytes 2 e.src ++ leBytes 2 e.count ++ [e.state, e.sat.toNat + 2 * e.delayed.toNat] ++
    leBytes 8 e.time ++ e.data

/-- The number of sources with a held event. -/
def pendCount (s : State) : Nat := (List.range 1024).countP fun k => s.held.any fun e => e.src == k

/-- The bytes of the OVERFLOW marker of ring q (R289). -/
def markerBytes (s : State) (q : Nat) : List Nat :=
  eventBytes { src := sysSrc, code := 0xA00F, state := s.dev.code, time := s.sysTime,
               data := pack [(2, q), (2, s.pendCount)] }

/-- The OVERFLOW marker takes the last free entry (R289). -/
def writeMarker (s : State) (q : Nat) : State :=
  let s := (s.w F.RNG_STAT_OVERFLOW q 1).w F.RNG_ENG_EVT_OVERFLOW 0 1
  let s := s.inc F.RNG_CNT_COUNT q
  ((s.ringWrite q (s.markerBytes q) false true).granted 1 q).markDelayed

/-- The episode ends when no event routed to the ring is held (R289). -/
def endEpisode (s : State) (q : Nat) : State :=
  if s.on F.RNG_STAT_OVERFLOW q && !(s.held.any (s.routedTo q)) then s.w F.RNG_STAT_OVERFLOW q 0 else s

/-- Routes of events changed: those held that cannot go where they are bound now are marked, and an episode ends at a ring
that no held event is bound for (R285, R289). -/
def rerouted (s : State) : State :=
  s.markDelayed.each ((Tab.get s.regs F.RNG_STAT_OVERFLOW.id []).map (·.1)) endEpisode

/-- A held event is written to ring q when room allows, or the OVERFLOW marker in its place (R288, R289). -/
def eventDeliver (s : State) (q : Nat) : State :=
  match s.nextEvent q with
  | none => s.endEpisode q
  | some e =>
    if !(s.serviced && s.canIssue && s.ringIs q 4) then s.markDelayed
    else if s.ringFree q ≥ 2 then
      let s := (s.ringWrite q (eventBytes e) false false).granted 1 q
      ({ s with held := s.held.filter fun x => !(x.src == e.src && x.code == e.code) }).endEpisode q
    else if s.ringFree q == 1 && !(s.ring q).lastMarker then s.writeMarker q
    else s.markDelayed

/-- BIST runs and tests die d, by logic or memory BIST: 0 brim west, 1 crown, 2 brim east (R446). -/
def bistTests (s : State) (d : Nat) : Bool :=
  s.on F.SYS_BIST_STAT_RUNNING && (bitAt (s.r F.SYS_BIST_STAT_LAST_MASK) d || bitAt (s.r F.SYS_BIST_STAT_LAST_MASK) (3 + d))

/-- The lanes, host lanes or slots, as lanes, that a configuration command of a lane changes. -/
def Job.laneTargets (j : Job) : List Nat :=
  let first := leAt j.desc 32 2
  let all := (List.range (leAt j.desc 34 2)).map (first + ·)
  match byteAt j.desc 0 with
  | 0x10 => if byteAt j.desc 36 = 0 then all else if byteAt j.desc 36 = 1 then all.map (· / 2) else all.map (8 * ·)
  | 0x13 | 0x15 | 0x18 | 0x19 | 0x1C | 0x1D | 0x21 | 0x23 => all
  | 0x14 => (List.range (byteAt j.desc 32)).map fun e => leAt j.desc (36 + 6 * e) 2
  | _ => []

/-- A command that would change a part under BIST waits, and so does a second BIST_RUN (R447). -/
def bistHolds (s : State) (j : Job) : Bool :=
  match byteAt j.desc 0 with
  | 0x31 | 0x32 | 0x38 | 0x39 => s.bistTests 1
  | 0x70 => s.on F.SYS_BIST_STAT_RUNNING
  | _ => (Job.laneTargets j).any fun n => s.bistTests (if n < 96 then 0 else 2)

/-- The job begins with the read of a list in host memory, HB_SCAN_SET's points or a subscription's ranges, which waits
until requests can be issued (R267). -/
def listWaits (s : State) (j : Job) : Bool :=
  !s.canIssue && ((byteAt j.desc 0 == 0x40 && byteAt j.desc 32 == 1) || (byteAt j.desc 0 == 0x60 && byteAt j.desc 33 == 1))

/-- A number no ring has, for a job whose ring was taken from it. -/
def lostRing (q : Nat) : Nat := q % 32768 + 32768

/-- A started job that acts on after a ring engine reset, without completion and host writes (R292). -/
def Job.orphan (j : Job) : Job := { j with ring := lostRing j.ring, lost := true }

/-- The orphan of an opcode that comes from ring q. -/
def orphan? (s : State) (op q i : Nat) : Option Job :=
  s.orphans.find? fun j => j.ring == lostRing q && j.idx == i && byteAt j.desc 0 == op

/-- The ring engine without the RNG block, its jobs and its unsent messages (R292); the subscriptions are stopped by
the caller. -/
def ringEngineReset (s : State) : State :=
  let del (r : Regs) (f : Fld) : Regs := Tab.del r f.id
  let regs := [F.RNG_CTL_ENABLE, F.RNG_STAT_ERR, F.RNG_STAT_OVERFLOW, F.RNG_STAT_PHASE, F.RNG_STAT_ENABLE_PENDING,
    F.RNG_STAT_TYPE, F.RNG_STAT_STATE, F.RNG_IDX_HOST_IDX, F.RNG_IDX_DEV_IDX, F.RNG_CNT_COUNT].foldl del s.regs
  let left := s.jobs.filter fun j => j.phase == .started
  let s := { s with regs := regs, rings := [], jobs := [], grants := [], orphans := s.orphans ++ left.map Job.orphan,
                    pcie := { s.pcie with msixPend := [], msiWait := [], tableWait := [], tableFail := [] } }
  s.markDelayed

/-- The host writes an entry of the MSI-X table; a message that waited for its mask bit is sent (R290). -/
def msixWrite (s : State) (e : MsixEntry) : State :=
  let v := e.vector.val
  let t := { s with pcie := { s.pcie with msix := s.pcie.msix.set v (e.addr.toNat, e.data.toNat) (0, 0),
                                          unmasked := s.pcie.unmasked.set v (!e.mask) false } }
  if !e.mask && s.pcie.msixPend.get v false then
    ({ t with pcie := { t.pcie with msixPend := t.pcie.msixPend.set v false false } }).sendMsi v
  else t

end State

/-! ### The meanings -/

/-- RING_ENABLE, R270. -/
def execRingEnable (m : Master) (q : Fin 32768) (ok : Bool) (s : State) : Out :=
  .next (if s.live || s.frozen then s.ringCtlWrite m q 1 ok else s)

/-- RING_DISABLE, R271. -/
def execRingDisable (m : Master) (q : Fin 32768) (s : State) : Out :=
  .next (if s.live || s.frozen then s.ringCtlWrite m q 0 true else s)

/-- DOORBELL, R272, R273, R477; without a value a read of BAR2 (R48). -/
def execDoorbell (off : Fin 2097152) (len : Nat) (allBytes : Bool) (v : Option (BitVec 32)) (s : State) : Out :=
  .next (if s.live || s.frozen then s.bar2Access off len allBytes (v.map BitVec.toNat) else s)

/-- MSIX_UNMASK, R290. -/
def execMsixUnmask (e : MsixEntry) (s : State) : Out := whenLive s fun s => s.msixWrite e

/-- DESCRIPTOR_FETCH, R276. -/
def execDescriptorFetch (q : Fin 32768) (ok : Bool) (s : State) : Out := .next (s.fetch q ok)

/-- JOB_START, R278. -/
def execJobStart (q : Fin 32768) (i : Fin 65536) (s : State) : Out := .next (s.jobStart q i)

/-- COMPLETION_WRITE, R284: the next completion due to completion ring q. -/
def execCompletionWrite (q : Fin 32768) (s : State) : Out := .next (s.completionWrite q)

/-- EVENT_DELIVER, R288: the next event bound for event ring q. -/
def execEventDeliver (q : Fin 32768) (s : State) : Out := .next (s.eventDeliver q)

/-- IRQ_COAL_TIMER, R291. -/
def execIrqCoalTimer (q : Fin 32768) (s : State) : Out :=
  whenLive s fun s =>
    let h := s.ring q
    if h.irqEn && h.timer && h.u > 0 then s.ringSend q else s

/-- A command acts on its started job; without one the state is left alone (log 4). A job that began before its ring was
taken waits with its read of a list while no request can be issued (R267, R292). -/
def actJob (op : Nat) (q : Fin 32768) (i : Fin 65536) (s : State) (act : Job → State → State) : Out :=
  match s.started? op q i with
  | some j => .next (if s.bistHolds j then s else act j s)
  | none =>
    match s.orphan? op q i with
    | some j => .next (if s.bistHolds j || s.listWaits j then s else act j { s with orphans := s.orphans.erase j })
    | none => .next s

/-- NOP, R279. -/
def execNop (q : Fin 32768) (i : Fin 65536) (s : State) : Out :=
  actJob 1 q i s fun j s => s.finish j.ring j.idx (if zeroBytes j.desc 32 32 then .ok else .badParam)

/-- FENCE, R279. -/
def execFence (q : Fin 32768) (i : Fin 65536) (s : State) : Out :=
  actJob 2 q i s fun j s =>
    s.finish j.ring j.idx (if byteAt j.desc 32 ≤ 1 && zeroBytes j.desc 33 31 then .ok else .badParam)

end Sys2Proof.Machine
end

