-- ==== Sys2Proof/Machine/Operands.lean ====
section
/-! DEFINITION. The operand forms of the ring commands: parameter bytes, ranges of lanes and their checks
(spec/10_command_rings.md R274, R275 and the home chapters). -/

namespace Sys2Proof.Machine

open Sys2Proof

/-- `n` parameter bytes from parameter byte `k` as a number; parameter byte 0 is descriptor byte 32 (R274). -/
def Job.p (j : Job) (k n : Nat) : Nat := leAt j.desc (32 + k) n

/-- `n` parameter bytes from byte `k` are 0. -/
def Job.pz (j : Job) (k n : Nat) : Bool := zeroBytes j.desc (32 + k) n

/-- LEN0, ADDR0, ADDR1 and LEN1 of the descriptor (R274). -/
def Job.len0 (j : Job) : Nat := leAt j.desc 4 4
def Job.addr0 (j : Job) : Nat := leAt j.desc 8 8
def Job.addr1 (j : Job) : Nat := leAt j.desc 16 8
def Job.len1 (j : Job) : Nat := leAt j.desc 24 4

/-- The items FIRST to FIRST + COUNT - 1. -/
def span (first count : Nat) : List Nat := (List.range count).map (first + ·)

/-- FIRST in bytes 0-1 and COUNT in bytes 2-3 name `n` items or fewer (R261, R226, R181, ...). -/
def Job.spanOk (j : Job) (n : Nat) : Bool := 1 ≤ j.p 2 2 && j.p 0 2 + j.p 2 2 ≤ n

/-- The items named by bytes 0-3. -/
def Job.items (j : Job) : List Nat := span (j.p 0 2) (j.p 2 2)

namespace State

/-- Every running job that waits for `x` ends now with `st`, whatever else it waits for. -/
def abortWaiters (s : State) (x : Wait) (st : Status) : State :=
  { s with jobs := s.jobs.map fun j =>
      if j.phase == .running && j.waits.contains x then Job.finished j st 0 j.r0 j.r1 s.now (s.dieTime (waitDie x))
      else j }

/-! ### Lanes, R229, R240 -/

/-- The number of lanes, R10. -/
def nLanes : Nat := 192

/-- Codes of LANE_STAT.STATE (R257). -/
def laneState (s : State) (n : Nat) : Nat := s.r F.LANE_STAT_STATE n

/-- The mode in force, R114: 0 L400, 1 L400F, 2 L200, 3 L100. -/
def laneMode (s : State) (n : Nat) : Nat := s.r F.LANE_STAT_MODE n

/-- Lane n is the odd member of a fused pair. -/
def fusedOdd (s : State) (n : Nat) : Bool := s.r F.LANE_FE_STAT_FUSED_ROLE n == 2

/-- Lane n is a member of a fused pair. -/
def fused (s : State) (n : Nat) : Bool := s.on F.LANE_FE_STAT_FUSED_ROLE n

/-- The lane whose state machine acts for lane n: the even one of a fused pair (R240). -/
def lead (s : State) (n : Nat) : Nat := if s.fusedOdd n then n - 1 else n

/-- The lanes that act with lane n: both of a fused pair. -/
def members (s : State) (n : Nat) : List Nat :=
  if s.fused n then [s.lead n, s.lead n + 1] else [n]

/-- The state machines named by a list of lanes, each once, in ascending order (R240). -/
def leads (s : State) (l : List Nat) : List Nat := (whichBelow nLanes fun n => l.any fun k => s.lead k == n)

/-- The slot of a lane and the zone of a slot (R10, R383). -/
def slotOfLane (n : Nat) : Nat := n / 8
def zoneOfSlot (k : Nat) : Nat := if k < 12 then k else k + 6

end State

end Sys2Proof.Machine
end

