-- ==== Sys2Proof/Machine/Transmit.lean ====
section
/-! DEFINITION. The transmit path: the gearbox's stream, inner encoding, precoding, FIR, predistortion and DAC codes,
squelch, swing walks and TX_PARAM (spec/08_transmit_path.md, R245, R246 and R250 of
spec/09_lanes_gearbox_host.md). -/

namespace Sys2Proof.Machine

open Sys2Proof

/-- A number rounded to an integer, halves away from zero, and its saturation at ±127 (R104, R214). -/
def sat127 (q : Int) : Int := clampI (-127) 127 q

/-- The DAC's offset value of a code, its unary positions switched on and its binary segment (R218). -/
def dacOffset (d : Int) : Nat := (d + 127).toNat
def dacUnary (d : Int) : Nat := dacOffset d / 16
def dacBinary (d : Int) : Nat := dacOffset d % 16

/-- The physical unary cell that fills position `p` while cell `j` is out of service: the rule of R131 over 16 cells
(R218). -/
def dacCell (j p : Nat) : Nat := if p < j then p else p + 1

/-- The physical cells that code `d` switches on. -/
def dacCells (j : Nat) (d : Int) : List Nat := (List.range (dacUnary d)).map (dacCell j)

/-- Samples of one window by mode (R107). -/
def windowN (mode : Nat) : Nat := if mode = 0 then 225000 else if mode = 1 then 450000 else if mode = 2 then 112500 else 53125

/-- Symbols of one window of the transmit path: those of 1 µs, on each lane of a fused pair by itself (R207, R215). -/
def txWindowN (mode : Nat) : Nat := if mode = 1 then 225000 else windowN mode

/-- The codewords of two host lanes in turn, A's and then B's: the merged stream of L400 and L400F (R245). The first
argument bounds their number. -/
def mergeWords : Nat → List Bool → List Bool → List Bool
  | 0, _, _ => []
  | k + 1, a, b =>
    if a.length < 5440 || b.length < 5440 then []
    else a.take 5440 ++ (b.take 5440 ++ mergeWords k (a.drop 5440) (b.drop 5440))

namespace State

/-- The transmit state of lane n that no register shows. -/
def txh (s : State) (n : Nat) : TxH := s.tx.get n {}

/-- The state with it replaced. -/
def setTx (s : State) (n : Nat) (h : TxH) : State := { s with tx := s.tx.set n h {} }

/-! ### Kept parts -/

/-- The kept parts of lane n, pool d and host lane m. -/
def adch (s : State) (n : Nat) : AdcH := s.adc.get n {}
def eqh (s : State) (n : Nat) : EqH := s.eq.get n {}
def fech (s : State) (n : Nat) : FecH := s.fec.get n {}
def calh (s : State) (n : Nat) : CalH := s.cal.get n {}
def laneh (s : State) (n : Nat) : LaneH := s.lane.get n {}
def hosth (s : State) (m : Nat) : HostH := s.host.get m {}
def poolh (s : State) (d : Nat) : PoolH := s.pool.get d {}

/-- The state with one of them replaced. -/
def setAdc (s : State) (n : Nat) (h : AdcH) : State := { s with adc := s.adc.set n h {} }
def setEq (s : State) (n : Nat) (h : EqH) : State := { s with eq := s.eq.set n h {} }
def setFec (s : State) (n : Nat) (h : FecH) : State := { s with fec := s.fec.set n h {} }
def setCal (s : State) (n : Nat) (h : CalH) : State := { s with cal := s.cal.set n h {} }
def setLaneh (s : State) (n : Nat) (h : LaneH) : State := { s with lane := s.lane.set n h {} }
def setHost (s : State) (m : Nat) (h : HostH) : State := { s with host := s.host.set m h {} }
def setPool (s : State) (d : Nat) (h : PoolH) : State := { s with pool := s.pool.set d h {} }

/-! ### Elements, R105, R150 -/

/-- The fields of an element whose values ramp: sub-slices 0-80, groups 81-89, the pair skew 90, transmit unary cells
91-106 and the binary segment 107. -/
def elemFields (e : Nat) : List Fld :=
  if e < 81 then [F.LANE_CAL_SS_OFFSET, F.LANE_CAL_SS_GAIN, F.LANE_CAL_SS_CTRIM, F.LANE_CAL_SS_W0, F.LANE_CAL_SS_W1,
    F.LANE_CAL_SS_W2, F.LANE_CAL_SS_W3, F.LANE_CAL_SS_W4, F.LANE_CAL_SS_W5, F.LANE_CAL_SS_W6, F.LANE_CAL_SS_W7,
    F.LANE_CAL_SS_W8, F.LANE_CAL_SS_W9]
  else if e < 90 then [F.LANE_CAL_GRP_GAIN, F.LANE_CAL_GRP_BW, F.LANE_CAL_GRP_SKEW]
  else if e = 90 then [F.LANE_CAL_PAIR_SKEW]
  else if e < 107 then [F.LANE_CAL_TX_TRIM]
  else [F.LANE_CAL_TXB_TRIM]

/-- The index of element e of lane n in its registers. -/
def elemIdx (n e : Nat) : Nat :=
  if e < 81 then 81 * n + e else if e < 90 then 9 * n + (e - 81) else if e = 90 then n
  else if e < 107 then 16 * n + (e - 91) else n

/-- Weights are unsigned; every other value of an element is signed (R150). -/
def elemSigned (f : Fld) : Bool := !(f.base == F.LANE_CAL_SS_W0.base && f.lo ≥ 64)

/-- The values in force of element e of lane n. -/
def elemVals (s : State) (n e : Nat) : List Int :=
  (elemFields e).map fun f =>
    if elemSigned f then s.ri f (elemIdx n e) else (s.r f (elemIdx n e) : Nat)

/-- All values of element e of lane n take effect together (R105). -/
def setElem (s : State) (n e : Nat) (vs : List Int) : State :=
  s.each ((elemFields e).zip vs) fun s fv => s.wi fv.1 (elemIdx n e) fv.2

/-- The fields of an element that select: they take a new value with the set and do not ramp (R125). -/
def selFields (e : Nat) : List Fld := if e < 81 then [F.LANE_CAL_SS_COMP_SEL, F.LANE_CAL_SS_CAP] else []

/-- The selecting fields of element e of lane n are written. -/
def setSel (s : State) (n e : Nat) (vs : List Nat) : State :=
  s.each ((selFields e).zip vs) fun s fv => s.w fv.1 (elemIdx n e) fv.2

/-- The sets of values that wait for a boundary at lane n, those of the elements `p`, take effect, each as a whole (R105). -/
def dueTake (s : State) (n : Nat) (p : Nat → Bool) : State :=
  let h := s.calh n
  if h.due.isEmpty then s
  else
    let s := s.setCal n { h with due := h.due.filter fun d => !p d.1 }
    s.each (h.due.filter fun d => p d.1) fun s d => (s.setElem n d.1 d.2.1).setSel n d.1 d.2.2

/-! ### Squelch, R220-R224 -/

/-- Some source requests squelch of lane n's output (R221). -/
def anySquelch (s : State) (n : Nat) : Bool :=
  s.on F.LANE_TX_STAT_SQ_SLOT n || s.on F.LANE_TX_STAT_SQ_SHED n || s.on F.LANE_TX_STAT_SQ_LANE n ||
    s.on F.LANE_TX_STAT_SQ_HOST n

/-- The sources of a squelch as LANE_TX_STAT[3:0]. -/
def squelchBits (s : State) (n : Nat) : Nat :=
  s.r F.LANE_TX_STAT_SQ_SLOT n + 2 * s.r F.LANE_TX_STAT_SQ_SHED n + 4 * s.r F.LANE_TX_STAT_SQ_LANE n
    + 8 * s.r F.LANE_TX_STAT_SQ_HOST n

/-- When the squelch episode of lane n began: the first one after a RESET with that RESET (R224, log 41). -/
def episodeStart (s : State) (n : Nat) : Nat := max (s.txh n).episodeAt s.sys.resetAt

/-- A squelch episode begins at lane n from the released state (R224). -/
def beginEpisode (s : State) (n : Nat) : State :=
  let s := s.setTx n { s.txh n with released := false, episodeAt := s.now }
  let s := if s.on F.LANE_TX_STAT_SQ_SLOT n then s.inc F.LANE_TX_SQCNT_SLOT n else s.inc F.LANE_TX_SQCNT_OTHER n
  s.post n 0x1301 [(1, s.squelchBits n)]

/-- The output follows its squelch sources: a request begins an episode or abandons the ramp, and the withdrawal of
the last one starts the release ramp (R221, R223, R224). -/
def settleSquelch (s : State) (n : Nat) : State :=
  if s.anySquelch n then
    let s := (s.w F.LANE_TX_STAT_SQUELCHED n 1).w F.LANE_TX_STAT_RAMPING n 0
    if (s.txh n).released then s.beginEpisode n else s
  else if s.on F.LANE_TX_STAT_SQUELCHED n then
    ((s.w F.LANE_TX_STAT_SQUELCHED n 0).w F.LANE_TX_STAT_RAMPING n 1).setTx n
      { s.txh n with rampAt := s.now, ramp := s.r F.LANE_TX_CFG_UNSQ n }
  else s

/-- A source of squelch requests or withdraws at lane n. -/
def squelch (s : State) (f : Fld) (n : Nat) (b : Bool) : State := (s.wb f n b).settleSquelch n

/-! ### Chain start and stop, R208, R219, R227 -/

/-- The chain of lane n starts: the stored settings come into force, the precoder state is 0, samples, windows and blocks
are counted anew, and the gearbox delivers fill from a state of its generator that the manual does not give
(R208-R212, R246, log 86). -/
def chainStart (s : State) (n : Nat) : State :=
  let s := s.w F.LANE_TX_STAT_DRV_ON n 1
  let s := s.w F.LANE_TX_STAT_SWING_CODE n (s.r F.LANE_TX_CFG_SWING n)
  let s := s.w F.LANE_TX_STAT_PD_ACTIVE n (s.r F.LANE_TX_CFG_PD_EN n)
  s.setTx n { s.txh n with
    precoder := 0, sent := [], codes := [], satEpisode := false, k := 0, winN := 0, winSat := 0, pos := 0, data := false,
    buf := [], looped := [], out := [], prbs := Config.unstated 16 n % (2 ^ 31 - 1) + 1 }

/-- The transmit cell c of lane m goes out of service and the one out of service comes in (R131, R218). -/
def cellWrite (s : State) (m c : Nat) : State :=
  let old := s.r F.LANE_TX_STAT_SPARE_CELL m
  let s := (s.w F.LANE_CAL_TX_SPARE (16 * m + old) 0).w F.LANE_CAL_TX_SPARE (16 * m + c) 1
  s.w F.LANE_TX_STAT_SPARE_CELL m c

/-- The chain of lane n stops: a walk ends at its target, a change still waiting ends its command with ABORTED, and pages
that an APPLY_PD took stay in the staging table (R227); what is left of a change of cells is carried out. -/
def chainStop (s : State) (n : Nat) : State :=
  let s := (s.w F.LANE_TX_STAT_DRV_ON n 0).w F.LANE_TX_STAT_WALKING n 0
  let s := s.w F.LANE_TX_STAT_SWING_CODE n (s.r F.LANE_TX_CFG_SWING n)
  let s := s.dueTake n (90 < ·)
  let h := s.txh n
  let s := s.setTx n { h with staging := h.staging.or h.pendPd, pendFir := none, pendPd := none, pendPdEn := none }
  (s.abortWaiters (.swing n) .aborted).abortWaiters (.txApply n) .aborted

/-! ### The symbol path, R211-R217 -/

/-- The level index of the `k`-th symbol back, counted from the newest; before the chain's first symbol a free value. -/
def txLevel (n : Nat) (sent : List Nat) (k : Nat) : Nat :=
  match sent[k]? with
  | some p => p
  | none => Config.symbolBefore n (k - sent.length) % 4

/-- 3 · 1,024 · u[k] of R214, with the newest of the sent symbols four after symbol k. -/
def firSum (s : State) (n : Nat) (sent : List Nat) : Int :=
  ((List.range 16).map fun i =>
    s.ri F.LANE_TX_FIR_COEF (16 * n + i) * (2 * (txLevel n sent i : Int) - 3)).foldl (· + ·) 0

/-- q[k] before saturation (R214). -/
def firCode (s : State) (n : Nat) (sent : List Nat) : Int := roundDiv (127 * s.firSum n sent) 3072

/-- Entry `e` of lane n's active predistortion table. -/
def pdEntry (s : State) (n e : Nat) : Nat :=
  let i := 64 * n + e / 4
  match e % 4 with
  | 0 => s.r F.LANE_TX_PD_E0 i
  | 1 => s.r F.LANE_TX_PD_E1 i
  | 2 => s.r F.LANE_TX_PD_E2 i
  | _ => s.r F.LANE_TX_PD_E3 i

/-- The DAC code of a saturated FIR output: the table and then INVERT (R216, R217). -/
def dacOf (s : State) (n : Nat) (q : Int) : Int :=
  let d := if s.on F.LANE_TX_STAT_PD_ACTIVE n then sint 8 (s.pdEntry n (uint 8 q)) else q
  if s.on F.LANE_TX_CFG_INVERT n then -d else d

/-- A window of lane n's symbols is complete: an episode begins with the first that holds a saturated symbol and ends
with the first that holds none (R215, R228). -/
def txWindowEnd (s : State) (n : Nat) : State :=
  let h := s.txh n
  let s := s.setTx n { h with winN := 0, winSat := 0, satEpisode := decide (0 < h.winSat) }
  if 0 < h.winSat && !h.satEpisode then (s.w F.LANE_TX_EVT_SATURATION n 1).post n 0x1303 [(4, h.winSat)] else s

/-- One bit pair enters the chain of lane n, and the sample four symbols back leaves it (R211-R217). -/
def txSymbol (s : State) (n : Nat) (pair : Nat) : State :=
  let h := s.txh n
  let g := gray pair
  let p := if s.on F.LANE_TX_CFG_PRECODE n then (g + 4 - h.precoder % 4) % 4 else g
  let sent := (p :: h.sent).take 16
  if sent.length < 5 then s.setTx n { h with precoder := p, sent := sent }
  else
    let q := s.firCode n sent
    let d := s.dacOf n (sat127 q)
    let beyond := decide (q > 127 ∨ q < -127)
    let s := if h.k % 128 = 0 then s.dueTake n (90 < ·) else s
    let s := s.setTx n { h with precoder := p, sent := sent, dacCode := d, codes := d :: h.codes, k := h.k + 1,
                                winN := h.winN + 1, winSat := h.winSat + beyond.toNat }
    let s := s.inc F.LANE_TX_SAT_COUNT n beyond.toNat
    if h.winN + 1 ≥ txWindowN (s.laneMode n) then s.txWindowEnd n else s

/-! ### The gearbox and the inner encoder, R209, R210, R245, R246, R249, R250 -/

/-- Line loopback: the decoded stream takes the place of host data. The odd lane of a pair carries its host data
(R249, R255). -/
def lineLoop (s : State) (n : Nat) : Bool := s.r F.LANE_STAT_LOOPBACK n == 2 && !s.fusedOdd n

/-- The host stream of lane n is there to be carried: the lane is host-aligned, in L100 A's CDR has lock (R245, R246). -/
def hostReady (s : State) (n : Nat) : Bool :=
  if s.laneMode n = 3 then s.on F.XBAR_MAP_A_VALID n && s.on F.HSL_STAT_CDR_LOCK (s.r F.XBAR_MAP_A n)
  else s.on F.LANE_STAT_HOST_ALIGNED n

/-- The bits of the unit that a loopback buffer drops or repeats: an RS codeword, in L100 a 256-bit word (R250). -/
def loopUnit (s : State) (n : Nat) : Nat := if s.laneMode n = 3 then 256 else 5440

/-- What the gearbox of lane n delivers from here on, judged at a mark; in L100, which has no marks, at each symbol
(R246). A looped stream is there once a whole codeword of it waits (DESIGN CHOICE, log 87). -/
def atMark (s : State) (n : Nat) (h : TxH) : TxH :=
  let d := if s.lineLoop n then decide ((if s.laneMode n = 3 then 2 else 5440) ≤ h.buf.length) else s.hostReady n
  { h with data := d, buf := if d || s.lineLoop n then h.buf else [] }

/-- The next `k` bits that lane n's gearbox delivers: host data or fill, changed at a mark alone (R246); none where host
data flows and the run brings no more of it. -/
def gearbox (s : State) (n : Nat) (h : TxH) (k : Nat) : Option (List Bool × TxH) :=
  let u := s.loopUnit n
  let h := if s.laneMode n = 3 || h.pos = 0 then s.atMark n h else h
  if h.data then
    if h.buf.length < k then none
    else
      let looped := if h.pos = 0 then h.buf.take u else h.looped
      some (h.buf.take k, { h with buf := h.buf.drop k, looped := looped, pos := (h.pos + k) % u })
  else
    let f := prbsBits prbs31 k h.prbs
    some (f.1, { h with prbs := f.2, pos := (h.pos + k) % u })

/-- The next bit pair of lane n: the inner encoder's, block after block, each codeword's first bit beginning one (R209);
in L100 the gearbox's own bits (R210). -/
def txNext (s : State) (n : Nat) : Option (Nat × TxH) :=
  let h := s.txh n
  if s.laneMode n = 3 then (s.gearbox n h 2).map fun x => ((bitPairs x.1).headD 0, x.2)
  else match h.out with
    | p :: ps => some (p, { h with out := ps })
    | [] => (s.gearbox n h 544).map fun x =>
      let ps := encodeBlock x.1
      (ps.headD 0, { x.2 with out := ps.tail })

/-- `k` symbols of lane n's chain, or as many as the host data lasts. -/
def txRun (n : Nat) : Nat → State → State
  | 0, s => s
  | k + 1, s =>
    match s.txNext n with
    | none => s
    | some x => txRun n k ((s.setTx n x.2).txSymbol n x.1)

/-- Lane n's host lanes send back what they receive: host loopback in the states that carry payload (R229, R249). -/
def hostLoops (s : State) (n : Nat) : Bool :=
  s.r F.LANE_STAT_LOOPBACK n == 1 && (s.laneState n == 4 || s.laneState n == 5) && !s.on F.LANE_STAT_HOLDOVER n &&
    s.hostReady n

/-- Host lane m sends back what it receives, less or more what the codeword buffer dropped or repeats (R249, R250). -/
def hostLoop (s : State) (m : Nat) (bs : List Bool) : State :=
  let h := s.host.get m {}
  if s.on F.HSL_CFG_PRBS_GEN m || bs.isEmpty then s
  else { s with host := s.host.set m { h with sent := h.owed ++ bs.drop h.skip, owed := [], skip := h.skip - bs.length } {} }

/-- The bits of a run of levels that host lane m's receiver decided, under its polarity and precoding (R251). -/
def hostBits (s : State) (m : Nat) (x : Levels) : List Bool :=
  hostReceive (s.on F.HSL_CFG_RX_INVERT m) (s.on F.HSL_CFG_RX_PRECODE m) x.prev x.run

/-- The bits that host lanes A and B bring to lane n's gearbox: carried while the host stream is there, and in loopback 1
also looped to the same host lanes; in loopback 2 discarded (R245, R249). -/
def hostIn (s : State) (n : Nat) (a b : List Bool) : State :=
  if s.lineLoop n || !s.hostReady n then s
  else
    let two := decide (s.laneMode n ≤ 1)
    let s := if s.hostLoops n then
        let s := s.hostLoop (s.r F.XBAR_MAP_A n) a
        if two then s.hostLoop (s.r F.XBAR_MAP_B n) b else s
      else s
    s.setTx n { s.txh n with buf := (s.txh n).buf ++ if two then mergeWords (a.length / 5440) a b else a }

/-- The codeword buffer of lane n's loopback drops the next codeword or sends the last one again, at the boundary
(R250; which codeword is DESIGN CHOICE, log 88). -/
def loopBuffer (s : State) (n : Nat) (again : Bool) : State :=
  let u := s.loopUnit n
  if s.lineLoop n then
    let h := s.txh n
    let k := (u - h.pos) % u
    s.setTx n { h with buf := h.buf.take k ++ if again then h.looped ++ h.buf.drop k else h.buf.drop (k + u) }
  else
    let slip (s : State) (m : Nat) : State :=
      let h := s.host.get m {}
      let h := if again then { h with owed := h.sent.drop (h.sent.length - u) ++ h.owed } else { h with skip := h.skip + u }
      { s with host := s.host.set m h {} }
    let s := slip s (s.r F.XBAR_MAP_A n)
    if s.laneMode n ≤ 1 then slip s (s.r F.XBAR_MAP_B n) else s

/-- Entry `e` written into a table given as a list of 256 entries. -/
def writePd (s : State) (n : Nat) (tab : List Nat) : State :=
  s.each (List.range 64) fun s k =>
    let i := 64 * n + k
    (((s.w F.LANE_TX_PD_E0 i (tab.getD (4 * k) 0)).w F.LANE_TX_PD_E1 i (tab.getD (4 * k + 1) 0)).w
      F.LANE_TX_PD_E2 i (tab.getD (4 * k + 2) 0)).w F.LANE_TX_PD_E3 i (tab.getD (4 * k + 3) 0)

/-- The taps of a list of 16 written to lane n. -/
def writeFir (s : State) (n : Nat) (taps : List Nat) : State :=
  s.each (List.range 16) fun s i => s.w F.LANE_TX_FIR_COEF (16 * n + i) (taps.getD i 0)

/-- PD_EN comes into force. -/
def applyPdEn (s : State) (n : Nat) (b : Bool) : State :=
  (s.wb F.LANE_TX_CFG_PD_EN n b).wb F.LANE_TX_STAT_PD_ACTIVE n b

/-- The changes that waited for a DAC word boundary apply together at lane n (R227). -/
def txApply (s : State) (n : Nat) : State :=
  let h := s.txh n
  let s := match h.pendFir with | some t => s.writeFir n t | none => s
  let s := match h.pendPd with | some t => s.writePd n t | none => s
  let s := match h.pendPdEn with | some b => s.applyPdEn n b | none => s
  (s.setTx n { s.txh n with pendFir := none, pendPd := none, pendPdEn := none }).resolve (.txApply n)

/-- Lane n stands at a DAC word boundary: 128 samples a word, counted from the chain's start (R208). -/
def dacWord (s : State) (n : Nat) : Bool := (s.txh n).k % 128 == 0

/-- Some change of lane n waits for a DAC word boundary. -/
def txPending (s : State) (n : Nat) : Bool :=
  let h := s.txh n
  h.pendFir.isSome || h.pendPd.isSome || h.pendPdEn.isSome

/-! ### TX_PARAM, R226, R227 -/

/-- The parameter bytes keep R226. A field whose VALID bit is 0 changes nothing and is not range-checked (DEDUCED,
log 81). -/
def txParamOk (j : Job) : Bool :=
  j.spanOk 192 && j.p 4 1 ≤ 17 && j.p 5 1 ≤ 1 && j.pz 6 2 &&
    (if j.p 4 1 = 0 then
       j.p 8 1 < 64 && j.p 9 1 < 16 && j.pz 12 20 && (!bitAt (j.p 8 1) 0 || j.p 10 1 ≤ 70) &&
         (!bitAt (j.p 8 1) 1 || j.p 11 1 ≤ 6)
     else if j.p 4 1 = 1 then true
     else j.pz 24 8 && (List.range 16).all fun k => j.p (8 + k) 1 != 0x80)

/-- A new swing target reaches lane n (R219, R227). Where it turns the walk round within a code step, the step's start
stands and its sub-steps run the other way (DESIGN CHOICE, log 105). -/
def setSwing (s : State) (n v : Nat) : State :=
  let s := s.w F.LANE_TX_CFG_SWING n v
  if s.laneState n = 0 then s
  else
    let s := s.abortWaiters (.swing n) .aborted
    let s := if s.on F.LANE_TX_STAT_WALKING n then s else s.setTx n { s.txh n with walkAt := s.now }
    s.wb F.LANE_TX_STAT_WALKING n (s.r F.LANE_TX_STAT_SWING_CODE n != v)

/-- The 256 entries of lane n's active table. -/
def activePd (s : State) (n : Nat) : List Nat := (List.range 256).map (s.pdEntry n)

/-- The staging table of lane n: after an APPLY_PD it equals the table applied, though that waits for its boundary
(R226). A direct SETUP write of LANE_TX_PD shows in it unless a page was written since the last apply (DESIGN CHOICE,
log 104). -/
def stagingPd (s : State) (n : Nat) : List Nat := ((s.txh n).staging.or (s.txh n).pendPd).getD (s.activePd n)

/-- The settings of SEL 0 on lane n. -/
def txSettings (s : State) (j : Job) (n : Nat) : State :=
  let v := j.p 8 1
  let b := j.p 9 1
  let off := s.laneState n = 0
  let s := if bitAt v 1 then s.w F.LANE_TX_CFG_UNSQ n (j.p 11 1) else s
  let s := if bitAt v 3 then (s.wb F.LANE_TX_CFG_HOST_SQUELCH n (bitAt b 1)).squelch F.LANE_TX_STAT_SQ_HOST n (bitAt b 1)
    else s
  let s := if bitAt v 4 then s.wb F.LANE_TX_CFG_PRECODE n (bitAt b 2) else s
  let s := if bitAt v 5 then s.wb F.LANE_TX_CFG_INVERT n (bitAt b 3) else s
  let s := if bitAt v 2 then
      if off then s.applyPdEn n (bitAt b 0) else s.setTx n { s.txh n with pendPdEn := some (bitAt b 0) }
    else s
  if bitAt v 0 then s.setSwing n (j.p 10 1) else s

/-- The taps of SEL 1 on lane n. -/
def txTaps (s : State) (j : Job) (n : Nat) : State :=
  let v := j.p 8 24
  let taps := (List.range 16).map fun i => bits v (12 * i) 12
  if s.laneState n = 0 then s.writeFir n taps else s.setTx n { s.txh n with pendFir := some taps }

/-- A page written to the staging table of lane n. -/
def txPage (s : State) (j : Job) (n : Nat) : State :=
  let p := j.p 4 1 - 2
  let tab := (List.range 256).map fun e =>
    if 16 * p ≤ e && e < 16 * p + 16 then j.p (8 + (e - 16 * p)) 1 else (s.stagingPd n).getD e 0
  s.setTx n { s.txh n with staging := some tab }

/-- APPLY_PD on lane n. -/
def txApplyPd (s : State) (n : Nat) : State :=
  match (s.txh n).staging with
  | none => s
  | some t =>
    let h := { s.txh n with staging := none }
    if s.laneState n = 0 then (s.setTx n h).writePd n t else s.setTx n { h with pendPd := some t }

/-- TX_PARAM on one lane. -/
def txParamLane (s : State) (j : Job) (n : Nat) : State :=
  let s := if j.p 4 1 = 0 then s.txSettings j n else if j.p 4 1 = 1 then s.txTaps j n else s.txPage j n
  if j.p 5 1 = 1 then s.txApplyPd n else s

/-- The command, acting in state s, changes something at lane n that takes effect at a DAC word boundary; an APPLY_PD
with no page written since the last apply does not (R226, R227). -/
def txChanges (s : State) (j : Job) (n : Nat) : Bool :=
  j.p 4 1 == 1 || (j.p 4 1 == 0 && bitAt (j.p 8 1) 2) ||
    (j.p 5 1 == 1 && (2 ≤ j.p 4 1 || (s.txh n).staging.isSome))

/-- What the command waits for at lane n, of which `old` is the state it found: its changes at a DAC word boundary, and
the swing walk. -/
def txWaits (old s : State) (j : Job) (n : Nat) : List Wait :=
  (if s.txPending n && old.txChanges j n then [.txApply n] else []) ++
    (if j.p 4 1 == 0 && bitAt (j.p 8 1) 0 && s.on F.LANE_TX_STAT_WALKING n then [.swing n] else [])

/-- TX_PARAM: checked whole, then applied (R226, R227). -/
def txParam (s : State) (j : Job) : State :=
  if !txParamOk j then s.finish j.ring j.idx .badParam
  else if j.p 4 1 == 0 && j.p 8 1 ≥ 16 && (j.items.any fun n => s.laneState n != 0) then
    s.finish j.ring j.idx .notAllowed
  else
    let t := s.each j.items fun s n => s.txParamLane j n
    t.await j.ring j.idx (j.items.flatMap (s.txWaits t j))

end State

/-! ### The meanings -/

/-- TX_SAT_WINDOW, R209-R217: `x.1` symbols of lane n's chain, for which host lanes A and B bring the levels `x.2`, in
whole codewords from the boundary on. A window ends, and is judged, at its last symbol (R215). -/
def execTxSatWindow (n : Fin 192) (x : Nat × Levels × Levels) (s : State) : Out :=
  whenLive s fun s =>
    if s.on F.LANE_TX_STAT_DRV_ON n then
      let s := s.hostIn n (s.hostBits (s.r F.XBAR_MAP_A n) x.2.1) (s.hostBits (s.r F.XBAR_MAP_B n) x.2.2)
      State.txRun n x.1 (s.setTx n { s.txh n with codes := [] })
    else s

/-- UNSQUELCH_RAMP_END, R223, R224. The squelch duration drops the part of a microsecond (DESIGN CHOICE, log 106). -/
def execUnsquelchRampEnd (n : Fin 192) (s : State) : Out :=
  whenLive s fun s =>
    if s.on F.LANE_TX_STAT_RAMPING n then
      let h := s.txh n
      let s := (s.w F.LANE_TX_STAT_RAMPING n 0).setTx n { h with released := true }
      s.post n 0x1302 [(4, min ((s.now - s.episodeStart n) / 1000) (2 ^ 32 - 1))]
    else s

/-- SWING_WALK_STEP, R219. -/
def execSwingWalkStep (n : Fin 192) (s : State) : Out :=
  whenLive s fun s =>
    if s.on F.LANE_TX_STAT_WALKING n then
      let c := s.r F.LANE_TX_STAT_SWING_CODE n
      let t := s.r F.LANE_TX_CFG_SWING n
      let c' := if c < t then c + 1 else if t < c then c - 1 else c
      let s := (s.w F.LANE_TX_STAT_SWING_CODE n c').setTx n { s.txh n with walkAt := s.now }
      if c' = t then (s.w F.LANE_TX_STAT_WALKING n 0).resolve (.swing n) else s
    else s

/-- TX_PARAM_APPLY, R227: at a DAC word boundary. -/
def execTxParamApply (n : Fin 192) (s : State) : Out :=
  whenLive s fun s => if s.txPending n && s.dacWord n && s.laneState n != 0 then s.txApply n else s

/-- TX_PARAM, R226. -/
def execTxParam (q : Fin 32768) (i : Fin 65536) (s : State) : Out := actJob 0x19 q i s fun j s => s.txParam j

end Sys2Proof.Machine
end

