-- ==== Sys2Proof/Machine/LaneOps.lean ====
section
/-! DEFINITION. What the lane state machine does when a lane changes state: payload, holdover, acquisition, calibration
requests, converter and host lanes (spec/09_lanes_gearbox_host.md R229-R252 and the chapters it calls on). -/

namespace Sys2Proof.Machine

open Sys2Proof

namespace State

/-! ### Lane facts -/

/-- Lane n is in TRACK or DEGRADED. -/
def tracking (s : State) (n : Nat) : Bool := s.laneState n == 4 || s.laneState n == 5

/-- The loopback in force at lane n needs the line output squelched (R249). -/
def nearLoop (s : State) (n : Nat) : Bool := s.r F.LANE_STAT_LOOPBACK n == 3 || s.r F.LANE_STAT_LOOPBACK n == 4

/-- Slot k's filtered SLOT_FLT_N is low (R239). -/
def slotFaulted (s : State) (k : Nat) : Bool := bitAt (s.r F.SLOT_STAT_FLT) k

/-- Acquisition of lane n is held by its slot's fault (R239). -/
def held? (s : State) (n : Nat) : Bool := s.slotFaulted (slotOfLane n)

/-! ### Host lanes, R242, R245, R252 -/

/-- The host lanes that carry lane n's payload: A, and B in L400 and L400F (R11). -/
def hostsOf (s : State) (n : Nat) : List Nat :=
  (if s.on F.XBAR_MAP_A_VALID n then [s.r F.XBAR_MAP_A n] else []) ++
    (if s.on F.XBAR_MAP_B_VALID n && s.laneMode n ≤ 1 then [s.r F.XBAR_MAP_B n] else [])

/-- PRBS is generated or checked at host lane m (R252). -/
def prbsOn (s : State) (m : Nat) : Bool := s.on F.HSL_CFG_PRBS_GEN m || s.on F.HSL_CFG_PRBS_CHK m

/-- Host lane m's owner, when it has one, is out of OFF and uses it. -/
def hostOwned (s : State) (m : Nat) : Bool :=
  let o := s.r F.HSL_STAT_OWNER m
  s.on F.HSL_STAT_ROLE m && s.laneState o != 0 && (s.r F.HSL_STAT_ROLE m == 1 || s.laneMode o ≤ 1)

/-- Host lane m is powered (R242, R252). -/
def hostPowered (s : State) (m : Nat) : Bool := s.live && (s.hostOwned m || (s.serviced && s.prbsOn m))

/-- Host lane m's owner is neither OFF nor in DRAIN (R252). -/
def ownerActive (s : State) (m : Nat) : Bool :=
  let o := s.laneState (s.r F.HSL_STAT_OWNER m)
  s.on F.HSL_STAT_ROLE m && o != 0 && o != 6

/-- Host lane m's receiver stops, with no event, where it is not powered (R252). -/
def hostSettle (s : State) (m : Nat) : State :=
  if s.hostPowered m then s
  else
    let s := ((s.w F.HSL_STAT_CDR_LOCK m 0).w F.HSL_STAT_ALIGNED m 0).w F.HSL_STAT_RX_SIG m 0
    (s.w F.HSL_STAT_PRBS_LOCK m 0).setHost m {}

/-- Host lane m carries its lane's payload, or the looped host data (R229, R249). -/
def hostCarries (s : State) (m : Nat) : Bool :=
  let o := s.r F.HSL_STAT_OWNER m
  s.hostOwned m && (s.hostLoops o ||
    (s.r F.LANE_STAT_LOOPBACK o != 1 && s.on F.LANE_STAT_PAYLOAD o && !s.fusedOdd o))

/-- Host lane m transmits fill: powered, with neither payload or looped host data (R247, R249) nor its generator in
their place (R253). -/
def hostFills (s : State) (m : Nat) : Bool :=
  s.hostPowered m && !s.on F.HSL_CFG_PRBS_GEN m && !s.hostCarries m

/-- The alignment of lane n's host receivers as its registers show it; B counts in L400 and L400F alone (R245). -/
def alignA (s : State) (n : Nat) : Bool :=
  s.on F.XBAR_MAP_A_VALID n && s.on F.HSL_STAT_ALIGNED (s.r F.XBAR_MAP_A n)
def alignB (s : State) (n : Nat) : Bool :=
  s.on F.XBAR_MAP_B_VALID n && s.laneMode n ≤ 1 && s.on F.HSL_STAT_ALIGNED (s.r F.XBAR_MAP_B n)

/-- B's start minus A's, of the codeword of B that starts nearest to A's (R245). -/
def skewOf (s : State) (n : Nat) : Int :=
  if s.alignA n && s.alignB n then
    ((s.hosth (s.r F.XBAR_MAP_B n)).start - (s.hosth (s.r F.XBAR_MAP_A n)).start + 1360) % 2720 - 1360
  else 0

/-- Lane n is host-aligned (R245). -/
def hostAligned (s : State) (n : Nat) : Bool :=
  s.alignA n && (s.laneMode n > 1 || (s.alignB n && decide ((s.skewOf n).natAbs ≤ 1024)))

/-- Both host lanes of n are aligned but their skew is beyond its limit (R245). -/
def skewFails (s : State) (n : Nat) : Bool :=
  s.laneMode n ≤ 1 && s.alignA n && s.alignB n && decide (1024 < (s.skewOf n).natAbs)

/-- Host lane m carries the A stream of a lane in L100, which has no hunt, whatever the lane's state (R245). -/
def bitForBit (s : State) (m : Nat) : Bool :=
  s.r F.HSL_STAT_ROLE m == 1 && s.laneMode (s.r F.HSL_STAT_OWNER m) == 3

/-- Lane n's gearbox registers follow its host receivers; `m` is the host lane that changed and `quiet` a power-down,
which has no event (R245). -/
def gbxSettle (s : State) (n m : Nat) (quiet : Bool) : State :=
  let was := s.on F.LANE_STAT_HOST_ALIGNED n
  let failed := s.on F.LANE_GBX_STAT_A_ALIGNED n && s.on F.LANE_GBX_STAT_B_ALIGNED n &&
    decide (1024 < (s.ri F.LANE_GBX_STAT_SKEW n).natAbs)
  let s := (s.wb F.LANE_GBX_STAT_A_ALIGNED n (s.alignA n)).wb F.LANE_GBX_STAT_B_ALIGNED n (s.alignB n)
  let s := s.wi F.LANE_GBX_STAT_SKEW n (s.skewOf n)
  let s := s.wb F.LANE_STAT_HOST_ALIGNED n (s.hostAligned n)
  let s := if s.skewFails n && !failed && !quiet then s.post (s.lead n) 0x1503 [(2, s.r F.LANE_GBX_STAT_SKEW n)] else s
  if s.hostAligned n && !was then s.post (s.lead n) 0x1501 [(2, s.r F.LANE_GBX_STAT_SKEW n)]
  else if was && !s.hostAligned n && !quiet && s.laneState n != 0 && s.laneState n != 6 then
    (s.w F.LANE_EVT_HOST_ALIGN_LOST n 1).post (s.lead n) 0x1502 [(2, m)]
  else s

/-- Lane n in L100 comes up on a host lane A whose CDR has lock already, for a test pattern: ALIGNED follows CDR_LOCK
(R245). -/
def alignFollows (s : State) (n : Nat) : State :=
  let m := s.r F.XBAR_MAP_A n
  if s.on F.XBAR_MAP_A_VALID n && s.bitForBit m && s.on F.HSL_STAT_CDR_LOCK m then
    (s.w F.HSL_STAT_ALIGNED m 1).gbxSettle n m false
  else s

/-- The host lanes of lane n that are no longer powered stop (R235, R252). -/
def hostsDown (s : State) (n : Nat) : State :=
  let ms := (if s.on F.XBAR_MAP_A_VALID n then [s.r F.XBAR_MAP_A n] else []) ++
    (if s.on F.XBAR_MAP_B_VALID n then [s.r F.XBAR_MAP_B n] else [])
  s.each ms fun s m => (s.hostSettle m).gbxSettle n m true

/-! ### Payload and holdover, R232 -/

/-- Payload stops flowing to lane n's host transmitters. -/
def payloadStop (s : State) (n : Nat) : State :=
  if s.on F.LANE_STAT_PAYLOAD n then (s.w F.LANE_STAT_PAYLOAD n 0).w F.LANE_EVT_DOWN n 1 else s

/-- Lane n enters holdover for a cause: 1 inner, 2 outer, 3 signal. A second cause changes nothing. -/
def holdover (s : State) (n cause : Nat) : State :=
  if s.tracking n && !s.on F.LANE_STAT_HOLDOVER n then
    let s := (s.payloadStop n).w F.LANE_STAT_HOLDOVER n 1
    let s := (s.inc F.LANE_HOLDOVERS_COUNT n).w F.LANE_EVT_HOLDOVER n 1
    let s := s.inc F.LANE_DOWN_COUNT n
    (s.setLaneh n { s.laneh n with holdAt := s.now, resume := none }).post n 0x1002 [(1, cause)]
  else s

/-! ### State changes, R229, R230, R257, R265 -/

/-- The lane state machine of lead lane n enters state `st` for a cause of LANE_STATE; `counted` is false for the
expiry of a holdover, which LANE_DOWN counts once (R232). -/
def setLane (s : State) (n st cause : Nat) (counted : Bool := true) : State :=
  let old := s.laneState n
  let leaves := (old == 4 || old == 5) && !(st == 4 || st == 5)
  let s := s.each (s.members n) fun s m =>
    let s := (s.w F.LANE_STAT_PREV_STATE m old).w F.LANE_STAT_STATE m st
    let s := s.w F.LANE_STATE_TIME_TIME m (s.dieTime (dieOf m))
    let s := s.wb F.LANE_STAT_DEG_SPARE m (st == 5)
    let s := if leaves then (s.payloadStop m).w F.LANE_STAT_HOLDOVER m 0 else s
    s.squelch F.LANE_TX_STAT_SQ_LANE m (!(st == 3 || st == 4 || st == 5) || s.nearLoop m)
  let s := if leaves && counted then s.inc F.LANE_DOWN_COUNT n else s
  let s := if leaves then s.setLaneh n { s.laneh n with resume := none } else s
  s.post n 0x1001 [(1, old), (1, st), (1, cause)]

/-! ### Inner and outer lock, R189, R199 -/

/-- An outer mode that waited for a codeword boundary comes into force (R200). -/
def outerModeNow (s : State) (n : Nat) : State :=
  match (s.fech n).pendMode with
  | none => s
  | some m =>
    ((s.setFec n { s.fech n with pendMode := none }).w F.LANE_FEC_STAT_OUTER_MODE n m).resolve (.fecMode n)

/-- OUTER_LOCKED clears and the outer hunt goes back to the last locked candidate; `counted` is a loss by R199's own
rule. -/
def dropOuter (s : State) (n : Nat) (counted : Bool) : State :=
  let h := s.fech n
  let was := s.on F.LANE_FEC_STAT_OUTER_LOCKED n
  let s := s.setFec n { h with cand := h.lastCand, oPass := 0, oFail := 0 }
  let s := (s.w F.LANE_FEC_STAT_OUTER_LOCKED n 0).outerModeNow n
  if was && counted then
    ((s.inc F.LANE_FEC_LOL_OUTER n).w F.LANE_FEC_EVT_OUTER_LOL n 1).post n 0x3004 [(1, s.r F.LANE_FEC_STAT_OUTER_MODE n)]
  else s

/-- INNER_LOCKED clears, and OUTER_LOCKED with it; the inner hunt goes back to the last locked offset. `counted` is a
loss of lock, with the Z of the last test; a stop of the receive DSP is no loss. -/
def dropInner (s : State) (n z : Nat) (counted : Bool) : State :=
  let h := s.fech n
  let was := s.on F.LANE_FEC_STAT_INNER_LOCKED n
  let s := s.setFec n { h with offset := h.lastOffset, pass := 0, fail := 0, huntAt := s.now, stream := [], blk := 0 }
  let s := (s.w F.LANE_FEC_STAT_INNER_LOCKED n 0).dropOuter n false
  if was && counted then
    ((s.inc F.LANE_FEC_LOL_INNER n).w F.LANE_FEC_EVT_INNER_LOL n 1).post n 0x3002 [(1, z)]
  else s

/-! ### Acquisition, R170, R173 -/

/-- The receive DSP of lane n is idle. -/
def acqIdle (s : State) (n : Nat) : State :=
  let s := ((s.w F.LANE_EQ_STAT_ACQ_STEP n 0).w F.LANE_EQ_STAT_LOCKED n 0).w F.LANE_EQ_STAT_FRZ_LOL n 0
  s.dropInner n 0 false

/-- A commanded CTLE or VGA walk of lane n is over. -/
def ctleDone (s : State) (n : Nat) : State := (s.setAdc n { s.adch n with ctleWalk := none }).resolve (.ctleWalk n)
def vgaDone (s : State) (n : Nat) : State := (s.setAdc n { s.adch n with vgaWalk := none }).resolve (.vgaWalk n)

/-- VGA_AUTO comes into force at lane n; a loop that starts begins its period anew (R97, R181). -/
def vgaMode (s : State) (n : Nat) (auto : Bool) : State :=
  let h := s.adch n
  s.setAdc n (if auto && !h.vgaAuto then { h with vgaAuto := true, agcSum := 0, agcN := 0 } else { h with vgaAuto := auto })

/-- TARGET_RMS and THRESH_RMS come into force at lane n, with an AGC period (R181). -/
def agcCfgTake (s : State) (n : Nat) : State :=
  (s.setAdc n { s.adch n with target := s.r F.LANE_AGC_CFG_TARGET_RMS n, thresh := s.r F.LANE_SIGDET_CFG_THRESH_RMS n }).resolve
    (.agc n)

/-- The modes and the polarity of LANE_FE_CFG come into force at lane n (R117, R181). -/
def feModes (s : State) (n : Nat) : State :=
  (s.setAdc n { s.adch n with invert := s.on F.LANE_FE_CFG_INVERT n, ctleAuto := s.on F.LANE_FE_CFG_CTLE_AUTO n }).vgaMode
    n (s.on F.LANE_FE_CFG_VGA_AUTO n)

/-- A commanded CTLE or VGA code of lane n: walked to, one code at a time, from the code in force (R98). -/
def ctleGo (s : State) (n c : Nat) : State :=
  if s.r F.LANE_FE_STAT_CTLE_CODE n == c then s.ctleDone n else s.setAdc n { s.adch n with ctleWalk := some c }
def vgaGo (s : State) (n c : Nat) : State :=
  if s.r F.LANE_FE_STAT_VGA_CODE n == c then s.vgaDone n else s.setAdc n { s.adch n with vgaWalk := some c }

/-- The front end of lane n takes the codes, the modes and the polarity of LANE_FE_CFG, at a converter start or at the
end of a foreground pass (R95, R117, R126); the AGC period and the windows of signal detection begin anew (R97, R99). -/
def frontEndFromCfg (s : State) (n : Nat) : State :=
  let s := s.w F.LANE_FE_STAT_CTLE_CODE n (s.r F.LANE_FE_CFG_CTLE_CODE n)
  let s := (s.w F.LANE_FE_STAT_VGA_CODE n (s.r F.LANE_FE_CFG_VGA_CODE n)).feModes n
  let s := s.setAdc n { s.adch n with pass := false, agcSum := 0, agcN := 0, low := 0, high := 0 }
  ((s.agcCfgTake n).ctleDone n).vgaDone n

/-- An acquisition of lane n starts at A1. A cold one walks to the CTLE code of LANE_FE_CFG, and to the VGA code where
the loop does not run (R98); a warm one keeps what R173 lists. Both go on from the frequency integrator I they find:
R173 gives a cold start no value of I (DESIGN CHOICE, log 79). -/
def acqBegin (s : State) (n : Nat) (warm : Bool) : State :=
  let s := s.acqIdle n
  let s := (s.w F.LANE_EQ_STAT_ACQ_STEP n 1).wb F.LANE_EQ_STAT_WARM n warm
  let s := (s.wb F.LANE_EQ_STAT_T2 n (s.laneMode n == 1)).inc F.LANE_EQ_ACQ_COUNT n
  let s := s.setEq n { s.eqh n with acqAt := s.now, stepAt := s.now, good := 0, badSnr := 0, badFreq := 0,
                                    tried := [], toTry := [], fine := false, boostAt := none }
  let s := s.feModes n
  if warm then s
  else
    let s := s.ctleGo n (s.r F.LANE_FE_CFG_CTLE_CODE n)
    if s.on F.LANE_FE_CFG_VGA_AUTO n then s else s.vgaGo n (s.r F.LANE_FE_CFG_VGA_CODE n)

/-- R173 allows a warm acquisition of lane n, given that it comes from TRACK or DEGRADED: nothing it lists has changed
since the last lock, and no value stands at its range end. -/
def warmOk (s : State) (n : Nat) : Bool := !(s.eqh n).changed && !(s.eqh n).limited

/-- Lane n's acquisition starts, or is held before A1 while its slot is faulted (R239). -/
def acqStart (s : State) (n : Nat) (warm : Bool) : State :=
  if s.held? n then s.acqIdle n else s.acqBegin n warm

/-- Lane n enters ACQUIRE, or restarts there (R181, R230). -/
def toAcquire (s : State) (n cause : Nat) (warm : Bool) (counted : Bool := true) : State :=
  let s := if s.laneState n == 3 then s else s.setLane n 3 cause counted
  s.acqStart n warm

/-! ### Ramps, R136, R137 -/

/-- The samples of a frame in the stream of ADC m: 128 in a fused pair, whose boundaries coincide (R101, R111). -/
def frameLen (s : State) (m : Nat) : Nat := if s.fused m then 128 else 64

/-- The index of the next sample in the stream that ADC m belongs to. -/
def streamK (s : State) (m : Nat) : Nat := (s.adch (s.lead m)).k

/-- The next sample of ADC m begins an interleave frame. -/
def atFrame (s : State) (m : Nat) : Bool := s.streamK m % s.frameLen m == 0

/-- What element e of lane n takes now takes effect now: an element of the converter at the start of an interleave frame,
one of the transmit chain at a DAC word boundary, either at once while it does not run (R105, R137). -/
def atBoundary (s : State) (n e : Nat) : Bool :=
  if e < 91 then !s.on F.LANE_ADC_STAT_RUNNING (s.lead n) || s.atFrame n else !s.on F.LANE_TX_STAT_DRV_ON n || s.dacWord n

/-- Element e of lane n takes a whole set of values, at its next boundary (R105). -/
def putElem (s : State) (n e : Nat) (vs : List Int) (sel : List Nat := []) : State :=
  let h := s.calh n
  let rest := h.due.filter fun d => d.1 != e
  if s.atBoundary n e then ((s.setCal n { h with due := rest }).setElem n e vs).setSel n e sel
  else s.setCal n { h with due := rest ++ [(e, vs, sel)] }

/-- The running ramps of lane n. -/
def rampsOf (s : State) (n : Nat) : List Ramp := s.ramps.filter fun r => r.lane == n

/-- A command that waits for lane n's restored values ends when the last ramp has (R149). -/
def restoredCheck (s : State) (n : Nat) : State := if (s.rampsOf n).isEmpty then s.resolve (.restored n) else s

/-- A ramp's element takes its target values and the ramp is gone. -/
def rampFinish (s : State) (r : Ramp) : State :=
  let s := s.putElem r.lane r.elem (r.vals.map fun v => v.2.2) r.sel
  { s with ramps := s.ramps.filter fun x => !(x.lane == r.lane && x.elem == r.elem) }

/-- The results that wait for an element of lane n to return to service become its values: a lane that leaves service
has none in service (R121, R132; DEDUCED, log 74). -/
def targetsTake (s : State) (n : Nat) : State :=
  let s := s.each (s.calh n).targets fun s x => s.putElem n x.1 x.2
  s.setCal n { s.calh n with targets := [] }

/-- Every running ramp of lane n goes to its target (R235). -/
def rampsFinish (s : State) (n : Nat) : State :=
  ((s.each (s.rampsOf n) fun s r => s.rampFinish r).targetsTake n).restoredCheck n

/-- What ramps towards older values of element e of lane n, or waits to, is dropped: values of its own replace it. -/
def elemFresh (s : State) (n e : Nat) : State :=
  let s := { s with ramps := s.ramps.filter fun x => !(x.lane == n && x.elem == e) }
  s.setCal n { s.calh n with targets := (s.calh n).targets.del e }

/-! ### Maps, R102, R131 -/

/-- The map of the state "out j" over positions 0-7 (R131). -/
def outMap (j : Nat) : Nat := leNib ((List.range 8).map fun p => if p < j then p else p + 1)
where
  /-- Nibbles, least significant first. -/
  leNib : List Nat → Nat
  | [] => 0
  | x :: xs => x + 16 * leNib xs

/-- The element that fills position `p` of a map word. -/
def mapAt (w p : Nat) : Nat := w / 16 ^ p % 16

/-- The element that a map leaves out of service. -/
def mapOut (w : Nat) : Nat := ((List.range 9).find? fun e => (List.range 8).all fun p => mapAt w p != e).getD 8

/-- The element that the map of group g of ADC m (9: the map of groups) leaves out of service. -/
def outOf (s : State) (m g : Nat) : Nat :=
  if g = 9 then mapOut (s.r F.LANE_ADC_GMAP_P m) else mapOut (s.r F.LANE_ADC_SMAP_P (9 * m + g))

/-- A map of ADC m goes to "out j" and the change counts (R102). -/
def mapWrite (s : State) (m g j : Nat) : State :=
  let s :=
    if g = 9 then (s.w F.LANE_ADC_GMAP_P m (outMap j)).w F.LANE_ADC_STAT_SPARE_GROUP m j
    else s.w F.LANE_ADC_SMAP_P (9 * m + g) (outMap j)
  s.inc F.LANE_ADC_MAPCHG_COUNT m

/-! ### Calibration requests, R126-R135 -/

/-- A pending or running full pass of lane n is cancelled (R135); a transmit cell pass likewise. -/
def cancelFull (s : State) (n : Nat) : State :=
  let h := s.calh n
  let s := s.setCal n { h with full := none, cells := none, pending := false, onTrack := false, slotOpen := false }
  (s.resolve (.fullPass n) .aborted).resolve (.txCells n) .aborted

/-- Lane n enters CAL and waits for a place for its foreground pass (R128, R230). -/
def toCal (s : State) (n cause : Nat) : State :=
  let s := (s.setLane n 1 cause).w F.LANE_STAT_ACQ_FAILS n 0
  let s := (s.acqIdle n).cancelFull n
  s.setCal n { s.calh n with want := true, running := false }

/-- A foreground pass of lane n, wanted or running, is abandoned and its results are discarded (R146, R235). The front
end stays the pass's, so that no window is judged before the converter stops (R99). -/
def fgAbandon (s : State) (n : Nat) : State :=
  let s := s.setCal n { s.calh n with want := false, running := false, lastTry := s.now }
  s.resolve (.foreground n) .aborted

/-! ### Leaving OFF and draining, R95, R230, R235, R238 -/

/-- The converter of lane m begins its start (R95); the odd member of a pair keeps its front end off (R110). -/
def convStart (s : State) (m : Nat) : State :=
  let s := s.setAdc m { maps := (s.adch m).maps }
  let s := s.setEq m { s.eqh m with snrs := [] }
  let s := (s.wb F.LANE_FE_STAT_FE_ON m (!s.fusedOdd m)).w F.LANE_FE_STAT_SIG_PRESENT m 0
  let s := s.frontEndFromCfg m
  let s := ((s.w F.LANE_EQ_STEPS_COUNT m 0).w F.LANE_EQ_SNR_SNR_AVG m 0).w F.LANE_CAL_CARD_SLOTS m 0
  let s := if s.fusedOdd m then s else s.w F.LANE_FEC_STAT_OUTER_MODE m (s.r F.LANE_FEC_CFG_OUTER_MODE m)
  s.wb F.LANE_FEC_STAT_INNER_ON m (s.laneMode m != 3 && !s.fusedOdd m)

/-- The converter of lane m stops; the isolation switch opens first (R95). Map changes still scheduled wait for the frames
after its next start (R102; DEDUCED, log 101). -/
def convStop (s : State) (m : Nat) : State :=
  let s := s.dueTake m (· < 91)
  let s := (s.w F.LANE_FE_STAT_ISO_OPEN m 1).w F.LANE_ADC_STAT_RUNNING m 0
  let s := (s.w F.LANE_FE_STAT_FE_ON m 0).w F.LANE_FE_STAT_SIG_PRESENT m 0
  let s := ((s.w F.LANE_ADC_STAT_HOLD m 0).w F.LANE_ADC_STAT_CLEAN_COUNT m 0).w F.LANE_FE_STAT_AGC_LIMIT m 0
  (s.w F.LANE_FEC_STAT_INNER_ON m 0).setAdc m { maps := (s.adch m).maps }

/-- Lead lane n leaves OFF for CAL: the loopback set on it comes into force, converter, transmit chain and host lanes
start, and it asks for its foreground pass (R230, R249, R252). -/
def leaveOff (s : State) (n cause : Nat) : State :=
  let s := s.each (s.members n) fun s m =>
    let s := (s.w F.LANE_STAT_LOOPBACK m (s.r F.LANE_CFG_LOOPBACK m)).w F.LANE_STAT_MODE m (s.r F.LANE_CFG_MODE m)
    (s.convStart m).chainStart m
  let s := s.toCal n cause
  s.each (s.members n) fun s m => (s.alignFollows m).resolve (.laneUp m)

/-- Lead lane n enters DRAIN (R235): squelch, fill, the pass abandoned, ramps at their targets, commands that wait on
the lane aborted. -/
def toDrain (s : State) (n cause : Nat) : State :=
  let s := (s.setLane n 6 cause).setLaneh n { s.laneh n with drainCause := cause }
  let s := ((s.acqIdle n).fgAbandon n).cancelFull n
  s.each (s.members n) fun s m =>
    let s := (s.rampsFinish m).setAdc m { s.adch m with vgaWalk := none, ctleWalk := none }
    ((s.abortWaiters (.ctleWalk m) .aborted).abortWaiters (.vgaWalk m) .aborted).abortWaiters (.agc m) .aborted

/-- The drain of lead lane n ends: everything of R235 is stopped and the lane is OFF. -/
def toOff (s : State) (n : Nat) : State :=
  let s := s.each (s.members n) fun s m => (s.convStop m).chainStop m
  let s := s.setLane n 0 (s.laneh n).drainCause
  s.each (s.members n) fun s m => (s.hostsDown m).resolve (.laneOff m)

/-! ### Payload lock, R231 -/

/-- The signal as the receive DSP sees it: digital near loopback takes it as present (R249). -/
def sigOk (s : State) (n : Nat) : Bool :=
  s.on F.LANE_FE_STAT_SIG_PRESENT n || s.r F.LANE_STAT_LOOPBACK n == 3

/-- Every condition of lane n's mode holds. -/
def payloadLocked (s : State) (n : Nat) : Bool :=
  s.on F.LANE_EQ_STAT_LOCKED n && (s.laneMode n == 3 || s.on F.LANE_FEC_STAT_INNER_LOCKED n) &&
    (s.laneMode n ≥ 2 || s.on F.LANE_FEC_STAT_OUTER_LOCKED n)

/-- The state a lane with payload lock tracks in: DEGRADED while spares are exhausted (R230). -/
def trackState (s : State) (n : Nat) : Nat :=
  if (s.members n).any fun m => s.on F.LANE_CAL_STAT_SPARE_EXHAUSTED m then 5 else 4

/-- Lane n takes note of payload lock: from ACQUIRE it goes to TRACK or DEGRADED, and a holdover ends, with payload to
resume (R230-R233). A full pass that waited for TRACK becomes pending (R130). -/
def lockCheck (s : State) (n : Nat) : State :=
  if !s.payloadLocked n then s
  else if s.laneState n == 3 then
    let s := s.setLane n (s.trackState n) (if s.laneMode n == 3 then 3 else 4)
    let s := s.w F.LANE_STAT_ACQ_FAILS n 0
    let h := s.calh n
    (s.setCal n { h with pending := h.pending || h.onTrack, onTrack := false }).setLaneh n
      { s.laneh n with nextB := false, resume := none }
  else if s.tracking n && s.on F.LANE_STAT_HOLDOVER n && s.sigOk n then
    (s.w F.LANE_STAT_HOLDOVER n 0).setLaneh n { s.laneh n with resume := some (s.laneh n).holdAt }
  else s

/-- An acquisition failure of lane n with a cause of R172, other than a missing signal (R233). -/
def acqFailed (s : State) (n cause stateCause : Nat) : State :=
  if cause == 1 then s.acqBegin n false
  else
    let s := s.inc F.LANE_STAT_ACQ_FAILS n
    if s.r F.LANE_STAT_ACQ_FAILS n == s.r F.LANE_CFG_ACQ_RETRY n then s.toCal n stateCause else s.acqBegin n false

end State

end Sys2Proof.Machine
end

