-- ==== Sys2Proof/Machine/Converters.lean ====
section
/-! DEFINITION. Lane converters: sample correction, windows, overload, signal detection, gain control, walks, map
changes and ramps (spec/04_lane_converters.md, R136 and R137 of spec/05_converter_calibration.md). -/

namespace Sys2Proof.Machine

open Sys2Proof

/-- A magnitude one gain sub-step up or down: times or over 10^(1/1280), to a neighbouring value (R156, log 10). -/
def subStep (up : Bool) (m : Nat) : Nat :=
  if m = 0 then 0
  else
    let q := searchMax 12 fun q => if up then decide ((q ^ 5) ^ 256 ≤ 10 * (m ^ 5) ^ 256) else decide (10 * (q ^ 5) ^ 256 ≤ (m ^ 5) ^ 256)
    q + (Config.roundsUp 1 m 1280).toNat

/-- A level scaled through the 16 sub-steps of one code (R98, R156). -/
def scaleLevel (up : Bool) (l : Int) : Int :=
  let m := (List.range 16).foldl (fun m _ => subStep up m) l.natAbs
  if l < 0 then -(m : Int) else m

namespace State

/-! ### Correction, R101, R104 -/

/-- The physical group and sub-slice of ADC m that take its sample k (R101). -/
def elemOf (s : State) (m k : Nat) : Nat × Nat :=
  let g := mapAt (s.r F.LANE_ADC_GMAP_P m) (k % 8)
  (g, mapAt (s.r F.LANE_ADC_SMAP_P (9 * m + g)) (k / 8 % 8))

/-- The ten decisions of a conversion combined to the 12-bit internal value, LSB 1/16 output code (R100): weights count
1/256, bit b of `d` is 1 for +1. How the sum is rounded is not given (log 10), nor what a sum beyond 12 bits becomes
(log 12). -/
def combine (ws : List Nat) (d : Nat) : Int :=
  let sum := sumI ((ws.zip (List.range 10)).map fun (w, b) => if bitAt d b then (w : Int) else -w)
  let v := freeDiv 22 sum 16
  if -2048 ≤ v ∧ v ≤ 2047 then v else sint 12 (Config.unstated 2 (uint 16 v))

/-- The ten weights of a sub-slice. -/
def weights (s : State) (i : Nat) : List Nat :=
  [F.LANE_CAL_SS_W0, F.LANE_CAL_SS_W1, F.LANE_CAL_SS_W2, F.LANE_CAL_SS_W3, F.LANE_CAL_SS_W4, F.LANE_CAL_SS_W5,
    F.LANE_CAL_SS_W6, F.LANE_CAL_SS_W7, F.LANE_CAL_SS_W8, F.LANE_CAL_SS_W9].map fun f => s.r f i

/-- 16 · 2^32 · x[k] of R104 after offset and gain, from the ten decisions of sample k of ADC m. Offsets count 1/64 of
an output code. -/
def sampleX (s : State) (m k d : Nat) : Int :=
  let (g, q) := s.elemOf m k
  let i := 81 * m + (9 * g + q)
  (16 * combine (s.weights i) d - 4 * s.ri F.LANE_CAL_SS_OFFSET i) * (65536 + s.ri F.LANE_CAL_SS_GAIN i) *
    (65536 + s.ri F.LANE_CAL_GRP_GAIN (9 * m + g))

/-- The ADC and its own sample index for stream index j of lane n: the two converters of a pair alternate (R111). -/
def streamAt (s : State) (n j : Nat) : Nat × Nat := if s.fused n then (n + j % 2, j / 2) else (n, j)

/-- x[k] of R104 for stream index j of lane n. -/
def streamX (s : State) (n j d : Nat) : Int := let (m, k) := s.streamAt n j; s.sampleX m k d

/-- The bandwidth correction of the group that takes stream index j of lane n. -/
def streamBw (s : State) (n j : Nat) : Int :=
  let (m, k) := s.streamAt n j
  s.ri F.LANE_CAL_GRP_BW (9 * m + (s.elemOf m k).1)

/-- out[k] of R104 before saturation and INVERT, from x[k], its neighbours and the bandwidth correction of its group. -/
def outCode (bw xm x xp : Int) : Int := roundDiv (x * 2 ^ 15 + bw * (xp - xm)) (2 ^ 55)

/-- A raw sample of stream index j of lane n: the stored weights alone, rounded and saturated (R113). -/
def rawCode (s : State) (n j d : Nat) : Int :=
  let (m, k) := s.streamAt n j
  let (g, q) := s.elemOf m k
  sat127 (roundDiv (combine (s.weights (81 * m + (9 * g + q))) d) 16)

/-! ### Levels, R154, R156 -/

/-- The four level estimates of lane n. -/
def levels (s : State) (n : Nat) : List Int :=
  [s.ri F.LANE_EQ_LVL_L0 n, s.ri F.LANE_EQ_LVL_L1 n, s.ri F.LANE_EQ_LVL_L2 n, s.ri F.LANE_EQ_LVL_L3 n]

/-- The levels of lane n are written. -/
def setLevels (s : State) (n : Nat) (l : List Int) : State :=
  (((s.wi F.LANE_EQ_LVL_L0 n (l.getD 0 0)).wi F.LANE_EQ_LVL_L1 n (l.getD 1 0)).wi F.LANE_EQ_LVL_L2 n
    (l.getD 2 0)).wi F.LANE_EQ_LVL_L3 n (l.getD 3 0)

/-- The values of R154 of lane n that stand at a range end: taps by index, 48 for h1, and the levels from 49 on. -/
def atEnds (s : State) (n : Nat) : List Nat :=
  whichBelow 53 fun i =>
    if i < 48 then
      let c := s.ri F.LANE_EQ_FFE_COEF (48 * n + i)
      c == -32768 || c == 32767
    else if i = 48 then (s.ri F.LANE_EQ_H1_H1 n).natAbs == 3584
    else ((s.levels n).getD (i - 49) 0).natAbs == 2032

/-- Values of lane n have moved: TAP_LIMIT while one stands at its end, and its event when the first of them gets there,
again only after none did (R154, R182). The manual gives a level no index (log 12). -/
def limitCheck (s : State) (n : Nat) : State :=
  let e := s.atEnds n
  let was := (s.eqh n).limited
  let s := s.setEq n { s.eqh n with limited := !e.isEmpty }
  match e with
  | [] => s
  | i :: _ =>
    let s := s.w F.LANE_EQ_EVT_TAP_LIMIT n 1
    if was then s else s.post n 0x1204 [(1, if i ≤ 48 then i else Config.unstated 8 i % 256)]

/-- The levels follow one code of the VGA (R156), within their range (R154). -/
def scaleLevels (s : State) (n : Nat) (up : Bool) : State :=
  (s.setLevels n ((s.levels n).map fun l => clampI (-2032) 2032 (scaleLevel up l))).limitCheck n

/-- The VGA code in force moves by one, and the levels with it. -/
def vgaMove (s : State) (n : Nat) (up : Bool) : State :=
  let v := s.r F.LANE_FE_STAT_VGA_CODE n
  (s.w F.LANE_FE_STAT_VGA_CODE n (if up then v + 1 else v - 1)).scaleLevels n up

/-- AGC_LIMIT as found; its event is posted when it goes to 1 (R97, R109, R118). -/
def agcLimit (s : State) (n : Nat) (b : Bool) : State :=
  let was := s.on F.LANE_FE_STAT_AGC_LIMIT n
  let s := s.wb F.LANE_FE_STAT_AGC_LIMIT n b
  if b && !was then (s.w F.LANE_ADC_EVT_AGC_LIMIT n 1).post n 0x1105 else s

/-! ### Windows, R99, R107-R109 -/

/-- Overload hold after a window with its clip judgement (R108, R109): at VGA code 0 an episode of overload raises
AGC_LIMIT once, whatever the periods of the loop find before the hold ends. -/
def holdStep (s : State) (n : Nat) (beyond : Bool) : State :=
  if beyond then
    let s := s.w F.LANE_ADC_STAT_CLEAN_COUNT n 0
    if s.on F.LANE_ADC_STAT_HOLD n then
      if (s.adch n).vgaAuto && s.r F.LANE_FE_STAT_VGA_CODE n == 0 then
        (s.setAdc n { s.adch n with overLimit := true }).agcLimit n true
      else s
    else
      let s := (s.w F.LANE_ADC_STAT_HOLD n 1).inc F.LANE_ADC_HOLDS_COUNT n
      let s := s.setAdc n { s.adch n with holdK := (s.adch n).k }
      (s.w F.LANE_ADC_EVT_OVERLOAD n 1).post n 0x1101
  else if s.on F.LANE_ADC_STAT_HOLD n then
    let c := s.r F.LANE_ADC_STAT_CLEAN_COUNT n + 1
    if c ≥ 16 then
      let s := s.setAdc n { s.adch n with overLimit := false }
      ((s.w F.LANE_ADC_STAT_HOLD n 0).w F.LANE_ADC_STAT_CLEAN_COUNT n 0).post n 0x1102
    else s.w F.LANE_ADC_STAT_CLEAN_COUNT n c
  else s

/-- Signal detection after a window with this sum of squares over `cnt` samples (R99); the lane state machine hears of
a change (R230). -/
def sigStep (s : State) (n sq cnt : Nat) : State :=
  let h := s.adch n
  let th := h.thresh
  let low := if s.r F.LANE_FE_STAT_VGA_CODE n == 72 && decide (sq < th ^ 2 * cnt) then h.low + 1 else 0
  let high := if decide ((th + 2) ^ 2 * cnt ≤ sq) then h.high + 1 else 0
  let s := s.setAdc n { h with low := min low 4, high := min high 4 }
  if low ≥ 4 && s.on F.LANE_FE_STAT_SIG_PRESENT n then
    let s := ((s.w F.LANE_FE_STAT_SIG_PRESENT n 0).w F.LANE_ADC_EVT_SIGNAL_LOST n 1).post n 0x1103
    if s.sigOk n then s else s.holdover n 3
  else if high ≥ 4 && !s.on F.LANE_FE_STAT_SIG_PRESENT n then
    ((s.w F.LANE_FE_STAT_SIG_PRESENT n 1).post n 0x1104).lockCheck n
  else s

/-- The control island of lane n's die (R67). -/
def controlIsland (n : Nat) : Nat := if n < 96 then 15 else 39

/-- The residual activity of a foreground pass has been measured over 1 ms, stretched by the throttle of the die's
control island (R126, R128): the VGA goes to code 24 and the injector comes on. -/
def activityEnd (s : State) (n : Nat) : State :=
  let h := s.calh n
  let pass := s.r F.SYS_ISL_MARGIN_TS_PASS (controlIsland n)
  if h.measured || h.actN = 0 || (s.now - h.fgAt) * pass < 16000000 then s
  else
    let act := freeSqrt 23 (256 * h.actSq) h.actN
    let s := (s.setCal n { h with measured := true }).w F.LANE_CAL_ACT_ACT n act
    let noisy := decide (s.r F.LANE_CAL_ACT_CFG_ACT_THRESH n < act)
    let s := (s.wb F.LANE_CAL_STAT_NOISY n noisy).w F.LANE_FE_STAT_VGA_CODE n 24
    if noisy then s.post n 0x2003 else s

/-- A window of lane n ends: its figures are recorded (R116), and it is judged unless the front end serves a foreground
pass (R99, R128). A clip count that does not fit LAST_CLIPS is unstated (log 12). -/
def windowEnd (s : State) (n : Nat) : State :=
  let h := s.adch n
  let w := h.win
  let s := s.setAdc n { h with win := {}, agcSum := if h.vgaAuto && !h.pass then h.agcSum + w.sq else h.agcSum,
                               agcN := if h.vgaAuto && !h.pass then h.agcN + w.n else h.agcN }
  let s := s.w F.LANE_ADC_WIN_LAST_CLIPS n (if w.clips < 65536 then w.clips else Config.unstated 1 w.clips)
  let s := s.w F.LANE_ADC_WIN_RMS n (freeSqrt 2 (256 * w.sq) w.n)
  let s := (s.wi F.LANE_ADC_PEAK_PEAK_POS n w.hi).wi F.LANE_ADC_PEAK_PEAK_NEG n w.lo
  if h.pass then s.activityEnd n
  else (s.holdStep n (decide (w.clips * 4096 > windowN (s.laneMode n)))).sigStep n w.sq w.n

/-- Sample j of lane n's stream enters the unit under way of the sample tap with its code, its raw code, whether it
clipped and what it found at its conversion; the 512th completes the unit (R106, R113, R114). A map change at the first
sample of a unit is taken as inside it (DEDUCED, log 90). -/
def tapIn (s : State) (n j : Nat) (c raw : Int) (clip : Bool) (x : Seen) : State :=
  let h := s.adch n
  let u := h.tap
  let u := { u with
    seen := if j % 512 == 0 then x else u.seen, clip := u.clip || clip,
    mapchg := u.mapchg || (s.members n).any fun m => (s.adch m).mapK == some j,
    iso := u.iso || x.iso, out := uint 8 c :: u.out, raw := uint 8 raw :: u.raw }
  if j % 512 = 511 then
    let v := { u with no := j / 512, out := u.out.reverse, raw := u.raw.reverse }
    s.setAdc n { h with tap := {}, units := v :: h.units.take 1 }
  else s.setAdc n { h with tap := u }

/-- The code `x` of sample j of lane n, before saturation, and its raw code: it goes to the sample tap, counts in the
window under way and, while a foreground pass listens to the dark input, in its activity; the N-th of a window ends it
(R104, R106, R107, R113, R126). -/
def codeIn (s : State) (n j : Nat) (x raw : Int) (seen : Seen) : State :=
  let c := if seen.invert then -sat127 x else sat127 x
  let beyond := decide (x > 127 ∨ x < -127)
  let s := s.tapIn n j c raw beyond seen
  let h := s.adch n
  let w := h.win
  let sq := (c * c).toNat
  let s := s.setAdc n { h with win := { n := w.n + 1, clips := w.clips + beyond.toNat, sq := w.sq + sq,
                                        hi := max w.hi c, lo := min w.lo c } }
  let s := if beyond then s.inc F.LANE_ADC_CLIP_COUNT n else s
  let s := if h.pass && !(s.calh n).measured then
      s.setCal n { s.calh n with actSq := (s.calh n).actSq + sq, actN := (s.calh n).actN + 1 }
    else s
  if w.n + 1 ≥ windowN (s.laneMode n) then s.windowEnd n else s

/-! ### Freezes, R165 -/

/-- A host freeze is in force: in TRACK and DEGRADED alone. -/
def frzHost (s : State) (n : Nat) : Bool := (s.eqh n).hostFreeze && s.tracking n

/-- The receive DSP of lane n sees no signal. -/
def frzSignal (s : State) (n : Nat) : Bool := s.on F.LANE_ADC_STAT_RUNNING n && !s.fusedOdd n && !s.sigOk n

/-- Adaptation is frozen. -/
def frozenEq (s : State) (n : Nat) : Bool :=
  s.on F.LANE_ADC_STAT_HOLD n || s.frzSignal n || s.on F.LANE_EQ_STAT_FRZ_LOL n || s.frzHost n

/-- Some freeze of R165 is in force, that of a quantity which LANE_EQ_CFG disables among them (R176, FROZEN). -/
def anyFreeze (s : State) (n : Nat) : Bool :=
  s.frozenEq n || !(s.on F.LANE_EQ_CFG_ADAPT_FFE n && s.on F.LANE_EQ_CFG_ADAPT_H1 n && s.on F.LANE_EQ_CFG_ADAPT_LVL n)

/-! ### Samples, R104, R106 -/

/-- What a sample of lane n finds now (R104, R114, R176). -/
def seenNow (s : State) (n : Nat) : Seen :=
  { time := s.dieTime (dieOf n), hold := s.on F.LANE_ADC_STAT_HOLD n, iso := s.on F.LANE_FE_STAT_ISO_OPEN n,
    invert := (s.adch n).invert, locked := s.on F.LANE_EQ_STAT_LOCKED n, frozen := s.anyFreeze n }

/-- One conversion of lane n's stream: the code of the sample before it can now be formed, since the bandwidth step
takes both neighbours; at the first sample x[k-1] is x[k] (R104). -/
def sampleIn (s : State) (n d : Nat) : State :=
  let s := if s.atFrame n then s.each (s.members n) fun s m => s.dueTake m (· < 91) else s
  let h := s.adch n
  let x := s.streamX n h.k d
  let s := s.setAdc n { h with k := h.k + 1, lastX := h.cur.map (·.1),
                               cur := some (x, s.streamBw n h.k, s.rawCode n h.k d), seen := s.seenNow n }
  match h.cur with
  | none => s
  | some (c, bw, raw) => s.codeIn n (h.k - 1) (outCode bw (h.lastX.getD c) c x) raw h.seen

/-- The lane's converter runs and its windows are its own: the odd member of a pair keeps none (R112). -/
def adcRuns (s : State) (n : Nat) : Bool := s.on F.LANE_ADC_STAT_RUNNING n && !s.fusedOdd n

/-! ### AGC, R97 -/

/-- The end of an AGC period of lane n: one code at most. AGC_LIMIT is judged here alone, so that it keeps its last
value once VGA_AUTO is 0 and the loop no longer runs (DESIGN CHOICE, log 75). -/
def agcPeriod (s : State) (n : Nat) : State :=
  let h := s.adch n
  let t := h.target
  let v := s.r F.LANE_FE_STAT_VGA_CODE n
  let s := s.setAdc n { h with agcSum := 0, agcN := 0 }
  if h.agcN = 0 then s
  else
    let above := decide (h.agcSum * 10000 > (106 * t) ^ 2 * h.agcN)
    let below := decide (h.agcSum * 106 ^ 2 < (100 * t) ^ 2 * h.agcN)
    let s :=
      if above && v > 0 then s.vgaMove n false
      else if below && v < 72 && !s.on F.LANE_ADC_STAT_HOLD n then s.vgaMove n true
      else s
    let v := s.r F.LANE_FE_STAT_VGA_CODE n
    s.agcLimit n ((above && v == 0) || (below && v == 72) || h.overLimit)

/-! ### Walks, R98, R175 -/

/-- One code of a commanded VGA walk; in overload hold only downwards. -/
def vgaWalkStep (s : State) (n : Nat) : State :=
  match (s.adch n).vgaWalk with
  | none => s
  | some t =>
    let v := s.r F.LANE_FE_STAT_VGA_CODE n
    let s := if v < t then (if s.on F.LANE_ADC_STAT_HOLD n then s else s.vgaMove n true)
      else if t < v then s.vgaMove n false else s
    if s.r F.LANE_FE_STAT_VGA_CODE n == t then s.vgaDone n else s

/-- One code of a commanded CTLE walk; in overload hold it pauses. The FFE adapts faster for 8 µs after it (R174). -/
def ctleWalkStep (s : State) (n : Nat) : State :=
  match (s.adch n).ctleWalk with
  | none => s
  | some t =>
    if s.on F.LANE_ADC_STAT_HOLD n then s
    else
      let c := s.r F.LANE_FE_STAT_CTLE_CODE n
      let s := s.w F.LANE_FE_STAT_CTLE_CODE n (if c < t then c + 1 else if t < c then c - 1 else c)
      let s := s.setEq n { s.eqh n with boostAt := some s.now }
      if s.r F.LANE_FE_STAT_CTLE_CODE n == t then s.ctleDone n else s

/-! ### Ramps, R136, R137 -/

/-- Fields of an element whose trim is analogue (R103, R136). -/
def analogue (f : Fld) : Bool :=
  f == F.LANE_CAL_SS_CTRIM || f == F.LANE_CAL_GRP_SKEW || f == F.LANE_CAL_PAIR_SKEW || f == F.LANE_CAL_TX_TRIM ||
    f == F.LANE_CAL_TXB_TRIM

/-- A ramp of element e of lane n starts towards `b` from the values in force, in place of one that runs; `sel` comes
with its last step. -/
def rampStart (s : State) (n e : Nat) (b : List Int) (sel : List Nat := []) : State :=
  let a := s.elemVals n e
  let far := (((elemFields e).zip (a.zip b)).filter fun x => analogue x.1).map fun x => (x.2.2 - x.2.1).natAbs
  let len := (s.r F.LANE_CAL_CFG_RAMP_US n :: far).foldl max 0
  let r : Ramp := { lane := n, elem := e, n := len, vals := (List.range a.length).zip (a.zip b), sel := sel }
  { s with ramps := s.ramps.filter (fun x => !(x.lane == n && x.elem == e)) ++ [r] }

/-- The values of a ramp after its next tick, the targets after its last (R136). -/
def rampVals (r : Ramp) : List Int :=
  if r.t + 1 < r.n then r.vals.map fun v => v.2.1 + Int.tdiv ((v.2.2 - v.2.1) * ((r.t + 1 : Nat) : Int)) (r.n : Int)
  else r.vals.map fun v => v.2.2

/-- A ramp of lane n after a tick: one further, or gone; those of other lanes stand (R137). -/
def rampNext (n : Nat) (r : Ramp) : Option Ramp :=
  if r.lane != n then some r else if r.t + 1 < r.n then some { r with t := r.t + 1 } else none

/-- One tick of the ramps of lane n: the values of each advance together, at the boundary after it, and with the last come
the selecting fields (R105, R136, R137). -/
def rampsTick (s : State) (n : Nat) : State :=
  let t := s.each (s.rampsOf n) fun s r => s.putElem n r.elem (rampVals r) (if r.t + 1 < r.n then [] else r.sel)
  { t with ramps := s.ramps.filterMap (rampNext n) }

/-! ### Map changes, R102, R131 -/

/-- Sub-slice q of group g of ADC m is in service. -/
def ssInService (s : State) (m g q : Nat) : Bool :=
  mapOut (s.r F.LANE_ADC_GMAP_P m) != g && mapOut (s.r F.LANE_ADC_SMAP_P (9 * m + g)) != q

/-- Element e (a sub-slice or a group) of lane m is in service. -/
def inService (s : State) (m e : Nat) : Bool :=
  if e < 81 then s.ssInService m (e / 9) (e % 9)
  else if e < 90 then mapOut (s.r F.LANE_ADC_GMAP_P m) != e - 81
  else if e = 90 then true
  else if e < 107 then s.r F.LANE_TX_STAT_SPARE_CELL m != e - 91
  else true

/-- Elements that a change took out of service finish their ramps, and those it put into service start towards the
results that waited for them (R132, R137). -/
def serviceSettle (s : State) (m : Nat) (was : List Bool) : State :=
  let s := s.each (List.range 108) fun s e =>
    if was.getD e false && !s.inService m e then
      s.each (s.ramps.filter fun r => r.lane == m && r.elem == e) fun s r => s.rampFinish r
    else if !was.getD e false && s.inService m e then
      match (s.calh m).targets.get e [] with
      | [] => s
      | b => (s.rampStart m e b).setCal m { s.calh m with targets := (s.calh m).targets.del e }
    else s
  s.restoredCheck m

/-- The service of every element of lane m. -/
def service (s : State) (m : Nat) : List Bool := (List.range 108).map (s.inService m)

/-- A map change may apply at ADC m's boundary: one a boundary, and in overload hold only the one due at the first
boundary after it began (R102, R108). -/
def mapMay (s : State) (m : Nat) : Bool :=
  s.on F.LANE_ADC_STAT_RUNNING (s.lead m) && s.atFrame m && (s.adch m).mapK != some (s.streamK m) &&
    (!s.on F.LANE_ADC_STAT_HOLD (s.lead m) || decide (s.streamK m < (s.adch (s.lead m)).holdK + s.frameLen m))

/-- The scheduled map change of ADC m that applies next: the oldest of the groups, else the oldest (R102). -/
def mapNext (s : State) (m : Nat) : Option (Nat × Nat) :=
  ((s.adch m).maps.find? fun c => c.1 == 9).or (s.adch m).maps.head?

/-- A scheduled map change of ADC m applies at a frame boundary. -/
def mapChange (s : State) (m : Nat) : State :=
  match s.mapNext m with
  | none => s
  | some (g, j) =>
    let was := s.service m
    let s := s.setAdc m { s.adch m with maps := (s.adch m).maps.erase (g, j), mapK := some (s.streamK m) }
    (s.mapWrite m g j).serviceSettle m was

/-- The next change of the out-of-service transmit cell of lane m applies at a DAC word boundary (R131, R218). The cell
that comes in has its trim: it is written while the cell is out of service, and a later result waits for it (R132). -/
def cellSwap (s : State) (m : Nat) : State :=
  match (s.txh m).pendCell with
  | [] => s
  | c :: rest =>
    let was := s.service m
    ((s.setTx m { s.txh m with pendCell := rest }).cellWrite m c).serviceSettle m was

end State

/-! ### The meanings -/

/-- CONVERTER_RUNNING, R95: the ADC of lane n starts producing samples. -/
def execConverterRunning (n : Fin 192) (s : State) : Out :=
  whenLive s fun s =>
    if s.laneState n == 1 && !s.on F.LANE_ADC_STAT_RUNNING n then s.w F.LANE_ADC_STAT_RUNNING n 1 else s

/-- AGC_PERIOD, R97, R181: a period ends, which the loop judges while it runs, and the next one begins. -/
def execAgcPeriod (n : Fin 192) (s : State) : Out :=
  whenLive s fun s =>
    if s.adcRuns n then (if (s.adch n).vgaAuto && !(s.adch n).pass then s.agcPeriod n else s).agcCfgTake n else s

/-- FE_WALK_STEP, R98, R175. -/
def execFeWalkStep (n : Fin 192) (s : State) : Out :=
  whenLive s fun s => if s.adcRuns n then (s.vgaWalkStep n).ctleWalkStep n else s

/-- ADC_WINDOW, R107-R109, R99: the ten decisions of each conversion since the last run of samples, in stream order.
A window ends, and is judged, at its N-th sample; map changes and ramp steps come between runs, at frame boundaries. -/
def execAdcWindow (n : Fin 192) (samples : List (BitVec 10)) (s : State) : Out :=
  whenLive s fun s => if s.adcRuns n then s.each (samples.map (·.toNat)) fun s d => s.sampleIn n d else s

/-- MAP_CHANGE, R102: at a frame boundary. -/
def execMapChange (n : Fin 192) (s : State) : Out := whenLive s fun s => if s.mapMay n then s.mapChange n else s

/-- TX_CELL_SWAP, R131, R218: at a DAC word boundary. -/
def execTxCellSwap (n : Fin 192) (s : State) : Out := whenLive s fun s => if s.on F.LANE_TX_STAT_DRV_ON n && s.dacWord n then s.cellSwap n else s

/-- RAMP_STEP, R136, R137: a tick of 1 µs. -/
def execRampStep (n : Fin 192) (s : State) : Out :=
  whenLive s fun s =>
    if s.on F.LANE_ADC_STAT_HOLD (s.lead n) then s
    else (s.rampsTick n).restoredCheck n

end Sys2Proof.Machine
end

