-- ==== Sys2Proof/Machine/Equaliser.lean ====
section
/-! DEFINITION. Receive equalisation and timing recovery: the signal path, detection, adaptation, timing, acquisition,
lock and EQ_PARAM (spec/06_receive_equalisation.md). Values of the signal path count 2^-16 of a code; levels count 1/16
and coefficients 2^-12, as their registers do. A block of samples lists x[k + CURSOR - 49], x[k + CURSOR - 48], ... for
its first symbol k, oldest first. -/

namespace Sys2Proof.Machine

open Sys2Proof

/-- One decided symbol: level index, the one before it, reliabilities of its bits, y and e of R153. -/
structure Sym where
  a : Nat
  pa : Nat
  y : Int
  e : Int
  relM : Nat := 15
  relL : Nat := 15
deriving DecidableEq, Repr

/-- The coefficients that the signal path of a lane uses (R153). -/
structure EqCoef where
  c : List Int
  h1 : Int
  l : List Int
deriving DecidableEq, Repr

namespace EqCoef

/-- Level `a` in units of 2^-16. -/
def lvl (q : EqCoef) (a : Nat) : Int := q.l.getD a 0 * 4096

/-- h1 · L[a] in units of 2^-16. -/
def post (q : EqCoef) (a : Nat) : Int := q.h1 * q.l.getD a 0

/-- L[3] - L[0], which is 48 times the mean level spacing S in codes (R154). -/
def span (q : EqCoef) : Int := q.l.getD 3 0 - q.l.getD 0 0

/-- Threshold T[j] (R154). -/
def thr (q : EqCoef) (j : Nat) : Int := (q.l.getD j 0 + q.l.getD (j + 1) 0) * 2048

/-- y of a symbol whose main tap's block position gives index `i` to the tap-0 sample (R153). -/
def ffe (q : EqCoef) (xs : Array Int) (i : Nat) : Int :=
  16 * sumI ((q.c.zip (List.range 48)).map fun (c, t) => c * xs.getD (i - t) 0)

/-- REL of R157 for a distance; without a positive S the formula gives no reliability (log 12) but for distance 0 with a
negative S. -/
def relDfe (q : EqCoef) (d : Nat) : Nat :=
  if q.span < 0 && d == 0 then 0
  else if q.span.toNat = 0 then Config.unstated 4 d % 16 else min 15 (3 * d / (128 * q.span.toNat))

/-- REL of R158 for a metric difference; with S 0 the formula has no value (log 12). -/
def relMl (q : EqCoef) (d : Nat) : Nat :=
  if q.span = 0 then Config.unstated 15 d % 16 else min 15 (36864 * d / (2 ^ 32 * q.span.natAbs ^ 2))

/-- e of a symbol (R153). -/
def err (q : EqCoef) (y : Int) (a pa : Nat) : Int := y - q.lvl a - q.post pa

/-! ### DFE, R157 -/

/-- The decision on one symbol and its reliabilities. -/
def dfe (q : EqCoef) (pa : Nat) (y : Int) : Sym :=
  let z := y - q.post pa
  let a := if z < q.thr 0 then 0 else if z < q.thr 1 then 1 else if z < q.thr 2 then 2 else 3
  { a := a, pa := pa, y := y, e := q.err y a pa, relM := q.relDfe (z - q.thr 1).natAbs,
    relL := q.relDfe (min (z - q.thr 0).natAbs (z - q.thr 2).natAbs) }

/-- The decisions on a run of symbols. -/
def dfeRun (q : EqCoef) : Nat → List Int → List Sym
  | _, [] => []
  | pa, y :: ys => let v := q.dfe pa y; v :: dfeRun q v.a ys

/-! ### MLSE, R158 -/

/-- The metric of a path into each state; none where no path reaches it. -/
abbrev Metrics := List (Option Int)

/-- The branch metric from `a'` with symbol `a`. -/
def branch (q : EqCoef) (y : Int) (a a' : Nat) : Int := (q.err y a a') ^ 2

/-- The best predecessor of state `a`, a tie going to the lower index. -/
def bestPred (q : EqCoef) (y : Int) (m : Metrics) (a : Nat) : Option (Int × Nat) :=
  (List.range 4).foldl (fun best a' =>
    match m.getD a' none, best with
    | none, b => b
    | some x, none => some (x + q.branch y a a', a')
    | some x, some b => if x + q.branch y a a' < b.1 then some (x + q.branch y a a', a') else some b) none

/-- One trellis step of the metrics. -/
def advance (q : EqCoef) (y : Int) (m : Metrics) : Metrics := (List.range 4).map fun a => (q.bestPred y m a).map (·.1)

/-- The state of the best metric, a tie going to the lower index. -/
def bestState (m : Metrics) : Nat :=
  ((List.range 4).foldl (fun b a =>
    match m.getD a none, m.getD b none with
    | some x, some z => if x < z then a else b
    | some _, none => a
    | none, _ => b) 0)

/-- The metrics after each of a run of symbols. -/
def forward (q : EqCoef) : Metrics → List Int → List Metrics
  | _, [] => []
  | m, y :: ys => let m' := q.advance y m; m' :: forward q m' ys

/-- The path that ends in `state`, traced back: newest first, over the symbols with the metrics before each of them. -/
def traceback (q : EqCoef) : Nat → List (Int × Metrics) → List Nat
  | st, [] => [st]
  | st, (y, m) :: t => st :: traceback q (((q.bestPred y m st).map (·.2)).getD 0) t

/-- Bits of a level index under the Gray mapping of R160: MSB, LSB. -/
def msb (a : Nat) : Bool := a ≥ 2
def lsb (a : Nat) : Bool := a == 1 || a == 2

/-- The least metric into `w` of a path that decides the bit of the first symbol of `after` differently from `a`. -/
def rival (q : EqCoef) (bit : Nat → Bool) (a w : Nat) (m : Metrics) (after : List Int) : Option Int :=
  let masked := (List.range 4).map fun t => if bit t == bit a then none else m.getD t none
  (after.foldl (fun m y => q.advance y m) masked).getD w none

/-- Decisions in MLSE mode: each leaves 24 symbols after its sample, from the best state there; the last 24 samples only
serve the ones before them. `ms` are the metrics after each sample. -/
def mlseRun (q : EqCoef) : Nat → List Int → List Metrics → List Sym
  | pa, y :: ys, m :: ms =>
    if ys.length < 24 then []
    else
      let tail := ys.take 24
      let mw := (ms.take 24).getLastD m
      let w := bestState mw
      let back := ((tail.zip (m :: ms.take 23)).reverse)
      let a := (q.traceback w back).getLastD 0
      let win := (mw.getD w none).getD 0
      let rel (bit : Nat → Bool) := match q.rival bit a w m tail with
        | some r => q.relMl (r - win).toNat
        | none => 15
      { a := a, pa := pa, y := y, e := q.err y a pa, relM := rel msb, relL := rel lsb } :: mlseRun q a ys ms
  | _, _, _ => []

/-- The metrics of a trellis that starts from a known decision. -/
def start (pa : Nat) : Metrics := (List.range 4).map fun a => if a = pa then some 0 else none

end EqCoef

namespace State

/-- The tap registers of lane n. -/
def taps (s : State) (n : Nat) : List Int := (List.range 48).map fun i => s.ri F.LANE_EQ_FFE_COEF (48 * n + i)

/-- The coefficients in force. -/
def eqCoef (s : State) (n : Nat) : EqCoef := { c := s.taps n, h1 := s.ri F.LANE_EQ_H1_H1 n, l := s.levels n }

/-- Lane n works T/2-spaced (L400F). -/
def half (s : State) (n : Nat) : Bool := s.laneMode n == 1

/-- The y values of a block of samples (R153). -/
def yBlock (s : State) (n : Nat) (xs : List Int) : List Int :=
  let q := s.eqCoef n
  let v := xs.toArray
  let cnt := if s.half n then (v.size - 48) / 2 else v.size - 49
  (List.range cnt).map fun k => q.ffe v (49 + (if s.half n then 2 * k else k))

/-- The detector in use: the DFE in steps A2 to A4 (R159). -/
def mlseOn (s : State) (n : Nat) : Bool := s.on F.LANE_EQ_STAT_DET_MLSE n && s.r F.LANE_EQ_STAT_ACQ_STEP n ≥ 5

/-- The decided symbols of a block after decision `pa`. -/
def symBlock (s : State) (n pa : Nat) (xs : List Int) : List Sym :=
  let q := s.eqCoef n
  let ys := s.yBlock n xs
  if s.mlseOn n then q.mlseRun pa ys (q.forward (EqCoef.start pa) ys) else q.dfeRun pa ys

/-- The main tap in use. -/
def cursor (s : State) (n : Nat) : Nat := if s.half n then s.r F.LANE_EQ_CFG_CURSOR_F n else s.r F.LANE_EQ_CFG_CURSOR n

/-! ### Start values, R154 -/

/-- Start value of the levels: ±a and ±3a with a = TARGET_RMS / √5, held at their range ends. -/
def startLevels (s : State) (n : Nat) : List Int :=
  let t := s.r F.LANE_AGC_CFG_TARGET_RMS n
  let a : Int := freeSqrt 3 (256 * t ^ 2) 5
  let b : Int := min 2032 (freeSqrt 4 (2304 * t ^ 2) 5 : Nat)
  [-b, -a, a, b]

/-- Tap i of lane n is written, with its LIMIT. -/
def setTap (s : State) (n i : Nat) (v : Int) : State :=
  (s.wi F.LANE_EQ_FFE_COEF (48 * n + i) v).wb F.LANE_EQ_FFE_LIMIT (48 * n + i) (v == -32768 || v == 32767)

/-- h1 of lane n is written, with its LIMIT. -/
def setH1 (s : State) (n : Nat) (v : Int) : State :=
  (s.wi F.LANE_EQ_H1_H1 n v).wb F.LANE_EQ_H1_LIMIT n (v.natAbs == 3584)

/-- Taps, h1 and levels take their start values. -/
def eqStart (s : State) (n : Nat) : State :=
  let s := s.each (List.range 48) fun s i => s.setTap n i (if i = s.cursor n then 4096 else 0)
  ((s.setH1 n 0).setLevels n (s.startLevels n)).limitCheck n

/-! ### Gears, R163, R167, R170 A6, R174 -/

/-- How far A6 has shifted: by one every 8 µs. -/
def gear (s : State) (n : Nat) : Nat := (s.now - (s.eqh n).stepAt) / 8000

/-- An exponent that is `acq` up to A5, moves to `trk` in A6 and stays there. -/
def geared (s : State) (n acq trk : Nat) : Nat :=
  let st := s.r F.LANE_EQ_STAT_ACQ_STEP n
  if st ≤ 5 then acq else if st = 6 then min trk (acq + s.gear n) else trk

/-- MU_FFE: 4 times faster for 8 µs after a CTLE code step in service. -/
def muFfe (s : State) (n : Nat) : Nat :=
  let mu := s.geared n (s.r F.LANE_EQ_MU_ACQ_FFE n) (s.r F.LANE_EQ_MU_TRK_FFE n)
  match (s.eqh n).boostAt with
  | some t => if s.tracking n && s.now < t + 8000 then mu - 2 else mu
  | none => mu

def muH1 (s : State) (n : Nat) : Nat := s.geared n (s.r F.LANE_EQ_MU_H1 n - 2) (s.r F.LANE_EQ_MU_H1 n)
def muLvl (s : State) (n : Nat) : Nat := s.geared n (s.r F.LANE_EQ_MU_LVL n - 2) (s.r F.LANE_EQ_MU_LVL n)
def kp (s : State) (n : Nat) : Nat := s.geared n (s.r F.LANE_TR_CFG_KP_ACQ n) (s.r F.LANE_TR_CFG_KP_TRK n)
def ki (s : State) (n : Nat) : Nat := s.geared n (s.r F.LANE_TR_CFG_KI_ACQ n) (s.r F.LANE_TR_CFG_KI_TRK n)

/-! ### Adaptation, R155, R161, R162 -/

/-- An update `num / den` in units of a register, to a neighbouring value; unstated where S is 0. -/
def delta (site : Nat) (num : Int) (den : Nat) : Int :=
  if den = 0 then sint 16 (Config.unstated site num.natAbs) else freeDiv site num den

/-- Tap i is held: the main tap while the levels adapt, the first pre-cursor after A4 in T-spaced operation. -/
def tapHeld (s : State) (n i : Nat) : Bool :=
  (i == s.cursor n && s.on F.LANE_EQ_CFG_ADAPT_LVL n) || (i + 1 == s.cursor n && !s.half n && (s.eqh n).preHeld)

/-- The new value of tap i from the symbols of a step. -/
def newTap (s : State) (n : Nat) (xs : Array Int) (ys : List Sym) (i : Nat) : Int :=
  let d := (s.eqCoef n).span.natAbs
  let sum := sumI ((ys.zip (List.range ys.length)).map fun (y, k) =>
    y.e * xs.getD (49 + (if s.half n then 2 * k else k) - i) 0)
  clampI (-32768) 32767 (s.ri F.LANE_EQ_FFE_COEF (48 * n + i)
    + delta 5 (-(sum * 2304)) (ys.length * 16 * d ^ 2 * 2 ^ s.muFfe n))

/-- The FFE's part of a step. -/
def adaptFfe (s : State) (n : Nat) (xs : Array Int) (ys : List Sym) : State :=
  let new := (whichBelow 48 fun i => !s.tapHeld n i).map fun i => (i, s.newTap n xs ys i)
  s.each new fun s v => s.setTap n v.1 v.2

/-- h1's part of a step. -/
def newH1 (s : State) (n : Nat) (ys : List Sym) : Int :=
  let q := s.eqCoef n
  let sum := sumI (ys.map fun y => y.e * q.l.getD y.pa 0)
  clampI (-3584) 3584 (q.h1 + delta 6 (sum * 2304) (ys.length * 256 * q.span.natAbs ^ 2 * 2 ^ s.muH1 n))

/-- Level j's part of a step. -/
def newLevel (s : State) (n : Nat) (ys : List Sym) (j : Nat) : Int :=
  let l := (s.levels n).getD j 0
  let own := ys.filter fun y => y.a == j
  if own.isEmpty then l
  else clampI (-2032) 2032 (l + freeDiv 7 (sumI (own.map (·.e))) (own.length * 4096 * 2 ^ s.muLvl n))

/-- One adaptation step on its symbols (R161): while the levels adapt, the main tap holds 1.0 (R155). -/
def adapt (s : State) (n : Nat) (xs : Array Int) (ys : List Sym) : State :=
  let h1 := s.newH1 n ys
  let ls := (List.range 4).map (s.newLevel n ys)
  let adL := s.on F.LANE_EQ_CFG_ADAPT_LVL n
  let s := if s.on F.LANE_EQ_CFG_ADAPT_FFE n then s.adaptFfe n xs ys else s
  let s := if adL then s.setTap n (s.cursor n) 4096 else s
  let s := if s.on F.LANE_EQ_CFG_ADAPT_H1 n then s.setH1 n h1 else s
  (if adL then s.setLevels n ls else s).limitCheck n

/-! ### The history tap, R176, R177 -/

/-- e as the symbol tap gives it: signed, LSB 0.25 code, saturating at ±31.75 codes. -/
def errByte (e : Int) : Nat := uint 8 (clampI (-127) 127 (freeDiv 9 e 16384))

/-- 512 symbols in the first form of the symbol tap: four level indices a byte, the earliest lowest (R176). -/
def packDecisions : List Sym → List Nat
  | a :: b :: c :: d :: l => (a.a + 4 * b.a + 16 * c.a + 64 * d.a) :: packDecisions l
  | _ => []

/-- And in the second: the error byte, then the level index with the lower of its reliabilities (R176). -/
def packErrors (l : List Sym) : List Nat := l.flatMap fun y => [errByte y.e, y.a + 4 * min y.relM y.relL]

/-- The record of an adaptation step whose first symbol has index k. The step acts at the end of its 1,024 symbols, and
that instant's SYS_TIME stands for the one at the first of them, 4.6 to 19.3 ns before (DESIGN CHOICE, log 80). Of the flag
bits [5:2] FRZ_OVERLOAD has the lowest and FRZ_HOST the highest, in the order R177 names them (DEDUCED, log 99). -/
def histRecord (s : State) (n k : Nat) (ys : List Sym) : List Nat :=
  let flags := s.r F.LANE_EQ_STAT_DET_MLSE n + 2 * s.r F.LANE_EQ_STAT_LOCKED n +
    4 * s.r F.LANE_ADC_STAT_HOLD n + 8 * (s.frzSignal n).toNat + 16 * s.r F.LANE_EQ_STAT_FRZ_LOL n +
    32 * (s.frzHost n).toNat + 64 * (s.half n).toNat + 128 * s.r F.LANE_EQ_STAT_ACQ_STEP n
  leBytes 2 n ++ leBytes 2 flags ++ leBytes 4 (s.r F.LANE_EQ_STEPS_COUNT n) ++ leBytes 8 (s.dieTime (dieOf n)) ++
    leBytes 2 (s.r F.LANE_EQ_SNR_SNR n) ++ leBytes 2 (s.r F.LANE_EQ_H1_H1 n) ++ leBytes 2 (s.r F.LANE_TR_STAT_FREQ n) ++
    leBytes 2 (s.r F.LANE_TR_STAT_PHASE n) ++ ((s.levels n).flatMap fun l => leBytes 2 (uint 16 l)) ++
    ((s.taps n).flatMap fun c => leBytes 2 (uint 16 c)) ++
    ((List.range 64).map fun i => match ys[i]? with | some y => errByte y.e | none => 0) ++ leBytes 8 k ++
    List.replicate 56 0

/-- ADAPTATION_STEP on lane n: the symbols decided after `pa` from the samples of the block; `k` is the index of the
first. A2 holds the start values, and in A3 the last 4 µs of a trial only measure. -/
def adaptationStep (s : State) (n pa k : Nat) (xs : List Int) : State :=
  let st := s.r F.LANE_EQ_STAT_ACQ_STEP n
  let ys := s.symBlock n pa xs
  let moves := st ≥ 4 || (st == 3 && decide (s.now < (s.eqh n).stepAt + 16000))
  let s := s.w F.LANE_EQ_STEPS_COUNT n (s.r F.LANE_EQ_STEPS_COUNT n + 1)
  let s := if moves && !ys.isEmpty && !s.frozenEq n then s.adapt n xs.toArray ys else s
  s.setEq n { s.eqh n with hist := s.histRecord n k ys }

/-! ### Timing recovery, R166, R167 -/

/-- Symbols per update, and F_MAX, by mode. -/
def perUpdate (mode : Nat) : Nat := if mode ≤ 1 then 7200 else if mode = 2 then 3600 else 1700
def fMax (mode : Nat) : Frac := Frac.mk' (if mode ≤ 1 then 144 else if mode = 2 then 72 else 34) 100

/-- The sum of the baud-rate detector in units of 2^-20, over symbols after the first. -/
def tauBaud (q : EqCoef) : List Sym → Int
  | u :: v :: t => (u.e * q.l.getD v.a 0 - v.e * q.l.getD u.a 0) + tauBaud q (v :: t)
  | _ => 0

/-- The sum of the Gardner-type detector over the symbols after the first; `cur` places sample x_f[2k]. -/
def tauGardner (xs : Array Int) (cur cnt : Nat) : Int :=
  sumI ((List.range cnt).map fun k =>
    let i := 49 + 2 * (k + 1) - cur
    xs.getD (i - 1) 0 * (xs.getD i 0 - xs.getD (i - 2) 0))

/-- The mean of tau over S², from a block whose first symbol only serves the second. -/
def tauMean (s : State) (n pa : Nat) (xs : List Int) : Frac :=
  let q := s.eqCoef n
  let ys := s.symBlock n pa xs
  let cnt := ys.length - 1
  let d := q.span.natAbs
  if cnt = 0 then {}
  else if d = 0 then { num := sint 16 (Config.unstated 10 n) }
  else if s.half n then Frac.mk' (tauGardner xs.toArray (s.cursor n) cnt * 2304) (cnt * d ^ 2)
  else Frac.mk' (tauBaud q ys * 2304) (cnt * 2 ^ 20 * d ^ 2)

/-- The registers show integrator and phase (R167). -/
def trShow (s : State) (n : Nat) : State :=
  let h := s.eqh n
  let per := perUpdate (s.laneMode n)
  let was := s.on F.LANE_TR_STAT_FREQ_LIMIT n
  let lim := h.freqI == fMax (s.laneMode n) || h.freqI == (fMax (s.laneMode n)).neg
  let s := s.wi F.LANE_TR_STAT_FREQ n (freeDiv 11 (h.freqI.num * 100000000) (h.freqI.d * per))
  let s := s.wi F.LANE_TR_STAT_PHASE n (freeDiv 12 (h.phase.num * 256) h.phase.d % 256)
  let s := s.wb F.LANE_TR_STAT_FREQ_LIMIT n lim
  if lim && !was then (s.w F.LANE_EQ_EVT_FREQ_LIMIT n 1).post n 0x1205 [(2, s.r F.LANE_TR_STAT_FREQ n)] else s

/-- One update of the loop (R165, R167). -/
def timingUpdate (s : State) (n pa : Nat) (xs : List Int) : State :=
  let h := s.eqh n
  let t := s.tauMean n pa xs
  let sig := s.frzSignal n
  let hold := s.on F.LANE_ADC_STAT_HOLD n
  let lol := s.on F.LANE_EQ_STAT_FRZ_LOL n
  let ki := if lol then s.r F.LANE_TR_CFG_KI_TRK n else s.ki n
  let kp := if lol || hold then s.r F.LANE_TR_CFG_KP_TRK n else s.kp n
  let i := if sig || hold then h.freqI else Frac.clamp (fMax (s.laneMode n)) (h.freqI.add (t.shr ki))
  let d := if sig then i else (t.shr kp).add i
  (s.setEq n { h with freqI := i, phase := h.phase.add d.neg }).trShow n

/-! ### Acquisition, R170, R171, R173 -/

/-- Lane n's acquisition goes on to step `st`. -/
def toStep (s : State) (n st : Nat) : State :=
  (s.w F.LANE_EQ_STAT_ACQ_STEP n st).setEq n { s.eqh n with stepAt := s.now, good := 0 }

/-- A trial of a CTLE code starts (R171). -/
def tryCode (s : State) (n c : Nat) : State :=
  let s := (s.w F.LANE_FE_STAT_CTLE_CODE n c).eqStart n
  s.setEq n { s.eqh n with stepAt := s.now }

/-- The detector is chosen (R159). -/
def chooseDet (s : State) (n : Nat) : State :=
  let det := s.r F.LANE_EQ_CFG_DET n
  s.wb F.LANE_EQ_STAT_DET_MLSE n
    (det == 2 || (det == 0 && decide (16 * s.r F.LANE_EQ_CFG_MLSE_THRESH n ≤ (s.ri F.LANE_EQ_H1_H1 n).natAbs)))

/-- The running step ends and the next begins; A3, which an overload hold keeps from starting (R108), ends with its last
trial, A7 with lock. -/
def acqStepEnd (s : State) (n : Nat) : State :=
  let warm := s.on F.LANE_EQ_STAT_WARM n
  match s.r F.LANE_EQ_STAT_ACQ_STEP n with
  | 1 =>
    if !s.sigOk n then s
    else if warm then s.toStep n 2
    else
      let s := ((s.toStep n 2).eqStart n).w F.LANE_EQ_STAT_DET_MLSE n 0
      s.setEq n { s.eqh n with preHeld := false }
  | 2 =>
    if warm then s.toStep n 4
    else if (s.adch n).ctleAuto then
      if s.on F.LANE_ADC_STAT_HOLD n then s else
      let s := ((s.toStep n 3).ctleDone n).tryCode n 0
      s.setEq n { s.eqh n with tried := [], fine := false, toTry := (List.range 10).map (4 * ·) }
    else (s.toStep n 4).eqStart n
  | 3 => if (s.eqh n).toTry.isEmpty then (s.toStep n 4).eqStart n else s
  | 4 =>
    let s := s.setEq n { s.eqh n with preHeld := true }
    if warm then s.toStep n 6 else (s.toStep n 5).chooseDet n
  | 5 => s.toStep n 6
  | 6 => s.toStep n 7
  | _ => s

/-- The trial with the lowest error, a tie going to the lower code. -/
def bestTry : List (Nat × Frac) → Nat
  | [] => 0
  | t :: ts => (ts.foldl (fun b x => if x.2.lt b.2 || (x.2 == b.2 && decide (x.1 < b.1)) then x else b) t).1

/-- The running trial ends with the mean squared error of the block, and the next one or the best code applies. -/
def ctleTryEnd (s : State) (n pa : Nat) (xs : List Int) : State :=
  let h := s.eqh n
  match h.toTry with
  | [] => s
  | c :: rest =>
    let ys := s.symBlock n pa xs
    let mse := Frac.mk' (sumI (ys.map fun y => y.e ^ 2)) (max 1 ys.length)
    let tried := h.tried ++ [(c, mse)]
    match rest with
    | d :: _ => (s.setEq n { h with tried := tried, toTry := rest }).tryCode n d
    | [] =>
      let best := bestTry tried
      if h.fine then (s.setEq n { h with tried := tried, toTry := [] }).w F.LANE_FE_STAT_CTLE_CODE n best
      else
        let more := ([best + 37 - 2, best + 37 - 1, best + 37 + 1, best + 37 + 2].filter
          fun x => 37 ≤ x && x ≤ 73).map (· - 37)
        (s.setEq n { h with tried := tried, toTry := more, fine := true }).tryCode n (more.headD best)

/-! ### Lock, R172 -/

/-- floor(256 · SNR) clamped to its register, from the sum of squared errors of `cnt` symbols. -/
def snrOf (l : List Int) (sq cnt : Nat) : Nat :=
  let p := (sumI (l.map fun x => x * x)).toNat
  if p = 0 && sq = 0 then Config.unstated 13 cnt % 65536
  else searchMax 16 fun q => decide (10 ^ q * (sq ^ 10) ^ 256 ≤ ((p * cnt * 2 ^ 22) ^ 10) ^ 256)

/-- The levels ascend; and they are spaced as the criteria ask. -/
def ordered (l : List Int) : Bool := (List.range 3).all fun j => decide (l.getD j 0 < l.getD (j + 1) 0)
def spaced (l : List Int) : Bool :=
  let d := l.getD 3 0 - l.getD 0 0
  (List.range 3).all fun j =>
    let sp := l.getD (j + 1) 0 - l.getD j 0
    decide (d ≤ 6 * sp ∧ 3 * sp ≤ 2 * d)

/-- The equaliser of lane n has lock: the hunts start, and the lane state machine hears of it. -/
def eqLocked (s : State) (n : Nat) : State :=
  let us := min ((s.now - (s.eqh n).acqAt) / 1000) (2 ^ 32 - 1)
  let s := ((s.w F.LANE_EQ_STAT_LOCKED n 1).w F.LANE_EQ_EVT_LOCKED n 1).w F.LANE_EQ_ACQ_TIME_TIME n us
  let s := s.toStep n 8
  let s := s.setEq n { s.eqh n with changed := false, badSnr := 0, badFreq := 0 }
  let s := s.setFec n { s.fech n with huntAt := s.now }
  let s := s.post n 0x1201 [(1, s.r F.LANE_EQ_STAT_DET_MLSE n), (1, s.r F.LANE_EQ_STAT_WARM n), (4, us)]
  s.lockCheck n

/-- The equaliser of lane n loses lock under a criterion of R182; inner lock goes with it (R189), and the lane
re-acquires, warm where R173 allows (R230). -/
def eqLost (s : State) (n crit : Nat) : State :=
  let warm := s.tracking n && s.warmOk n
  let s := (s.w F.LANE_EQ_STAT_LOCKED n 0).wb F.LANE_EQ_STAT_FRZ_LOL n (s.tracking n)
  let s := (s.inc F.LANE_EQ_LOL_COUNT n).w F.LANE_EQ_EVT_LOCK_LOST n 1
  let s := s.post n 0x1202 [(1, crit), (2, s.r F.LANE_EQ_SNR_SNR n)]
  (s.dropInner n (s.fech n).lastZ true).toAcquire n 3 warm

/-- The SNR of a window is recorded, with the mean of the last 1,000. -/
def snrRecord (s : State) (n snr : Nat) : State :=
  let l := (snr :: (s.eqh n).snrs).take 1000
  let s := (s.w F.LANE_EQ_SNR_SNR n snr).setEq n { s.eqh n with
    snrs := l, misordered := !ordered (s.levels n), freqHeld := s.on F.LANE_TR_STAT_FREQ_LIMIT n }
  s.w F.LANE_EQ_SNR_SNR_AVG n (freeDiv 14 (l.foldl (· + ·) 0 : Nat) l.length).toNat

/-- Lock judged in step A7: the 64th window in a row that meets the criteria locks. -/
def judgeLock (s : State) (n snr : Nat) : State :=
  let h := s.eqh n
  let ok := decide (s.r F.LANE_EQ_LOCK_CFG_LOCK_SNR n ≤ snr) && ordered (s.levels n) && spaced (s.levels n) &&
    !s.on F.LANE_TR_STAT_FREQ_LIMIT n && s.sigOk n
  if !ok then s.setEq n { h with good := 0 }
  else if h.good + 1 ≥ 64 then s.eqLocked n
  else s.setEq n { h with good := h.good + 1 }

/-- The loss of lock judged in service; without a signal judgement is suspended (R165). -/
def judgeLoss (s : State) (n snr : Nat) : State :=
  let h := s.eqh n
  if !s.sigOk n then s
  else
    let low := decide (snr + 16 * s.r F.LANE_EQ_LOCK_CFG_UNLOCK_MARGIN n < s.r F.LANE_EQ_LOCK_CFG_LOCK_SNR n)
    let badS := if low then h.badSnr + 1 else 0
    let badF := if s.on F.LANE_TR_STAT_FREQ_LIMIT n then h.badFreq + 1 else 0
    let s := s.setEq n { h with badSnr := badS, badFreq := badF }
    if badS ≥ 8 then s.eqLost n 1
    else if badF ≥ 8 then s.eqLost n 2
    else if !ordered (s.levels n) then s.eqLost n 3
    else s

/-- A window of lane n ends. -/
def eqWindow (s : State) (n pa : Nat) (xs : List Int) : State :=
  let ys := s.symBlock n pa xs
  if ys.isEmpty then s
  else
    let snr := snrOf (s.levels n) (sumI (ys.map fun y => y.e ^ 2)).toNat ys.length
    let s := s.snrRecord n snr
    if s.on F.LANE_EQ_STAT_LOCKED n then s.judgeLoss n snr
    else if s.r F.LANE_EQ_STAT_ACQ_STEP n == 7 then s.judgeLock n snr
    else s

/-- ACQ_TIMEOUT passed without lock (R172). -/
def acqTimeout (s : State) (n : Nat) : State :=
  let cause := if !s.sigOk n then 1 else if (s.eqh n).freqHeld then 3
    else if (s.eqh n).misordered then 4 else 2
  let s := (s.w F.LANE_EQ_STAT_ACQ_FAIL n cause).w F.LANE_EQ_EVT_ACQ_FAIL n 1
  (s.post n 0x1203 [(1, cause)]).acqFailed n cause 3

/-- The receive DSP of lane n works: its ADC runs and an acquisition or tracking is under way. -/
def dspRuns (s : State) (n : Nat) : Bool := s.adcRuns n && s.r F.LANE_EQ_STAT_ACQ_STEP n ≥ 2

/-! ### EQ_PARAM, R180, R181 -/

/-- A group's VALID bit. -/
def eqGrp (j : Job) (b : Nat) : Bool := bitAt (j.p 4 2) b

/-- The parameter bytes keep R180; only groups that change are checked. -/
def eqParamOk (j : Job) : Bool :=
  let b := fun k => j.p k 1
  let inR := fun (lo hi x : Nat) => decide (lo ≤ x ∧ x ≤ hi)
  j.spanOk 192 && j.p 4 2 < 256 && j.pz 28 4 &&
    (!eqGrp j 0 || (b 8 ≤ 36 && b 9 ≤ 72)) &&
    (!eqGrp j 1 || (b 10 ≤ 10 && inR 0x10 0x60 (b 11) && inR 2 0x20 (b 12))) &&
    (!eqGrp j 2 || (b 7 ≤ 2 && inR 1 46 (b 13) && inR 1 46 (b 14) && inR 0x10 0xE0 (b 15))) &&
    (!eqGrp j 3 || (inR 4 20 (b 16) && inR 4 20 (b 17) && inR 4 20 (b 18) && inR 4 20 (b 19) && b 16 ≤ b 17)) &&
    (!eqGrp j 4 || ((List.range 4).all (fun k => inR 2 24 (b (20 + k))) && b 20 < b 21 && b 22 < b 23 &&
      b 20 ≤ b 22 && b 21 ≤ b 23)) &&
    (!eqGrp j 5 || (inR 0x800 0x1C00 (j.p 24 2) && inR 8 0xA0 (b 26) && 1 ≤ b 27))

/-- The command would change INVERT of lane n. -/
def invertChange (s : State) (j : Job) (n : Nat) : Bool :=
  eqGrp j 0 && bitAt (j.p 6 1) 3 != s.on F.LANE_FE_CFG_INVERT n

/-- The lane-state table of R181 allows the command on lane n. -/
def eqAllowed (s : State) (j : Job) (n : Nat) : Bool :=
  let st := s.laneState n
  if st ≤ 2 then !eqGrp j 7
  else if st = 6 then !s.invertChange j n && !eqGrp j 2 && !eqGrp j 7
  else !s.invertChange j n && (!eqGrp j 2 || eqGrp j 7)

/-- The values of the groups are written to lane n's LK registers. -/
def eqStore (s : State) (j : Job) (n : Nat) : State :=
  let b := fun k => j.p k 1
  let f := fun k => bitAt (j.p 6 1) k
  let s := if eqGrp j 0 then
      let s := (s.w F.LANE_FE_CFG_CTLE_CODE n (b 8)).w F.LANE_FE_CFG_VGA_CODE n (b 9)
      ((s.wb F.LANE_FE_CFG_CTLE_AUTO n (f 1)).wb F.LANE_FE_CFG_VGA_AUTO n (f 2)).wb F.LANE_FE_CFG_INVERT n (f 3)
    else s
  let s := if eqGrp j 1 then
      ((s.w F.LANE_AGC_CFG_PERIOD n (b 10)).w F.LANE_AGC_CFG_TARGET_RMS n (b 11)).w F.LANE_SIGDET_CFG_THRESH_RMS n (b 12)
    else s
  let s := if eqGrp j 2 then
      let s := ((s.w F.LANE_EQ_CFG_DET n (b 7)).w F.LANE_EQ_CFG_CURSOR n (b 13)).w F.LANE_EQ_CFG_CURSOR_F n (b 14)
      (s.w F.LANE_EQ_CFG_MLSE_THRESH n (b 15)).wb F.LANE_EQ_CFG_RX_PRECODE n (f 4)
    else s
  let s := if eqGrp j 3 then
      let s := ((s.wb F.LANE_EQ_CFG_ADAPT_FFE n (f 5)).wb F.LANE_EQ_CFG_ADAPT_H1 n (f 6)).wb F.LANE_EQ_CFG_ADAPT_LVL n (f 7)
      let s := (s.w F.LANE_EQ_MU_ACQ_FFE n (b 16)).w F.LANE_EQ_MU_TRK_FFE n (b 17)
      (s.w F.LANE_EQ_MU_H1 n (b 18)).w F.LANE_EQ_MU_LVL n (b 19)
    else s
  let s := if eqGrp j 4 then
      let s := (s.w F.LANE_TR_CFG_KP_ACQ n (b 20)).w F.LANE_TR_CFG_KI_ACQ n (b 21)
      (s.w F.LANE_TR_CFG_KP_TRK n (b 22)).w F.LANE_TR_CFG_KI_TRK n (b 23)
    else s
  if eqGrp j 5 then
    let s := (s.w F.LANE_EQ_LOCK_CFG_LOCK_SNR n (j.p 24 2)).w F.LANE_EQ_LOCK_CFG_UNLOCK_MARGIN n (b 26)
    s.w F.LANE_EQ_LOCK_CFG_ACQ_TIMEOUT n (b 27)
  else s

/-- The detector group of the command differs from lane n's (R173). -/
def detChange (s : State) (j : Job) (n : Nat) : Bool :=
  eqGrp j 2 && (j.p 7 1 != s.r F.LANE_EQ_CFG_DET n || j.p 13 1 != s.r F.LANE_EQ_CFG_CURSOR n ||
    j.p 14 1 != s.r F.LANE_EQ_CFG_CURSOR_F n || bitAt (j.p 6 1) 4 != s.on F.LANE_EQ_CFG_RX_PRECODE n)

/-- A new target for the CTLE in service; an earlier command's walk is over for that command. -/
def ctleTarget (s : State) (n c : Nat) : State :=
  let s := s.abortWaiters (.ctleWalk n) .aborted
  s.setAdc n { s.adch n with ctleWalk := if s.r F.LANE_FE_STAT_CTLE_CODE n == c then none else some c }

/-- A new target for the VGA in service, or none once the loop runs. -/
def vgaTarget (s : State) (n : Nat) (c : Option Nat) : State :=
  let s := s.abortWaiters (.vgaWalk n) .aborted
  s.setAdc n { s.adch n with vgaWalk := if c == some (s.r F.LANE_FE_STAT_VGA_CODE n) then none else c }

/-- The front-end group acts on a lane in TRACK or DEGRADED, given the VGA_AUTO of before. -/
def feInService (s : State) (n : Nat) (wasAuto : Bool) : State :=
  let s := s.ctleTarget n (s.r F.LANE_FE_CFG_CTLE_CODE n)
  let auto := s.on F.LANE_FE_CFG_VGA_AUTO n
  let s := s.vgaMode n auto
  if auto && wasAuto then s
  else if auto then s.vgaTarget n none
  else s.vgaTarget n (some (s.r F.LANE_FE_CFG_VGA_CODE n))

/-- EQ_PARAM on one lane. -/
def eqParamLane (s : State) (j : Job) (n : Nat) : State :=
  let changed := s.detChange j n
  let wasAuto := (s.adch n).vgaAuto
  let s := s.eqStore j n
  if s.fusedOdd n then s
  else
    let h := s.eqh n
    let s := s.setEq n { h with changed := h.changed || changed,
                                hostFreeze := if eqGrp j 6 then bitAt (j.p 6 1) 0 else h.hostFreeze }
    let s := if eqGrp j 0 && s.tracking n then s.feInService n wasAuto else s
    if eqGrp j 7 then s.toAcquire n 1 false else s

/-- What the command waits for at lane n, which stood at `old` before it: a walk that the command began in service, and the
next AGC period in ACQUIRE and in service (R181). -/
def eqWaits (s old : State) (j : Job) (n : Nat) : List Wait :=
  (if eqGrp j 0 && old.tracking n then
    (if (s.adch n).ctleWalk.isSome then [Wait.ctleWalk n] else []) ++
      (if (s.adch n).vgaWalk.isSome then [Wait.vgaWalk n] else [])
  else []) ++
    if eqGrp j 1 && !s.fusedOdd n && (old.laneState n == 3 || old.tracking n) then [Wait.agc n] else []

/-- EQ_PARAM: checked whole, then applied. -/
def eqParam (s : State) (j : Job) : State :=
  if !eqParamOk j then s.finish j.ring j.idx .badParam
  else if (eqGrp j 7 && s.dev == .safe) || !(j.items.all (s.eqAllowed j)) then s.finish j.ring j.idx .notAllowed
  else
    let t := s.each j.items fun s n => s.eqParamLane j n
    t.await j.ring j.idx (j.items.flatMap (t.eqWaits s j))

end State

/-- Samples as signed codes. -/
def codes (xs : List (BitVec 8)) : List Int := xs.map (·.toInt)

/-- What the receive DSP of lane n works on: corrected samples, in digital near loopback the transmit codes of the last
run of symbols (R249). -/
def State.rxIn (s : State) (n : Nat) (xs : List (BitVec 8)) : List Int :=
  if s.r F.LANE_STAT_LOOPBACK n == 3 then (s.txh n).codes.reverse else codes xs

/-! ### The meanings -/

/-- ADAPTATION_STEP, R161-R165, R177. -/
def execAdaptationStep (n : Fin 192) (prev : Fin 4) (k : Nat) (xs : List (BitVec 8)) (s : State) : Out :=
  whenLive s fun s => if s.dspRuns n then s.adaptationStep n prev k (s.rxIn n xs) else s

/-- TIMING_UPDATE, R166, R167; digital near loopback bypasses timing recovery (R249). -/
def execTimingUpdate (n : Fin 192) (prev : Fin 4) (xs : List (BitVec 8)) (s : State) : Out :=
  whenLive s fun s => if s.dspRuns n && s.r F.LANE_STAT_LOOPBACK n != 3 then s.timingUpdate n prev (codes xs) else s

/-- ACQ_STEP_END, R170. -/
def execAcqStepEnd (n : Fin 192) (s : State) : Out :=
  whenLive s fun s => if s.adcRuns n && s.laneState n == 3 then s.acqStepEnd n else s

/-- CTLE_TRY_END, R171; an overload hold freezes the selection (R108). -/
def execCtleTryEnd (n : Fin 192) (prev : Fin 4) (xs : List (BitVec 8)) (s : State) : Out :=
  whenLive s fun s =>
    if s.adcRuns n && s.r F.LANE_EQ_STAT_ACQ_STEP n == 3 && !s.on F.LANE_ADC_STAT_HOLD n then
      s.ctleTryEnd n prev (s.rxIn n xs)
    else s

/-- EQ_WINDOW, R172: a window's SNR counts from A1 on, with or without a signal. -/
def execEqWindow (n : Fin 192) (prev : Fin 4) (xs : List (BitVec 8)) (s : State) : Out :=
  whenLive s fun s => if s.adcRuns n && s.on F.LANE_EQ_STAT_ACQ_STEP n then s.eqWindow n prev (s.rxIn n xs) else s

/-- ACQ_TIMEOUT, R172, R233. -/
def execAcqTimeout (n : Fin 192) (s : State) : Out :=
  whenLive s fun s =>
    let st := s.r F.LANE_EQ_STAT_ACQ_STEP n
    if s.laneState n == 3 && !s.fusedOdd n && 1 ≤ st && st ≤ 7 then s.acqTimeout n else s

/-- PAYLOAD_LOCK_TIMEOUT, R233: counted with cause NO_LOCK. -/
def execPayloadLockTimeout (n : Fin 192) (s : State) : Out :=
  whenLive s fun s =>
    if s.laneState n == 3 && !s.fusedOdd n && s.on F.LANE_EQ_STAT_LOCKED n && !s.payloadLocked n then
      (s.w F.LANE_EQ_STAT_ACQ_FAIL n 2).acqFailed n 2 4
    else s

/-- EQ_PARAM, R180, R181. -/
def execEqParam (q : Fin 32768) (i : Fin 65536) (s : State) : Out := actJob 0x18 q i s fun j s => s.eqParam j

end Sys2Proof.Machine
end

