-- ==== Sys2Proof/Machine/Fec.lean ====
section
/-! DEFINITION. Forward error correction and the decoder pool: inner code, interleave, Chase-II, pool decisions, the
outer code, counters, FEC_CONFIG and POOL_CONFIG (spec/07_fec_decoder_pool.md). -/

namespace Sys2Proof.Machine

open Sys2Proof

namespace State

/-! ### The inner hunt, R189 -/

/-- The inner code of lane n is in use and the equaliser has lock. -/
def innerRuns (s : State) (n : Nat) : Bool :=
  s.on F.LANE_FEC_STAT_INNER_ON n && s.on F.LANE_EQ_STAT_LOCKED n && !s.fusedOdd n

/-- An inner or outer hunt of lane n runs. -/
def hunting (s : State) (n : Nat) : Bool :=
  s.on F.LANE_EQ_STAT_LOCKED n && !s.fusedOdd n &&
    ((s.on F.LANE_FEC_STAT_INNER_ON n && !s.on F.LANE_FEC_STAT_INNER_LOCKED n) || !s.on F.LANE_FEC_STAT_OUTER_LOCKED n)

/-- Inner lock is reached at the candidate offset. -/
def innerLock (s : State) (n : Nat) : State :=
  let h := s.fech n
  let ns := min (s.now - h.huntAt) (2 ^ 32 - 1)
  let s := s.setFec n { h with lastOffset := h.offset, pass := 0, fail := 0, active := true, stream := [], blk := 0,
                               cand := h.lastCand, oPass := 0, oFail := 0 }
  let s := s.w F.LANE_FEC_STAT_INNER_LOCKED n 1
  (s.post n 0x3001 [(2, h.offset), (4, ns)]).lockCheck n

/-- A test of 64 codewords with `z` clean ones. -/
def innerTest (s : State) (n z : Nat) : State :=
  let h := { s.fech n with lastZ := z }
  let s := s.setFec n h
  let ok := decide (s.r F.LANE_FEC_CFG_LOCK_ZMIN n ≤ z)
  if s.on F.LANE_FEC_STAT_INNER_LOCKED n then
    if ok then s.setFec n { h with fail := 0 }
    else if h.fail + 1 ≥ 4 then (s.dropInner n z true).holdover n 1
    else s.setFec n { h with fail := h.fail + 1 }
  else if !ok then s.setFec n { h with offset := (h.offset + 1) % 288, pass := 0 }
  else if h.pass + 1 ≥ 4 then s.innerLock n
  else s.setFec n { h with pass := h.pass + 1 }

/-- Z of the symbols of a test, of which `prev` comes before the first. -/
def cleanCount (s : State) (n : Nat) (prev : RxSym) (xs : List RxSym) : Nat :=
  (received (s.on F.LANE_EQ_CFG_RX_PRECODE n) prev xs).countP fun c => syndrome (c.map (·.1)) == 0

/-! ### The decoder pool, R193-R197 -/

/-- One request: lane, number within the lane's requests, codeword. -/
structure Request where
  lane : Nat
  i : Nat
  word : List (Bool × Nat)
deriving DecidableEq, Repr

/-- Class-2 order: one request a lane a pass, lanes cyclically from `ptr` (R195). `cnts` are (lane, granted in class 1,
requests); the result lists (lane, request number). -/
def poolOrder (ptr : Nat) (cnts : List (Nat × Nat × Nat)) : List (Nat × Nat) :=
  let up := (List.range 96).filterMap fun l => cnts.find? fun c => c.1 == l
  let cyc := up.filter (fun c => ptr ≤ c.1) ++ up.filter (fun c => c.1 < ptr)
  let most := cnts.foldl (fun m c => max m (c.2.2 - c.2.1)) 0
  (List.range most).flatMap fun p => (cyc.filter fun c => p < c.2.2 - c.2.1).map fun c => (c.1, c.2.1 + p)

/-- The pool's decision: full and reduced grants of class 2 and the pointer after it, from the class-1 grants and the
order of the other requests. -/
def poolDecide (g1 : Nat) (order : List (Nat × Nat)) (ptr : Nat) : Nat × Nat × Nat :=
  let slots := 7680 - g1
  let units := 15360 - 4 * g1
  let n := min order.length (min slots units)
  let x := min n ((units - n) / 3)
  (n, x, match order[n - 1]? with | some c => if n = 0 then ptr else (c.1 + 1) % 96 | none => ptr)

/-- Adds one decoded codeword to a lane's counts: what was received, what came out, and which effort took it:
0 clean, 1 full, 2 reduced, 3 hard; `res` is a class-1 grant. -/
def countWord (e : EpochLane) (v : List Bool) (out : List Bool × Verdict) (effort : Nat) (res : Bool) : EpochLane :=
  { e with cw := e.cw + 1, clean := e.clean + (effort == 0).toNat, full := e.full + (effort == 1).toNat,
           reduced := e.reduced + (effort == 2).toNat, hard := e.hard + (effort == 3).toNat,
           uncorr := e.uncorr + (out.2 == .detected).toNat, reserved := e.reserved + res.toNat,
           bits := e.bits + (v.zip out.1).countP fun x => x.1 != x.2 }

/-- The decode of a codeword at an effort (R190-R192). -/
def decodeAt (c : List (Bool × Nat)) (effort : Nat) : List Bool × Verdict :=
  let v := c.map (·.1)
  if effort = 1 then chase v (c.map (·.2)) 4 else if effort = 2 then chase v (c.map (·.2)) 2 else hardDecode v

/-- One codeword of lane l decoded: the counts, the number of its next request and what came out so far. `soft` is
SOFT_EN in force, `g` its class-1 grants, and `full` and `red` the class-2 grants as (lane, request number). -/
def epochWord (l : Nat) (soft : Bool) (g : Nat) (full red : List (Nat × Nat))
    (a : EpochLane × Nat × List (List Bool)) (c : List (Bool × Nat)) : EpochLane × Nat × List (List Bool) :=
  let v := c.map (·.1)
  let put (out : List Bool × Verdict) (effort : Nat) (res : Bool) (i : Nat) : EpochLane × Nat × List (List Bool) :=
    (countWord a.1 v out effort res, i, a.2.2 ++ [out.1])
  if syndrome v = 0 then put (v, .clean) 0 false a.2.1
  else if !soft then put (hardDecode v) 3 false a.2.1
  else
    let i := a.2.1
    let effort := if i < g || full.contains (l, i) then 1 else if red.contains (l, i) then 2 else 3
    put (decodeAt c effort) effort (i < g) (i + 1)

/-- The counts of one lane of an epoch and its information bits in stream order; requests are numbered as their
codewords complete (R192, R195). -/
def epochLane (l : Nat) (soft : Bool) (g : Nat) (full red : List (Nat × Nat)) (cs : List (List (Bool × Nat))) : EpochLane :=
  let r := (byCompletion cs).foldl (epochWord l soft g full red) ({ lane := l }, 0, [])
  { r.1 with info := (byCompletion r.2.2).flatMap (·.take 136) }

/-- What a lane of die d brings into the epoch: its codewords, where its inner code is in use and inner lock held in
the epoch. -/
def epochWords (s : State) (d : Nat) (x : EpochIn) : List (List (Bool × Nat)) :=
  let n := 96 * d + x.lane
  if s.on F.LANE_FEC_STAT_INNER_ON n && (s.fech n).active then
    received (s.on F.LANE_EQ_CFG_RX_PRECODE n) x.prev x.syms
  else []

/-- The requests among the codewords of a lane: those with a non-zero syndrome, where SOFT_EN is in force. -/
def requests (soft : Bool) (cs : List (List (Bool × Nat))) : Nat :=
  if soft then cs.countP fun c => syndrome (c.map (·.1)) != 0 else 0

/-- Level of an epoch (R197). -/
def epochLevel (reduced starved : Nat) : Nat := if starved > 0 then 2 else if reduced > 0 then 1 else 0

/-- SOFT_EN of lane n as configured comes into force with an epoch: not on the odd lane of a pair nor in L100, where it
has no effect, and in DRAIN it is only stored (R204). -/
def softTakes (s : State) (n : Nat) : Bool := !s.fusedOdd n && s.laneMode n != 3 && s.laneState n != 6

/-- SOFT_EN and the reservations as configured come into force for the next epoch of die d; a lane without inner lock
takes no part in it (R194, R196, R204, R205). -/
def nextEpoch (s : State) (d : Nat) : State :=
  let lanes := span (96 * d) 96
  let s := s.each lanes fun s n =>
    let s := if s.softTakes n then s.w F.LANE_FEC_STAT_SOFT_EN n (s.r F.LANE_FEC_CFG_SOFT_EN n) else s
    s.setFec n { s.fech n with active := s.on F.LANE_FEC_STAT_INNER_LOCKED n }
  let res := lanes.foldl (fun t n => Tab.set t (n - 96 * d) (s.r F.LANE_POOL_CFG_RES n) 0) []
  (s.setPool d { s.poolh d with res := res }).resolve (.poolEpoch d)

/-- The pool of die d decides an epoch from what its lanes decided (R195). -/
def poolEpoch (s : State) (d : Nat) (ins : List EpochIn) : State :=
  let h := s.poolh d
  let ls := ins.map fun x => (x.lane.val, s.epochWords d x, s.on F.LANE_FEC_STAT_SOFT_EN (96 * d + x.lane))
  let cnts := ls.map fun x =>
    let rq := requests x.2.2 x.2.1
    (x.1, min rq (h.res.get x.1 0), rq)
  let demand := cnts.foldl (fun a c => a + c.2.2) 0
  let g1 := cnts.foldl (fun a c => a + c.2.1) 0
  let order := poolOrder (s.r F.POOL_STAT_PTR d) cnts
  let (n, x, ptr) := poolDecide g1 order (s.r F.POOL_STAT_PTR d)
  let full := order.take x
  let red := (order.take n).drop x
  let starved := order.length - n
  let res := ls.map fun y => epochLane y.1 y.2.2 (min (requests y.2.2 y.2.1) (h.res.get y.1 0)) full red y.2.1
  let lvl := epochLevel (n - x) starved
  let cnt := if lvl = 2 then starved else n - x
  let worse := lvl > h.level || (lvl == h.level && cnt > h.worstCount)
  let s := s.w F.POOL_STAT_PTR d ptr
  let s := s.setPool d { h with
    due := h.due ++ [{ lanes := res, demand := demand, full := g1 + x, reduced := n - x, starved := starved }],
    level := max lvl h.level, worstReq := if worse then demand else h.worstReq,
    worstCount := if worse then cnt else h.worstCount }
  s.nextEpoch d

/-- The counters of one lane move, and its information bits go on to the outer stage (R192, R201). -/
def deliverLane (s : State) (d : Nat) (e : EpochLane) : State :=
  let n := 96 * d + e.lane
  let s := ((s.inc F.LANE_FEC_CW_COUNT n e.cw).inc F.LANE_FEC_CLEAN_COUNT n e.clean).inc F.LANE_FEC_FULL_COUNT n e.full
  let s := (s.inc F.LANE_FEC_REDUCED_COUNT n e.reduced).inc F.LANE_FEC_HARD_COUNT n e.hard
  let s := (s.inc F.LANE_FEC_UNCORR_COUNT n e.uncorr).inc F.LANE_FEC_BITS_COUNT n e.bits
  let s := s.inc F.LANE_FEC_RESERVED_COUNT n e.reserved
  if s.on F.LANE_FEC_STAT_INNER_LOCKED n then s.setFec n { s.fech n with stream := (s.fech n).stream ++ e.info } else s

/-- The oldest epoch of die d is delivered: lane and pool counters move in one update (R196, R201). -/
def decodeDeliver (s : State) (d : Nat) : State :=
  let h := s.poolh d
  match h.due with
  | [] => s
  | e :: rest =>
    let s := s.setPool d { h with due := rest }
    let s := s.each e.lanes fun s l => s.deliverLane d l
    let s := (s.inc F.POOL_DEMAND_COUNT d e.demand).inc F.POOL_FULL_COUNT d e.full
    let s := (s.inc F.POOL_REDUCED_COUNT d e.reduced).inc F.POOL_STARVED_COUNT d e.starved
    let lvl := epochLevel e.reduced e.starved
    let s := s.inc F.POOL_RED_EPOCHS_COUNT d (lvl == 1).toNat
    let s := s.inc F.POOL_HARD_EPOCHS_COUNT d (lvl == 2).toNat
    s.w F.POOL_PEAK_PEAK d (max (s.r F.POOL_PEAK_PEAK d) e.demand)

/-- The event of a window whose level is above the last one's (R197, R206). -/
def poolLevelEvent (s : State) (d lvl : Nat) : State :=
  let h := s.poolh d
  if lvl ≤ s.r F.POOL_STAT_LEVEL d then s
  else
    let s := if lvl = 1 then s.w F.POOL_EVT_REDUCED d 1 else s.w F.POOL_EVT_HARD d 1
    s.post (600 + d) (if lvl = 1 then 0x3101 else 0x3102) [(4, h.worstReq), (4, h.worstCount)]

/-- A pool window of die d ends (R197). -/
def poolWindow (s : State) (d : Nat) : State :=
  let h := s.poolh d
  let s := (s.poolLevelEvent d h.level).w F.POOL_STAT_LEVEL d h.level
  let base := { h with level := 0, worstReq := 0, worstCount := 0, windowAt := s.now }
  if h.level > 0 then
    s.setPool d { base with episodeAt := some (h.episodeAt.getD h.windowAt), lastAbove := s.now, quiet := 0 }
  else
    match h.episodeAt with
    | none => s.setPool d base
    | some t =>
      if h.quiet + 1 ≥ 64 then
        (s.setPool d { base with episodeAt := none, quiet := 0 }).post (600 + d) 0x3103
          [(4, min ((h.lastAbove - t) / 1000) (2 ^ 32 - 1))]
      else s.setPool d { base with quiet := h.quiet + 1 }

/-! ### The outer hunt and counting, R199-R201 -/

/-- The outer code stage of lane n sees codewords: the stream before it is locked (R199). -/
def outerRuns (s : State) (n : Nat) : Bool :=
  !s.fusedOdd n && s.on F.LANE_EQ_STAT_LOCKED n &&
    (s.on F.LANE_FEC_STAT_INNER_LOCKED n || (s.laneMode n == 3 && s.laneState n != 0))

/-- The candidates of the outer hunt. -/
def outerCands (s : State) (n : Nat) : Nat := if s.laneMode n = 3 then 2720 else 10

/-- A codeword tested while hunting. -/
def outerTest (s : State) (n : Nat) (good : Bool) : State :=
  let h := s.fech n
  if !good then s.setFec n { h with cand := (h.cand + 1) % s.outerCands n, oPass := 0 }
  else if h.oPass + 1 ≥ 3 then
    let s := (s.setFec n { h with lastCand := h.cand, oPass := 0, oFail := 0 }).w F.LANE_FEC_STAT_OUTER_LOCKED n 1
    (s.post n 0x3003 [(1, s.r F.LANE_FEC_STAT_OUTER_MODE n)]).lockCheck n
  else s.setFec n { h with oPass := h.oPass + 1 }

/-- A codeword's counters, in MONITOR and CORRECT (R201). -/
def outerCount (s : State) (n : Nat) (dec : Option (List Nat × Nat)) : State :=
  if s.r F.LANE_FEC_STAT_OUTER_MODE n = 0 then s
  else
    let s := s.inc F.LANE_FEC_RS_CW_COUNT n
    match dec with
    | some (_, c) => (s.inc F.LANE_FEC_RS_SYM_COUNT n c).inc F.LANE_FEC_RS_HIST_COUNT (17 * n + c)
    | none =>
      let s := (s.inc F.LANE_FEC_RS_UNCORR_COUNT n).inc F.LANE_FEC_RS_HIST_COUNT (17 * n + 16)
      (s.w F.LANE_FEC_EVT_RS_UNCORR n 1).post n 0x3005 [(1, s.r F.LANE_FEC_STAT_OUTER_MODE n)]

/-- Bits go to their host lane while payload flows: in L400 and L400F alternately to A and B, else to A (R198, R244);
a generator takes the transmitter's place (R253). -/
def toHost (s : State) (n : Nat) (bs : List Bool) : State :=
  if !s.on F.LANE_STAT_PAYLOAD n || s.r F.LANE_STAT_LOOPBACK n == 1 then s
  else
    let h := s.laneh n
    let b := h.nextB && s.laneMode n ≤ 1
    let m := if b then s.r F.XBAR_MAP_B n else s.r F.XBAR_MAP_A n
    let s := s.setLaneh n { h with nextB := !h.nextB }
    if s.on F.HSL_CFG_PRBS_GEN m then s else s.setHost m { s.hosth m with sent := bs }

/-- Bits of lane n leave the outer stage: for the host, and in loopback 2 for the inner encoder too (R244, R249). -/
def streamOut (s : State) (n : Nat) (bs : List Bool) : State :=
  let s := s.toHost n bs
  if s.r F.LANE_STAT_LOOPBACK n == 2 then s.setTx n { s.txh n with buf := (s.txh n).buf ++ bs } else s

/-- What the outer stage makes of a codeword in its mode: CORRECT replaces a correctable one (R198). -/
def outerBits (s : State) (n : Nat) (bs : List Bool) (dec : Option (List Nat × Nat)) : List Bool :=
  if s.r F.LANE_FEC_STAT_OUTER_MODE n = 2 then (match dec with | some (v, _) => bitsOfSymbols v | none => bs) else bs

/-- Decodability judged in service: sixteen undecodable codewords in a row lose the lock (R199, R230). -/
def outerJudge (s : State) (n : Nat) (good : Bool) : State :=
  let h := s.fech n
  if good then s.setFec n { h with oFail := 0 }
  else if h.oFail + 1 ≥ 16 then
    let s := s.dropOuter n true
    if s.laneMode n ≤ 1 then s.holdover n 2 else s
  else s.setFec n { h with oFail := h.oFail + 1 }

/-- An RS codeword of lane n at the candidate boundary, after the bits `skip` in front of it. A mode that waited for a
boundary comes into force first (R200); without outer lock the stream passes unaltered (R199). -/
def rsCodeword (s : State) (n : Nat) (skip bs : List Bool) : State :=
  let s := s.outerModeNow n
  let dec := rsDecode (symbolsOf 544 bs)
  if s.on F.LANE_FEC_STAT_OUTER_LOCKED n then
    ((s.outerCount n dec).streamOut n (s.outerBits n bs dec)).outerJudge n dec.isSome
  else (s.streamOut n (skip ++ bs)).outerTest n dec.isSome

/-- Bits between two candidates: a block of inner information bits, in L100 a symbol (R199). -/
def candBits (s : State) (n : Nat) : Nat := if s.laneMode n = 3 then 2 else 544

/-- The next codeword of lane n's decoded stream, at the candidate: candidates are numbered from the first after inner
lock, in L100 after the stream's start (R199; DESIGN CHOICE, log 85). Nothing happens while the stream holds less. -/
def nextCodeword (s : State) (n : Nat) : State :=
  let h := s.fech n
  let k := (h.cand + s.outerCands n - h.blk) % s.outerCands n * s.candBits n
  if h.stream.length < k + 5440 then s
  else
    let bs := (h.stream.drop k).take 5440
    (s.setFec n { h with stream := h.stream.drop (k + 5440), blk := h.cand }).rsCodeword n (h.stream.take k) bs

/-- In L100, which has no inner code, decided symbols join the decoded stream: precoding
decoded and Gray demapped (R160, R199). -/
def streamIn (s : State) (n : Nat) (x : Levels) : State :=
  let ps := demapRun (s.on F.LANE_EQ_CFG_RX_PRECODE n) x.prev 0 0 (x.run.map fun a => { a := a, relM := 0, relL := 0 })
  s.setFec n { s.fech n with stream := (s.fech n).stream ++ ps.flatMap fun p => [p.m, p.l] }

/-! ### FEC_CONFIG and POOL_CONFIG, R204, R205 -/

/-- The parameter bytes keep R204. A field whose VALID bit is 0 changes nothing and is not range-checked (DEDUCED,
log 81). -/
def fecConfigOk (j : Job) : Bool :=
  j.spanOk 192 && j.p 4 1 < 8 && j.p 6 1 < 2 && j.pz 8 24 && (!bitAt (j.p 4 1) 0 || j.p 5 1 ≤ 2) &&
    (!bitAt (j.p 4 1) 2 || (4 ≤ j.p 7 1 && j.p 7 1 ≤ 32))

/-- The table of R204 allows the command on lane n: in service no change into or out of CORRECT. -/
def fecAllowed (s : State) (j : Job) (n : Nat) : Bool :=
  let old := s.r F.LANE_FEC_CFG_OUTER_MODE n
  !(bitAt (j.p 4 1) 0 && s.tracking n && !s.fusedOdd n && old != j.p 5 1 && (old == 2 || j.p 5 1 == 2))

/-- A new outer mode of lane n: at the next codeword boundary under outer lock, else at once; the odd lane of a pair and
a lane in DRAIN store it (R200, R204). -/
def setOuterMode (s : State) (n m : Nat) : State :=
  let s := s.w F.LANE_FEC_CFG_OUTER_MODE n m
  if s.fusedOdd n || s.laneState n == 6 then s
  else
    let s := s.setFec n { s.fech n with pendMode := some m }
    if s.on F.LANE_FEC_STAT_OUTER_LOCKED n then s else s.outerModeNow n

/-- FEC_CONFIG on one lane. -/
def fecConfigLane (s : State) (j : Job) (n : Nat) : State :=
  let s := if bitAt (j.p 4 1) 0 then s.setOuterMode n (j.p 5 1) else s
  let s := if bitAt (j.p 4 1) 1 then s.w F.LANE_FEC_CFG_SOFT_EN n (j.p 6 1) else s
  if bitAt (j.p 4 1) 2 then s.w F.LANE_FEC_CFG_LOCK_ZMIN n (j.p 7 1) else s

/-- FEC_CONFIG: checked whole, then applied. -/
def fecConfig (s : State) (j : Job) : State :=
  if !fecConfigOk j then s.finish j.ring j.idx .badParam
  else if !(j.items.all (s.fecAllowed j)) then s.finish j.ring j.idx .notAllowed
  else
    let s := s.each j.items fun s n => s.fecConfigLane j n
    s.await j.ring j.idx
      (((j.items.filter fun n => bitAt (j.p 4 1) 0 && (s.fech n).pendMode.isSome).map Wait.fecMode) ++
        ((whichBelow 2 fun d => bitAt (j.p 4 1) 1 && j.items.any fun n => n / 96 == d && s.softTakes n).map
          Wait.poolEpoch))

/-- The sum of the reservations of die d (R194). -/
def resSum (s : State) (d : Nat) : Nat := (span (96 * d) 96).foldl (fun a n => a + s.r F.LANE_POOL_CFG_RES n) 0

/-- POOL_CONFIG: checked whole, then applied from the next epoch. -/
def poolConfig (s : State) (j : Job) : State :=
  if !(j.spanOk 192 && j.p 4 1 ≤ 100 && j.pz 5 27) then s.finish j.ring j.idx .badParam
  else
    let t := s.each j.items fun s n => s.w F.LANE_POOL_CFG_RES n (j.p 4 1)
    if t.resSum 0 > 3840 || t.resSum 1 > 3840 then s.finish j.ring j.idx .exhausted
    else t.await j.ring j.idx ((whichBelow 2 fun d => j.items.any fun n => n / 96 == d).map Wait.poolEpoch)

end State

/-! ### The meanings -/

/-- INNER_HUNT_TEST, R189: the symbols of 64 codewords at the candidate offset. -/
def execInnerHuntTest (n : Fin 192) (prev : RxSym) (xs : List RxSym) (s : State) : Out :=
  whenLive s fun s => if s.innerRuns n then s.innerTest n (s.cleanCount n prev xs) else s

/-- POOL_EPOCH, R195. -/
def execPoolEpoch (d : Fin 2) (ins : List EpochIn) (s : State) : Out := whenLive s fun s => s.poolEpoch d ins

/-- DECODE_DELIVER, R196, R201. -/
def execDecodeDeliver (d : Fin 2) (s : State) : Out := whenLive s fun s => s.decodeDeliver d

/-- POOL_WINDOW, R197. -/
def execPoolWindow (d : Fin 2) (s : State) : Out := whenLive s fun s => s.poolWindow d

/-- RS_CODEWORD, R199-R201: the next codeword of the decoded stream; in L100, which has no inner code, the level indices
decided since the last command come into the stream first. -/
def execRsCodeword (n : Fin 192) (word : Levels) (s : State) : Out :=
  whenLive s fun s =>
    if !s.outerRuns n then s
    else if s.laneMode n == 3 then (s.streamIn n word).nextCodeword n
    else s.nextCodeword n

/-- FEC_CONFIG, R204. -/
def execFecConfig (q : Fin 32768) (i : Fin 65536) (s : State) : Out := actJob 0x1C q i s fun j s => s.fecConfig j

/-- POOL_CONFIG, R205. -/
def execPoolConfig (q : Fin 32768) (i : Fin 65536) (s : State) : Out := actJob 0x1D q i s fun j s => s.poolConfig j

end Sys2Proof.Machine
end

