-- ==== Sys2Proof/Machine/Calibration.lean ====
section
/-! DEFINITION. Converter calibration of lanes: measurement and judgement, foreground passes, carding, full passes,
CAL_RUN and CAL_POLICY (spec/05_converter_calibration.md R119-R135, R146, R147). -/

namespace Sys2Proof.Machine

open Sys2Proof

/-! ### Judgement, R120, R121 -/

/-- What a measurement gave (R121). One with fewer than four attempts, none of which agrees, was not carried out. -/
inductive Judged (α : Type) where
  | good (v : α)
  | outOfRange
  | disagree
  | skipped

/-- The value of a Good measurement, and `old` for any other. -/
def Judged.getD {α : Type} (j : Judged α) (old : α) : α := match j with | .good v => v | _ => old

/-- A measurement out of range, one that disagrees, and one that was skipped. -/
def Judged.isOut {α : Type} : Judged α → Bool | .outOfRange => true | _ => false
def Judged.isDis {α : Type} : Judged α → Bool | .disagree => true | _ => false
def Judged.isSkip {α : Type} : Judged α → Bool | .skipped => true | _ => false

/-- The mean of a pair in its resolution unit (log 10). -/
def mean2 (p : Int × Int) : Int := freeDiv 20 (p.1 + p.2) 2

/-- Two results no more than `tol` units apart. -/
def within (tol : Nat) (p : Int × Int) : Bool := decide ((p.1 - p.2).natAbs ≤ tol)

/-- Two gain deviations, in 2^-16, that give products within 0.1% of each other: the other factor of the product is the
same in both. The 0.1% is taken of the mean of the two (R103, R120; DESIGN CHOICE, log 72). -/
def gainAgrees (p : Int × Int) : Bool := decide (2000 * (p.1 - p.2).natAbs ≤ (131072 + p.1 + p.2).natAbs)

/-- Attempts judged by an agreement test and a range: the mean of the first of four that agrees. -/
def judge (agrees : Int × Int → Bool) (lo hi : Int) (l : List (Int × Int)) : Judged Int :=
  match (l.take 4).find? agrees with
  | some p => if lo ≤ mean2 p ∧ mean2 p ≤ hi then .good (mean2 p) else .outOfRange
  | none => if l.length < 4 then .skipped else .disagree

/-- The attempts that disagreed. -/
def disagreed {α : Type} (agrees : α → Bool) (l : List α) : Nat := ((l.take 4).takeWhile fun p => !agrees p).length

/-- The value in 1/256 LSB that weights give decisions (R104). -/
def weighed (ws : List Nat) (d : Nat) : Int :=
  sumI ((ws.zip (List.range 10)).map fun (w, b) => if bitAt d b then (w : Int) else -w)

/-- A weight attempt agrees when the offsets that its two results give at the endpoint codes, half the sum of the values
there, agree within 0.25 LSB, and the gains, which go with their difference, within 0.1% (R120, log 72). -/
def tryAgrees (t : WeightTry) : Bool :=
  let a := (weighed t.w1 t.hi.toNat, weighed t.w1 t.lo.toNat)
  let b := (weighed t.w2 t.hi.toNat, weighed t.w2 t.lo.toNat)
  let g := a.1 - a.2
  let h := b.1 - b.2
  decide (((a.1 + a.2) - (b.1 + b.2)).natAbs ≤ 128 ∧ 2000 * (g - h).natAbs ≤ (g + h).natAbs)

/-- The weights of the first attempt that agrees. -/
def judgeWeights (l : List WeightTry) : Judged (List Nat) :=
  match (l.take 4).find? tryAgrees with
  | some t => .good ((t.w1.zip t.w2).map fun (a, b) => (freeDiv 21 (a + b : Nat) 2).toNat)
  | none => if l.length < 4 then .skipped else .disagree

/-- A value lies within `pct` percent of its nominal one. -/
def near (pct v nom : Nat) : Bool := decide (100 * ((v : Int) - nom).natAbs ≤ pct * nom)

/-- How many of the two spare units of a weight a set of them holds: bit 0 the first, bit 1 the second. -/
def unitCount (m : Nat) : Nat := m % 2 + m / 2 % 2

/-- A most significant weight out of range brought back with spare units beside those `used`, which are in it: the
combination that brings it nearest to nominal, where that lies within 2% (R125); the result is the weight and the units in
use then. -/
def spareFix (v nom used : Nat) (u : Nat × Nat) : Option (Nat × Nat) :=
  let own (m k x : Nat) : Nat := if bitAt m k && !bitAt used k then x else 0
  let all := ((List.range 4).filter fun m => m &&& used == used).map fun m => (v + own m 0 u.1 + own m 1 u.2, m)
  let best := all.foldl (fun (b : Nat × Nat) x =>
    if ((x.1 : Int) - nom).natAbs < ((b.1 : Int) - nom).natAbs then x else b) (v, used)
  if near 2 best.1 nom then some best else none

/-- Element numbers as the register tables order them. -/
def ssElem (g q : Nat) : Nat := 9 * g + q
def grpElem (g : Nat) : Nat := 81 + g

/-- The element code of R152. It names no code for the transmit binary segment, element 107: a free value (log 12). -/
def elemCode (e comp : Nat) (isComp : Bool) : Nat :=
  if e < 81 then (if isComp then 0x2000 + comp else 0) + 256 * (e / 9) + 16 * (e % 9)
  else if e < 90 then 0x1000 + 256 * (e - 81)
  else if e = 90 then 0x3000
  else if e < 107 then 0x4000 + (e - 91)
  else Config.unstated 3 e % 65536

/-- The fields of an element's suspect count, FAILED_IN_SERVICE and RETIRED bits. -/
def suspectF (e : Nat) : Fld :=
  if e < 81 then F.LANE_CAL_SS_SUSPECT else if e < 90 then F.LANE_CAL_GRP_SUSPECT else if e = 90 then F.LANE_CAL_PAIR_SUSPECT
  else if e < 107 then F.LANE_CAL_TX_SUSPECT else F.LANE_CAL_TXB_SUSPECT
def failedF (e : Nat) : Fld :=
  if e < 81 then F.LANE_CAL_SS_FAILED else if e < 90 then F.LANE_CAL_GRP_FAILED else if e = 90 then F.LANE_CAL_PAIR_FAILED
  else if e < 107 then F.LANE_CAL_TX_FAILED else F.LANE_CAL_TXB_FAILED
def retiredF (e : Nat) : Option Fld :=
  if e < 81 then some F.LANE_CAL_SS_RETIRED else if e < 90 then some F.LANE_CAL_GRP_RETIRED else if e = 90 then none
  else if e < 107 then some F.LANE_CAL_TX_RETIRED else none

namespace State

/-! ### Suspects, retirement and spares, R122-R124 -/

/-- The event of an element of lane m; the pair skew's carries the even lane. -/
def elemEvent (s : State) (m code e comp : Nat) (isComp : Bool) : State := s.post m code [(2, elemCode e comp isComp)]

/-- SPARE_EXHAUSTED for element e of lane m, once: it stays in service, and the lane is DEGRADED (R124, R230). -/
def exhaust (s : State) (m e : Nat) : State :=
  if s.on (failedF e) (elemIdx m e) then s else
  let s := s.w (failedF e) (elemIdx m e) 1
  let s := (s.w F.LANE_CAL_STAT_SPARE_EXHAUSTED m 1).w F.LANE_CAL_EVT_SPARE_EXHAUSTED m 1
  let s := s.elemEvent m 0x2006 e 0 false
  if s.laneState (s.lead m) == 4 then s.setLane (s.lead m) 5 8 else s

/-- The states that lead from "out i" to "out r", one step each (R131). -/
def outPath (i r : Nat) : List Nat :=
  if i ≤ r then (List.range (r - i)).map (i + 1 + ·) else (List.range (i - r)).map (i - 1 - ·)

/-- The map of group g of ADC m (9: the map of groups) freezes at "out r": one change at each of the coming frame
boundaries, in place of those scheduled before (R102, R131). -/
def mapFreeze (s : State) (m g r : Nat) : State :=
  let h := s.adch m
  s.setAdc m { h with maps := (h.maps.filter fun c => c.1 != g) ++ (outPath (s.outOf m g) r).map fun j => (g, j) }

/-- Element e of lane m is due for retirement: it is replaced by the present spare for good, or spares are exhausted
(R123). -/
def retire (s : State) (m e : Nat) : State :=
  let done (s : State) : State :=
    let s := match retiredF e with | some f => s.w f (elemIdx m e) 1 | none => s
    (s.w F.LANE_CAL_EVT_RETIRED m 1).elemEvent m 0x2005 e 0 false
  if e < 81 then
    let g := e / 9
    if bitAt (s.r F.LANE_ADC_STAT_NO_SS_SPARE m) g then s.exhaust m e
    else
      let s := s.w F.LANE_ADC_STAT_NO_SS_SPARE m (s.r F.LANE_ADC_STAT_NO_SS_SPARE m + 2 ^ g)
      done ((s.inc F.LANE_CAL_STAT_RET_SS m).mapFreeze m g (e % 9))
  else if e < 90 then
    if s.on F.LANE_ADC_STAT_NO_GROUP_SPARE m then s.exhaust m e
    else
      let s := (s.w F.LANE_ADC_STAT_NO_GROUP_SPARE m 1).w F.LANE_CAL_STAT_GRP_RETIRED m 1
      done (s.mapFreeze m 9 (e - 81))
  else if 91 ≤ e && e < 107 then
    if s.on F.LANE_TX_STAT_NO_CELL_SPARE m then s.exhaust m e
    else
      let s := s.w F.LANE_TX_STAT_NO_CELL_SPARE m 1
      done (s.setTx m { s.txh m with pendCell := outPath (s.r F.LANE_TX_STAT_SPARE_CELL m) (e - 91) })
  else s.exhaust m e

/-- A visit of element e of lane m disagreed: its suspect count rises, and the third visit in a row retires it
(R121, R122). -/
def suspect (s : State) (m e : Nat) : State :=
  let c := s.r (suspectF e) (elemIdx m e) + 1
  if c > 3 then s.retire m e
  else
    let s := (s.w (suspectF e) (elemIdx m e) c).w F.LANE_CAL_EVT_SUSPECT m 1
    let s := s.elemEvent m 0x2004 e 0 false
    if c = 3 then s.retire m e else s

/-- Some element of lane m has failed in service. -/
def someFailed (s : State) (m : Nat) : Bool :=
  (List.range 108).any fun e => s.on (failedF e) (elemIdx m e)

/-- A Good visit of element e of lane m: its suspect count and its failure clear, and SPARE_EXHAUSTED with the last
failure (R121, R124). -/
def goodVisit (s : State) (m e : Nat) : State :=
  let s := (s.w (suspectF e) (elemIdx m e) 0).w (failedF e) (elemIdx m e) 0
  if s.on F.LANE_CAL_STAT_SPARE_EXHAUSTED m && !s.someFailed m then
    let s := s.w F.LANE_CAL_STAT_SPARE_EXHAUSTED m 0
    let n := s.lead m
    if s.laneState n == 5 && s.trackState n == 4 then s.setLane n 4 8 else s
  else s

/-- New values for element e of lane m: at once in a foreground pass, in place of what ramped or waited; in service
through a ramp; out of service once it returns (R126, R132, R136). -/
def newVals (s : State) (m e : Nat) (fg : Bool) (vs : List Int) : State :=
  if fg then (s.elemFresh m e).putElem m e vs
  else if s.inService m e then s.rampStart m e vs
  else s.setCal m { s.calh m with targets := (s.calh m).targets.put e vs }

/-- The values of element e of lane m, those that wait for its return to service included. -/
def latestVals (s : State) (m e : Nat) : List Int :=
  match (s.calh m).targets.get e [] with
  | [] => s.elemVals m e
  | v => v

/-! ### Sub-slices, R121, R123, R125 -/

/-- Both results of a comparator exceed the trim range (R121). -/
def compBad (p : Int × Int) : Bool := decide (64 < p.1.natAbs ∧ 64 < p.2.natAbs)

/-- The comparator offsets of sub-slice e of lane m are recorded, and those out of range retired. -/
def compsMeasured (s : State) (m e : Nat) (cs : List (Fin 3 × Int × Int)) : State :=
  s.each cs fun s c =>
    let h := s.calh m
    let old := h.comps.get e [0, 0, 0]
    let s := s.setCal m { h with comps := h.comps.put e (old.set c.1 (mean2 c.2)) }
    if compBad c.2 && !bitAt (s.r F.LANE_CAL_SS_COMP_RET (elemIdx m e)) c.1 then
      let s := s.w F.LANE_CAL_SS_COMP_RET (elemIdx m e) (s.r F.LANE_CAL_SS_COMP_RET (elemIdx m e) + 2 ^ c.1.val)
      (s.w F.LANE_CAL_EVT_RETIRED m 1).elemEvent m 0x2005 e c.1 true
    else s

/-- The unretired comparator of sub-slice e with the smallest last measured offset, a tie going to the lower number. -/
def bestComp (s : State) (m e : Nat) : Option Nat :=
  let ofs := (s.calh m).comps.get e [0, 0, 0]
  let ok := whichBelow 3 fun c => !bitAt (s.r F.LANE_CAL_SS_COMP_RET (elemIdx m e)) c
  ok.foldl (fun b c =>
    match b with
    | none => some c
    | some x => if (ofs.getD c 0).natAbs < (ofs.getD x 0).natAbs then some c else b) none

/-- The trim of comparator c of sub-slice e: its last measured offset. -/
def compTrim (s : State) (m e c : Nat) : Int := clampI (-64) 64 (((s.calh m).comps.get e [0, 0, 0]).getD c 0)

/-- The comparator in use of sub-slice e, and the number of spare units of its three most significant weights. -/
def compSel (s : State) (m e : Nat) : Nat := s.r F.LANE_CAL_SS_COMP_SEL (elemIdx m e)
def capUse (s : State) (m e : Nat) : Nat := s.r F.LANE_CAL_SS_CAP (elemIdx m e)

/-- The spare units in use of most significant weight w: after a restored record, which holds only their number, which of
the two is in use is free (log 12). -/
def unitsOf (s : State) (m e w : Nat) : Nat :=
  let c := bits (s.capUse m e) (2 * w) 2
  let u := ((s.calh m).units.get e [0, 0, 0]).getD w 0
  if unitCount u = c then u else if c = 1 then Config.unstated 19 (3 * elemIdx m e + w) % 2 + 1 else if c = 0 then 0 else 3

/-- The three most significant weights after the choice of spare units: values, units in use, and whether every value
is a measured one; none where one cannot be brought back (R123, R125). Units in use stay in use: each replaces a unit
that is retired. A visit that measured no spares takes one more unit, the first that is left, for a weight out of range and
leaves its value to the next visit (DESIGN CHOICE, log 73). -/
def fixWeights (s : State) (m e : Nat) (ws : List Nat) (spares : List (Nat × Nat)) : Option (List Nat × List Nat × Bool) :=
  (List.range 3).foldl (fun acc w =>
    match acc with
    | none => none
    | some (vs, us, full) =>
      let v := ws.getD w 0
      let nom := Config.nominalWeight w % 2 ^ 16
      let used := us.getD w 0
      if near 12 v nom then some (vs, us, full)
      else match spares[w]? with
        | some u => (spareFix v nom used u).map fun x => (vs.set w x.1, us.set w x.2, full)
        | none => if used = 3 then none else some (vs, us.set w (if used % 2 = 0 then used + 1 else 3), false))
    (some (ws, (List.range 3).map (s.unitsOf m e), true))

/-- LANE_CAL_SS.CAP of the units in use (R150). -/
def capOf (us : List Nat) : Nat := (List.range 3).foldl (fun c w => c + 4 ^ w * unitCount (us.getD w 0)) 0

/-- Spare units come into use; each replaces a retired unit, which R152 gives no code of its own, so that the event
carries the sub-slice's (R123; DESIGN CHOICE, log 73). -/
def sparesTaken (s : State) (m e : Nat) (us : List Nat) : State :=
  if capOf us = s.capUse m e then s
  else
    let h := s.calh m
    ((s.setCal m { h with units := h.units.put e us }).w F.LANE_CAL_EVT_RETIRED m 1).elemEvent m 0x2005 e 0 false

/-- Sub-slice e gets a whole set: at once in a foreground pass, and out of service with a comparator or spare units chosen
anew, which no value of the old set fits (R105, R125); else as any result. -/
def newSet (s : State) (m e : Nat) (fg : Bool) (vs : List Int) (sel : List Nat) : State :=
  if fg || sel != [s.compSel m e, s.capUse m e] then (s.elemFresh m e).putElem m e vs sel else s.newVals m e false vs

/-- Every weight but the three most significant lies in its range. -/
def weightsInRange (ws : List Nat) : Bool :=
  ((List.range 10).drop 3).all fun b => near 12 (ws.getD b 0) (Config.nominalWeight b % 2 ^ 16)

/-- A visit of a sub-slice. A value out of range retires it whatever its other measurements gave; a comparator in use
that is retired is replaced at once, and the best is chosen where all three were measured and the visit is Good (R121,
R123, R125). -/
def visitSs (s : State) (m e : Nat) (fg choose : Bool) (comps : List (Fin 3 × Int × Int)) (wt : List WeightTry)
    (spares : List (Nat × Nat)) (ofs gain : List (Int × Int)) : State :=
  let s := s.compsMeasured m e comps
  match s.bestComp m e with
  | none => s.retire m e
  | some best =>
    let gone := bitAt (s.r F.LANE_CAL_SS_COMP_RET (elemIdx m e)) (s.compSel m e)
    let comp := if gone then best else s.compSel m e
    let s := if gone then s.putElem m e ((s.elemVals m e).set 2 (s.compTrim m e best)) [best, s.capUse m e] else s
    let old := s.latestVals m e
    let o := judge (within 16) (-1024) 1024 ofs
    let g := judge gainAgrees (-3932) 3932 gain
    let j := judgeWeights wt
    let fix := match j with
      | .good ws => if weightsInRange ws then s.fixWeights m e ws (if choose then spares else []) else none
      | _ => some ([], (List.range 3).map (s.unitsOf m e), true)
    match fix with
    | none => s.retire m e
    | some (ws, us, full) =>
      if o.isOut || g.isOut then s.retire m e
      else if o.isDis || g.isDis || j.isDis then s.suspect m e
      else if o.isSkip && g.isSkip && j.isSkip then s
      else
        let t := s.sparesTaken m e us
        if !full then t.putElem m e (t.elemVals m e) [comp, capOf us]
        else
          let comp := if choose && comps.length ≥ 3 then best else comp
          let ws := if j.isSkip then old.drop 3 else ws.map Int.ofNat
          (t.newSet m e fg ([o.getD (old.getD 0 0), g.getD (old.getD 1 0), s.compTrim m e comp] ++ ws)
            [comp, capOf us]).goodVisit m e

/-- A visit of a group. In carding skew and bandwidth need a live signal; without one they are Skipped, and a Good gain
alone makes the visit Good (R121; DESIGN CHOICE, log 76). -/
def visitGrp (s : State) (m g : Nat) (fg : Bool) (gain skew bw : List (Int × Int)) : State :=
  let e := grpElem g
  let old := s.latestVals m e
  let live := fg || s.on F.LANE_FE_STAT_SIG_PRESENT (s.lead m)
  let x := judge gainAgrees (-3932) 3932 gain
  let k := if live then judge (within 7) (-511) 511 skew else .skipped
  let b := if live then judge (within 49) (-1024) 1024 bw else .skipped
  if x.isOut || k.isOut || b.isOut then s.retire m e
  else if x.isDis || k.isDis || b.isDis then s.suspect m e
  else if x.isSkip && k.isSkip && b.isSkip then s
  else (s.newVals m e fg [x.getD (old.getD 0 0), b.getD (old.getD 1 0), k.getD (old.getD 2 0)]).goodVisit m e

/-- A visit of an element with one value. -/
def visitOne (s : State) (m e : Nat) (fg : Bool) (j : Judged Int) : State :=
  match j with
  | .good v => (s.newVals m e fg [v]).goodVisit m e
  | .outOfRange => s.retire m e
  | .disagree => s.suspect m e
  | .skipped => s

/-- The lane of a pair that a measurement belongs to. -/
def adcOf (n : Nat) (odd : Bool) : Nat := if odd then n + 1 else n

/-- An element that is retired is measured no more. -/
def retired (s : State) (m e : Nat) : Bool :=
  match retiredF e with | some f => s.on f (elemIdx m e) | none => false

/-- A pass or a slot measures this element of lead lane n: none that is retired; in service only sub-slices of no
carding slot, so that a group with neither spare has its sub-slices Skipped (R133); the pair skew with a live signal, and
transmit elements and the pair skew in a full pass or a transmit pass alone (R121, R134). -/
def measures (s : State) (n : Nat) (fg full cells : Bool) : Meas → Bool
  | .subSlice odd g q .. =>
    !s.retired (adcOf n odd) (ssElem g q) && (fg || !s.inService (adcOf n odd) (ssElem g q))
  | .group odd g .. => !s.retired (adcOf n odd) (grpElem g) && (fg || !s.inService (adcOf n odd) (grpElem g))
  | .pair _ => s.fused n && (fg || (full && s.on F.LANE_FE_STAT_SIG_PRESENT n))
  | .cell odd c _ =>
    !s.retired (adcOf n odd) (91 + c) && (fg || ((full || cells) && (c == 16 || !s.inService (adcOf n odd) (91 + c))))

/-- One measured element of lead lane n is judged (R121). The choices of R125 belong to foreground and full passes. -/
def visit (s : State) (n : Nat) (fg full : Bool) : Meas → State
  | .subSlice odd g q comps wt spares ofs gain =>
    s.visitSs (adcOf n odd) (ssElem g q) fg (fg || full) comps wt spares ofs gain
  | .group odd g gain skew bw => s.visitGrp (adcOf n odd) g fg gain skew bw
  | .pair skew => s.visitOne n 90 fg (judge (within 7) (-511) 511 skew)
  | .cell odd c trim => s.visitOne (adcOf n odd) (91 + c) fg (judge (within 1) (-32) 31 trim)

/-- Disagreeing attempts of a measurement, and whether four of them did. -/
def measDisagree : Meas → Nat × Bool
  | .subSlice _ _ _ _ wt _ ofs gain =>
    let a := disagreed tryAgrees wt
    let b := disagreed (within 16) ofs
    let c := disagreed gainAgrees gain
    (a + b + c, a ≥ 4 || b ≥ 4 || c ≥ 4)
  | .group _ _ gain skew bw =>
    let a := disagreed gainAgrees gain
    let b := disagreed (within 7) skew
    let c := disagreed (within 49) bw
    (a + b + c, a ≥ 4 || b ≥ 4 || c ≥ 4)
  | .pair skew => (disagreed (within 7) skew, disagreed (within 7) skew ≥ 4)
  | .cell _ _ trim => (disagreed (within 1) trim, disagreed (within 1) trim ≥ 4)

/-- The converter a measurement belongs to. -/
def measLane (n : Nat) : Meas → Nat
  | .subSlice odd .. => adcOf n odd
  | .group odd .. => adcOf n odd
  | .pair _ => n
  | .cell odd .. => adcOf n odd

/-- Every attempt that disagreed counts (R120). -/
def countDisagree (s : State) (n : Nat) (ms : List Meas) : State :=
  s.each ms fun s x => s.inc F.LANE_CAL_DISAGREE_COUNT (measLane n x) (measDisagree x).1

/-! ### Foreground passes, R126-R130 -/

/-- The temperature of a lane's zone. -/
def laneTemp (s : State) (n : Nat) : Nat := s.r F.THM_ZONE_TEMP (zoneOfSlot (slotOfLane n))

/-- A completed pass of lead lane n is recorded (R126, R134). -/
def passDone (s : State) (n : Nat) : State :=
  let s := s.each (s.members n) fun s m =>
    let s := (s.inc F.LANE_CAL_COUNT_COUNT m).w F.LANE_CAL_TIME_TIME m (s.dieTime (dieOf m))
    (s.w F.LANE_CAL_TEMP_TEMP m (s.laneTemp m)).setCal m { s.calh m with passMode := s.laneMode m }
  { s with nvm := { s.nvm with passed := true, passedNew := true } }

/-- The places that passes of die d take (R128). -/
def placesUsed (s : State) (d : Nat) : Nat :=
  (span (96 * d) 96).foldl (fun a n => a + if (s.calh n).running then (s.members n).length else 0) 0

/-- Lane n waits for a place: in SAFE a retry does not (R129). -/
def fgWaits (s : State) (n : Nat) : Bool :=
  (s.calh n).want && s.on F.LANE_ADC_STAT_RUNNING n && (s.laneState n == 1 || (s.laneState n == 2 && s.dev == .run))

/-- The lowest waiting lane of die d starts its pass when its places are free (R126, R128). -/
def fgStart (s : State) (d : Nat) : State :=
  match (span (96 * d) 96).find? s.fgWaits with
  | none => s
  | some n =>
    if s.placesUsed d + (s.members n).length > 24 then s
    else
      let s := s.setCal n { s.calh n with want := false, running := true, fgAt := s.now, actSq := 0, actN := 0,
                                          measured := false }
      let s := s.setAdc n { s.adch n with pass := true }
      ((s.w F.LANE_FE_STAT_ISO_OPEN n 1).w F.LANE_FE_STAT_CTLE_CODE n 0).w F.LANE_FE_STAT_VGA_CODE n 72

/-- The pass of lane n is over: the switch closes, but for analogue near loopback, in which it isolates the balls (R249),
and the front end is restored (R126). -/
def fgRestore (s : State) (n : Nat) : State :=
  let s := s.setCal n { s.calh n with running := false, lastTry := s.now }
  (s.wb F.LANE_FE_STAT_ISO_OPEN n (s.r F.LANE_STAT_LOOPBACK n == 4)).frontEndFromCfg n

/-- A lane that enters CAL_WAIT goes on to ACQUIRE on its stored values where R130 lets it. -/
def acceptStored (s : State) (n : Nat) : State :=
  let dT := (sint 16 (s.laneTemp n) - s.ri F.LANE_CAL_TEMP_TEMP n).natAbs
  if s.on F.LANE_CAL_CFG_ACCEPT_STORED n && s.on F.LANE_CAL_COUNT_COUNT n &&
      dT ≤ 12 * s.r F.LANE_CAL_CFG_TEMP_STEP n then
    let s := (s.w F.LANE_CAL_STAT_STORED_IN_USE n 1).setCal n { s.calh n with want := false, onTrack := true }
    (s.post n 0x2009).toAcquire n 2 false
  else s

/-- A noisy pass of lane n is abandoned: CAL_WAIT, or another failed retry (R126, R129). R126 ends a retry too with
"lane := CAL_WAIT", so that R130 and LANE_CAL_EVT.CAL_WAIT take it as an entry (DEDUCED, log 77). -/
def fgRejected (s : State) (n : Nat) : State :=
  let s := s.fgRestore n
  let s := if s.laneState n == 1 then (s.setLane n 2 2).w F.LANE_CAL_ACT_WAIT_RETRIES n 0
    else s.inc F.LANE_CAL_ACT_WAIT_RETRIES n
  let s := (s.w F.LANE_CAL_EVT_CAL_WAIT n 1).post n 0x2002
  (s.resolve (.foreground n) .calRejected).acceptStored n

/-- The foreground pass of lane n ends with its measurements. -/
def fgDone (s : State) (n : Nat) (ms : List Meas) : State :=
  let ms := ms.filter (s.measures n true false false)
  let s := s.countDisagree n ms
  if s.on F.LANE_CAL_STAT_NOISY n && ms.any (fun x => (measDisagree x).2) then s.fgRejected n
  else
    let s := s.each ms fun s x => s.visit n true false x
    let s := ((s.fgRestore n).passDone n).post n 0x2001
    (s.toAcquire n 2 false).resolve (.foreground n)

/-! ### Carding and full passes, R131-R135 -/

/-- Carding runs on lead lane n (R132). -/
def cardRuns (s : State) (n : Nat) : Bool :=
  s.tracking n && s.on F.LANE_CAL_CFG_CARD_EN n && (s.dev == .run || s.dev == .safe) && !s.on F.LANE_ADC_STAT_HOLD n

/-- The next element of a sweep over 0 to `top` and its direction: it reverses at the ends (R131). -/
def sweep (top j : Nat) (up : Bool) : Nat × Bool :=
  let up := if j = 0 then true else if j ≥ top then false else up
  (if up then j + 1 else j - 1, up)

/-- The element that the changes scheduled for group g of ADC m will have left out of service. -/
def lastOut (s : State) (m g : Nat) : Nat :=
  (((s.adch m).maps.filter fun c => c.1 == g).getLast?.map (·.2)).getD (s.outOf m g)

/-- The sweeps of ADC m step once; the group change is scheduled first (R102, R132). -/
def sweepStep (s : State) (m : Nat) : State :=
  let s :=
    if s.on F.LANE_ADC_STAT_NO_GROUP_SPARE m then s
    else
      let (j, up) := sweep 8 (s.lastOut m 9) (s.calh m).upG
      let s := s.setCal m { s.calh m with upG := up }
      s.setAdc m { s.adch m with maps := (s.adch m).maps ++ [(9, j)] }
  s.each (whichBelow 9 fun g => !bitAt (s.r F.LANE_ADC_STAT_NO_SS_SPARE m) g) fun s g =>
    let h := s.calh m
    let (j, up) := sweep 8 (s.lastOut m g) (h.upS.getD g false)
    let s := s.setCal m { h with upS := h.upS.set g up }
    s.setAdc m { s.adch m with maps := (s.adch m).maps ++ [(g, j)] }

/-- The transmit cell sweep of lane m steps once (R131, R134). -/
def cellStep (s : State) (m : Nat) : State :=
  if s.on F.LANE_TX_STAT_NO_CELL_SPARE m then s
  else
    let (c, up) := sweep 15 ((s.txh m).pendCell.getLast?.getD (s.r F.LANE_TX_STAT_SPARE_CELL m)) (s.calh m).upT
    (s.setCal m { s.calh m with upT := up }).setTx m { s.txh m with pendCell := (s.txh m).pendCell ++ [c] }

/-- The slot that ends counts for the lane and for the passes that run (R134). -/
def slotEnd (s : State) (n : Nat) : State :=
  let s := s.each (s.members n) fun s m => s.inc F.LANE_CAL_CARD_SLOTS m
  let h := s.calh n
  let s := match h.full with
    | none => s
    | some k =>
      if k + 1 ≥ 16 then
        let s := (s.setCal n { h with full := none }).passDone n
        let s := (s.w F.LANE_CAL_STAT_STORED_IN_USE n 0).post n 0x2007
        s.resolve (.fullPass n)
      else s.setCal n { h with full := some (k + 1) }
  let h := s.calh n
  match h.cells with
  | none => s
  | some k =>
    if k + 1 ≥ 16 then (s.setCal n { h with cells := none }).resolve (.txCells n)
    else s.setCal n { h with cells := some (k + 1) }

/-- The next slot begins: a pending full pass with it, and the sweeps step. The 16 slots in which a transmit part runs
alone (R146) stay carding slots: the group and sub-slice sweeps and their visits go on in them (DESIGN CHOICE, log 102). -/
def slotBegin (s : State) (n : Nat) : State :=
  let h := s.calh n
  let h := if h.pending && h.full.isNone then { h with full := some 0, pending := false } else h
  let s := s.setCal n { h with slotOpen := true }
  let cells := (match h.full with | some k => k ≥ 1 | none => false) || (match h.cells with | some k => k ≥ 1 | none => false)
  s.each (s.members n) fun s m => if cells then (s.sweepStep m).cellStep m else s.sweepStep m

/-- A carding slot boundary of lead lane n with what the slot measured. -/
def cardingSlot (s : State) (n : Nat) (ms : List Meas) : State :=
  let h := s.calh n
  let s := if h.slotOpen then
      let ms := ms.filter (s.measures n false h.full.isSome h.cells.isSome)
      let s := s.countDisagree n ms
      (s.each ms fun s x => s.visit n false h.full.isSome x).slotEnd n
    else s
  if s.cardRuns n then s.slotBegin n else s

/-- A full pass is scheduled for lead lane n, unless one is pending, which a further request joins (R135), or runs: a
CAL_RUN MODE 1 that meets a running full pass joins that one (DESIGN CHOICE, log 100). -/
def scheduleFull (s : State) (n : Nat) : State :=
  let h := s.calh n
  if h.full.isSome || h.pending then s else s.setCal n { h with pending := true }

/-- A temperature report of lane n (R135). -/
def tempReport (s : State) (n : Nat) : State :=
  let h := s.calh n
  let dT := (sint 16 (s.laneTemp n) - s.ri F.LANE_CAL_TEMP_TEMP n).natAbs
  if s.tracking n && h.full.isNone && !h.pending && 4 * s.r F.LANE_CAL_CFG_TEMP_STEP n ≤ dT then
    (s.scheduleFull n).post n 0x2008
  else s

/-- LANE_CAL_STAT.PHASE (R150). -/
def calPhase (s : State) (n : Nat) : Nat :=
  let h := s.calh (s.lead n)
  if h.running then 1 else if s.laneState n = 2 then 2 else if h.full.isSome then 4 else if h.cells.isSome then 5
  else if s.cardRuns (s.lead n) then 3 else 0

/-- LANE_CAL_STAT.SUSPECT: elements with a suspect count (R150). -/
def suspectCount (s : State) (n : Nat) : Nat :=
  min 255 ((List.range 108).countP fun e => s.on (suspectF e) (elemIdx n e))

/-! ### CAL_RUN and CAL_POLICY, R146, R147 -/

/-- R146 allows the command on lane n. -/
def calAllowed (s : State) (j : Job) (n : Nat) : Bool :=
  let st := s.laneState n
  if j.p 4 1 = 0 then st == 1 || st == 2 || ((st == 3 || st == 4 || st == 5) && j.p 5 1 == 1) else st == 4 || st == 5

/-- CAL_RUN on lead lane n. A transmit cell pass takes a slot that is already open as the first of its 16 (DESIGN
CHOICE, log 78); a MODE 2 request joins a transmit cell pass that already runs (DESIGN CHOICE, log 100). -/
def calRunLane (s : State) (j : Job) (n : Nat) : State :=
  let h := s.calh n
  match j.p 4 1 with
  | 0 =>
    if s.laneState n == 1 then s
    else if s.laneState n == 2 then (if h.running then s else s.setCal n { h with want := true })
    else s.toCal n 1
  | 1 => s.scheduleFull n
  | _ => if h.cells.isSome then s else s.setCal n { h with cells := some 0 }

/-- The wait of a CAL_RUN mode. -/
def calWait (j : Job) (n : Nat) : Wait :=
  match j.p 4 1 with | 0 => .foreground n | 1 => .fullPass n | _ => .txCells n

/-- CAL_RUN: checked whole, then applied. -/
def calRun (s : State) (j : Job) : State :=
  if !(j.spanOk 192 && j.p 4 1 ≤ 2 && j.p 5 1 ≤ 1 && j.pz 6 26) then s.finish j.ring j.idx .badParam
  else if (j.p 4 1 == 0 && s.dev == .safe) || !(j.items.all (s.calAllowed j)) then s.finish j.ring j.idx .notAllowed
  else
    let ns := s.leads j.items
    (s.each ns fun s n => s.calRunLane j n).await j.ring j.idx (ns.map (calWait j))

/-- The parameter bytes keep R147. A field whose VALID bit is 0 changes nothing and is not checked against its range
(DEDUCED, log 81). -/
def calPolicyOk (j : Job) : Bool :=
  j.spanOk 192 && j.p 4 1 < 16 && j.p 5 1 < 4 && j.pz 9 1 && j.pz 12 20 &&
    (!bitAt (j.p 4 1) 0 || (64 ≤ j.p 6 2 && j.p 6 2 ≤ 64000)) &&
    (!bitAt (j.p 4 1) 1 || (2 ≤ j.p 8 1 && j.p 8 1 ≤ 0x80)) &&
    (!bitAt (j.p 4 1) 3 || (8 ≤ j.p 10 2 && j.p 10 2 ≤ 0x400))

/-- CAL_POLICY on one lane. -/
def calPolicyLane (s : State) (j : Job) (n : Nat) : State :=
  let v := j.p 4 1
  let s := if bitAt v 0 then s.w F.LANE_CAL_CFG_RAMP_US n (j.p 6 2) else s
  let s := if bitAt v 1 then s.w F.LANE_CAL_CFG_TEMP_STEP n (j.p 8 1) else s
  let s := if bitAt v 2 then
      (s.wb F.LANE_CAL_CFG_CARD_EN n (bitAt (j.p 5 1) 0)).wb F.LANE_CAL_CFG_ACCEPT_STORED n (bitAt (j.p 5 1) 1)
    else s
  if bitAt v 3 then s.w F.LANE_CAL_ACT_CFG_ACT_THRESH n (j.p 10 2) else s

/-- CAL_POLICY: checked whole, then applied. -/
def calPolicy (s : State) (j : Job) : State :=
  if calPolicyOk j then (s.each j.items fun s n => s.calPolicyLane j n).finish j.ring j.idx .ok
  else s.finish j.ring j.idx .badParam

end State

/-! ### The meanings -/

/-- FOREGROUND_PASS_START, R126, R128: on die d. -/
def execForegroundPassStart (d : Fin 2) (s : State) : Out := whenLive s fun s => s.fgStart d

/-- FG_DONE, R126: the measurements of the pass, which follow that of the residual activity: the converter's
elements, then the transmit ones. -/
def execFgDone (n : Fin 192) (rx tx : List Meas) (s : State) : Out :=
  whenLive s fun s =>
    let h := s.calh n
    if h.running && h.measured && (s.laneState n == 1 || s.laneState n == 2) then s.fgDone n (rx ++ tx) else s

/-- CAL_WAIT_RETRY, R129: suspended but in RUN. -/
def execCalWaitRetry (n : Fin 192) (s : State) : Out :=
  whenLive s fun s =>
    let h := s.calh n
    if s.laneState n == 2 && !s.fusedOdd n && s.dev == .run && !h.running then s.setCal n { h with want := true } else s

/-- CARDING_SLOT, R132-R134: what the slot that ends measured. -/
def execCardingSlot (n : Fin 192) (ms : List Meas) (s : State) : Out :=
  whenLive s fun s => if !s.fusedOdd n && s.cardRuns n then s.cardingSlot n ms else s

/-- LANE_TEMP_REPORT, R135. -/
def execLaneTempReport (n : Fin 192) (s : State) : Out :=
  whenLive s fun s => if !s.fusedOdd n && s.serviced then s.tempReport n else s

/-- CAL_RUN, R146. -/
def execCalRun (q : Fin 32768) (i : Fin 65536) (s : State) : Out := actJob 0x20 q i s fun j s => s.calRun j

/-- CAL_POLICY, R147. -/
def execCalPolicy (q : Fin 32768) (i : Fin 65536) (s : State) : Out := actJob 0x21 q i s fun j s => s.calPolicy j

end Sys2Proof.Machine
end

