-- ==== Sys2Proof/Machine/Nvm.lean ====
section
/-! DEFINITION. The calibration NVM: records, program log, commits, the load at BOOT, CAL_COMMIT and CAL_RESTORE
(spec/05_converter_calibration.md R138-R145, R148, R149). -/

namespace Sys2Proof.Machine

open Sys2Proof

/-! ### CRC-32C, R141 -/

/-- One bit of the reflected CRC. -/
def crcBit (c : Nat) : Nat := if c % 2 = 1 then (c / 2) ^^^ 0x82F63B78 else c / 2

/-- One byte. -/
def crcByte (c b : Nat) : Nat :=
  crcBit (crcBit (crcBit (crcBit (crcBit (crcBit (crcBit (crcBit (c ^^^ b))))))))

/-- CRC-32C of bytes in ascending order. -/
def crc32c (bs : List Nat) : Nat := (bs.foldl crcByte 0xFFFFFFFF) ^^^ 0xFFFFFFFF

/-! ### The array, R138 -/

/-- An erased byte. -/
def Nvm.blank : BitVec 8 := 0xFF

/-- Bytes of one bank, the length of a record, the place of the program log in a bank and its slots (R138, R139, R144). -/
def bankBytes : Nat := 0x80000
def recordLen : Nat := 0x78108
def logBase : Nat := 0x79000
def logSlots : Nat := 3584

namespace NvmH

/-- The byte at `a`. -/
def byte (m : NvmH) (a : Nat) : BitVec 8 := m.bytes.get a Nvm.blank

/-- `n` bytes from `a` on. -/
def read (m : NvmH) (a n : Nat) : List Nat := (List.range n).map fun k => (m.byte (a + k)).toNat

/-- Bytes programmed from `a` on. -/
def write (m : NvmH) (a : Nat) : List Nat → NvmH
  | [] => m
  | b :: bs => write { m with bytes := m.bytes.set a (BitVec.ofNat 8 b) Nvm.blank } (a + 1) bs

/-- Bank b erased. -/
def erase (m : NvmH) (b : Nat) : NvmH := { m with bytes := m.bytes.filter fun c => c.1 / bankBytes != b }

/-- Bank b holds nothing. -/
def isBlank (m : NvmH) (b : Nat) : Bool := m.bytes.all fun c => c.1 / bankBytes != b

/-- The array is in canonical form: addresses rising, and no erased byte listed. -/
def wf (m : NvmH) : Bool := Tab.sortedFrom none m.bytes && m.bytes.all fun c => c.2 != Nvm.blank

/-- Bank b holds a valid record (R145). -/
def valid (m : NvmH) (b : Nat) : Bool :=
  let e := m.read (b * bankBytes) recordLen
  leAt e 0 4 == 0x42434C4F && leAt e 4 2 == 1 && leAt e 6 2 == 0x100 && leAt e 8 4 == recordLen &&
    leAt e 0xFC 4 == crc32c (e.take 0xFC) && leAt e 0x78100 4 == crc32c (e.take 0x78100) &&
    leAt e 0x78104 4 == 0x43444E45 && leAt e 0xC 4 ≤ 0xFFFFFFFE

/-! ### The program log, R144 -/

/-- Slot i of bank b's log. -/
def slot (m : NvmH) (b i : Nat) : List Nat := m.read (b * bankBytes + logBase + 8 * i) 8

/-- A slot that reads all 0xFF; an entry that counts, as (POWERED_S, FLAGS). -/
def slotFree (e : List Nat) : Bool := e.all (· == 0xFF)
def slotEntry (e : List Nat) : Option (Nat × Nat) :=
  if leAt e 7 1 = 0x5A ∧ leAt e 5 2 = 0 then some (leAt e 0 4, leAt e 4 1) else none

/-- The entries of bank b's log that count. -/
def log (m : NvmH) (b : Nat) : List (Nat × Nat) := (List.range logSlots).filterMap fun i => slotEntry (m.slot b i)

/-- The slot for the next entry: after the last that is not free. -/
def nextSlot (m : NvmH) (b : Nat) : Nat :=
  (List.range logSlots).foldl (fun a i => if slotFree (m.slot b i) then a else i + 1) 0

/-- Bank b's log area holds bytes that are neither entries nor 0xFF (R144). -/
def logDirty (m : NvmH) (b : Nat) : Bool :=
  (List.range logSlots).any fun i => !slotFree (m.slot b i) && (slotEntry (m.slot b i)).isNone

end NvmH

/-- Crown zones (R383). -/
def crownZones : List Nat := span 13 4

namespace State

/-- Some crown zone lies outside 0 to 95 C, or COLD_INHIBIT is 1 (R142). -/
def nvmTempBad (s : State) : Bool :=
  s.on F.THM_STAT_COLD_INHIBIT ||
    crownZones.any fun z => decide (s.ri F.THM_ZONE_TEMP z < 0 ∨ 1520 < s.ri F.THM_ZONE_TEMP z)

/-- The count of powered seconds (R143). -/
def poweredS (s : State) : Nat := s.nvm.baseS + s.poweredNs / 1000000000

/-- The bank of the active record, and the bank whose log takes the next entry. -/
def activeBank (s : State) : Nat := s.r F.CAL_NVM_STAT_ACTIVE_BANK
def activeValid (s : State) : Bool := s.on F.CAL_NVM_STAT_ACTIVE_VALID
def logBank (s : State) : Nat := if s.activeValid then s.activeBank else 1

/-- The bank that a commit programs (R142). -/
def targetBank (s : State) : Nat := if s.activeValid then 1 - s.activeBank else 0

/-- The programs of PROGRAM_S in the active record (R139). -/
def recordPrograms (s : State) : List (Nat × Nat) :=
  if s.activeValid then
    (List.range 10).filterMap fun i => NvmH.slotEntry (s.nvm.read (s.activeBank * bankBytes + 0x30 + 8 * i) 8)
  else []

/-- The programs known to the device, oldest first (R143). -/
def programs (s : State) : List (Nat × Nat) := s.recordPrograms ++ s.nvm.log s.logBank

/-- Those within the last 86,400 powered seconds. -/
def recent (s : State) : List (Nat × Nat) := s.programs.filter fun p => s.poweredS < p.1 + 86400

/-- Programs an explicit commit may make now: EXPLICIT_LEFT (R151). -/
def explicitLeft (s : State) : Nat :=
  min (8 - s.recent.countP fun p => bitAt p.2 1) (10 - s.recent.length)

/-- The rate limit refuses a program (R143). -/
def rateRefuses (s : State) (explicit : Bool) : Bool :=
  s.recent.length ≥ 10 || (explicit && (s.recent.countP fun p => bitAt p.2 1) ≥ 8)

/-! ### Records, R139, R140 -/

/-- The section of lane n. -/
def sectionBytes (s : State) (n : Nat) : List Nat :=
  let flags := (s.on F.LANE_CAL_COUNT_COUNT n).toNat + 2 * s.r F.LANE_CAL_STAT_SPARE_EXHAUSTED n +
    4 * (s.r F.LANE_FE_STAT_FUSED_ROLE n == 1).toNat
  let w (base i k : Nat) : List Nat := leBytes 4 (s.wordImage base i k)
  leBytes 2 n ++ [flags, (s.calh n).passMode] ++ leBytes 4 (s.r F.LANE_CAL_COUNT_COUNT n) ++
    leBytes 8 (s.r F.LANE_CAL_TIME_TIME n) ++ leBytes 2 (s.r F.LANE_CAL_TEMP_TEMP n) ++ [0, 0] ++
    leBytes 4 (s.r F.LANE_ADC_GMAP_P n) ++ ((List.range 9).flatMap fun g => leBytes 4 (s.r F.LANE_ADC_SMAP_P (9 * n + g))) ++
    w F.LANE_CAL_PAIR_SKEW.base n 0 ++
    ((List.range 9).flatMap fun g => w F.LANE_CAL_GRP_GAIN.base (9 * n + g) 0 ++ w F.LANE_CAL_GRP_GAIN.base (9 * n + g) 1) ++
    List.replicate 8 0 ++
    ((List.range 81).flatMap fun e => (List.range 7).flatMap fun k => w F.LANE_CAL_SS_GAIN.base (81 * n + e) k) ++
    ((List.range 16).flatMap fun c => w F.LANE_CAL_TX_TRIM.base (16 * n + c) 0) ++ w F.LANE_CAL_TXB_TRIM.base n 0 ++
    List.replicate 80 0

/-- The last ten programs known, the record's own included, oldest first, as PROGRAM_S. -/
def programField (own : Nat × Nat) (known : List (Nat × Nat)) : List Nat :=
  let l := known ++ [own]
  let last := l.drop (l.length - 10)
  last.flatMap (fun p => leBytes 4 p.1 ++ [p.2, 0, 0, 0x5A]) ++ List.replicate (80 - 8 * last.length) 0xFF

/-- The hottest crown zone (R139). -/
def crownTemp (s : State) : Int := crownZones.foldl (fun t z => max t (s.ri F.THM_ZONE_TEMP z)) (-32768)

/-- The record of a snapshot: values in force, ramps at their targets (R142). -/
def recordOf (s : State) (explicit : Bool) (target flags : Nat) : List Nat :=
  let t := s.each (List.range nLanes) fun s n => s.dueTake n fun _ => true
  let t := t.each s.ramps fun s r => (s.setElem r.lane r.elem (r.vals.map fun v => v.2.2)).setSel r.lane r.elem r.sel
  let seq := if s.activeValid then s.r F.CAL_NVM_SEQ_SEQ + 1 else 1
  let cyc (b : Nat) : Nat := s.r F.CAL_NVM_CYC_CYCLES b + (b == target).toNat
  let head := leBytes 4 0x42434C4F ++ leBytes 2 1 ++ leBytes 2 0x100 ++ leBytes 4 recordLen ++ leBytes 4 seq ++
    leBytes 8 s.sysTime ++ leBytes 8 s.poweredS ++ leBytes 2 (uint 16 s.crownTemp) ++ [explicit.toNat, 0] ++
    leBytes 2 192 ++ leBytes 2 0xA00 ++ leBytes 4 (cyc 0) ++ leBytes 4 (cyc 1) ++
    programField (s.poweredS % 2 ^ 32, flags) s.programs ++ List.replicate 124 0
  let body := head ++ leBytes 4 (crc32c head) ++ (List.range nLanes).flatMap t.sectionBytes
  body ++ leBytes 4 (crc32c body) ++ leBytes 4 0x43444E45

/-! ### Commits, R142 -/

/-- The commit that holds the port ends with a status (R142, R148, R152). -/
def commitEnd (s : State) (r : Running) (st : Status) (r0 : Nat) : State :=
  let s := { s with nvm := { s.nvm with running := none } }
  let s := (s.w F.CAL_NVM_STAT_COMMIT_BUSY 0 0).w F.CAL_NVM_STAT_DEFERRED 0 0
  let s := if r.commit.explicit then s.finish r.commit.ring r.commit.idx st r0 else s
  if st == .ok then s
  else
    let s := s.w F.CAL_EVT_COMMIT_FAIL 0 1
    let s := if st == .thermalInhibit then s.w F.CAL_EVT_INHIBIT 0 1 else s
    s.post 758 0x2013 [(1, st.code)]

/-- The commit that holds the port is replaced by `r`. -/
def setRunning (s : State) (r : Running) : State := { s with nvm := { s.nvm with running := some r } }

/-- The snapshot is staged and the program counted in the log; then the target is erased where it is not blank, and
programmed (R142, R144). -/
def commitProgram (s : State) (r : Running) : State :=
  let b := s.logBank
  let i := s.nvm.nextSlot b
  if i ≥ logSlots then (s.post 758 0x2016).commitEnd r .internal 0
  else
    let target := s.targetBank
    let flags := target + 2 * r.commit.explicit.toNat + 4 * (decide (r.programs > 0)).toNat
    let rec' := s.recordOf r.commit.explicit target flags
    let entry := leBytes 4 s.poweredS ++ [flags, 0, 0, 0x5A]
    let s := s.inc F.CAL_NVM_CYC_CYCLES target
    let s := { s with nvm := (s.nvm.write (b * bankBytes + logBase + 8 * i) entry) }
    let s := { s with nvm := { s.nvm with passedNew := false } }
    s.setRunning { r with target := target, staging := rec', programs := r.programs + 1,
                          phase := if s.nvm.isBlank target then .programming else .erasing }

/-- Commits run in RUN and SAFE alone (R86). -/
def commitsRun (s : State) : Bool := s.dev == .run || s.dev == .safe

/-- The device state lets the commit `r` begin an erase or a program: a scheduled commit is held until RUN (R86). -/
def commitsNow (s : State) (r : Running) : Bool := s.dev == .run || (s.dev == .safe && r.commit.explicit)

/-- The loop of R142 from its start: rate limit, temperature, deadline, then snapshot and program. Where the device state
lets no program begin, the commit waits for NVM_COMMIT_RESUME (R86). -/
def commitLoop (s : State) (r : Running) : State :=
  if s.rateRefuses r.commit.explicit then s.commitEnd r .exhausted 0
  else if r.deadline ≤ s.now then s.commitEnd r .thermalInhibit 0
  else if s.nvmTempBad then
    let s := (s.w F.CAL_NVM_STAT_DEFERRED 0 1).setRunning { r with phase := .waitTemp, deferred := true }
    if r.deferred then s else s.post 758 0x2012
  else if !s.commitsNow r then s.setRunning { r with phase := .waitTemp }
  else
    let s := s.w F.CAL_NVM_STAT_DEFERRED 0 0
    if !s.activeValid && s.nvm.logDirty 1 then s.setRunning { r with phase := .erasingLog }
    else s.commitProgram r

/-- BIST runs (R447). -/
def bistRunning (s : State) : Bool := s.on F.SYS_BIST_STAT_RUNNING

/-- The conditions under which a scheduled commit starts (R143). -/
def scheduledMay (s : State) : Bool :=
  s.on F.CAL_CFG_SCHED_EN && s.dev == .run && s.nvm.passed && !(s.recent.any fun p => p.2 % 2 == s.targetBank)

/-- The waiting commit that has the port next: an explicit one before a scheduled one, which is held until it may start
(R43, R86, R143). -/
def nextCommit (s : State) : Option Commit :=
  match s.nvm.queue.find? (·.explicit) with
  | some c => some c
  | none => if s.scheduledMay then s.nvm.queue.head? else none

/-- The port goes to the next waiting commit. -/
def commitStart (s : State) : State :=
  match s.nvm.running, s.nextCommit with
  | none, some c =>
    let s := { s with nvm := { s.nvm with queue := s.nvm.queue.erase c } }
    let s := s.w F.CAL_NVM_STAT_COMMIT_BUSY 0 1
    s.commitLoop { commit := c, phase := .waitTemp, deadline := s.now + 600000000000 }
  | _, _ => s

/-- The record in bank b becomes the active one for the registers (R151). -/
def activate (s : State) (b : Nat) : State :=
  let h := s.nvm.read (b * bankBytes) 0x100
  let s := (s.w F.CAL_NVM_STAT_ACTIVE_BANK 0 b).w F.CAL_NVM_STAT_ACTIVE_VALID 0 1
  let s := (s.w F.CAL_NVM_SEQ_SEQ 0 (leAt h 0xC 4)).w F.CAL_COMMIT_TIME_TIME 0 (leAt h 0x10 8)
  (s.w F.CAL_NVM_CYC_CYCLES 0 (leAt h 0x28 4)).w F.CAL_NVM_CYC_CYCLES 1 (leAt h 0x2C 4)

/-- What the bank that is not active holds: CAL_NVM_STAT.OTHER (R151). -/
def otherShow (s : State) : State :=
  let b := 1 - s.activeBank
  s.w F.CAL_NVM_STAT_OTHER 0 (if s.nvm.isBlank b then 0 else if s.nvm.valid b then 1 else 2)

/-- The program verifies: the target is active, and the older bank is to be erased (R142). -/
def commitVerified (s : State) (r : Running) : State :=
  let s := (s.activate r.target).otherShow
  let pend := !s.nvm.isBlank (1 - r.target)
  let s := (s.wb F.CAL_NVM_STAT_ERASE_PENDING 0 pend)
  let s := { s with nvm := { s.nvm with eraseNow := pend, passed := s.nvm.passedNew } }
  let seq := s.r F.CAL_NVM_SEQ_SEQ
  (s.post 758 0x2011 [(1, r.target), (4, seq)]).commitEnd r .ok seq

/-- Programming ended, with the bytes that read back otherwise than staged (R142). -/
def programDone (s : State) (r : Running) (bad : List (Nat × Nat)) : State :=
  let s := { s with nvm := s.nvm.write (r.target * bankBytes) r.staging }
  let s := s.each bad fun s b => { s with nvm := s.nvm.write (r.target * bankBytes + b.1 % recordLen) [b.2] }
  if s.nvm.read (r.target * bankBytes) recordLen == r.staging then s.commitVerified r
  else
    let s := s.otherShow
    if r.fails + 1 ≥ 2 then ((s.w F.CAL_EVT_BANK_BAD 0 1).post 758 0x2016).commitEnd r .internal 0
    else s.commitLoop { r with fails := r.fails + 1 }

/-- An erase ended: of the target or of the log's bank in a commit, or of the older bank after one (R142, R144). -/
def eraseDone (s : State) : State :=
  match s.nvm.running with
  | some r =>
    match r.phase with
    | .erasing =>
      let s := { s with nvm := s.nvm.erase r.target }
      let s := if s.activeValid then s.w F.CAL_NVM_STAT_ERASE_PENDING 0 0 else s
      s.otherShow.setRunning { r with phase := if s.commitsNow r then .programming else .held }
    | .erasingLog => ({ s with nvm := s.nvm.erase 1 }).otherShow.commitLoop r
    | _ => s
  | none =>
    if s.nvm.eraseNow && !s.nvmTempBad then
      let s := { s with nvm := { s.nvm.erase (1 - s.activeBank) with eraseNow := false } }
      (s.w F.CAL_NVM_STAT_ERASE_PENDING 0 0).otherShow
    else s

/-- The first `k` pages of the staging buffer are programmed. -/
def programPages (s : State) (r : Running) (k : Nat) : State :=
  { s with nvm := s.nvm.write (r.target * bankBytes) (r.staging.take (256 * k)) }

/-- How many pages a stop in the middle of programming leaves written: a free value, from none to all (log 13). -/
def pagesWritten (s : State) : Nat := Config.unstated 30 s.fresh % 1922

/-- The first `k` pages of bank b are erased. -/
def erasePages (s : State) (b k : Nat) : State :=
  { s with nvm := s.nvm.write (b * bankBytes) (List.replicate (256 * k) 0xFF) }

/-- Programming stops at the next page boundary, an erase with as much of the bank erased as it had come to (log 13): at
a thermal stop the commit's loop starts again, and otherwise the commit is gone (R83, R142, R438). -/
def nvmStop (s : State) (thermal : Bool) : State :=
  match s.nvm.running with
  | none => s
  | some r =>
    let cut (t : State) : State := ({ t with fresh := t.fresh + 1 }).otherShow
    let s := match r.phase with
      | .programming => cut (s.programPages r s.pagesWritten)
      | .erasing => cut (s.erasePages r.target s.pagesWritten)
      | .erasingLog => cut (s.erasePages 1 s.pagesWritten)
      | _ => s
    if thermal then (if r.phase == .waitTemp then s else s.commitLoop r)
    else { s with nvm := { s.nvm with running := none, queue := [] } }

/-- A scheduled commit is due: its conditions hold and none waits or runs (R143). -/
def scheduledReady (s : State) : Bool :=
  s.scheduledMay && s.nvm.queue.all (·.explicit) &&
    (match s.nvm.running with | some r => r.commit.explicit | none => true)

/-! ### Loading, R145, R149 -/

/-- The status bits and maps that follow from the retirements of lane n. -/
def retirementsShow (s : State) (n : Nat) : State :=
  let ret := whichBelow 81 fun e => s.on F.LANE_CAL_SS_RETIRED (81 * n + e)
  let s := s.w F.LANE_CAL_STAT_RET_SS n ret.length
  let s := s.w F.LANE_ADC_STAT_NO_SS_SPARE n
    ((whichBelow 9 fun g => ret.any fun e => e / 9 == g).foldl (fun a g => a + 2 ^ g) 0)
  let grp := (List.range 9).any fun g => s.on F.LANE_CAL_GRP_RETIRED (9 * n + g)
  let s := (s.wb F.LANE_CAL_STAT_GRP_RETIRED n grp).wb F.LANE_ADC_STAT_NO_GROUP_SPARE n grp
  let s := s.w F.LANE_ADC_STAT_SPARE_GROUP n (mapOut (s.r F.LANE_ADC_GMAP_P n))
  let s := s.wb F.LANE_TX_STAT_NO_CELL_SPARE n ((List.range 16).any fun c => s.on F.LANE_CAL_TX_RETIRED (16 * n + c))
  s.w F.LANE_TX_STAT_SPARE_CELL n (((List.range 16).find? fun c => s.on F.LANE_CAL_TX_SPARE (16 * n + c)).getD 15)

/-- Lane n takes its section (R140, R145). -/
def loadSection (s : State) (n : Nat) (e : List Nat) : State :=
  let s := (s.w F.LANE_CAL_COUNT_COUNT n (leAt e 4 4)).w F.LANE_CAL_TIME_TIME n (leAt e 8 8)
  let s := (s.w F.LANE_CAL_TEMP_TEMP n (leAt e 0x10 2)).w F.LANE_ADC_GMAP_P n (leAt e 0x14 4)
  let s := s.each (List.range 9) fun s g => s.w F.LANE_ADC_SMAP_P (9 * n + g) (leAt e (0x18 + 4 * g) 4)
  let s := s.loadWord F.LANE_CAL_PAIR_SKEW.base n 0 (leAt e 0x3C 4)
  let s := s.each (List.range 18) fun s k =>
    s.loadWord F.LANE_CAL_GRP_GAIN.base (9 * n + k / 2) (k % 2) (leAt e (0x40 + 4 * k) 4)
  let s := s.each (List.range 567) fun s k =>
    s.loadWord F.LANE_CAL_SS_GAIN.base (81 * n + k / 7) (k % 7) (leAt e (0x90 + 4 * k) 4)
  let s := s.each (List.range 16) fun s c => s.loadWord F.LANE_CAL_TX_TRIM.base (16 * n + c) 0 (leAt e (0x96C + 4 * c) 4)
  let s := s.loadWord F.LANE_CAL_TXB_TRIM.base n 0 (leAt e 0x9AC 4)
  let s := s.wb F.LANE_CAL_STAT_SPARE_EXHAUSTED n (bitAt (leAt e 2 1) 1)
  let s := if bitAt (leAt e 2 1) 1 then s.w F.LANE_CAL_EVT_SPARE_EXHAUSTED n 1 else s
  (s.setCal n { s.calh n with passMode := leAt e 3 1 }).retirementsShow n

/-- The section of lane n in the active bank. -/
def activeSection (s : State) (n : Nat) : List Nat :=
  s.nvm.read (s.activeBank * bankBytes + 0x100 + n * 0xA00) 0xA00

/-- The count of powered seconds restarts from the highest the active record and the log hold (R143). -/
def restartPowered (s : State) : State :=
  let rec0 := if s.activeValid then leVal (s.nvm.read (s.activeBank * bankBytes + 0x18) 8) else 0
  let top := (s.nvm.log s.logBank).foldl (fun m p => max m p.1) rec0
  { s with nvm := { s.nvm with baseS := top, loaded := true }, poweredNs := 0 }

/-- The load at BOOT (R145). -/
def recordLoad (s : State) : State :=
  let v0 := s.nvm.valid 0
  let v1 := s.nvm.valid 1
  let seq (b : Nat) : Nat := leVal (s.nvm.read (b * bankBytes + 0xC) 4)
  if !v0 && !v1 then
    let s := (s.w F.CAL_NVM_STAT_EMPTY 0 1).w F.CAL_EVT_NVM_EMPTY 0 1
    let s := s.each (List.range nLanes) fun s n => s.w F.LANE_CAL_COUNT_COUNT n 0
    (s.otherShow.restartPowered).post 758 0x2015
  else
    let b := if v0 && v1 then (if seq 0 < seq 1 then 1 else 0) else if v0 then 0 else 1
    let s := (s.activate b).otherShow
    let s := s.each (List.range nLanes) fun s n => s.loadSection n (s.activeSection n)
    let s := s.wb F.CAL_NVM_STAT_ERASE_PENDING 0 (v0 && v1)
    s.restartPowered.post 758 0x2014 [(1, b), (4, s.r F.CAL_NVM_SEQ_SEQ)]

/-- The image of element e in a section, as its register words. -/
def elemImage (sec : List Nat) (e : Nat) : Nat :=
  if e < 81 then leAt sec (0x90 + 28 * e) 28 else if e < 90 then leAt sec (0x40 + 8 * (e - 81)) 8
  else if e = 90 then leAt sec 0x3C 4 else if e < 107 then leAt sec (0x96C + 4 * (e - 91)) 4 else leAt sec 0x9AC 4

/-- The values of element e in a section. -/
def elemStored (sec : List Nat) (e : Nat) : List Int :=
  (elemFields e).map fun f =>
    let v := bits (elemImage sec e) f.lo f.width
    if elemSigned f then sint f.width v else (v : Int)

/-- What element e of lane n takes from its section: values, and the selecting fields. Retirements stand as they are
(R149): the comparator of the record comes with its trim unless it is retired, and a most significant weight with the
number of its spare units unless more are in use now (DEDUCED, log 52). -/
def restoreVals (s : State) (n e : Nat) : List Int × List Nat :=
  let sec := s.activeSection n
  let vs := elemStored sec e
  if e ≥ 81 then (vs, [])
  else
    let i := elemIdx n e
    let comp := bits (elemImage sec e) F.LANE_CAL_SS_COMP_SEL.lo F.LANE_CAL_SS_COMP_SEL.width
    let cap := bits (elemImage sec e) F.LANE_CAL_SS_CAP.lo F.LANE_CAL_SS_CAP.width
    let old := s.elemVals n e
    let out := bitAt (s.r F.LANE_CAL_SS_COMP_RET i) comp
    let vs := if out then vs.set 2 (old.getD 2 0) else vs
    let more := whichBelow 3 fun w => decide (bits cap (2 * w) 2 < bits (s.r F.LANE_CAL_SS_CAP i) (2 * w) 2)
    let vs := more.foldl (fun l w => l.set (3 + w) (old.getD (3 + w) 0)) vs
    let cap := more.foldl (fun c w => setBits c (2 * w) 2 (bits (s.r F.LANE_CAL_SS_CAP i) (2 * w) 2)) cap
    (vs, [if out then s.r F.LANE_CAL_SS_COMP_SEL i else comp, cap])

/-- Lane n takes the coefficients of its stored section: elements in service of a lane in service through a ramp, the
others at once; a result that waited is dropped (R149). -/
def restoreLane (s : State) (n : Nat) : State :=
  let live := let st := s.laneState n; st == 3 || st == 4 || st == 5
  s.each (List.range 108) fun s e =>
    let v := s.restoreVals n e
    let s := s.elemFresh n e
    if live && s.inService n e then s.rampStart n e v.1 v.2 else s.putElem n e v.1 v.2

/-- CAL_RESTORE: checked whole, then applied. -/
def calRestore (s : State) (j : Job) : State :=
  if !(j.spanOk 192 && j.pz 4 28) then s.finish j.ring j.idx .badParam
  else if j.items.any (fun n => s.laneState n == 1 || s.laneState n == 2) then s.finish j.ring j.idx .notAllowed
  else if !s.activeValid || j.items.any (fun n => !bitAt (leAt (s.activeSection n) 2 1) 0) then
    s.finish j.ring j.idx .calRejected
  else
    let s := s.each j.items fun s n => s.restoreLane n
    s.await j.ring j.idx ((j.items.filter fun n => !(s.rampsOf n).isEmpty).map Wait.restored)

/-- CAL_COMMIT: an explicit commit waits for the program port (R148). -/
def calCommit (s : State) (j : Job) : State :=
  if !j.pz 0 32 then s.finish j.ring j.idx .badParam
  else
    let s := { s with nvm := { s.nvm with queue := s.nvm.queue ++ [({ explicit := true, ring := j.ring, idx := j.idx } : Commit)] } }
    s.await j.ring j.idx [.commit]

end State

/-! ### The meanings -/

/-- NVM_COMMIT_START, R142; a commit is held while BIST runs (R255). -/
def execNvmCommitStart (s : State) : Out :=
  whenLive s fun s => if s.commitsRun && !s.bistRunning then s.commitStart else s

/-- SCHEDULED_COMMIT, R143. -/
def execScheduledCommit (s : State) : Out :=
  whenLive s fun s =>
    if s.scheduledReady then { s with nvm := { s.nvm with queue := s.nvm.queue ++ [{ explicit := false }] } } else s

/-- NVM_COMMIT_RESUME, R142. -/
def execNvmCommitResume (s : State) : Out :=
  whenLive s fun s =>
    match s.nvm.running with
    | some r =>
      if s.nvmTempBad || !s.commitsNow r then s
      else if r.phase == .waitTemp then s.commitLoop r
      else if r.phase == .held then s.setRunning { r with phase := .programming }
      else s
    | none => s

/-- NVM_COMMIT_TIMEOUT, R142. -/
def execNvmCommitTimeout (s : State) : Out :=
  whenLive s fun s =>
    match s.nvm.running with
    | some r => if r.phase == .waitTemp then s.commitEnd r .thermalInhibit 0 else s
    | none => s

/-- NVM_PROGRAM_DONE, R142: with the record bytes that verify reads otherwise than they were staged. -/
def execNvmProgramDone (bad : List (Nat × BitVec 8)) (s : State) : Out :=
  whenLive s fun s =>
    match s.nvm.running with
    | some r => if r.phase == .programming then s.programDone r (bad.map fun b => (b.1, b.2.toNat)) else s
    | none => s

/-- NVM_ERASE_DONE, R142. -/
def execNvmEraseDone (s : State) : Out := whenLive s fun s => s.eraseDone

/-- NVM_RECORD_LOAD, R145. -/
def execNvmRecordLoad (s : State) : Out :=
  .next (if s.dev == .boot && !s.nvm.loaded then s.recordLoad else s)

/-- CAL_COMMIT, R148. -/
def execCalCommit (q : Fin 32768) (i : Fin 65536) (s : State) : Out := actJob 0x22 q i s fun j s => s.calCommit j

/-- CAL_RESTORE, R149. -/
def execCalRestore (q : Fin 32768) (i : Fin 65536) (s : State) : Out := actJob 0x23 q i s fun j s => s.calRestore j

end Sys2Proof.Machine
end

