-- ==== Sys2Proof/Machine/Fabric.lean ====
section
/-! DEFINITION. The self-timed fabric: required rates, margins, the supply loop, AVSBus faults and FIFO slips
(spec/03_fabric_power_reset.md R66-R79). -/

namespace Sys2Proof.Machine

open Sys2Proof

/-! ### Islands, R67 -/

/-- What an island holds. -/
inductive IslandKind where
  | slot (k : Nat) | pool (d : Nat) | gearbox (d : Nat) | control | management
deriving DecidableEq, Repr

/-- Island i (R67); die 0 is brim west and 1 brim east. -/
def islandKind (i : Nat) : IslandKind :=
  if i < 12 then .slot i else if i < 14 then .pool 0 else if i = 14 then .gearbox 0 else if i = 15 then .control
  else if i = 21 ∨ i = 23 then .control else if i < 24 then .management
  else if i < 36 then .slot (i - 12) else if i < 38 then .pool 1 else if i = 38 then .gearbox 1 else .control

/-- A payload island (R67). -/
def isPayload (i : Nat) : Bool :=
  match islandKind i with
  | .slot _ | .pool _ | .gearbox _ => true
  | _ => false

/-- The rail of island i (R67). -/
def railOf (i : Nat) : Nat := if i < 16 then 0 else if i < 24 then 1 else 2

/-- The islands of rail r. -/
def islandsOf (r : Nat) : List Nat := (List.range 40).filter fun i => railOf i == r

/-- The source number of island i and of rail r (R286). -/
def islandSrc (i : Nat) : Nat := 602 + i
def railSrc (r : Nat) : Nat := 642 + r

namespace State

/-! ### Required rates, R71 -/

/-- Lane n is enabled or waits to be (R71, R73). -/
def counts (s : State) (n : Nat) : Bool :=
  s.laneState n != 0 || s.fab.raises.any fun r =>
    match r.change with
    | .lane m _ => s.lead n == m.val
    | .bist _ _ _ => false

/-- What lane n asks of its slot island, in Msymbol/s: the even lane of a pair asks for both. -/
def laneRate (s : State) (n : Nat) : Nat :=
  if !s.counts n then 0
  else if s.fused n then (if s.fusedOdd n then 0 else 2 * 225000)
  else match s.laneMode n with
    | 2 => 112500
    | 3 => 53125
    | _ => 225000

/-- The lanes of a slot and of a brim die. -/
def slotLanes (k : Nat) : List Nat := span (8 * k) 8
def dieLanes (d : Nat) : List Nat := span (96 * d) 96

/-- The full L400 load of an island (R71, R447): every lane of its slot or die in L400; control and management islands
have their worst-case load at all times. -/
def fullRate (i : Nat) : Nat :=
  match islandKind i with
  | .slot _ => 8 * 225000
  | .pool _ => 1920
  | .gearbox _ => 96 * 225000
  | .control | .management => Config.fixedRate i

/-- The rate of an island under BIST: its full L400 load (R447). -/
def bistRate (s : State) (i : Nat) : Nat :=
  if s.fab.raises.any (fun r => (match r.change with | .bist _ _ _ => true | .lane _ _ => false) && r.islands.contains i)
  then fullRate i else 0

/-- The required rate of island i (R71). -/
def required (s : State) (i : Nat) : Nat :=
  let sum (l : List Nat) : Nat := (l.map s.laneRate).foldl (· + ·) 0
  let own := match islandKind i with
    | .slot k => sum (slotLanes k)
    | .pool d => if (dieLanes d).any s.counts then 1920 else 0
    | .gearbox d => sum (dieLanes d)
    | .control | .management => Config.fixedRate i
  max own (s.bistRate i)

/-! ### Token gates, R78 -/

/-- Slot k of a frame of 16 passes a token when TS_PASS is P (R78). -/
def tokenPass (p k : Nat) : Bool := decide (k * p / 16 < (k + 1) * p / 16)

/-- The frame of the gate at the input of island i: which of its 16 token slots pass (R78). -/
def tokenFrame (s : State) (i : Nat) : List Bool := (List.range 16).map (tokenPass (s.r F.SYS_ISL_MARGIN_TS_PASS i))

/-! ### Margins, R70, R72, R76 -/

/-- The least margin of an island (R72). -/
def minMargin (s : State) (i : Nat) : Nat := if isPayload i then s.r F.SYS_FAB_CFG_TARGET else 0x10CD

/-- The release level of an island (R75). -/
def releaseLevel (s : State) (i : Nat) : Nat := if isPayload i then s.r F.SYS_FAB_CFG_RELEASE else 0x1267

/-- The least sustainable rate among the last four measurements over the required rate, in 1/4096 (R70); the same
measurements serve at a new required rate (log 30), the quotient is truncated, and one above the field's range shows as
0xFFFF (log 25). -/
def marginAt (s : State) (i : Nat) : Nat :=
  match s.fab.rates.get i [], s.required i with
  | [], _ => 0xFFFF
  | _, 0 => 0xFFFF
  | r :: rs, q => min 0xFFFF (rs.foldl min r * 4096 / q)

/-- The rail's ceiling, R75. -/
def ceiling (s : State) (r : Nat) : Nat := min (s.r F.SYS_RAIL_CFG_VMAX r) (s.r F.SYS_RAIL_STAT_CAP r)

/-- Rail r is at its cap (R75). -/
def atCap (s : State) (r : Nat) : Bool := s.r F.SYS_RAIL_STAT_SETPOINT r == s.ceiling r

/-- MARGIN_LOW of island i, once per episode (R76). -/
def marginLow (s : State) (i : Nat) : State :=
  if s.fab.low.contains i then s
  else ({ s with fab := { s.fab with low := s.fab.low ++ [i] } }).post (islandSrc i) 0x8001

/-- Island i wants a step up and its rail is at the cap: flags and events of R76. -/
def marginCapped (s : State) (i : Nat) : State :=
  let s := s.w F.SYS_ISL_MARGIN_AT_CAP i 1
  if !isPayload i then s
  else
    let s := s.marginLow i
    if s.r F.SYS_ISL_MARGIN_MARGIN i < 0x10CD && !s.on F.SYS_ISL_MARGIN_CRITICAL i then
      (s.w F.SYS_ISL_MARGIN_CRITICAL i 1).post (islandSrc i) 0x8002
    else s

/-- Island i is at its minimum again (R76). -/
def marginRestored (s : State) (i : Nat) : State :=
  let s := (s.w F.SYS_ISL_MARGIN_AT_CAP i 0).w F.SYS_ISL_MARGIN_CRITICAL i 0
  if s.fab.low.contains i then
    ({ s with fab := { s.fab with low := s.fab.low.filter (· != i) } }).post (islandSrc i) 0x8005
  else s

/-- The flags of island i follow its margin and its rail: AT_CAP as R75 computes it, CRITICAL until the island is back at
its minimum (R76, log 59). -/
def marginFlags (s : State) (i : Nat) : State :=
  if !s.on F.SYS_ISL_MARGIN_BELOW_TARGET i then s.marginRestored i
  else if s.atCap (railOf i) then s.marginCapped i
  else s.w F.SYS_ISL_MARGIN_AT_CAP i 0

/-- The reported margin of island i follows its measurements and its required rate. -/
def marginSettle (s : State) (i : Nat) : State :=
  let old := s.r F.SYS_ISL_MARGIN_MARGIN i
  let m := s.marginAt i
  let s := (s.w F.SYS_ISL_MARGIN_MARGIN i m).wb F.SYS_ISL_MARGIN_BELOW_TARGET i (decide (m < s.minMargin i))
  let s := if min old m < s.releaseLevel i then { s with fab := { s.fab with lowAt := s.fab.lowAt.set i s.now 0 } } else s
  s.marginFlags i

/-- One measurement of island i (R70). -/
def marginMeasure (s : State) (i rate : Nat) : State :=
  ({ s with fab := { s.fab with rates := s.fab.rates.set i ((rate :: s.fab.rates.get i []).take 4) [] } }).marginSettle i

/-- The margins of all islands follow a change of required rates. -/
def marginsSettle (s : State) : State := s.each (List.range 40) marginSettle

/-! ### Rate raises, R73 -/

/-- The islands a BIST mask of dies tests: bit 0 brim west, 2 brim east, and 1 the crown's islands 18 and 19 (R446). -/
def bistIslands (mask : Nat) : List Nat :=
  (List.range 40).filter fun i => bitAt mask (railOf i) && (railOf i != 1 || i == 18 || i == 19)

/-- The raise of a change begins: the islands whose required rate it raises get the new rate; a BIST run raises every
island it tests (R73). -/
def raiseStart (s : State) (c : Change) : State :=
  let t := { s with fab := { s.fab with raises := s.fab.raises ++ [({ change := c, islands := [], from_ := s.now } : Raise)] } }
  let up := match c with
    | .bist _ _ mask => bistIslands mask.val
    | .lane _ _ => (List.range 40).filter fun i => s.required i < t.required i
  ({ s with fab := { s.fab with raises := s.fab.raises ++ [({ change := c, islands := up, from_ := s.now } : Raise)] } }).marginsSettle

/-- The raise of a change that waits. -/
def raise? (s : State) (c : Change) : Option Raise := s.fab.raises.find? fun r => r.change == c && !r.started

/-- The raise of a change is over. -/
def raiseDrop (s : State) (c : Change) : State :=
  { s with fab := { s.fab with raises := s.fab.raises.filter fun r => r.change != c } }

/-- Every raised island has reached its minimum. -/
def raiseReady (s : State) (r : Raise) : Bool := r.islands.all fun i => s.minMargin i ≤ s.marginAt i

/-- After 2 ms the change may proceed on the margins there are. -/
def raiseAllowed (s : State) (r : Raise) : Bool := r.islands.all fun i => 0x10CD ≤ s.marginAt i

/-- MARGIN_LOW of island i because a raise goes on below TARGET, also within an episode (R73, R92). -/
def raisedLow (s : State) (i : Nat) : State :=
  let low := if s.fab.low.contains i then s.fab.low else s.fab.low ++ [i]
  ({ s with fab := { s.fab with low := low } }).post (islandSrc i) 0x8001

/-- MARGIN_LOW for each raised payload island below TARGET. -/
def raiseLow (s : State) (r : Raise) : State :=
  s.each (r.islands.filter fun i => isPayload i && decide (s.marginAt i < s.r F.SYS_FAB_CFG_TARGET)) raisedLow

/-- RATE_DENIED for each raised island below 0x10CD; the old rates return. -/
def raiseDenied (s : State) (r : Raise) : State :=
  let bad := r.islands.filter fun i => decide (s.marginAt i < 0x10CD)
  ((s.each bad fun s i => s.post (islandSrc i) 0x8006).raiseDrop r.change).marginsSettle

/-! ### Device states that the fabric asks for, R61, R64, R90 -/

/-- SYS_SAFE_CAUSE as a word. -/
def safeCause (s : State) : Nat :=
  s.r F.SYS_SAFE_CAUSE_HOST + 2 * s.r F.SYS_SAFE_CAUSE_FW_WATCHDOG + 4 * s.r F.SYS_SAFE_CAUSE_LINK_DOWN
    + 8 * s.r F.SYS_SAFE_CAUSE_AVS_FAULT

/-- The state register takes a new state; leaving SAFE clears HOST (R87, R90). -/
def setDev (s : State) (d : DevState) : State :=
  let s := if s.dev == .safe then s.w F.SYS_SAFE_CAUSE_HOST 0 0 else s
  (s.w F.SYS_STATE_PREV_STATE 0 s.dev.code).w F.SYS_STATE_STATE 0 d.code

/-- The device enters a state and says so (R62, R64). -/
def enterState (s : State) (d : DevState) : State :=
  let old := s.dev.code
  let s := s.setDev d
  s.post sysSrc 0xA001 [(1, old), (1, d.code), (4, s.safeCause)]

/-- A transition is under way: triggered, and its state not yet entered (R60, R88). -/
def inTransition (s : State) : Bool := !s.sys.trans.isEmpty

/-- A transition to SETUP, RUN or SAFE is triggered; its state is entered with the next nanosecond (R60, R62, log 31). -/
def changeTo (s : State) (d : DevState) (host : Option (Master × Nat)) : State :=
  { s with sys := { s.sys with trans := s.sys.trans ++ [⟨d, s.now, host⟩] } }
def changeState (s : State) (d : DevState) : State := s.changeTo d none

/-- The state in force once the transitions under way have ended. -/
def comingState (s : State) : DevState := (s.sys.trans.getLast?.map Trans.dest).getD s.dev

/-- An automatic cause moves a device in RUN to SAFE; one that meets a transition acts when that has ended (R88, R90). -/
def autoSafe (s : State) : State := if s.comingState == .run then s.changeState .safe else s

/-! ### State requests, R62, R87, R88, R90 -/

/-- A request is rejected (R62, R64). -/
def reqRejected (s : State) (m : Master) (req : Nat) : State :=
  (s.w F.SYS_STATE_REQ_REJECTED 0 1).post sysSrc 0xA002
    [(1, req), (1, s.dev.code), (1, s.inTransition.toNat), (1, m.code)]

/-- A request written to SYS_STATE_REQ is judged; one that meets a transition is rejected (R62, R87, R88, log 31). -/
def stateReq (s : State) (m : Master) (req : Nat) : State :=
  let s := s.w F.SYS_STATE_LAST_REQ 0 req
  if s.inTransition then s.reqRejected m req else
  match s.dev, req with
  | .setup, 4 => s.changeTo .run (some (m, req))
  | .safe, 4 => if s.safeCause / 2 = 0 then s.changeTo .run (some (m, req)) else s.reqRejected m req
  | .run, 5 => (s.w F.SYS_SAFE_CAUSE_HOST 0 1).changeTo .safe (some (m, req))
  | .safe, 3 =>
    if (List.range nLanes).all fun n => s.laneState n == 0 then s.changeTo .setup (some (m, req)) else s.reqRejected m req
  | _, _ => s.reqRejected m req

/-- The host's request that was accepted in this instant. -/
def reqNow (s : State) : Option (Master × Nat) :=
  ((s.sys.trans.filter fun x => x.at_ == s.now).filterMap Trans.host).head?

/-- That request loses: it has not been accepted. -/
def reqWithdraw (s : State) (req : Nat) : State :=
  let s := { s with sys := { s.sys with trans := s.sys.trans.filter fun x => !(x.at_ == s.now && x.host.isSome) } }
  if req = 5 then s.w F.SYS_SAFE_CAUSE_HOST 0 0 else s

/-- A trigger of higher rank meets a host request of the same instant: it acts, and the request is judged against what it
leaves; FAULT ignores it as any write (R88, R439). -/
def outranking (s : State) (act : State → State) : State :=
  match s.reqNow with
  | none => act s
  | some (m, req) =>
    let s := act (s.reqWithdraw req)
    if s.frozen then s.accErr { badValue := true } m.code 8 false else s.stateReq m req

/-! ### The supply loop, R75, R77 -/

/-- The loop of rail r, and the state with it replaced. -/
def railh (s : State) (r : Nat) : RailH := s.fab.rails.get r {}
def setRail (s : State) (r : Nat) (h : RailH) : State := { s with fab := { s.fab with rails := s.fab.rails.set r h {} } }

/-- Some island of the rail is below its minimum. -/
def wantsUp (s : State) (r : Nat) : Bool :=
  (islandsOf r).any fun i => decide (s.r F.SYS_ISL_MARGIN_MARGIN i < s.minMargin i)

/-- Every island of the rail has held its release level for 1 ms. -/
def wantsDown (s : State) (r : Nat) : Bool :=
  (islandsOf r).all fun i =>
    decide (s.releaseLevel i ≤ s.r F.SYS_ISL_MARGIN_MARGIN i) &&
      decide (max (s.fab.lowAt.get i 0) s.fab.loopAt + 1000000 ≤ s.now)

/-- 20 µs have passed since the last step. -/
def stepDue (s : State) (r : Nat) : Bool :=
  match (s.railh r).stepAt with
  | none => true
  | some t => t + 20000 ≤ s.now

/-- The target of R75 for rail r. -/
def nextTarget (s : State) (r : Nat) : Nat :=
  let v := s.r F.SYS_RAIL_STAT_SETPOINT r
  let c := s.ceiling r
  if v > c then max (v - 5) c
  else if s.wantsUp r && s.stepDue r then min (v + 5) c
  else if s.wantsDown r && !s.wantsUp r && s.stepDue r then max (v - 5) (s.r F.SYS_RAIL_CFG_VMIN r)
  else v

/-- One evaluation of rail r; a rail under fault is not moved, and a target still being sent is let end (log 32). -/
def railEval (s : State) (r : Nat) : State :=
  let h := s.railh r
  let t := s.nextTarget r
  let s := if s.on F.SYS_RAIL_STAT_AVS_FAULT r || h.target.isSome || t == s.r F.SYS_RAIL_STAT_SETPOINT r then s
    else s.setRail r { h with target := some t }
  s.each (islandsOf r) marginFlags

/-- An AVSBus fault arises on rail r (R77). -/
def avsFault (s : State) (r : Nat) : State :=
  if s.on F.SYS_RAIL_STAT_AVS_FAULT r then s
  else s.outranking fun s =>
    let s := (s.w F.SYS_RAIL_STAT_AVS_FAULT r 1).w F.SYS_SAFE_CAUSE_AVS_FAULT 0 1
    ((s.setRail r { s.railh r with target := none }).post (railSrc r) 0x8004).autoSafe

/-- One transaction with rail r ended; three failures in a row are a fault. -/
def avsCount (s : State) (r : Nat) (ok : Bool) : State :=
  let n := if ok then 0 else (s.railh r).fails + 1
  let s := s.setRail r { s.railh r with fails := n }
  if n ≥ 3 then s.avsFault r else s

/-- A target write of rail r ends (R75). -/
def avsDone (s : State) (r : Nat) (ok : Bool) : State :=
  match (s.railh r).target with
  | none => s
  | some t =>
    let s := if ok then
        (s.w F.SYS_RAIL_STAT_SETPOINT r t).setRail r { s.railh r with target := none, stepAt := some s.now }
      else s.setRail r { s.railh r with target := none }
    (s.avsCount r ok).each (islandsOf r) marginFlags

/-- A readback differs from the setpoint by more than 20 mV, 100 µs or more after the last step. -/
def readbackBad (s : State) (r mv : Nat) : Bool :=
  let v := s.r F.SYS_RAIL_STAT_SETPOINT r
  (match (s.railh r).stepAt with | none => true | some t => decide (t + 100000 ≤ s.now)) &&
    decide (20 < (v : Int) - mv ∨ 20 < (mv : Int) - v)

/-- Status and target of rail r were read: the transactions' ends, the fault in Status and the target read back. -/
def avsStatus (s : State) (r : Nat) (statusOk fault targetOk : Bool) (mv : Nat) : State :=
  let s := (s.avsCount r statusOk).avsCount r targetOk
  if (statusOk && fault) || (targetOk && s.readbackBad r mv) then s.avsFault r else s

/-- The retry of a rail under fault: the loop resumes after one fully good transaction (R77). -/
def avsRetry (s : State) (r : Nat) (good : Bool) : State :=
  if s.on F.SYS_RAIL_STAT_AVS_FAULT r && good then
    (s.w F.SYS_RAIL_STAT_AVS_FAULT r 0).setRail r { s.railh r with fails := 0 }
  else s

/-! ### FIFO slips, R69, R248 -/

/-- A host receiver's alignment hunt restarts from its last locked candidate; ALIGNED clears (R245, R248). -/
def alignRestart (s : State) (m : Nat) : State :=
  let h := s.hosth m
  if s.on F.HSL_STAT_ROLE m && s.laneMode (s.r F.HSL_STAT_OWNER m) == 3 then s else
  let was := s.on F.HSL_STAT_ALIGNED m
  let s := (s.setHost m { h with cand := h.last, pass := 0, fail := 0 }).w F.HSL_STAT_ALIGNED m 0
  let s := if was && s.ownerActive m then s.w F.HSL_EVT_ALIGN_LOST m 1 else s
  if s.on F.HSL_STAT_ROLE m then s.gbxSettle (s.r F.HSL_STAT_OWNER m) m false else s

/-- The number of a FIFO: the payload FIFOs of the lanes and host lanes, then those of the taps and of the boundaries of
the crown (R68). -/
def fifoNo : Fifo → Nat
  | .adc n => n
  | .dac n => 192 + n
  | .hostTx m => 384 + m
  | .hostRx m => 768 + m
  | .capture d => 1152 + d
  | .pcie out => 1154 + out.toNat
  | .dram out => 1156 + out.toNat

/-- How many words a FIFO holds when full, and its fill target (R68). -/
def fifoDepth : Fifo → Nat
  | .adc _ | .dac _ | .hostTx _ | .hostRx _ => 32
  | .capture _ | .pcie _ => 64
  | .dram _ => 128
def fifoTarget : Fifo → Nat
  | .adc _ | .dac _ | .hostTx _ | .hostRx _ => 16
  | .capture _ | .pcie _ | .dram _ => 0

/-- A FIFO, at its fill target since RESET where it has not slipped (R68, log 54). -/
def fifoh (s : State) (f : Fifo) : FifoH := s.fab.fifos.get (fifoNo f) { fill := fifoTarget f }

/-- The FIFO is re-centred: a full one discards the word that came and words down to the target, an empty one delivers
its last word again and words up to the target (R69). -/
def recentre (s : State) (f : Fifo) (full : Bool) : State :=
  let h := s.fifoh f
  let t := fifoTarget f
  let h := if full then { h with fill := t, dropped := h.dropped + 1 + (fifoDepth f - t) }
    else { h with fill := t, repeated := h.repeated + 1 + t }
  { s with fab := { s.fab with fifos := s.fab.fifos.set (fifoNo f) h { fill := t } } }

/-- A slip of one FIFO: the device count, the lane's count and the event that names the island (R69, R248). -/
def slipCount (s : State) (n i : Nat) : State :=
  ((s.inc F.SYS_FIFO_SLIP_COUNT 0).inc F.LANE_SLIP_COUNT n).post (islandSrc i) 0x8003

/-- The slot island and the gearbox island of lane n (R67). -/
def slotIsland (n : Nat) : Nat := if n < 96 then n / 8 else n / 8 + 12
def gearboxIsland (n : Nat) : Nat := if n < 96 then 14 else 38

/-- The lane of a FIFO, the island at it, and whether payload passes it, which alone can slip; host FIFOs lie at the
gearbox (log 33). -/
def fifoAt (s : State) : Fifo → Nat × Nat × Bool
  | .adc n => (n, slotIsland n, s.on F.LANE_ADC_STAT_RUNNING n)
  | .dac n => (n, slotIsland n, s.on F.LANE_TX_STAT_DRV_ON n)
  | .hostTx m | .hostRx m =>
    let n := s.r F.HSL_STAT_OWNER m
    (n, gearboxIsland n, s.on F.HSL_STAT_ROLE m && s.hostPowered m)
  | .capture _ | .pcie _ | .dram _ => (0, 0, false)

/-- FIFO f is found full by its writer or empty by its reader, and slips; with its island's margin at 1.0 or above it
cannot, and the FIFOs of the taps, PCIe and DRAM have no slip (R68, R69). -/
def fifoSlip (s : State) (f : Fifo) (full : Bool) : State :=
  let a := s.fifoAt f
  if !a.2.2 || 0x1000 ≤ s.marginAt a.2.1 then s
  else
    let s := (s.recentre f full).slipCount a.1 a.2.1
    match f with
    | .hostRx m => s.alignRestart m
    | _ => s

end State

/-- The supply controller works: BOOT, SETUP, RUN, SAFE, FAULT and DUMP (R74, R86). -/
def whenSupplied (s : State) (t : State → State) : Out := .next (if s.live || s.frozen then t s else s)

/-! ### The meanings -/

/-- MARGIN_MEASURE, R70, R76. -/
def execMarginMeasure (i : Fin 40) (rate : BitVec 32) (s : State) : Out :=
  whenSupplied s fun s => s.marginMeasure i rate.toNat

/-- SUPPLY_LOOP_EVAL, R75. -/
def execSupplyLoopEval (s : State) : Out :=
  whenSupplied s fun s => s.each [0, 1, 2] State.railEval

/-- AVS_TRANSACTION_DONE, R75, R77. -/
def execAvsTransactionDone (r : Fin 3) (ok : Bool) (s : State) : Out := whenSupplied s fun s => s.avsDone r ok

/-- AVS_STATUS_READ, R77. -/
def execAvsStatusRead (r : Fin 3) (statusOk fault targetOk : Bool) (mv : BitVec 16) (s : State) : Out :=
  whenSupplied s fun s => s.avsStatus r statusOk fault targetOk mv.toNat

/-- AVS_FAULT_RETRY, R77. -/
def execAvsFaultRetry (r : Fin 3) (good : Bool) (s : State) : Out := whenSupplied s fun s => s.avsRetry r good

/-- FIFO_SLIP, R69, R248: a clocked writer finds the FIFO full (true), or a clocked reader finds it empty. -/
def execFifoSlip (x : Fifo × Bool) (s : State) : Out := whenLive s fun s => s.fifoSlip x.1 x.2

end Sys2Proof.Machine
end

