-- ==== Sys2Proof/Machine/Capture.lean ====
section
/-! DEFINITION. The capture store: arming, triggers, budget, records, ends and the batt image
(spec/11_capture_plank.md R299-R315). -/

namespace Sys2Proof.Machine

open Sys2Proof

/-! ### Records and rates, R299-R302 -/

/-- Payload bytes and record bytes of a TYPE (R299). -/
def recPayload : Nat → Nat
  | 1 | 2 => 512
  | 3 => 128
  | 4 => 1024
  | _ => 256
def recSize (ty : Nat) : Nat := recPayload ty + 32

/-- 512 times the exact rate of a TYPE at a lane mode, in MB/s (R299). -/
def rate512 (ty mode : Nat) : Nat :=
  let sym := match mode with
    | 2 => 112500
    | 3 => 53125
    | _ => 225000
  if ty = 5 then 2250 * 512
  else if ty ≤ 2 && mode = 1 then 2 * sym * recSize ty
  else sym * recSize ty

/-- The rate at decimation 2 ^ k, in whole MB/s (R308). -/
def rateAt (ty mode k : Nat) : Nat := ceilDiv (rate512 ty mode) (512 * 2 ^ k)

/-- Pages of a batt (R302). -/
def battPages (ty pre post : Nat) : Nat := ceilDiv (256 + (pre + post) * recSize ty + 64) 2097152

/-- The smallest decimation exponent up to `top` whose rate fits in `free`. -/
def fitFrom (ty mode free : Nat) : Nat → Nat → Option Nat
  | 0, k => if rateAt ty mode k ≤ free then some k else none
  | n + 1, k => if rateAt ty mode k ≤ free then some k else fitFrom ty mode free n (k + 1)

/-- The source number of the capture store (R328). -/
def capSrc : Nat := 645

namespace State

/-- Batt b beside its registers. -/
def batt (s : State) (b : Nat) : BattH := s.cap.batts.get b {}
def setBatt (s : State) (b : Nat) (h : BattH) : State := { s with cap := { s.cap with batts := s.cap.batts.set b h {} } }

/-- The state of batt b (R301): 0 FREE, 1 ARMED, 2 WRITING, 3 DONE, 4 FREEING. -/
def battState (s : State) (b : Nat) : Nat := s.r F.CAP_BATT_STAT_STATE b

/-- Batt b is armed or being written. -/
def battActive (s : State) (b : Nat) : Bool := s.battState b == 1 || s.battState b == 2

/-- The lane and the TYPE of batt b. -/
def battLane (s : State) (b : Nat) : Nat := s.r F.CAP_BATT_INFO_LANE b
def battType (s : State) (b : Nat) : Nat := s.r F.CAP_BATT_INFO_TYPE b

/-- Batt b is opportunistic. -/
def battOpp (s : State) (b : Nat) : Bool := s.on F.CAP_BATT_STAT_CLASS b

/-- All batts. -/
def allBatts : List Nat := List.range 256

/-- The tap of a TYPE of lane n offers units (R113, R176, R177). -/
def tapOffers (s : State) (n ty : Nat) : Bool :=
  !s.fusedOdd n && (if ty ≤ 2 then s.on F.LANE_ADC_STAT_RUNNING n else s.on F.LANE_EQ_STAT_ACQ_STEP n)

/-! ### The image, R300, R314 -/

/-- How far unit b lies after unit a, counted cyclically: UNIT has 48 bits, the step count of a history record 32 (R114,
R179, R300); and unit b is a later one. -/
def unitMod (ty : Nat) : Nat := if ty = 5 then 2 ^ 32 else 2 ^ 48
def unitDiff (ty a b : Nat) : Nat := (b + unitMod ty - a % unitMod ty) % unitMod ty
def unitNewer (ty a b : Nat) : Bool := unitDiff ty a b != 0 && unitDiff ty a b < unitMod ty / 2

/-- The units from the first position of batt b to T, and from T to the last (R306). -/
def preSpan (s : State) (b : Nat) : Nat := (s.batt b).pre * 2 ^ s.r F.CAP_BATT_STAT_LOG2_D b
def postSpan (s : State) (b : Nat) : Nat := ((s.batt b).post - 1) * 2 ^ s.r F.CAP_BATT_STAT_LOG2_D b

/-- The 32-byte header of a record. -/
def recHeader (ty flags mode lane len unit time lost : Nat) : List Nat :=
  [ty, flags, mode, lane] ++ leBytes 4 len ++ leBytes 8 unit ++ leBytes 8 time ++ leBytes 4 lost ++ leBytes 4 0

/-- Runs of lost positions as one gap record each, and the records between them (R300). FLAGS and MODE of a gap record
are those of its first lost unit (DESIGN CHOICE, log 108). -/
def recBytes (ty lane : Nat) : List Rec → Option (Rec × Nat) → List Nat
  | [], none => []
  | [], some (g, k) => recHeader 0xFE g.flags g.mode lane 0 g.unit g.time k
  | r :: rs, none =>
    if r.lost then recBytes ty lane rs (some (r, 1))
    else recHeader ty r.flags r.mode lane (recPayload ty) r.unit r.time 0 ++ r.data ++ recBytes ty lane rs none
  | r :: rs, some (g, k) =>
    if r.lost then recBytes ty lane rs (some (g, k + 1))
    else recHeader 0xFE g.flags g.mode lane 0 g.unit g.time k ++
      (recHeader ty r.flags r.mode lane (recPayload ty) r.unit r.time 0 ++ r.data ++ recBytes ty lane rs none)

/-- Data records of a list of positions, and its runs of lost ones. -/
def recCount (rs : List Rec) : Nat := rs.countP fun r => !r.lost
def gapCount : List Rec → Bool → Nat
  | [], _ => 0
  | r :: rs, inGap => (if r.lost && !inGap then 1 else 0) + gapCount rs r.lost

/-- Bytes that positions take in the store. -/
def recsBytes (ty : Nat) (rs : List Rec) : Nat := recCount rs * recSize ty + gapCount rs false * 32

/-- IMAGE_SIZE of batt b (R314). -/
def imageSize (s : State) (b : Nat) : Nat := 256 + recsBytes (s.battType b) (s.batt b).recs + 32

/-- The batt header (R314). -/
def battHeader (s : State) (b : Nat) : List Nat :=
  let h := s.batt b
  let before := match h.unit with
    | some t => h.recs.countP fun r => r.unit != t && unitDiff (s.battType b) r.unit t ≤ s.preSpan b
    | none => h.recs.length
  leBytes 4 0x54544142 ++ leBytes 2 1 ++ [b, s.r F.CAP_BATT_STAT_CLASS b] ++ leBytes 2 (s.battLane b) ++
    [s.battType b, s.r F.CAP_BATT_INFO_MODE b, s.r F.CAP_BATT_STAT_LOG2_D b, h.trig, s.r F.CAP_BATT_STAT_END_CAUSE b,
      s.r F.CAP_BATT_STAT_TRIGGERED b] ++
    leBytes 4 (recSize (s.battType b)) ++ leBytes 4 h.pre ++ leBytes 4 h.post ++ leBytes 4 before ++
    leBytes 4 (recCount h.recs) ++ leBytes 4 (gapCount h.recs false) ++ leBytes 4 (s.r F.CAP_BATT_INFO_LOST b) ++
    leBytes 2 (s.r F.CAP_BATT_INFO_ARM_RING b) ++ leBytes 2 0 ++ leBytes 8 h.armTime ++
    leBytes 8 (s.r F.CAP_BATT_INFO_TRIG_TIME b) ++ leBytes 8 (s.r F.CAP_BATT_INFO_TRIG_UNIT b) ++
    leBytes 8 h.endTime ++ leBytes 8 (s.imageSize b) ++ leBytes 8 h.arg ++ List.replicate 160 0

/-- The image of batt b (R314). R300 gives no FLAGS, MODE and UNIT of an end record (log 12). -/
def battImage (s : State) (b : Nat) : List Nat :=
  let h := s.batt b
  let lane := s.battLane b
  s.battHeader b ++ recBytes (s.battType b) lane h.recs none ++
    recHeader 0xFF (Config.unstated 41 b % 64) (Config.unstated 42 b % 4) lane 0 (Config.unstated 43 b % 2 ^ 48) h.endTime 0

/-! ### Ends and frees, R301, R312, R313 -/

/-- Reads of batt b in flight: copies, and Plank jobs whose SRC is the batt. -/
def plankReads (b : Nat) (p : PlankJob) : Bool :=
  byteAt p.job.desc 0 == 0x38 && p.job.p 0 1 == 1 && p.job.p 6 1 == b
def battReads (s : State) (b : Nat) : Bool :=
  s.cap.reads.any (fun r => r.batt == b) || s.plank.waiting.any (plankReads b) ||
    s.plank.engines.any fun e => e.2.any (plankReads b)

/-- Batt b becomes FREE: its pages return and its registers read 0. -/
def battFree (s : State) (b : Nat) : State :=
  let s := s.w F.CAP_STAT_FREE_PAGES 0 (s.r F.CAP_STAT_FREE_PAGES + s.r F.CAP_BATT_STAT_PAGES b)
  let s := s.each (fieldsOf F.CAP_BATT_STAT_STATE.base ++ fieldsOf F.CAP_BATT_INFO_TYPE.base) fun s f => s.w f b 0
  (s.setBatt b {}).resolve (.battFree b)

/-- A FREEING batt becomes FREE once no read of it is in flight (R313). -/
def battSettle (s : State) (b : Nat) : State :=
  if s.battState b == 4 && !s.battReads b then s.battFree b else s

/-- Batt b is freed: at once, or after its reads. -/
def battRelease (s : State) (b : Nat) : State :=
  ((s.w F.CAP_BATT_STAT_STATE b 4).w F.CAP_BATT_STAT_END_CAUSE b 0).battSettle b

/-- The rate batt b holds returns. -/
def rateBack (s : State) (b : Nat) : State :=
  let f := if s.battOpp b then F.CAP_OPP_RATE_RATE else F.CAP_RES_RATE_RATE
  s.w f 0 (s.r f - (s.batt b).rate)

/-- A pre-trigger ring of `cap` bytes keeps what fits in it, newest last (R306). -/
def ringTrim (cap ty : Nat) : Nat → List Rec → List Rec
  | 0, rs => rs
  | k + 1, rs => if recsBytes ty rs ≤ cap then rs else ringTrim cap ty k (rs.drop 1)

/-- What batt b holds without a trigger: its pre-trigger ring. What came in since the last trigger tick is not yet
overwritten, since a trigger of that time may need it (R305, R306). -/
def ringKeep (ty : Nat) (h : BattH) : List Rec := ringTrim ((h.pre + h.post) * recSize ty) ty h.recs.length h.recs

/-- What batt b keeps at its end: without a trigger its pre-trigger ring, if it has one (R306). -/
def battKeep (ty : Nat) (h : BattH) (triggered : Bool) : List Rec :=
  if triggered then h.recs else if h.pre == 0 then [] else ringKeep ty h

/-- Batt b ends with a cause of R312; batts linked to it that have no trigger yet never get one from it (R305). -/
def battEnd (s : State) (b cause : Nat) : State :=
  let h := s.batt b
  let s := s.rateBack b
  let trg := s.on F.CAP_BATT_STAT_TRIGGERED b
  let s := s.setBatt b { h with recs := battKeep (s.battType b) h trg, rate := 0, endTime := s.sysTime, share := none }
  let s := (s.w F.CAP_BATT_STAT_STATE b 3).w F.CAP_BATT_STAT_END_CAUSE b cause
  let s := s.each (allBatts.filter fun c => s.battState c == 1 && (s.batt c).trig == 3 && (s.batt c).link == b)
    fun s c => s.setBatt c { s.batt c with dead := true }
  if cause = 4 then s
  else s.post capSrc 0x4002 [(1, b), (1, cause), (4, s.r F.CAP_BATT_INFO_RECORDS b)]

/-- Every armed or written batt with `p` ends. -/
def battsEnd (s : State) (p : Nat → Bool) (cause : Nat) : State :=
  s.each (allBatts.filter fun b => s.battActive b && p b) fun s b => s.battEnd b cause

/-- Lanes that reached OFF, or whose mode a command changed, end their batts (R312). -/
def capStopped (s : State) (n : Nat) : State := s.battsEnd (fun b => s.battLane b == n) 5
def capModeChanged (s : State) (n : Nat) : State := s.battsEnd (fun b => s.battLane b == n) 6

/-! ### Budget, R307-R310 -/

/-- The budget in force and the rates in use. -/
def budget (s : State) : Nat := s.r F.CAP_BUDGET_RATE
def resRate (s : State) : Nat := s.r F.CAP_RES_RATE_RATE
def oppRate (s : State) : Nat := s.r F.CAP_OPP_RATE_RATE

/-- The writing opportunistic batt granted last. -/
def lastGranted (s : State) : Option Nat :=
  match allBatts.filter fun b => s.battState b == 2 && s.battOpp b with
  | [] => none
  | b :: bs => some (bs.foldl (fun a c => if (s.batt a).order < (s.batt c).order then c else a) b)

/-- Opportunistic batts end until the sum fits (R310). -/
def budgetTrim (s : State) : Nat → State
  | 0 => s
  | k + 1 =>
    if s.resRate + s.oppRate ≤ s.budget then s
    else match s.lastGranted with
      | none => s
      | some b => budgetTrim (s.battEnd b 7) k

/-- A reading of the DRAM stack's sensor (R307). -/
def dramTemp (s : State) (temp : Nat) : State :=
  let t := sint 16 temp
  let s := s.w F.CAP_DRAM_TEMP_TEMP 0 temp
  let hot := if t ≥ 1360 then min 3 (s.cap.hot + 1) else 0
  let cool := if t < 1312 then min 3 (s.cap.cool + 1) else 0
  let s := { s with cap := { s.cap with hot := hot, cool := cool } }
  if hot = 3 && !s.on F.CAP_STAT_EXT_REFRESH then
    let s := ((s.w F.CAP_STAT_EXT_REFRESH 0 1).w F.CAP_EVT_EXT_REFRESH 0 1).w F.CAP_BUDGET_RATE 0 900000
    let s := { s with cap := { s.cap with hotAt := s.now } }
    (s.post capSrc 0x4005 [(2, temp)]).budgetTrim 256
  else if cool = 3 && s.on F.CAP_STAT_EXT_REFRESH then
    let s := (s.w F.CAP_STAT_EXT_REFRESH 0 0).w F.CAP_BUDGET_RATE 0 1000000
    s.post capSrc 0x4006 [(4, min ((s.now - s.cap.hotAt) / 1000) (2 ^ 32 - 1))]
  else s

/-! ### Arming, R303, R308 -/

/-- The first check of CAPTURE_ARM. -/
def armOk (j : Job) : Bool :=
  j.p 1 1 ≤ 1 && j.p 2 2 < 192 && 1 ≤ j.p 4 1 && j.p 4 1 ≤ 5 &&
    j.p 5 1 < 16 && j.p 5 1 % 8 ≤ 6 && (bitAt (j.p 5 1) 3 || j.p 5 1 == 0) && j.p 6 1 ≤ 3 &&
    (j.p 6 1 == 3 || j.p 7 1 == 0) && (j.p 6 1 != 3 || j.p 7 1 != j.p 0 1) &&
    (j.p 1 1 == 0 || j.p 8 4 == 0) && 1 ≤ j.p 12 4 && j.pz 28 4 &&
    (match j.p 6 1 with
     | 1 => true
     | 2 => j.p 16 2 != 0 && (j.p 18 2 < 1024 || j.p 18 2 == 0xFFFF) && j.p 20 4 == 0
     | _ => j.pz 16 8)

/-- The second. -/
def armAllowed (s : State) (j : Job) : Bool :=
  s.battState (j.p 0 1) == 0 && (j.p 6 1 != 3 || s.battState (j.p 7 1) == 1) && !s.fusedOdd (j.p 2 2) && !s.bistRunning

/-- The decimation exponent at which a reserved batt is admitted (R308). -/
def admission (s : State) (j : Job) : Option Nat :=
  fitFrom (j.p 4 1) (s.laneMode (j.p 2 2)) (s.budget - s.resRate) (j.p 5 1 % 8) 0

/-- An accepted CAPTURE_ARM with the admitted exponent and rate. -/
def armAs (s : State) (j : Job) (k rate : Nat) : State :=
  let b := j.p 0 1
  let pages := battPages (j.p 4 1) (j.p 8 4) (j.p 12 4)
  let s := s.w F.CAP_STAT_FREE_PAGES 0 (s.r F.CAP_STAT_FREE_PAGES - pages)
  let s := if j.p 1 1 = 0 then s.w F.CAP_RES_RATE_RATE 0 (s.resRate + rate) else s
  let s := ((s.w F.CAP_BATT_STAT_STATE b 1).w F.CAP_BATT_STAT_CLASS b (j.p 1 1)).w F.CAP_BATT_STAT_LOG2_D b k
  let s := (s.w F.CAP_BATT_STAT_PAGES b pages).w F.CAP_BATT_INFO_TYPE b (j.p 4 1)
  let s := (s.w F.CAP_BATT_INFO_MODE b (s.laneMode (j.p 2 2))).w F.CAP_BATT_INFO_LANE b (j.p 2 2)
  let s := s.w F.CAP_BATT_INFO_ARM_RING b (j.ring % 32768)
  s.setBatt b { trig := j.p 6 1, link := j.p 7 1, pre := j.p 8 4, post := j.p 12 4, arg := j.p 16 8, timeout := j.p 24 4,
                maxD := j.p 5 1 % 8, armAt := s.now, armTime := s.sysTime, skip := s.occ.length, rate := rate }

/-- CAPTURE_ARM (R303). -/
def captureArm (s : State) (j : Job) : State :=
  let fin (st : Status) (r0 r1 : Nat) (s : State) : State := s.finish j.ring j.idx st r0 r1
  let pages := battPages (j.p 4 1) (j.p 8 4) (j.p 12 4)
  if !armOk j then fin .badParam 0 0 s
  else if !s.armAllowed j then fin .notAllowed 0 0 s
  else if s.r F.CAP_STAT_FREE_PAGES < pages then fin .exhausted 0 0 s
  else if j.p 1 1 = 1 then fin .ok 0 pages (s.armAs j 0 0)
  else match s.admission j with
    | none => fin .exhausted 0 0 s
    | some k =>
      let rate := rateAt (j.p 4 1) (s.laneMode (j.p 2 2)) k
      fin .ok (k + rate * 2 ^ 32) pages (s.armAs j k rate)

/-! ### Positions, R304, R306, R310, R311 -/

/-- R310 thins reserved batts: whether this record of batt b is kept, and the next phase. The share is exact and the
phase at which it starts is free (log 34). -/
def shareStep (s : State) (b : Nat) : Bool × Option Nat :=
  if s.battOpp b || s.resRate ≤ s.budget then (true, none)
  else
    let p := match (s.batt b).share with
      | some p => p
      | none => Config.unstated 40 b % s.resRate
    if s.resRate ≤ p + s.budget then (true, some (p + s.budget - s.resRate)) else (false, some (p + s.budget))

/-- A position is recorded, or lost with its counts and its event (R311). -/
def addRec (s : State) (b : Nat) (r : Rec) : State :=
  let h := s.batt b
  let s := s.setBatt b { h with recs := h.recs ++ [r], last := some r.unit }
  if r.lost then
    let s := ((s.inc F.CAP_BATT_INFO_LOST b).inc F.CAP_LOST_COUNT 0).w F.CAP_EVT_GAP 0 1
    s.post capSrc 0x4004 [(1, b), (4, 1)]
  else s.inc F.CAP_BATT_INFO_RECORDS b

/-- A unit of batt b passes: a reserved batt without PRE holds it back as long as it has no trigger and so records and loses
nothing (R306, R311); one beyond the last position is not recorded; others take their share (R310). -/
def unitTake (s : State) (b : Nat) (r : Rec) (full : Bool) : State :=
  let h := s.batt b
  if s.battState b == 1 && h.pre == 0 then
    s.setBatt b { h with recs := h.recs ++ [{ r with lost := full }], last := some r.unit }
  else if h.unit.any fun t => s.postSpan b < unitDiff (s.battType b) t r.unit then s.setBatt b { h with last := some r.unit }
  else
    let k := s.shareStep b
    (s.setBatt b { h with share := k.2 }).addRec b { r with lost := full || !k.1 }

/-! ### Triggers, R305, R309 -/

/-- The SYS_TIME of the occurrence of batt b's own trigger, in this tick. -/
def ownTrigger (s : State) (b : Nat) : Option Nat :=
  let h := s.batt b
  match h.trig with
  | 0 => some h.armTime
  | 1 => if h.arg ≤ s.sysTime then some (max h.arg h.armTime) else none
  | 2 => ((s.occ.drop h.skip).find? fun o =>
      o.2.1 == h.arg % 65536 && (h.arg / 65536 % 65536 == 0xFFFF || o.1 == h.arg / 65536 % 65536)).map fun o => o.2.2
  | _ => none

/-- The occurrence of batt b's trigger; a LINKED one has its LINK batt's, through a chain of at most `fuel` links. -/
def trigger? (s : State) : Nat → Nat → Option Nat
  | 0, _ => none
  | fuel + 1, b =>
    let h := s.batt b
    if s.battState b != 1 then none
    else if h.trig == 3 then (if h.dead then none else trigger? s fuel h.link)
    else s.ownTrigger b

/-- T is fixed: of the positions that batt b holds only those of R306 stay, and a batt without PRE records those from T on
that it held back. -/
def trigFixed (s : State) (b t : Nat) : State :=
  let h := s.batt b
  let ty := s.battType b
  let keep (r : Rec) : Bool := unitDiff ty r.unit t ≤ s.preSpan b || unitDiff ty t r.unit ≤ s.postSpan b
  let s := (s.setBatt b { h with unit := some t, recs := if h.pre == 0 then [] else h.recs.filter keep }).w
    F.CAP_BATT_INFO_TRIG_UNIT b t
  if h.pre == 0 then
    let s := s.each (h.recs.filter keep) fun s r => s.unitTake b r r.lost
    s.setBatt b { s.batt b with last := h.last }
  else s

/-- Batt b ends COMPLETE once its last position has been offered (R306). -/
def battComplete (s : State) (b : Nat) : State :=
  match (s.batt b).unit, (s.batt b).last with
  | some t, some u =>
    if s.postSpan b ≤ unitDiff (s.battType b) t u && s.battState b == 2 then s.battEnd b 1 else s
  | _, _ => s

/-- CAPTURE_TRIGGERED, with TRIG_UNIT as it stands (R328). -/
def trigPost (s : State) (b : Nat) : State :=
  s.post capSrc 0x4001 [(1, b), (1, s.r F.CAP_BATT_STAT_LOG2_D b), (8, s.r F.CAP_BATT_INFO_TRIG_UNIT b)]

/-- The trigger of batt b acts (R305): a TIME or IMMEDIATE one that finds no units ends the batt. -/
def trigAct (s : State) (b time : Nat) : State :=
  let h := s.batt b
  let s := s.setBatt b { h with trigTime := time }
  if h.trig ≤ 1 && !s.tapOffers (s.battLane b) (s.battType b) then
    (s.setBatt b { h with recs := [] }).battEnd b 5
  else
    let s := ((s.w F.CAP_BATT_STAT_STATE b 2).w F.CAP_BATT_STAT_TRIGGERED b 1).w F.CAP_BATT_INFO_TRIG_TIME b time
    match (h.recs.filter fun r => r.time ≤ time).getLast? with
    | some r => if s.battOpp b then s.trigPost b else ((s.trigFixed b r.unit).trigPost b).battComplete b
    | none => s.trigPost b

/-- One opportunistic batt is granted or missed at its trigger (R309). -/
def grant (s : State) (b time : Nat) : State :=
  let h := s.batt b
  let ty := s.battType b
  let mode := s.laneMode (s.battLane b)
  let free := s.budget - s.resRate - s.oppRate
  if h.trig ≤ 1 && !s.tapOffers (s.battLane b) ty then s.battEnd b 5
  else match fitFrom ty mode free h.maxD 0 with
    | some k =>
      let rate := rateAt ty mode k
      let s := (s.w F.CAP_OPP_RATE_RATE 0 (s.oppRate + rate)).w F.CAP_BATT_STAT_LOG2_D b k
      let s := s.setBatt b { h with rate := rate, order := s.cap.grants + 1 }
      let s := { s with cap := { s.cap with grants := s.cap.grants + 1,
                                            ptr := s.r F.CAP_BATT_INFO_ARM_RING b + 1 } }
      s.trigAct b time
    | none =>
      let s := (s.inc F.CAP_MISSED_COUNT 0).w F.CAP_EVT_MISSED 0 1
      (s.battEnd b 4).post capSrc 0x4003 [(1, b), (4, rateAt ty mode 0), (4, free)]

/-- Of two batts, the one the round robin takes first: by ring from the pointer on, then by number (R41, R309). -/
def rrFirst (s : State) (a b : Nat) : Nat :=
  let d (x : Nat) : Nat := (s.r F.CAP_BATT_INFO_ARM_RING x + 65536 - s.cap.ptr) % 65536
  if d b < d a || (d b == d a && b < a) then b else a

/-- The opportunistic batts of a tick, one after the other. -/
def grantAll (s : State) : Nat → List (Nat × Nat) → State
  | 0, _ => s
  | _ + 1, [] => s
  | k + 1, (b, t) :: l =>
    let n := l.foldl (fun a x => s.rrFirst a x.1) b
    let time := (((b, t) :: l).find? fun x => x.1 == n).map (·.2) |>.getD t
    grantAll (s.grant n time) k (((b, t) :: l).filter fun x => x.1 != n)

/-- One 32 ns tick: the triggers that occurred since the last one act together (R305, R309). -/
def triggerTick (s : State) : State :=
  let due := allBatts.filterMap fun b => (s.trigger? 256 b).map fun t => (b, t)
  let opp := due.filter fun x => s.battOpp x.1
  let res := due.filter fun x => !s.battOpp x.1
  let n := s.occ.length
  let s := (s.each res fun s x => s.trigAct x.1 x.2).grantAll 256 opp
  let s := s.each (allBatts.filter fun b => s.battState b == 1) fun s b =>
    s.setBatt b { s.batt b with skip := 0, recs := ringKeep (s.battType b) (s.batt b) }
  { s with occ := s.occ.drop n }

/-! ### Units, R304, R306, R310, R311 -/

/-- The unit belongs to batt b, and is not the one it was offered last (R304, R306). -/
def unitFor (s : State) (b unit : Nat) : Bool :=
  (s.battState b == 2 || (s.battState b == 1 && !s.battOpp b)) && s.tapOffers (s.battLane b) (s.battType b) &&
    unit % 2 ^ s.r F.CAP_BATT_STAT_LOG2_D b == 0 &&
    (match (s.batt b).last with | some u => unitNewer (s.battType b) u unit | none => true)

/-- A unit reaches batt b; `full` says that the capture FIFO of its die is full. A triggered batt whose T is open takes
it as T (R305, log 35). -/
def unitWrite (s : State) (b : Nat) (r : Rec) (full : Bool) : State :=
  if !s.unitFor b r.unit then s
  else
    let s := if s.battState b == 2 && (s.batt b).unit.isNone then s.trigFixed b r.unit else s
    (s.unitTake b r full).battComplete b

/-- The flags of a unit of samples (R114, R300). -/
def unitFlags (u : TapUnit) : Nat := u.clip.toNat + 2 * u.seen.hold.toNat + 4 * u.mapchg.toNat + 8 * u.iso.toNat

/-- The sample units that the newest unit of symbols of lane n comes from: one, in L400F two, earliest first (R176). -/
def symbolUnits (s : State) (n : Nat) : List TapUnit :=
  match s.half n, (s.adch n).units with
  | false, u :: _ => [u]
  | true, v :: u :: _ => if v.no % 2 = 1 && u.no + 1 = v.no then [u, v] else []
  | _, _ => []

/-- The newest unit of lane n's symbol tap in the form of `ty`, from the samples that the receive DSP decided it from
after decision `pa`; LOCKED and FROZEN are those of its first symbol (R176). -/
def symbolRec (s : State) (n ty pa : Nat) (xs : List Int) : Option Rec :=
  let ys := (s.symBlock n pa xs).take 512
  match s.symbolUnits n with
  | [] => none
  | u :: us =>
    if ys.length < 512 then none
    else
      let w := { u with clip := u.clip || us.any (·.clip), mapchg := u.mapchg || us.any (·.mapchg),
                        iso := u.iso || us.any (·.iso) }
      some { lost := false, mode := s.laneMode n, unit := u.no / (us.length + 1) % 2 ^ 48, time := u.seen.time,
             flags := unitFlags w + 16 * u.seen.locked.toNat + 32 * u.seen.frozen.toNat,
             data := if ty = 3 then packDecisions ys else packErrors ys }

/-- The newest unit of batt b's tap as a record: samples corrected or raw, symbols, or the lane's history record
(R113, R114, R176, R177). -/
def unitRec (s : State) (b pa : Nat) (xs : List Int) : Option Rec :=
  let n := s.battLane b
  let ty := s.battType b
  if ty = 5 then
    let h := (s.eqh n).hist
    if h.isEmpty then none
    else some { lost := false, flags := 0, mode := s.laneMode n, unit := leAt h 4 4, time := leAt h 8 8, data := h }
  else if ty ≤ 2 then
    match (s.adch n).units with
    | [] => none
    | u :: _ => some { lost := false, flags := unitFlags u, mode := s.laneMode n, unit := u.no % 2 ^ 48, time := u.seen.time,
                       data := if ty = 2 then u.raw else u.out }
  else s.symbolRec n ty pa xs

/-! ### CAPTURE_ABORT and CAPTURE_READ, R313, R315 -/

/-- CAPTURE_ABORT (R313). -/
def captureAbort (s : State) (j : Job) : State :=
  let b := j.p 0 1
  if !(j.p 1 1 ≤ 1 && j.pz 2 30) then s.finish j.ring j.idx .badParam
  else if s.battState b == 0 || s.battState b == 4 then s.finish j.ring j.idx .notAllowed
  else
    let s := if s.battActive b then s.battEnd b 3 else s
    if j.p 1 1 = 0 then s.finish j.ring j.idx .ok
    else
      let s := s.battRelease b
      s.await j.ring j.idx (if s.battState b = 4 then [.battFree b] else [])

/-- CAPTURE_READ (R315). -/
def captureRead (s : State) (j : Job) : State :=
  let b := j.p 0 1
  let bad := !(j.pz 1 7 && j.pz 24 8 && 1 ≤ j.p 16 8 && j.p 16 8 ≤ j.len1)
  if bad then s.finish j.ring j.idx .badParam
  else if s.battState b != 3 then s.finish j.ring j.idx .notAllowed
  else if s.imageSize b ≤ j.p 8 8 then s.finish j.ring j.idx .badParam
  else
    let n := min (j.p 16 8) (s.imageSize b - j.p 8 8)
    let rd : CapRead := { ring := j.ring, idx := j.idx, batt := b, offset := j.p 8 8, count := n, addr := j.addr1, lost := j.lost }
    let s := { s with cap := { s.cap with reads := s.cap.reads ++ [rd] } }
    s.await j.ring j.idx [.capRead j.ring j.idx] .ok n

/-- The k-th copy in flight ends: its bytes are in host memory, and a FREEING batt may become FREE (R313, R315). Its last
write waits for completions, events and telemetry that are pending (R43). -/
def captureReadDone (s : State) (k : Nat) : State :=
  match s.cap.reads[k]? with
  | none => s
  | some r =>
    if !r.lost && !s.canIssue then s
    else if !r.lost && !s.outTurn r.ring r.idx then
      { s with cap := { s.cap with reads := s.cap.reads.set k { r with ready := true } } }
    else
    let s := if r.lost then s else s.granted 3 r.ring
    let bytes := ((s.battImage r.batt).drop r.offset).take r.count
    let s := { s with cap := { s.cap with reads := s.cap.reads.eraseIdx k } }
    let s := if r.lost then s
      else ({ s with hostMem := s.hostMem.writeBytes r.addr bytes }).resolve (.capRead r.ring r.idx)
    s.battSettle r.batt

end State

/-! ### The meanings -/

/-- CAPTURE_ARM, R303. -/
def execCaptureArm (q : Fin 32768) (i : Fin 65536) (s : State) : Out := actJob 0x30 q i s fun j s => s.captureArm j

/-- CAPTURE_ABORT, R313. -/
def execCaptureAbort (q : Fin 32768) (i : Fin 65536) (s : State) : Out :=
  actJob 0x31 q i s fun j s => s.captureAbort j

/-- CAPTURE_READ, R315. -/
def execCaptureRead (q : Fin 32768) (i : Fin 65536) (s : State) : Out := actJob 0x32 q i s fun j s => s.captureRead j

/-- CAPTURE_READ_DONE, R315. -/
def execCaptureReadDone (k : Fin 4096) (s : State) : Out :=
  whenLive s fun s => if !s.bistTests 1 then s.captureReadDone k else s

/-- TRIGGER_TICK, R305, R309. -/
def execTriggerTick (s : State) : Out := whenLive s State.triggerTick

/-- CAPTURE_UNIT_WRITE, R306, R310, R311: the newest unit of batt b's tap. For a symbol tap `own` are the samples of its
symbols, `before` and `after` those around them that the filter reaches, and `prev` the decision before the first
symbol. -/
def execCaptureUnitWrite (b : Fin 256) (prev : Fin 4) (before own after : List (BitVec 8)) (full : Bool) (s : State) :
    Out :=
  whenLive s fun s =>
    match s.unitRec b prev (s.rxIn (s.battLane b) (before ++ own ++ after)) with
    | none => s
    | some r => s.unitWrite b r full

/-- CAPTURE_TIMEOUT, R312. -/
def execCaptureTimeout (b : Fin 256) (s : State) : Out :=
  whenLive s fun s => if s.battState b == 1 && (s.batt b).timeout != 0 then s.battEnd b 2 else s

/-- DRAM_TEMP_READ, R307, R310. -/
def execDramTempRead (temp : BitVec 16) (s : State) : Out := whenLive s fun s => s.dramTemp temp.toNat

end Sys2Proof.Machine
end

