-- ==== Sys2Proof/Machine/Plank.lean ====
section
/-! DEFINITION. Plank: RFC 1951 streams, frames, jobs and engines (spec/11_capture_plank.md R316-R325). -/

namespace Sys2Proof.Machine

open Sys2Proof

/-! ### CRC-32, R318 -/

/-- One bit of the reflected CRC. -/
def crc32Bit (c : Nat) : Nat := if c % 2 = 1 then (c / 2) ^^^ 0xEDB88320 else c / 2

/-- One byte. -/
def crc32Byte (c b : Nat) : Nat :=
  crc32Bit (crc32Bit (crc32Bit (crc32Bit (crc32Bit (crc32Bit (crc32Bit (crc32Bit (c ^^^ b))))))))

/-- CRC-32 of bytes in ascending order. -/
def crc32 (bs : List Nat) : Nat := (bs.foldl crc32Byte 0xFFFFFFFF) ^^^ 0xFFFFFFFF

/-! ### RFC 1951 streams, R319, R324 -/

/-- The bits of a byte, least significant first, and of a list of bytes. -/
def byteBits (b : Nat) : List Bool := (List.range 8).map (bitAt b)
def bitsOf (bs : List Nat) : List Bool := bs.flatMap byteBits

/-- What a step of the decoder answers: its value and the bits left, or a subcode of R324. -/
abbrev Dec (α : Type) := Except Nat (α × List Bool)

/-- `n` bits as a number, least significant first. -/
def takeBits : Nat → List Bool → Dec Nat
  | 0, bs => .ok (0, bs)
  | _ + 1, [] => .error 8
  | n + 1, b :: bs =>
    match takeBits n bs with
    | .error e => .error e
    | .ok (v, r) => .ok (b.toNat + 2 * v, r)

/-- A code: length, word and symbol of each of its members. -/
abbrev Code := List (Nat × Nat × Nat)

/-- The canonical code of a list of lengths, shorter words first and then by symbol (RFC 1951). -/
def codeWords : Nat → Nat → Nat → List (Nat × Nat) → Code
  | 0, _, _, _ => []
  | k + 1, len, word, ls =>
    let here := ls.filter fun x => x.1 == len
    let own := (List.range here.length).map fun i => (len, word + i, (here.getD i (0, 0)).2)
    own ++ codeWords k (len + 1) ((word + here.length) * 2) ls

/-- The code of lengths listed by symbol. -/
def codeOf (lens : List Nat) : Code :=
  codeWords 15 1 0 ((List.range lens.length).map fun i => (lens.getD i 0, i))

/-- The Kraft sum in units of 2^-15. -/
def kraft (lens : List Nat) : Nat :=
  (lens.filter (· != 0)).foldl (fun a l => a + 2 ^ (15 - l)) 0

/-- A code is complete. -/
def complete (lens : List Nat) : Bool := kraft lens == 2 ^ 15

/-- A distance code that R324 lets pass: complete, one code of length 1, or none at all (log 37). -/
def distOk (lens : List Nat) : Bool :=
  complete lens || (lens.filter (· != 0)) == [1] || (lens.filter (· != 0)).isEmpty

/-- The length of the longest word. -/
def codeTop (c : Code) : Nat := c.foldl (fun m x => max m x.1) 0

/-- Reads one symbol of a code. -/
def readSymFrom (c : Code) : Nat → Nat → Nat → List Bool → Dec Nat
  | 0, _, _, _ => .error 4
  | _ + 1, _, _, [] => .error 8
  | k + 1, len, word, b :: bs =>
    let w := 2 * word + b.toNat
    match c.find? fun x => x.1 == len + 1 && x.2.1 == w with
    | some x => .ok (x.2.2, bs)
    | none => readSymFrom c k (len + 1) w bs
def readSym (c : Code) (bs : List Bool) : Dec Nat := readSymFrom c (codeTop c) 0 0 bs

/-- Base and extra bits of length symbols 257-285 and of distance symbols 0-29 (RFC 1951). -/
def lenBase : List (Nat × Nat) :=
  [(3, 0), (4, 0), (5, 0), (6, 0), (7, 0), (8, 0), (9, 0), (10, 0), (11, 1), (13, 1), (15, 1), (17, 1), (19, 2), (23, 2),
   (27, 2), (31, 2), (35, 3), (43, 3), (51, 3), (59, 3), (67, 4), (83, 4), (99, 4), (115, 4), (131, 5), (163, 5),
   (195, 5), (227, 5), (258, 0)]
def distBase : List (Nat × Nat) :=
  [(1, 0), (2, 0), (3, 0), (4, 0), (5, 1), (7, 1), (9, 2), (13, 2), (17, 3), (25, 3), (33, 4), (49, 4), (65, 5), (97, 5),
   (129, 6), (193, 6), (257, 7), (385, 7), (513, 8), (769, 8), (1025, 9), (1537, 9), (2049, 10), (3073, 10), (4097, 11),
   (6145, 11), (8193, 12), (12289, 12), (16385, 13), (24577, 13)]

/-- Copies `n` bytes from distance `d` back; the output is kept newest first. -/
def copyBack : Nat → Nat → List Nat → List Nat
  | 0, _, out => out
  | n + 1, d, out => copyBack n d (out.getD (d - 1) 0 :: out)

/-- A length or distance from its symbol and its extra bits. -/
def readExtra (base : List (Nat × Nat)) (sym : Nat) (bs : List Bool) : Dec Nat :=
  match base[sym]? with
  | none => .error 4
  | some (b, x) =>
    match takeBits x bs with
    | .error e => .error e
    | .ok (v, r) => .ok (b + v, r)

/-- A symbol of a block: a byte, or a match of `len` bytes from distance `d` back. -/
inductive Tok where
  | lit (b : Nat)
  | mat (len d : Nat)
deriving DecidableEq, Repr

/-- The output after a symbol. -/
def Tok.play (out : List Nat) : Tok → List Nat
  | .lit b => b :: out
  | .mat len d => copyBack len d out

/-- How many bytes it gives. -/
def Tok.size : Tok → Nat
  | .lit _ => 1
  | .mat len _ => len

/-- The distance of a match of `len` bytes after `n` bytes of output. -/
def readMatch (dist : Code) (orig len n : Nat) (bs : List Bool) : Dec Tok :=
  match readSym dist bs with
  | .error e => .error e
  | .ok (sym, r) =>
    match readExtra distBase sym r with
    | .error e => .error e
    | .ok (d, r) =>
      if n < d then .error 5 else if orig < n + len then .error 6 else .ok (.mat len d, r)

/-- The symbols of a block up to 256, newest first, after `n` bytes of output. -/
def readBlock (lit dist : Code) (orig : Nat) : Nat → Nat → List Tok → List Bool → Dec (List Tok)
  | 0, _, _, _ => .error 8
  | k + 1, n, acc, bs =>
    match readSym lit bs with
    | .error e => .error e
    | .ok (sym, r) =>
      if sym < 256 then
        if orig ≤ n then .error 6 else readBlock lit dist orig k (n + 1) (.lit sym :: acc) r
      else if sym = 256 then .ok (acc, r)
      else
        match readExtra lenBase (sym - 257) r with
        | .error e => .error e
        | .ok (len, r) =>
          match readMatch dist orig len n r with
          | .error e => .error e
          | .ok (x, r) => readBlock lit dist orig k (n + len) (x :: acc) r

/-- The lengths of the fixed codes (RFC 1951). -/
def fixedLit : List Nat :=
  List.replicate 144 8 ++ List.replicate 112 9 ++ List.replicate 24 7 ++ List.replicate 8 8
def fixedDist : List Nat := List.replicate 32 5

/-- The order in which the code-length code's lengths are sent. -/
def clOrder : List Nat := [16, 17, 18, 0, 8, 7, 9, 6, 10, 5, 11, 4, 12, 3, 13, 2, 14, 1, 15]

/-- `n` 3-bit lengths. -/
def readThrees : Nat → List Bool → Dec (List Nat)
  | 0, bs => .ok ([], bs)
  | n + 1, bs =>
    match takeBits 3 bs with
    | .error e => .error e
    | .ok (v, r) =>
      match readThrees n r with
      | .error e => .error e
      | .ok (vs, r) => .ok (v :: vs, r)

/-- The HLIT + HDIST lengths, run by run; the list is kept newest first. -/
def readLens (cl : Code) (n : Nat) : Nat → List Nat → List Bool → Dec (List Nat)
  | 0, _, _ => .error 3
  | k + 1, acc, bs =>
    if acc.length = n then .ok (acc.reverse, bs)
    else
      match readSym cl bs with
      | .error e => .error e
      | .ok (sym, r) =>
        if sym < 16 then readLens cl n k (sym :: acc) r
        else
          let x : Nat × Nat × Nat := if sym = 16 then (2, 3, acc.headD 0) else if sym = 17 then (3, 3, 0) else (7, 11, 0)
          match takeBits x.1 r with
          | .error e => .error e
          | .ok (v, r) =>
            if (sym == 16 && acc.isEmpty) || n < acc.length + x.2.1 + v then .error 3
            else readLens cl n k (List.replicate (x.2.1 + v) x.2.2 ++ acc) r

/-- The two codes of a dynamic block. -/
def readTables (bs : List Bool) : Dec (Code × Code) :=
  match takeBits 14 bs with
  | .error e => .error e
  | .ok (v, r) =>
    let hlit := 257 + v % 32
    let hdist := 1 + v / 32 % 32
    if 286 < hlit || 30 < hdist then .error 3
    else
      match readThrees (4 + v / 1024) r with
      | .error e => .error e
      | .ok (ts, r) =>
        let lens := (List.range 19).map fun i => match findIdxFrom (· == i) clOrder 0 with
          | some k => ts.getD k 0
          | none => 0
        if !complete lens then .error 3
        else
          match readLens (codeOf lens) (hlit + hdist) (hlit + hdist + 1) [] r with
          | .error e => .error e
          | .ok (all, r) =>
            let lit := all.take hlit
            let dist := all.drop hlit
            if !complete lit || !distOk dist || lit.getD 256 0 = 0 then .error 3
            else .ok ((codeOf lit, codeOf dist), r)

/-- `n` whole bytes. -/
def readBytes : Nat → List Nat → List Bool → Dec (List Nat)
  | 0, out, bs => .ok (out, bs)
  | n + 1, out, bs =>
    match takeBits 8 bs with
    | .error e => .error e
    | .ok (v, r) => readBytes n (v :: out) r

/-- A stored block: from the next byte boundary, LEN, NLEN and the bytes, newest first. -/
def readStored (orig n : Nat) (bs : List Bool) : Dec (List Tok) :=
  match takeBits 32 (bs.drop (bs.length % 8)) with
  | .error e => .error e
  | .ok (v, r) =>
    let len := v % 65536
    if v / 65536 != 65535 - len then .error 7
    else if orig < n + len then .error 6
    else
      match readBytes len [] r with
      | .error e => .error e
      | .ok (own, r) => .ok (own.map Tok.lit, r)

/-- The body of a block of a BTYPE after `n` bytes of output. -/
def readBody (btype orig n : Nat) (bs : List Bool) : Dec (List Tok) :=
  match btype with
  | 0 => readStored orig n bs
  | 1 => readBlock (codeOf fixedLit) (codeOf fixedDist) orig (bs.length + 1) n [] bs
  | 2 =>
    match readTables bs with
    | .error e => .error e
    | .ok (c, r) => readBlock c.1 c.2 orig (r.length + 1) n [] r
  | _ => .error 2

/-- The output of the blocks up to the one with BFINAL, newest first. -/
def readBlocks (orig : Nat) : Nat → List Nat → List Bool → Dec (List Nat)
  | 0, _, _ => .error 8
  | k + 1, out, bs =>
    match takeBits 3 bs with
    | .error e => .error e
    | .ok (v, r) =>
      match readBody (v / 2) orig out.length r with
      | .error e => .error e
      | .ok (toks, q) =>
        let out := toks.reverse.foldl Tok.play out
        if v % 2 = 1 then .ok (out, q) else readBlocks orig k out q

/-- The original bytes of one complete stream (R317, R324). -/
def inflate (orig : Nat) (stream : List Nat) : Except Nat (List Nat) :=
  let bs := bitsOf stream
  match readBlocks orig (bs.length + 1) [] bs with
  | .error e => .error e
  | .ok (out, r) =>
    if out.length < orig then .error 6
    else if 8 ≤ r.length then .error 1
    else .ok out.reverse

/-! ### Matching, R319 -/

/-- The settings of a job that its stream is a function of (R319). -/
structure PlankSet where
  effort : Nat
  depth : Nat
  tables : Nat
  log2 : Nat
  first : Nat
deriving DecidableEq, Repr

/-- The settings as the argument of the free values. -/
def PlankSet.key (c : PlankSet) : List Nat := [c.effort, c.depth, c.tables, c.log2, c.first]

/-- The hash of the 3 bytes at p (R319; which hash is a free value, log 36). -/
def hash3 (a : Array Nat) (p : Nat) : Nat :=
  Config.hash3 (a.getD p 0 + 256 * a.getD (p + 1) 0 + 65536 * a.getD (p + 2) 0)

/-- `x` put into a list in the order of a key, after those of the same key. -/
def insertKey (key : Nat → Nat) (x : Nat) : List Nat → List Nat
  | [] => [x]
  | y :: l => if key x < key y then x :: y :: l else y :: insertKey key x l

/-- The distances at which candidates for a match at p stand, in the order in which they are examined: every earlier
position within reach whose 3 bytes hash alike, as many as EFFORT and DEPTH let be examined (R319; their order is a free
value, log 36). -/
def candidates (c : PlankSet) (a : Array Nat) (p : Nat) : List Nat :=
  if a.size < p + 3 then []
  else
    let ds := ((List.range (min p 32768)).map (· + 1)).filter fun d => hash3 a (p - d) == hash3 a p
    (ds.foldr (insertKey (Config.candidateOrder c.key p)) []).take (if c.effort = 0 then 8 else c.depth)

/-- How many of at most `k` bytes from p on repeat those a distance d back. -/
def matchLen (a : Array Nat) (d : Nat) : Nat → Nat → Nat
  | 0, _ => 0
  | k + 1, p => if a.getD p 0 == a.getD (p - d) 0 then matchLen a d k (p + 1) + 1 else 0

/-- The first longest match at p, as length and distance; below 3 bytes there is none (R319). -/
def bestMatch (c : PlankSet) (a : Array Nat) (p : Nat) : Nat × Nat :=
  (candidates c a p).foldl (fun m d =>
    let n := matchLen a d (min 258 (a.size - p)) p
    if m.1 < n then (n, d) else m) (0, 0)

/-- The symbols of a frame from p on: fast takes a match greedily, thorough defers it by one byte where the next position
gives a longer one (R319). -/
def tokensFrom (c : PlankSet) (a : Array Nat) : Nat → Nat → List Tok
  | 0, _ => []
  | k + 1, p =>
    if a.size ≤ p then []
    else
      let m := bestMatch c a p
      if m.1 < 3 || (c.effort == 1 && m.1 < (bestMatch c a (p + 1)).1) then .lit (a.getD p 0) :: tokensFrom c a k (p + 1)
      else .mat m.1 m.2 :: tokensFrom c a k (p + m.1)

/-! ### Codes and blocks, R319 -/

/-- `n` bits of a number, least significant first. -/
def numBits (n v : Nat) : List Bool := (List.range n).map (bitAt v)

/-- The place of the last entry of a table of bases that is not above `v`, with its extra bits. -/
def baseOf (base : List (Nat × Nat)) (v : Nat) : Nat × List Bool :=
  let i := (base.filter fun x => x.1 ≤ v).length - 1
  let x := base.getD i (0, 0)
  (i, numBits x.2 (v - x.1))

/-- The literal/length symbol and the distance symbol of a token. -/
def Tok.litSym : Tok → Nat
  | .lit b => b
  | .mat len _ => 257 + (baseOf lenBase len).1
def Tok.distSym : Tok → Option Nat
  | .lit _ => none
  | .mat _ d => some (baseOf distBase d).1

/-- The word of a symbol, most significant bit first (RFC 1951). -/
def codeBits (c : Code) (sym : Nat) : List Bool :=
  match c.find? fun x => x.2.2 == sym with
  | some x => (numBits x.1 x.2.1).reverse
  | none => []

/-- A token in a pair of codes. -/
def Tok.encode (lit dist : Code) (t : Tok) : List Bool :=
  match t with
  | .lit _ => codeBits lit t.litSym
  | .mat len d =>
    codeBits lit t.litSym ++ (baseOf lenBase len).2 ++ codeBits dist (baseOf distBase d).1 ++ (baseOf distBase d).2

/-- The tokens of a block and its end. -/
def encBody (lit dist : Code) (toks : List Tok) : List Bool := toks.flatMap (Tok.encode lit dist) ++ codeBits lit 256

/-- How often each of `n` symbols stands in a list. -/
def counts (n : Nat) (l : List Nat) : List Nat := (List.range n).map fun i => l.count i

/-- Lengths of a complete code of nearly equal words over the symbols counted. -/
def flatLens (cs : List Nat) : List Nat :=
  let k := cs.countP (· != 0)
  let d := Nat.log2 k
  let idx (i : Nat) : Nat := (cs.take i).countP (· != 0)
  (List.range cs.length).map fun i =>
    if cs.getD i 0 = 0 then 0 else if k = 1 then 1 else if idx i < 2 * (k - 2 ^ d) then d + 1 else d

/-- The code lengths for a block's own counts, of at most `top` bits: a complete code of the symbols counted, of which
R319 says no more (free value, log 36). -/
def codeLens (top : Nat) (cs : List Nat) : List Nat :=
  let l := Config.codeLengths top cs
  if l.length = cs.length && (List.range l.length).all (fun i => l.getD i 0 ≤ top && (cs.getD i 0 == 0 || l.getD i 0 != 0)) &&
      complete l then l
  else flatLens cs

/-- What a list of length symbols with their extra values stands for (RFC 1951). -/
def runsLens : List Nat → List (Nat × Nat) → List Nat
  | acc, [] => acc.reverse
  | acc, (s, x) :: l =>
    if s < 16 then runsLens (s :: acc) l
    else if s = 16 then runsLens (List.replicate (3 + x % 4) (acc.headD 0) ++ acc) l
    else if s = 17 then runsLens (List.replicate (3 + x % 8) 0 ++ acc) l
    else runsLens (List.replicate (11 + x % 128) 0 ++ acc) l

/-- The symbols in which a table's lengths are sent: any that stand for them (free value, log 36). -/
def lensRuns (lens : List Nat) : List (Nat × Nat) :=
  let l := Config.lengthRuns lens
  if (l.head?.all fun x => x.1 != 16) && l.all (fun x => decide (x.1 ≤ 18)) && runsLens [] l == lens then l
  else lens.map fun v => (v, 0)

/-- A list without the zeros at its end, but with at least `n` members. -/
def trimTo (n : Nat) (l : List Nat) : List Nat :=
  l.take (max n (l.length - (l.reverse.takeWhile (· == 0)).length))

/-- HLIT, HDIST, HCLEN and the lengths of a dynamic block's codes (RFC 1951). -/
def encTables (lit dist : List Nat) : List Bool :=
  let runs := lensRuns (lit ++ dist)
  let cl := codeLens 7 (counts 19 (runs.map (·.1)))
  let sent := trimTo 4 (clOrder.map fun i => cl.getD i 0)
  let own (x : Nat × Nat) : List Bool :=
    codeBits (codeOf cl) x.1 ++ numBits (if x.1 = 16 then 2 else if x.1 = 17 then 3 else if x.1 = 18 then 7 else 0) x.2
  numBits 5 (lit.length - 257) ++ numBits 5 (dist.length - 1) ++ numBits 4 (sent.length - 4) ++
    sent.flatMap (numBits 3) ++ runs.flatMap own

/-- A block in dynamic codes of its own counts, after its header bits. -/
def encDynamic (toks : List Tok) : List Bool :=
  let lit := trimTo 257 (codeLens 15 (counts 286 (256 :: toks.map Tok.litSym)))
  let dist := trimTo 1 (codeLens 15 (counts 30 (toks.filterMap Tok.distSym)))
  encTables lit dist ++ encBody (codeOf lit) (codeOf dist) toks

/-- BFINAL and BTYPE. -/
def blockHead (last : Bool) (btype : Nat) : List Bool := last :: numBits 2 btype

/-- A stored block that begins at bit `pos`. -/
def encStored (pos : Nat) (last : Bool) (own : List Nat) : List Bool :=
  blockHead last 0 ++ List.replicate ((8 - (pos + 3) % 8) % 8) false ++ numBits 16 own.length ++
    numBits 16 (65535 - own.length) ++ bitsOf own

/-- A block that begins at bit `pos`, of the smallest type that TABLES allows, the lowest BTYPE at a tie (R319). -/
def encBlock (tables pos : Nat) (last : Bool) (own : List Nat) (toks : List Tok) : List Bool :=
  let st := encStored pos last own
  let fx := blockHead last 1 ++ encBody (codeOf fixedLit) (codeOf fixedDist) toks
  let c := if fx.length < st.length then fx else st
  if tables = 0 then
    let dy := blockHead last 2 ++ encDynamic toks
    if dy.length < c.length then dy else c
  else c

/-- The first of `k` tokens that make at most `n` bytes. -/
def blockToks : Nat → Nat → List Tok → List Tok
  | 0, _, _ => []
  | _, _, [] => []
  | k + 1, n, t :: l => if t.size ≤ n then t :: blockToks k (n - t.size) l else []

/-- The blocks of a frame from bit `pos` on; `cut` tells how many tokens a block takes at most after so many bytes. -/
def encBlocks (tables : Nat) (cut : Nat → Nat) : Nat → Nat → Nat → List Nat → List Tok → List Bool
  | 0, _, _, _, _ => []
  | k + 1, pos, at_, bs, toks =>
    let own := blockToks (cut at_ + 1) 65535 toks
    let n := (own.map Tok.size).foldl (· + ·) 0
    let rest := toks.drop own.length
    let b := encBlock tables pos rest.isEmpty (bs.take n) own
    if rest.isEmpty then b else b ++ encBlocks tables cut k (pos + b.length) (at_ + n) (bs.drop n) rest

/-- Bits as bytes, the last filled up with zeros. -/
def packBits : Nat → List Bool → List Nat
  | 0, _ => []
  | k + 1, bs =>
    if bs.isEmpty then []
    else (List.range 8).foldl (fun v i => v + (bs.getD i false).toNat * 2 ^ i) 0 :: packBits k (bs.drop 8)

/-- The stream of a frame under settings and a cut into blocks. -/
def encFrame (c : PlankSet) (cut : Nat → Nat) (bs : List Nat) : List Nat :=
  let toks := tokensFrom c bs.toArray bs.length 0
  let b := encBlocks c.tables cut toks.length 0 0 bs toks
  packBits (b.length / 8 + 1) b

/-! ### Frames, R317, R320 -/

/-- The stored stream of a frame: blocks of at most 65,535 bytes, BFINAL on the last (R319). -/
def storedFrom : Nat → List Nat → List Nat
  | 0, _ => []
  | k + 1, bs =>
    let own := bs.take 65535
    let rest := bs.drop 65535
    [if rest.isEmpty then 1 else 0] ++ leBytes 2 own.length ++ leBytes 2 (65535 - own.length) ++ own ++
      (if rest.isEmpty then [] else storedFrom k rest)
def stored (bs : List Nat) : List Nat := storedFrom (bs.length / 65535 + 1) bs

/-- The most bytes a frame of S original bytes takes (R320). -/
def streamMax (n : Nat) : Nat := n + 5 * ceilDiv n 65535

/-- The stream of a frame: stored with TABLES 2, else encoded (R319). Where blocks end below 65,535 bytes is a free value
(log 36); R320 bounds the stream, so a cut that would break the bound gives way to blocks as long as may be, and those
to the stored form. -/
def streamOf (c : PlankSet) (bs : List Nat) : List Nat :=
  if c.tables = 2 then stored bs
  else
    let x := encFrame c (Config.blockTokens c.key) bs
    let y := encFrame c (fun _ => 65535) bs
    if x.length ≤ streamMax bs.length then x else if y.length ≤ streamMax bs.length then y else stored bs

/-- The 32-byte header of a frame. -/
def frameHeader (last : Bool) (effort log2 orig comp crc index : Nat) : List Nat :=
  let h := leBytes 4 0x4B4E4C50 ++ [1, last.toNat + 2 * effort, log2, 0] ++ leBytes 4 orig ++ leBytes 4 comp ++
    leBytes 4 crc ++ leBytes 4 index ++ leBytes 4 0
  h ++ leBytes 4 (crc32 h)

/-- The parameters of PLANK_COMPRESS (R321). -/
def Job.effort (j : Job) : Nat := j.p 1 1
def Job.log2Frame (j : Job) : Nat := j.p 2 1
def Job.depth (j : Job) : Nat := j.p 4 2
def Job.plankSet (j : Job) : PlankSet :=
  { effort := j.effort, depth := j.depth, tables := j.p 3 1, log2 := j.log2Frame, first := j.p 24 4 }

/-- The frames of a compression job from the k-th on: their number and their bytes. -/
def framesFrom (j : Job) : Nat → Nat → List Nat → Nat × List Nat
  | 0, k, _ => (k, [])
  | fuel + 1, k, bs =>
    let n := 2 ^ j.log2Frame
    let own := bs.take n
    let rest := bs.drop n
    let st := streamOf j.plankSet own
    let fr := frameHeader rest.isEmpty j.effort j.log2Frame own.length st.length (crc32 own) ((j.p 24 4 + k) % 2 ^ 32) ++ st
    if rest.isEmpty then (k + 1, fr)
    else
      let t := framesFrom j fuel (k + 1) rest
      (t.1, fr ++ t.2)

/-- The header checks of R324 on 32 bytes; `k` counts the job's frames. -/
def frameHeaderOk (j : Job) (k : Nat) (h : List Nat) : Bool :=
  let log2 := byteAt h 6
  let orig := leAt h 8 4
  let last := byteAt h 5 % 2 == 1
  leAt h 0 4 == 0x4B4E4C50 && byteAt h 4 == 1 && byteAt h 5 < 4 && 16 ≤ log2 && log2 ≤ 22 && byteAt h 7 == 0 &&
    1 ≤ orig && (if last then decide (orig ≤ 2 ^ log2) else orig == 2 ^ log2) &&
    1 ≤ leAt h 12 4 && leAt h 12 4 ≤ 0x800000 && zeroBytes h 24 4 && leAt h 28 4 == crc32 (h.take 28) &&
    (j.p 4 1 % 2 == 0 || leAt h 20 4 == (j.p 0 4 + k) % 2 ^ 32)

/-- What a decompression job came to: its frames' bytes, their number, the input consumed by them, and the subcode of
R324 that stopped it, 0 for none and 0xFF for OUT_FULL, with the size its failing frame announced. -/
structure Inflated where
  out : List Nat
  frames : Nat
  offset : Nat
  err : Nat
  more : Nat := 0
deriving DecidableEq, Repr

/-- The frames of the input from offset `off` on, with `room` bytes left in buffer 1. -/
def inflateFrames (j : Job) : Nat → Nat → Nat → Nat → List Nat → Inflated
  | 0, k, off, _, _ => { out := [], frames := k, offset := off, err := 8 }
  | fuel + 1, k, off, room, bs =>
    let stop (e more : Nat) : Inflated := { out := [], frames := k, offset := off, err := e, more := more }
    let h := bs.take 32
    let orig := leAt h 8 4
    let comp := leAt h 12 4
    let st := (bs.drop 32).take comp
    if bs.isEmpty then stop 0 0
    else if h.length < 32 then stop 8 0
    else if !frameHeaderOk j k h then stop 1 0
    else if room < orig then stop 0xFF orig
    else
      match inflate orig st with
      | .error e => stop e orig
      | .ok out =>
        if st.length < comp then stop 8 orig
        else if crc32 out != leAt h 16 4 then stop 9 orig
        else
          let t := inflateFrames j fuel (k + 1) (off + 32 + comp) (room - orig) (bs.drop (32 + comp))
          { t with out := out ++ t.out }

namespace State

/-! ### Jobs, R321, R323 -/

/-- The parameter rules of PLANK_COMPRESS. -/
def compressOk (j : Job) : Bool :=
  j.p 0 1 ≤ 1 && j.effort ≤ 1 && 16 ≤ j.log2Frame && j.log2Frame ≤ 22 && j.p 3 1 ≤ 2 &&
    (if j.effort = 1 then decide (4 ≤ j.depth) && decide (j.depth ≤ 256) else j.depth == 0) && j.pz 7 1 && j.pz 28 4 &&
    32 ≤ j.len1 &&
    (if j.p 0 1 = 0 then j.pz 6 1 && j.pz 8 16 && decide (1 ≤ j.len0)
     else j.addr0 == 0 && j.len0 == 0 && decide (1 ≤ j.p 16 8) && decide (j.p 16 8 ≤ 2 ^ 32 - 1))

/-- The parameter rules of PLANK_DECOMPRESS. -/
def decompressOk (j : Job) : Bool := j.p 4 1 ≤ 1 && j.pz 5 27 && 32 ≤ j.len0

/-- Some engine is in service. -/
def engineLeft (s : State) : Bool := (List.range 8).any fun e => !s.on F.PLK_ENG_STAT_OUT_OF_SERVICE e

/-- A checked job waits for an engine; with none in service it ends with INTERNAL (R325). -/
def plankWait (s : State) (j : Job) : State :=
  if s.engineLeft then
    let s := { s with plank := { s.plank with waiting := s.plank.waiting ++ [({ job := j, lost := j.lost } : PlankJob)] } }
    s.await j.ring j.idx [.plank]
  else s.jobRefused j .internal

/-- PLANK_COMPRESS (R321). -/
def plankCompress (s : State) (j : Job) : State :=
  if !compressOk j then s.jobRefused j .badParam
  else if j.p 0 1 = 0 then s.plankWait j
  else if s.battState (j.p 6 1) != 3 then s.jobRefused j .notAllowed
  else if s.imageSize (j.p 6 1) < j.p 8 8 + j.p 16 8 then s.jobRefused j .badParam
  else s.plankWait j

/-- PLANK_DECOMPRESS (R323). -/
def plankDecompress (s : State) (j : Job) : State :=
  if decompressOk j then s.plankWait j else s.jobRefused j .badParam

/-! ### Engines, R43, R325 -/

/-- The job of engine e. -/
def engineJob (s : State) (e : Nat) : Option PlankJob := (s.plank.engines.get e []).head?

/-- Of two waiting jobs the one the round robin takes: by ring from the pointer on, then by descriptor (R41, R43). -/
def plankFirst (s : State) (a b : PlankJob) : PlankJob :=
  let d (x : PlankJob) : Nat := (x.job.ring + 65536 - s.plank.ptr) % 65536
  if d b < d a || (d b == d a && b.job.idx < a.job.idx) then b else a

/-- The lowest free engine in service. -/
def freeEngine (s : State) : Option Nat :=
  (List.range 8).find? fun e => !s.on F.PLK_ENG_STAT_OUT_OF_SERVICE e && !s.on F.PLK_ENG_STAT_BUSY e

/-- A waiting job takes an engine. -/
def plankStart (s : State) : State :=
  match s.plank.waiting, s.freeEngine with
  | x :: xs, some e =>
    let p := xs.foldl s.plankFirst x
    let s := { s with plank := { waiting := s.plank.waiting.erase p, engines := s.plank.engines.set e [p] [],
                                 ptr := p.job.ring + 1 } }
    let s := (s.w F.PLK_ENG_STAT_BUSY e 1).w F.PLK_ENG_STAT_DECOMP e (byteAt p.job.desc 0 % 2)
    s.w F.PLK_ENG_STAT_RING e p.job.ring
  | _, _ => s

/-- Engine e has no job any more. -/
def engineIdle (s : State) (e : Nat) : State :=
  let s := { s with plank := { s.plank with engines := s.plank.engines.del e } }
  ((s.w F.PLK_ENG_STAT_BUSY e 0).w F.PLK_ENG_STAT_DECOMP e 0).w F.PLK_ENG_STAT_RING e 0

/-- The input bytes of a job (R321, R323). -/
def plankInput (s : State) (j : Job) : List Nat :=
  if byteAt j.desc 0 == 0x38 && j.p 0 1 == 1 then ((s.battImage (j.p 6 1)).drop (j.p 8 8)).take (j.p 16 8)
  else s.hostMem.readN j.addr0 j.len0

/-- Bytes a job writes to buffer 1, unless its ring engine was reset (R292). -/
def plankWrite (s : State) (p : PlankJob) (at_ : Nat) (bs : List Nat) : State :=
  if p.lost then s else { s with hostMem := s.hostMem.writeBytes (p.job.addr1 + at_) bs }

/-- `n` bytes of buffer 1 from `at_` hold no valid output: free values (log 12). -/
def plankSpoil (s : State) (p : PlankJob) (at_ n : Nat) : State :=
  (s.plankWrite p at_ ((List.range n).map fun k => Config.unstated 44 (s.fresh * 2 ^ 40 + k) % 256))

/-- The job's completion, unless its ring engine was reset. -/
def plankFinish (s : State) (p : PlankJob) (st : Status) (r0 r1 sub : Nat) : State :=
  if p.lost then s else s.finish p.job.ring p.job.idx st r0 r1 sub

/-- Counts of a completed job: input consumed and valid output (R327). -/
def plankCount (s : State) (used made : Nat) : State :=
  ((s.inc F.PLK_JOBS_COUNT 0).inc F.PLK_IN_COUNT 0 used).inc F.PLK_OUT_COUNT 0 made

/-- How much input a failed job had consumed: the manual does not say (log 12). -/
def usedInput (s : State) (n : Nat) : Nat := Config.unstated 45 s.fresh % (n + 1)

/-- Buffer 1 as a failed job leaves it: 32 zero bytes at its start, or what of them fits in it, nothing after them valid
(R322). -/
def plankVoid (s : State) (p : PlankJob) : State :=
  (s.plankSpoil p 0 p.job.len1).plankWrite p 0 (List.replicate (min 32 p.job.len1) 0)

/-- The job fails with OUT_FULL. -/
def plankFull (s : State) (p : PlankJob) (input : Nat) : State :=
  let s := ((s.plankVoid p).inc F.PLK_OUT_FULL_COUNT 0).plankCount (s.usedInput input) 0
  s.plankFinish p .outFull 0 0 0

/-- A compression job ends (R321, R322). -/
def compressEnd (s : State) (p : PlankJob) : State :=
  let bs := s.plankInput p.job
  let f := framesFrom p.job (bs.length / 65536 + 1) 0 bs
  if p.job.len1 < f.2.length then s.plankFull p bs.length
  else
    let s := (s.plankWrite p 0 f.2).plankCount bs.length f.2.length
    s.plankFinish p .ok f.2.length (f.1 + crc32 bs * 2 ^ 32) 0

/-- A decompression job ends (R323, R324). -/
def decompressEnd (s : State) (p : PlankJob) : State :=
  let bs := s.plankInput p.job
  let t := inflateFrames p.job (bs.length + 1) 0 0 p.job.len1 bs
  if t.err = 0xFF then s.plankFull p bs.length
  else if t.err = 0 then
    let s := (s.plankWrite p 0 t.out).plankCount bs.length t.out.length
    s.plankFinish p .ok t.out.length (t.frames + crc32 t.out * 2 ^ 32) 0
  else
    let s := (s.plankWrite p 0 t.out).plankSpoil p t.out.length (min t.more (p.job.len1 - t.out.length))
    let s := (s.inc F.PLK_ERR_COUNT (t.err - 1)).plankCount (s.usedInput bs.length) t.out.length
    s.plankFinish p .dataError t.out.length (t.frames + t.offset * 2 ^ 32) t.err

/-- A batt that the job read may become FREE (R313). -/
def plankBatt (s : State) (p : PlankJob) : State :=
  if byteAt p.job.desc 0 == 0x38 && p.job.p 0 1 == 1 then s.battSettle (p.job.p 6 1) else s

/-- The job of engine e ends, once its reads and writes of host memory are allowed (R267) and no completion, event or
telemetry record waits to be written first (R43); a lost job's writes are discarded (R292). -/
def plankEnd (s : State) (e : Nat) : State :=
  match s.engineJob e with
  | none => s
  | some p =>
    if !p.lost && !s.canIssue then s
    else if !p.lost && !s.outTurn p.job.ring p.job.idx then
      { s with plank := { s.plank with engines := s.plank.engines.set e [{ p with ready := true }] [] } }
    else
    let s := if p.lost then s else s.granted 3 p.job.ring
    let s := if byteAt p.job.desc 0 == 0x38 then s.compressEnd p else s.decompressEnd p
    ({ (s.engineIdle e) with fresh := s.fresh + 1 }).plankBatt p

/-- The jobs that wait while no engine is left end with INTERNAL (R325). -/
def plankNone (s : State) : State :=
  if s.engineLeft then s
  else
    let ws := s.plank.waiting
    let s := { s with plank := { s.plank with waiting := [] } }
    s.each ws fun s p => ((s.plankFinish p .internal 0 0 0).inc F.PLK_JOBS_COUNT 0).plankBatt p

/-- Engine e detects an internal memory error (R325). -/
def engineFault (s : State) (e : Nat) : State :=
  if s.on F.PLK_ENG_STAT_OUT_OF_SERVICE e then s
  else
    let ring := s.r F.PLK_ENG_STAT_RING e
    let s := match s.engineJob e with
      | none => s
      | some p => (((s.plankFinish p .internal 0 0 0).inc F.PLK_JOBS_COUNT 0).engineIdle e).plankBatt p
    let s := (s.w F.PLK_ENG_STAT_OUT_OF_SERVICE e 1).w F.PLK_EVT_ENGINE_FAULT 0 1
    (s.post (646 + e) 0x4101 [(2, ring)]).plankNone

/-- A job of Plank whose host read failed: its engine or place is free, and buffer 1 is as after OUT_FULL (R281,
R322). -/
def plankReadError (s : State) (ring idx : Nat) : State :=
  let own (p : PlankJob) : Bool := p.job.ring == ring && p.job.idx == idx && !p.lost
  match (List.range 8).find? fun e => (s.engineJob e).any own with
  | none => s
  | some e =>
    match s.engineJob e with
    | none => s
    | some p =>
      let s := (s.plankVoid p).plankCount (s.usedInput p.job.len0) 0
      { (s.engineIdle e) with fresh := s.fresh + 1 }

end State

/-! ### The meanings -/

/-- PLANK_COMPRESS, R321. -/
def execPlankCompress (q : Fin 32768) (i : Fin 65536) (s : State) : Out :=
  actJob 0x38 q i s fun j s => s.plankCompress j

/-- PLANK_DECOMPRESS, R323. -/
def execPlankDecompress (q : Fin 32768) (i : Fin 65536) (s : State) : Out :=
  actJob 0x39 q i s fun j s => s.plankDecompress j

/-- PLANK_JOB_START, R43. -/
def execPlankJobStart (s : State) : Out := whenLive s fun s => if s.bistTests 1 then s else s.plankStart

/-- PLANK_JOB_END, R321-R324. -/
def execPlankJobEnd (e : Fin 8) (s : State) : Out := whenLive s fun s => s.plankEnd e

/-- PLANK_ENGINE_FAULT, R325. -/
def execPlankEngineFault (e : Fin 8) (s : State) : Out := whenLive s fun s => s.engineFault e

end Sys2Proof.Machine
end

