-- ==== Sys2Proof/Machine/Lanes.lean ====
section
/-! DEFINITION. Lane control, gearbox, crossbar, loopbacks and host links: their commands
(spec/09_lanes_gearbox_host.md R229-R264). -/

namespace Sys2Proof.Machine

open Sys2Proof

/-! ### Events that meet in one update, R88, R234, R394 -/

namespace State

/-- Rank `r`, or that of a completion while lane n acquires, where the same command can bring payload lock alone. -/
def orLock (s : State) (n r : Nat) : Nat := if s.laneState (s.lead n) = 3 then 18 else r

/-- The rank of what a command can bring: 1 to 4 the triggers of R88 down to the automatic SAFE causes; 5 a command that
brings none of these events; 11 to 18 the events of R230 that it can bring to a lane as that lane stands, as R234 ranks them;
19 LANE_ENABLE, which a shed precedes (R394); 20 a request for a device state (R88). A command that can bring several events
has the rank of the first (DEDUCED, log 95). -/
def rankOf (s : State) : Instr → Nat
  | .powerDown => 1
  | .resetPin => 2
  | .pcieFundamentalReset => 2
  | .thermalTick _ => 2
  | .registerWrite _ off _ _ _ => if off.val = 12 then 2 else if off.val = 8 then 20 else 5
  | .bridgeTimeout _ => 3
  | .pllLockTimeout _ => 3
  | .fwMemoryError => 3
  | .fwCheckFail _ => 3
  | .dumpRequest _ _ => 3
  | .watchdogExpired _ => 4
  | .linkDownTimeout => 4
  | .avsTransactionDone _ _ => 4
  | .avsStatusRead _ _ _ _ _ => 4
  | .avsFaultRetry _ _ => 4
  | .laneDisable _ _ => 12
  | .slotFault _ => 13
  | .calRun _ _ => 14
  | .eqParam _ _ => 14
  | .eqWindow n _ _ => s.orLock n.val 15
  | .holdoverGraceExpiry _ => 15
  | .adcWindow _ _ => 16
  | .decodeDeliver _ => 16
  | .innerHuntTest n _ _ => s.orLock n.val 16
  | .rsCodeword n _ => s.orLock n.val 16
  | .cardingSlot _ _ => 17
  | .fgDone _ _ _ => 18
  | .calWaitRetry _ => 18
  | .payloadStart _ => 18
  | .payloadLockTimeout _ => 18
  | .acqTimeout _ => 18
  | .laneEnable _ _ => 19
  | .stateReqRun _ => 20
  | .stateReqSafe _ => 20
  | .stateReqSetup _ => 20
  | _ => 5

/-- A command joins the commands of an update in front of the first of its rank or a later one. -/
def rankInsert (s : State) (c : Instr) : List Instr → List Instr
  | [] => [c]
  | d :: ds => if s.rankOf c ≤ s.rankOf d then c :: d :: ds else d :: rankInsert s c ds

/-- The commands of one update in the order in which they act. -/
def rankOrder (s : State) : List Instr → List Instr
  | [] => []
  | c :: cs => s.rankInsert c (rankOrder s cs)

/-- The events `cs` reach the block in one update: they wait in the order of R88 and R234, and each is judged in the state
that the one before it left. -/
def update (s : State) (cs : List Instr) : State := { s with pending := s.rankOrder cs ++ s.pending }

/-! ### Enabling, R236, R238, R243 -/

/-- The map of lane n suits its mode (R243). -/
def mapSuits (s : State) (n : Nat) : Bool :=
  s.on F.XBAR_MAP_A_VALID n && (s.laneMode n ≥ 2 || s.on F.XBAR_MAP_B_VALID n)

/-- Why R236 refuses to let lead lane n leave OFF now. -/
def enableRefusal (s : State) (n : Nat) : Option Status :=
  if s.dev != .run || s.bistRunning then some .notAllowed
  else if (s.members n).any (fun m => s.on F.LANE_STAT_SHED m) || s.on F.THM_STAT_COLD_INHIBIT then some .thermalInhibit
  else if !((s.members n).all s.mapSuits) then some .badParam
  else none

/-- The commands that wait for lead lane n to come up learn of a refusal. -/
def refuseUp (s : State) (n : Nat) (st : Status) : State := s.each (s.members n) fun s m => s.resolve (.laneUp m) st

/-- The change of lead lane n's leaving OFF. -/
def upChange (n cause : Nat) : Change := .lane (Fin.ofNat 192 n) (Fin.ofNat 10 cause)

/-- A raise for lead lane n already waits. -/
def upPending (s : State) (n : Nat) : Bool :=
  s.fab.raises.any fun r => match r.change with
    | .lane m _ => m.val == n
    | .bist _ _ _ => false

/-- Lead lane n begins to leave OFF for a cause: its rates are raised first (R73). -/
def upStart (s : State) (n cause : Nat) : State := if s.upPending n then s else s.raiseStart (upChange n cause)

/-- The shed restore of lead lane n is refused (R238): RESTORE_PENDING clears and LANE_STATE names cause 9. -/
def restoreRefused (s : State) (n : Nat) : State :=
  let s := s.each (s.members n) fun s m => s.w F.LANE_STAT_RESTORE_PENDING m 0
  s.post n 0x1001 [(1, 0), (1, 0), (1, 9)]

/-- A lane with RESTORE_PENDING and no shed leaves OFF once the device is in RUN (R238). -/
def restoreCheck (s : State) (n : Nat) : State :=
  if s.on F.LANE_STAT_RESTORE_PENDING n && !s.on F.LANE_STAT_SHED n && s.dev == .run && s.laneState n == 0 then
    match s.enableRefusal n with
    | some _ => s.restoreRefused n
    | none => s.upStart n 7
  else s

/-- The same for all lanes, at entry to RUN and when a shed is released. -/
def restoreAll (s : State) (l : List Nat) : State := s.each (s.leads l) restoreCheck

/-- A refusal reaches the commands that wait for lead lane n, and the restore that shares its raise; a restore that a
new shed holds back goes on waiting (R236, R238). -/
def upRefused (s : State) (n : Nat) (st : Status) : State :=
  let s := s.refuseUp n st
  if s.on F.LANE_STAT_RESTORE_PENDING n && !s.on F.LANE_STAT_SHED n then s.restoreRefused n else s

/-- Some command waits for lead lane n to come up. -/
def upWanted (s : State) (n : Nat) : Bool :=
  s.jobs.any fun j => j.phase == .running && (s.members n).any fun m => j.waits.contains (.laneUp m)

/-- The raise of lead lane n has its margins: the lane leaves OFF, unless R236 refuses by now (log 38). -/
def upGo (s : State) (n cause : Nat) : State :=
  let s := s.raiseDrop (upChange n cause)
  match s.enableRefusal n with
  | some st => (s.upRefused n st).marginsSettle
  | none =>
    if cause == 7 && !s.on F.LANE_STAT_RESTORE_PENDING n && !s.upWanted n then s.marginsSettle
    else
      let s := s.each (s.members n) fun s m => s.w F.LANE_STAT_RESTORE_PENDING m 0
      (s.leaveOff n cause).marginsSettle

/-- FIRST_LANE and COUNT alone, in bytes 0-3 (R261). -/
def lanesOnly (j : Job) : Bool := j.spanOk 192 && j.pz 4 28

/-- LANE_ENABLE (R236). Where named lanes fail different checks, the refusal is that of the lowest lane (DESIGN CHOICE,
log 107). -/
def laneEnable (s : State) (j : Job) : State :=
  let l := s.leads j.items
  if !lanesOnly j then s.finish j.ring j.idx .badParam
  else match l.findSome? s.enableRefusal with
    | some st => s.finish j.ring j.idx st
    | none =>
      let off := l.filter fun n => s.laneState n == 0
      let drain := l.filter fun n => s.laneState n == 6
      let s := s.each drain fun s n => s.each (s.members n) fun s m => s.w F.LANE_STAT_ENABLE_PENDING m 1
      let s := s.each off fun s n => s.upStart n 1
      s.await j.ring j.idx ((off ++ drain).map Wait.laneUp) (if drain.isEmpty then .ok else .enablePending)

/-- A pending enable of lead lane n is cancelled (R236). -/
def cancelEnable (s : State) (n : Nat) (st : Status) : State :=
  if s.on F.LANE_STAT_ENABLE_PENDING n then
    (s.each (s.members n) fun s m => s.w F.LANE_STAT_ENABLE_PENDING m 0).refuseUp n st
  else s

/-- LANE_DISABLE on lead lane n (R237). -/
def disableLane (s : State) (n : Nat) : State :=
  let s := s.cancelEnable n .aborted
  let s := s.each (s.members n) fun s m => s.w F.LANE_STAT_RESTORE_PENDING m 0
  if s.laneState n == 0 || s.laneState n == 6 then s else s.toDrain n 1

/-- LANE_DISABLE (R237). -/
def laneDisable (s : State) (j : Job) : State :=
  if !lanesOnly j then s.finish j.ring j.idx .badParam
  else
    let l := s.leads j.items
    let s := s.each l disableLane
    s.await j.ring j.idx ((l.filter fun n => s.laneState n != 0).map Wait.laneOff)

/-- Thermal shedding takes lead lane n (R238). -/
def shedLane (s : State) (n : Nat) : State :=
  let back := s.laneState n != 0 || s.on F.LANE_STAT_ENABLE_PENDING n
  let s := s.cancelEnable n .thermalInhibit
  let s := s.each (s.members n) fun s m =>
    let s := (s.w F.LANE_STAT_SHED m 1).squelch F.LANE_TX_STAT_SQ_SHED m true
    if back then s.w F.LANE_STAT_RESTORE_PENDING m 1 else s
  if s.laneState n == 0 || s.laneState n == 6 then s else s.toDrain n 7

/-- The shed of lead lane n is released (R238). -/
def unshedLane (s : State) (n : Nat) : State :=
  let s := s.each (s.members n) fun s m => (s.w F.LANE_STAT_SHED m 0).squelch F.LANE_TX_STAT_SQ_SHED m false
  s.restoreCheck n

/-- The drain of lead lane n is complete (R230, R235, R236). -/
def drainDone (s : State) (n : Nat) : State :=
  if s.laneState n != 6 || s.lead n != n then s
  else
    let s := (s.toOff n).marginsSettle
    let s := s.each (s.members n) capStopped
    let s := if s.on F.LANE_STAT_ENABLE_PENDING n then
        let s := s.each (s.members n) fun s m => s.w F.LANE_STAT_ENABLE_PENDING m 0
        match s.enableRefusal n with
        | some st => s.refuseUp n st
        | none => s.upStart n 1
      else s
    s.restoreCheck n

/-! ### LANE_CONFIG, R260 -/

/-- The magnitudes of a HSL_TX_FIR word sum to at most 64 (R259). -/
def firWordOk (v : Nat) : Bool :=
  decide ((sint 8 v).natAbs + (sint 8 (v / 256)).natAbs + (sint 8 (v / 65536)).natAbs + (sint 8 (v / 16777216)).natAbs ≤ 64)

/-- The parameter bytes keep R260. -/
def laneConfigOk (j : Job) : Bool :=
  let v := j.p 5 1
  j.pz 16 16 &&
    (match j.p 4 1 with
     | 0 => j.spanOk 192 && v < 8 && j.pz 9 7 && (!bitAt v 0 || [0, 2, 3].contains (j.p 6 1)) &&
         (!bitAt v 1 || 1 ≤ j.p 7 1) && (!bitAt v 2 || (1 ≤ j.p 8 1 && j.p 8 1 ≤ 15))
     | 1 => j.spanOk 384 && v < 16 && j.p 6 1 < 16 && j.pz 10 2 && (!bitAt v 1 || j.p 7 1 ≤ 2) &&
         (!bitAt v 2 || (j.p 8 1 ≤ 2 && j.p 9 1 ≤ 2)) && (!bitAt v 3 || firWordOk (j.p 12 4))
     | 2 => j.spanOk 24 && v < 2 && j.p 6 1 < 2 && j.pz 7 9
     | _ => false)

/-- Host lane m has no owner, or its owner is OFF. -/
def ownerOff (s : State) (m : Nat) : Bool := !s.on F.HSL_STAT_ROLE m || s.laneState (s.r F.HSL_STAT_OWNER m) == 0

/-- The state rules of R260. -/
def laneConfigAllowed (s : State) (j : Job) : Bool :=
  match j.p 4 1 with
  | 0 => !bitAt (j.p 5 1) 0 || j.items.all fun n => s.laneState n == 0 && !s.fused n
  | 1 => !(bitAt (j.p 5 1) 0 || bitAt (j.p 5 1) 2) || j.items.all s.ownerOff
  | _ => true

/-- The gearbox of the lane that owns host lane m follows it. -/
def gbxOf (s : State) (m : Nat) (quiet : Bool) : State :=
  if s.on F.HSL_STAT_ROLE m then s.gbxSettle (s.r F.HSL_STAT_OWNER m) m quiet else s

/-- The valid host lanes of lane n. -/
def mapped (s : State) (n : Nat) : List Nat :=
  (if s.on F.XBAR_MAP_A_VALID n then [s.r F.XBAR_MAP_A n] else []) ++
    (if s.on F.XBAR_MAP_B_VALID n then [s.r F.XBAR_MAP_B n] else [])

/-- Host lane m's ALIGNED under a new mode or owner, whose lane is OFF and hunts nothing: in L100 it is CDR_LOCK
(R245). -/
def alignShow (s : State) (m : Nat) : State :=
  s.wb F.HSL_STAT_ALIGNED m (s.bitForBit m && s.on F.HSL_STAT_CDR_LOCK m)

/-- Lane n takes a new mode while OFF (R241); a batt armed on it ends (R312). -/
def setMode (s : State) (n v : Nat) : State :=
  let old := s.r F.LANE_CFG_MODE n
  let s := (s.w F.LANE_CFG_MODE n v).w F.LANE_STAT_MODE n v
  let s := s.hostsDown n
  if old = v then s else (s.each (s.mapped n) fun s m => (s.alignShow m).gbxSettle n m true).capModeChanged n

/-- The power and the checker of host lane m follow its PRBS settings (R252, R253). -/
def prbsSettle (s : State) (m : Nat) : State :=
  let s := (s.w F.HSL_STAT_PRBS_LOCK m 0).setHost m { s.hosth m with run := 0, seen := 0, errs := 0 }
  (s.hostSettle m).gbxOf m true

/-- LANE_CONFIG on one lane, host lane or slot. -/
def laneConfigItem (s : State) (j : Job) (n : Nat) : State :=
  let v := j.p 5 1
  match j.p 4 1 with
  | 0 =>
    let s := if bitAt v 0 then s.setMode n (j.p 6 1) else s
    let ms := s.members n
    let s := if bitAt v 1 then s.each ms fun s m => s.w F.LANE_CFG_GRACE m (j.p 7 1) else s
    if bitAt v 2 then s.each ms fun s m => s.w F.LANE_CFG_ACQ_RETRY m (j.p 8 1) else s
  | 1 =>
    let b := j.p 6 1
    let s := if bitAt v 0 then
        ((((s.w F.HSL_CFG_TX_INVERT n (b % 2)).w F.HSL_CFG_RX_INVERT n (b / 2)).w F.HSL_CFG_TX_PRECODE n (b / 4)).w
          F.HSL_CFG_RX_PRECODE n (b / 8))
      else s
    let s := if bitAt v 1 then s.w F.HSL_CFG_FILL n (j.p 7 1) else s
    let s := if bitAt v 3 then s.loadWord F.HSL_TX_FIR_MAIN.base n 0 (j.p 12 4) else s
    if bitAt v 2 then ((s.w F.HSL_CFG_PRBS_GEN n (j.p 8 1)).w F.HSL_CFG_PRBS_CHK n (j.p 9 1)).prbsSettle n else s
  | _ =>
    if bitAt v 0 then s.w F.SLOT_EN_CFG_EN 0 (setBits (s.r F.SLOT_EN_CFG_EN) n 1 (j.p 6 1)) else s

/-- LANE_CONFIG (R260). -/
def laneConfig (s : State) (j : Job) : State :=
  if !laneConfigOk j then s.finish j.ring j.idx .badParam
  else if !s.laneConfigAllowed j then s.finish j.ring j.idx .notAllowed
  else (s.each j.items fun s n => s.laneConfigItem j n).finish j.ring j.idx .ok

/-- The level of SLOT_EN[k] (R254). -/
def slotEnPin (s : State) (k : Nat) : Bool := s.serviced && bitAt (s.r F.SLOT_EN_CFG_EN) k

/-! ### LANE_LOOPBACK, LANE_MAP, LANE_PAIR, R262-R264 -/

/-- LANE_LOOPBACK (R262). -/
def laneLoopback (s : State) (j : Job) : State :=
  let ty := j.p 4 1
  if !(j.spanOk 192 && ty ≤ 4 && j.pz 5 27) || (ty == 3 && j.items.any s.fused) then s.finish j.ring j.idx .badParam
  else if j.items.any fun n => s.laneState n != 0 then s.finish j.ring j.idx .notAllowed
  else
    let ms := j.items.flatMap s.members
    (s.each ms fun s m => s.w F.LANE_CFG_LOOPBACK m ty).finish j.ring j.idx .ok

/-- The e-th entry of LANE_MAP: lane, A and B. -/
def mapEntry (j : Job) (e : Nat) : Nat × Nat × Nat := (j.p (4 + 6 * e) 2, j.p (6 + 6 * e) 2, j.p (8 + 6 * e) 2)

/-- The entries of LANE_MAP. -/
def mapEntries (j : Job) : List (Nat × Nat × Nat) := (List.range (j.p 0 1)).map (mapEntry j)

/-- The parameter bytes keep R263. -/
def laneMapOk (j : Job) : Bool :=
  1 ≤ j.p 0 1 && j.p 0 1 ≤ 4 && j.pz 1 3 && j.pz (4 + 6 * j.p 0 1) (28 - 6 * j.p 0 1) &&
    (mapEntries j).all fun e => e.1 < 192 && (e.2.1 < 384 || e.2.1 == 0xFFFF) && (e.2.2 < 384 || e.2.2 == 0xFFFF)

/-- A host lane of an entry is taken from a lane that is not OFF. -/
def takesFromUp (s : State) (n m : Nat) : Bool :=
  m != 0xFFFF && s.on F.HSL_STAT_ROLE m && s.r F.HSL_STAT_OWNER m != n && s.laneState (s.r F.HSL_STAT_OWNER m) != 0

/-- The map with one entry applied. -/
def mapSet (s : State) (e : Nat × Nat × Nat) : State :=
  let put (s : State) (f v : Fld) (m : Nat) : State :=
    if m = 0xFFFF then s.w v e.1 0 else (s.w v e.1 1).w f e.1 m
  put (put s F.XBAR_MAP_A F.XBAR_MAP_A_VALID e.2.1) F.XBAR_MAP_B F.XBAR_MAP_B_VALID e.2.2

/-- The map is one-to-one and keeps each lane on its die (R242, R263). -/
def mapLegal (s : State) : Bool :=
  ((List.range nLanes).all fun n => (s.mapped n).all fun m => m / 192 == n / 96) &&
    decide (((List.range nLanes).flatMap s.mapped).Nodup)

/-- OWNER and ROLE of host lane m follow the map; a lane that loses its owner goes quiet (R242, R259). -/
def ownerSettle (s : State) (m : Nat) : State :=
  let s := match (List.range nLanes).find? fun n => (s.mapped n).contains m with
    | some n =>
      let a := s.on F.XBAR_MAP_A_VALID n && s.r F.XBAR_MAP_A n == m
      (s.w F.HSL_STAT_OWNER m n).w F.HSL_STAT_ROLE m (if a then 1 else 2)
    | none => s.w F.HSL_STAT_ROLE m 0
  (s.alignShow m).hostSettle m

/-- Owners and gearboxes of the lanes and host lanes that a map change touched; events of a host lane follow its owner's
route (R287). -/
def mapSettle (s : State) (lanes hosts : List Nat) : State :=
  let s := s.markDelayed.each hosts ownerSettle
  (s.each lanes fun s n => s.gbxSettle n (s.r F.XBAR_MAP_A n) true).rerouted

/-- LANE_MAP (R263). -/
def laneMap (s : State) (j : Job) : State :=
  let es := mapEntries j
  if !laneMapOk j then s.finish j.ring j.idx .badParam
  else if es.any fun e => s.laneState e.1 != 0 || s.takesFromUp e.1 e.2.1 || s.takesFromUp e.1 e.2.2 then
    s.finish j.ring j.idx .notAllowed
  else
    let t := s.each es mapSet
    if !t.mapLegal then s.finish j.ring j.idx .badParam
    else
      let lanes := es.map (·.1)
      (t.mapSettle lanes (lanes.flatMap s.mapped ++ lanes.flatMap t.mapped)).finish j.ring j.idx .ok

/-- The receive registers of the odd lane of a pair, which read their reset values (R112, R178, R202). -/
def oddFields : List Fld :=
  [F.LANE_ADC_CLIP_COUNT, F.LANE_ADC_WIN_LAST_CLIPS, F.LANE_ADC_WIN_RMS, F.LANE_ADC_PEAK_PEAK_POS,
    F.LANE_ADC_PEAK_PEAK_NEG, F.LANE_EQ_STAT_ACQ_FAIL, F.LANE_EQ_STAT_WARM, F.LANE_EQ_STAT_T2, F.LANE_EQ_STAT_FRZ_LOL,
    F.LANE_EQ_STAT_DET_MLSE, F.LANE_EQ_STAT_LOCKED, F.LANE_EQ_STAT_ACQ_STEP, F.LANE_EQ_SNR_SNR_AVG, F.LANE_EQ_SNR_SNR,
    F.LANE_TR_STAT_FREQ, F.LANE_TR_STAT_PHASE, F.LANE_TR_STAT_FREQ_LIMIT, F.LANE_EQ_LVL_L0, F.LANE_EQ_LVL_L1,
    F.LANE_EQ_LVL_L2, F.LANE_EQ_LVL_L3, F.LANE_EQ_H1_LIMIT, F.LANE_EQ_H1_H1, F.LANE_EQ_LOL_COUNT, F.LANE_EQ_ACQ_COUNT,
    F.LANE_EQ_ACQ_TIME_TIME, F.LANE_EQ_EVT_TAP_LIMIT, F.LANE_EQ_EVT_FREQ_LIMIT, F.LANE_EQ_EVT_ACQ_FAIL,
    F.LANE_EQ_EVT_LOCK_LOST, F.LANE_EQ_EVT_LOCKED, F.LANE_EQ_STEPS_COUNT, F.LANE_FEC_STAT_SOFT_EN,
    F.LANE_FEC_STAT_OUTER_MODE, F.LANE_FEC_STAT_OUTER_LOCKED, F.LANE_FEC_STAT_INNER_LOCKED, F.LANE_FEC_STAT_INNER_ON,
    F.LANE_FEC_CW_COUNT, F.LANE_FEC_CLEAN_COUNT, F.LANE_FEC_FULL_COUNT, F.LANE_FEC_REDUCED_COUNT, F.LANE_FEC_HARD_COUNT,
    F.LANE_FEC_UNCORR_COUNT, F.LANE_FEC_BITS_COUNT, F.LANE_FEC_RS_CW_COUNT, F.LANE_FEC_RS_SYM_COUNT,
    F.LANE_FEC_RS_UNCORR_COUNT, F.LANE_FEC_RESERVED_COUNT, F.LANE_FEC_LOL_OUTER, F.LANE_FEC_LOL_INNER,
    F.LANE_FEC_EVT_RS_UNCORR, F.LANE_FEC_EVT_OUTER_LOL, F.LANE_FEC_EVT_INNER_LOL]

/-- The receive side of lane m becomes that of an odd lane: its status reads as after RESET. -/
def rxBlank (s : State) (m : Nat) : State :=
  let s := s.each oddFields fun s f => s.w f m f.rst
  let s := s.each (List.range 48) fun s i => (s.w F.LANE_EQ_FFE_COEF (48 * m + i) 0).w F.LANE_EQ_FFE_LIMIT (48 * m + i) 0
  let s := s.each (List.range 17) fun s b => s.w F.LANE_FEC_RS_HIST_COUNT (17 * m + b) 0
  (s.setEq m {}).setFec m {}

/-- The pair n, n + 1 is formed (R241). -/
def pairForm (s : State) (n : Nat) : State :=
  if s.fused n then s
  else
    let s := (s.w F.LANE_FE_STAT_FUSED_ROLE n 1).w F.LANE_FE_STAT_FUSED_ROLE (n + 1) 2
    let s := s.rxBlank (n + 1)
    ((s.setMode n 1).setMode (n + 1) 1).capModeChanged (n + 1)

/-- The pair n, n + 1 is broken (R241): both lanes are L400, and the odd lane's stored FEC settings apply (R255). -/
def pairBreak (s : State) (n : Nat) : State :=
  if !s.fused n then s
  else
    let s := (s.w F.LANE_FE_STAT_FUSED_ROLE n 0).w F.LANE_FE_STAT_FUSED_ROLE (n + 1) 0
    let s := (s.w F.LANE_FEC_STAT_SOFT_EN (n + 1) (s.r F.LANE_FEC_CFG_SOFT_EN (n + 1))).w
      F.LANE_FEC_STAT_OUTER_MODE (n + 1) (s.r F.LANE_FEC_CFG_OUTER_MODE (n + 1))
    (s.setMode n 0).setMode (n + 1) 0

/-- The parameter bytes keep R264. -/
def lanePairOk (s : State) (j : Job) : Bool :=
  j.spanOk 192 && j.p 0 2 % 2 == 0 && j.p 2 2 % 2 == 0 && j.p 4 1 ≤ 1 && j.pz 5 27 &&
    (j.p 4 1 == 0 || j.items.all fun n => s.r F.LANE_CFG_LOOPBACK n != 3)

/-- LANE_PAIR (R264). -/
def lanePair (s : State) (j : Job) : State :=
  if !s.lanePairOk j then s.finish j.ring j.idx .badParam
  else if j.items.any fun n => s.laneState n != 0 then s.finish j.ring j.idx .notAllowed
  else
    let s := s.each (j.items.filter (· % 2 == 0)) fun s n => if j.p 4 1 = 1 then s.pairForm n else s.pairBreak n
    s.finish j.ring j.idx .ok

/-! ### Payload and holdover, R230, R232 -/

/-- Payload starts or resumes at lane n (R230, R232); host loopback sends the looped data in its place (R249). -/
def payloadStart (s : State) (n : Nat) : State :=
  if s.tracking n && !s.on F.LANE_STAT_HOLDOVER n && !s.on F.LANE_STAT_PAYLOAD n && s.payloadLocked n then
    let h := s.laneh n
    let s := s.setLaneh n { h with resume := none, nextB := false }
    let s := if s.r F.LANE_STAT_LOOPBACK n = 1 then s else s.w F.LANE_STAT_PAYLOAD n 1
    match h.resume with
    | some t => s.post n 0x1003 [(4, min ((s.now - t) / 1000) (2 ^ 32 - 1))]
    | none => s
  else s

/-- The grace of lane n's holdover has gone (R232). -/
def graceExpiry (s : State) (n : Nat) : State :=
  if s.tracking n && s.on F.LANE_STAT_HOLDOVER n then s.toAcquire n 5 (s.warmOk n) false else s

/-! ### Host receivers, R245, R252, R253 -/

/-- Host lane m hunts for alignment: its owner uses it in L400, L400F or L200 and its receiver is locked (R245). -/
def alignHunts (s : State) (m : Nat) : Bool :=
  s.hostPowered m && s.hostOwned m && s.on F.HSL_STAT_CDR_LOCK m && s.laneMode (s.r F.HSL_STAT_OWNER m) != 3

/-- One codeword checked at host lane m's candidate; `start` is its start in host symbols (R245). -/
def alignTest (s : State) (m : Nat) (good : Bool) (start : Int) : State :=
  let h := s.hosth m
  if !s.alignHunts m then s
  else if s.on F.HSL_STAT_ALIGNED m then
    if good then (s.setHost m { h with fail := 0, start := start }).gbxOf m false
    else if h.fail + 1 ≥ 16 then s.alignRestart m
    else s.setHost m { h with fail := h.fail + 1 }
  else if !good then s.setHost m { h with cand := (h.cand + 1) % 2720, pass := 0 }
  else if h.pass + 1 ≥ 3 then
    ((s.setHost m { h with pass := 0, fail := 0, last := h.cand, start := start }).w F.HSL_STAT_ALIGNED m 1).gbxOf m false
  else s.setHost m { h with pass := h.pass + 1 }

/-- Host lane m's receiver gains CDR lock (R252). -/
def cdrLock (s : State) (m : Nat) : State :=
  if s.hostPowered m && !s.on F.HSL_STAT_CDR_LOCK m then
    let s := (s.w F.HSL_STAT_RX_SIG m 1).w F.HSL_STAT_CDR_LOCK m 1
    if s.bitForBit m then (s.w F.HSL_STAT_ALIGNED m 1).gbxOf m false else s
  else s

/-- Host lane m's receiver loses CDR lock (R252); `sig` says whether a signal is still there. While it has none, only
the signal has come or gone (R259; DESIGN CHOICE, log 89). -/
def cdrLost (s : State) (m : Nat) (sig : Bool) : State :=
  if s.hostPowered m && s.on F.HSL_STAT_CDR_LOCK m then
    let was := s.on F.HSL_STAT_ALIGNED m
    let s := ((s.w F.HSL_STAT_CDR_LOCK m 0).wb F.HSL_STAT_RX_SIG m sig).w F.HSL_STAT_ALIGNED m 0
    let h := s.hosth m
    let s := (s.w F.HSL_STAT_PRBS_LOCK m 0).setHost m { h with cand := h.last, pass := 0, fail := 0, run := 0 }
    let s := if s.ownerActive m then
        let s := if was then s.w F.HSL_EVT_ALIGN_LOST m 1 else s
        (s.w F.HSL_EVT_CDR_LOST m 1).post (192 + m) 0x1504
      else s
    s.gbxOf m false
  else if s.hostPowered m then s.wb F.HSL_STAT_RX_SIG m sig
  else s

/-- One symbol at the PRBS checker of host lane m: lock after 64 good symbols in a row, loss at 64 errors among 1,024
(R253). -/
def prbsSymbol (m : Nat) (s : State) (err : Bool) : State :=
  let h := s.hosth m
  if s.on F.HSL_STAT_PRBS_LOCK m then
    let s := if err then s.inc F.HSL_PRBS_ERR_COUNT m else s
    let e := h.errs + err.toNat
    if e ≥ 64 then (s.w F.HSL_STAT_PRBS_LOCK m 0).setHost m { h with run := 0, seen := 0, errs := 0 }
    else if h.seen + 1 = 1024 then s.setHost m { h with seen := 0, errs := 0 }
    else s.setHost m { h with seen := h.seen + 1, errs := e }
  else if err then s.setHost m { h with run := 0 }
  else if h.run + 1 ≥ 64 then (s.w F.HSL_STAT_PRBS_LOCK m 1).setHost m { h with run := 0, seen := 0, errs := 0 }
  else s.setHost m { h with run := h.run + 1 }

/-- Symbols compared at host lane m. -/
def prbsCheck (s : State) (m : Nat) (errs : List Bool) : State :=
  if s.hostPowered m && s.on F.HSL_CFG_PRBS_CHK m && s.on F.HSL_STAT_CDR_LOCK m then errs.foldl (prbsSymbol m) s else s

/-- The loopback buffer of lane n slips: it drops a codeword, or repeats one (R250). -/
def loopSlip (s : State) (n : Nat) (again : Bool) : State :=
  if (s.r F.LANE_STAT_LOOPBACK n == 1 || s.lineLoop n) && s.laneState n != 0 && s.laneState n != 6 then
    ((s.loopBuffer n again).inc F.LANE_SLIP_COUNT n).post (islandSrc (gearboxIsland n)) 0x8003
  else s

end State

/-! ### The meanings -/

/-- LANE_CONFIG, R260. -/
def execLaneConfig (q : Fin 32768) (i : Fin 65536) (s : State) : Out := actJob 0x10 q i s fun j s => s.laneConfig j

/-- LANE_ENABLE, R236. -/
def execLaneEnable (q : Fin 32768) (i : Fin 65536) (s : State) : Out := actJob 0x11 q i s fun j s => s.laneEnable j

/-- LANE_DISABLE, R237. -/
def execLaneDisable (q : Fin 32768) (i : Fin 65536) (s : State) : Out := actJob 0x12 q i s fun j s => s.laneDisable j

/-- LANE_LOOPBACK, R262. -/
def execLaneLoopback (q : Fin 32768) (i : Fin 65536) (s : State) : Out :=
  actJob 0x13 q i s fun j s => s.laneLoopback j

/-- LANE_MAP, R263. -/
def execLaneMap (q : Fin 32768) (i : Fin 65536) (s : State) : Out := actJob 0x14 q i s fun j s => s.laneMap j

/-- LANE_PAIR, R264. -/
def execLanePair (q : Fin 32768) (i : Fin 65536) (s : State) : Out := actJob 0x15 q i s fun j s => s.lanePair j

/-- DRAIN_COMPLETE, R235. -/
def execDrainComplete (n : Fin 192) (s : State) : Out := whenLive s fun s => s.drainDone n

/-- PAYLOAD_START, R230, R232. -/
def execPayloadStart (n : Fin 192) (s : State) : Out := whenLive s fun s => s.payloadStart n

/-- HOLDOVER_GRACE_EXPIRY, R232. -/
def execHoldoverGraceExpiry (n : Fin 192) (s : State) : Out := whenLive s fun s => s.graceExpiry n

/-- HOST_ALIGN_TEST, R245. -/
def execHostAlignTest (m : Fin 384) (word : Levels) (start : Int) (s : State) : Out :=
  whenLive s fun s => s.alignTest m (rsDecode (symbolsOf 544 (s.hostBits m word))).isSome start

/-- CDR_LOCK, R252. -/
def execCdrLock (m : Fin 384) (s : State) : Out := whenLive s fun s => s.cdrLock m

/-- HOST_LINK_DOWN, R252. -/
def execHostLinkDown (m : Fin 384) (sig : Bool) (s : State) : Out := whenLive s fun s => s.cdrLost m sig

/-- PRBS_CHECK, R253. -/
def execPrbsCheck (m : Fin 384) (errs : List Bool) (s : State) : Out := whenLive s fun s => s.prbsCheck m errs

/-- LOOPBACK_SLIP, R250: the lane, and whether the buffer repeats or drops. -/
def execLoopbackSlip (x : Fin 192 × Bool) (s : State) : Out := whenLive s fun s => s.loopSlip x.1 x.2

end Sys2Proof.Machine
end

