-- ==== Sys2Proof/Machine/Hatband.lean ====
section
/-! DEFINITION. Hatband: visits, results, range control, triggers, scans, urgent requests, self-calibration and
excitation (spec/12_hatband.md R329-R364). -/

namespace Sys2Proof.Machine

open Sys2Proof

/-! ### A point's configuration word, R357 -/

/-- N = 2 ^ AVG, and SHIFT. -/
def ptN (cfg : Nat) : Nat := 2 ^ bits cfg 10 4
def ptShift (cfg : Nat) : Nat := bits cfg 14 4
/-- BO_MODE, AUTO, RATIO, EXC_USE, EXC, RANGE, AR_MIN and AR_MAX. -/
def ptBo (cfg : Nat) : Nat := bits cfg 23 2
def ptAuto (cfg : Nat) : Bool := bitAt cfg 3
def ptRatio (cfg : Nat) : Bool := bitAt cfg 18
def ptExcUse (cfg : Nat) : Bool := bitAt cfg 22
def ptExc (cfg : Nat) : Nat := bits cfg 19 3
def ptRange (cfg : Nat) : Nat := bits cfg 0 3
def ptMin (cfg : Nat) : Nat := bits cfg 4 3
def ptMax (cfg : Nat) : Nat := bits cfg 7 3

/-- The values of the word are valid (R357). -/
def ptOk (cfg : Nat) : Bool :=
  cfg < 2 ^ 26 && ptBo cfg != 3 && ptShift cfg ≤ 8 && bits cfg 10 4 ≤ 8 && (!ptRatio cfg || ptExcUse cfg) &&
    (!ptAuto cfg || (ptMin cfg ≤ ptRange cfg && ptRange cfg ≤ ptMax cfg))

/-- Converter c can measure point p (R329, R330). -/
def reaches (c p : Nat) : Bool := 64 ≤ p || p / 32 == c

/-- The source number of converter c (R364). -/
def convSrc (c : Nat) : Nat := 654 + c

/-- An entry of the result queue (R348). -/
def hbEntry (point range : Nat) (ovr settling nbr burn urgent : Bool) (conv seq : Nat) (result : Int) : Nat :=
  uint 32 result + seq % 4096 * 2 ^ 32 + conv * 2 ^ 44 + urgent.toNat * 2 ^ 46 + burn.toNat * 2 ^ 47 +
    nbr.toNat * 2 ^ 48 + settling.toNat * 2 ^ 49 + ovr.toNat * 2 ^ 50 + range * 2 ^ 51 + point * 2 ^ 54

namespace State

/-- Converter c beside its registers. -/
def convh (s : State) (c : Nat) : ConvH := s.hb.conv.get c {}
def setConv (s : State) (c : Nat) (h : ConvH) : State := { s with hb := { s.hb with conv := s.hb.conv.set c h {} } }

/-- The state of converter c: 0 STOPPED, 1 RUNNING, 2 STOPPING; the mode in force and the expansion bus holder. -/
def convState (s : State) (c : Nat) : Nat := s.r F.HB_CONV_STAT_STATE c
def hbMode (s : State) : Nat := s.r F.HB_STAT_MODE
def hbBus (s : State) : Nat := s.r F.HB_STAT_BUS

/-- The configuration word of point p. -/
def ptCfg (s : State) (p : Nat) : Nat := s.image F.HB_PT_CFG_RANGE.base p

/-- Step i of converter c's list. -/
def listPoint (s : State) (c i : Nat) : Nat :=
  if i % 2 = 0 then s.r F.HB_SCAN_LIST_STEP_LO (128 * c + i / 2) else s.r F.HB_SCAN_LIST_STEP_HI (128 * c + i / 2)

/-- The points of converter c's list. -/
def listPoints (s : State) (c : Nat) : List Nat := (List.range (s.r F.HB_SCAN_CFG_LEN c)).map (s.listPoint c)

/-- SETTLE of point p becomes at least `n` (R340). -/
def settle (s : State) (p n : Nat) : State := s.w F.HB_PT_STAT_SETTLE p (max (s.r F.HB_PT_STAT_SETTLE p) n)

/-- Excitation k is in range (R344). -/
def excOk (s : State) (k : Nat) : Bool := bitAt (s.r F.HB_EXC_STAT_IN_RANGE) k

/-! ### The queue, R348-R350 -/

/-- The converter whose queue and numbers converter c uses (R347). -/
def queueOf (s : State) (c : Nat) : Nat := if s.hbMode = 2 then 0 else c

/-- An entry is queued, or lost to a full queue (R348, R349). -/
def enqueue (s : State) (c e : Nat) : State :=
  let h := s.convh c
  let seq := h.seq
  let h := { h with seq := (seq + 1) % 4096 }
  if h.queue.length < 2048 then s.setConv c { h with queue := h.queue ++ [e] }
  else
    let s := ((s.setConv c { h with full := true }).inc F.HB_Q_OVERRUN_COUNT c).w F.HB_EVT_QUEUE_FULL 0 1
    if h.full then s else s.post (convSrc c) 0x5001 [(2, seq)]

/-- The oldest entry of queue c leaves it; an empty queue gives the mark of R350. -/
def dequeue (s : State) (c : Nat) : Nat × State :=
  let h := s.convh c
  match h.queue with
  | [] => (0xFFFFFFFF00000000, s)
  | e :: es => (e, s.setConv c { h with queue := es, full := h.full && decide (1024 < es.length) })

/-! ### Visits, R331, R338-R341 -/

/-- A burn-out check is due on a visit (R339). -/
def checkDue (s : State) (c cfg : Nat) (urgent : Bool) : Bool :=
  ptBo cfg == 2 && (urgent || (s.convh c).cycleNo % max 1 (s.r F.HB_SCAN_CFG_BO_EVERY c) == 0)

/-- A visit of point p begins on converter c (R331). In INTERLEAVED mode converter 1 joins converter 0's input, with the
bus that converter 0 has (R347); the discharge owed after a clipped conversion is due on another point (R338). -/
def visitStart (s : State) (c p : Nat) (u : Option Urgent) : State :=
  let h := s.convh c
  let cfg := s.ptCfg p
  let change := h.prev != some p
  let joins := s.hbMode == 2 && c == 1 && u.isNone
  let v : Visit := { point := p, cfg := cfg, range := s.r F.HB_PT_STAT_RANGE p, urgent := u,
                     waitBus := decide (64 ≤ p) && !joins, discard := change, check := s.checkDue c cfg u.isSome,
                     nbr := change && h.nbrDue && h.nbrPoint != p }
  (s.setConv c { h with visit := some v }).wb F.HB_CONV_STAT_URGENT c u.isSome

/-- The excitation step of a self-calibration begins, or is skipped while its output is out of range (R355). -/
def calNext (s : State) (c : Nat) (k : SelfCal) : Nat → SelfCal × State
  | 0 => (k, s)
  | fuel + 1 =>
    if 16 ≤ k.step && k.step < 24 && !s.excOk (k.step - 16) then
      let b := k.step - 16
      let s := s.w F.HB_CAL_STAT_STALE c (setBits (s.r F.HB_CAL_STAT_STALE c) b 1 1)
      calNext s c { k with step := k.step + 1, attempt := 1, skipped := k.skipped + 2 ^ b } fuel
    else (k, s)

/-- The results of a run of self-calibration in RESULT0 and RESULT1 (R362). -/
def calR0 (c : Nat) (k : SelfCal) : Nat := k.skipped * 2 ^ (8 * c)
def calR1 (c : Nat) (k : SelfCal) : Nat := k.kept * 2 ^ (24 * c)

/-- A job that waits for converter c's run takes its results. -/
def Job.addCal (c : Nat) (k : SelfCal) (j : Job) : Job :=
  if j.phase == JobPhase.running && j.waits.contains (Wait.selfcal c) then
    { j with r0 := j.r0 + calR0 c k, r1 := j.r1 + calR1 c k }
  else j

/-- The self-calibration of converter c ends (R354, R362). -/
def calDone (s : State) (c : Nat) (k : SelfCal) : State :=
  let s := s.setConv c { s.convh c with cal := none, prev := none }
  let s := (s.w F.HB_CONV_STAT_SELFCAL c 0).w F.HB_CAL_TIME_TIME c s.sysTime
  let s := { s with jobs := s.jobs.map (Job.addCal c k) }
  let s := s.post (convSrc c) 0x5004 [(8, calR0 c k), (8, calR1 c k)]
  s.resolve (.selfcal c) (if k.kept = 0 then .ok else .calRejected)

/-- An urgent visit of converter c is under way or waits. -/
def urgentNow (s : State) (c : Nat) : Bool :=
  !(s.convh c).urgents.isEmpty || (s.convh c).visit.any fun v => v.urgent.isSome

/-- What converter c does next when it has nothing in hand: a self-calibration step, an urgent visit, a scan visit, in
that rank (R43). A cycle of INTERLEAVED mode needs both converters (R353). -/
def convNext (s : State) (c : Nat) : State :=
  let h := s.convh c
  if h.visit.isSome || s.convState c == 2 then s
  else
    match h.urgents with
    | u :: us =>
      if (h.cal.any fun k => k.runs) then s
      else (s.setConv c { h with urgents := us }).visitStart c u.point (some u)
    | [] =>
      match h.cal with
      | some k =>
        if k.runs then s
        else
          let x := s.calNext c k 8
          if 24 ≤ x.1.step then x.2.calDone c x.1 else x.2.setConv c { h with cal := some { x.1 with runs := true } }
      | none =>
        if s.hbMode == 2 && s.urgentNow (1 - c) then s
        else if s.hbMode == 2 && c == 1 then
          if 0 < h.more then (s.setConv 1 { h with more := h.more - 1 }).visitStart 1 (s.listPoint 0 0) none else s
        else if h.cycle && !h.stepDone && s.convState c == 1 then
          s.visitStart c (s.listPoint c (s.r F.HB_CONV_STAT_STEP c)) none
        else s

/-- The scan cycle of converter c goes to its next step, or ends. -/
def stepNext (s : State) (c : Nat) : State :=
  let h := s.convh c
  let i := s.r F.HB_CONV_STAT_STEP c + 1
  if s.r F.HB_SCAN_CFG_LEN c ≤ i || s.hbMode = 2 then
    (s.setConv c { h with cycle := false, stepDone := false, cycleNo := h.cycleNo + 1 }).w F.HB_CONV_STAT_STEP c 0
  else (s.setConv c { h with stepDone := false }).w F.HB_CONV_STAT_STEP c i

/-- A scan visit of converter c has ended: in SIMULTANEOUS mode a step ends on both converters together (R347); a
converter that stops goes no further (R351). -/
def scanAdvance (s : State) (c : Nat) : State :=
  if s.convState c = 2 then s
  else if s.hbMode = 1 then
    let s := s.setConv c { s.convh c with stepDone := true }
    if (s.convh 0).stepDone && (s.convh 1).stepDone then (((s.stepNext 0).stepNext 1).convNext 0).convNext 1
    else s.convNext c
  else if s.hbMode = 2 && c = 1 then s.convNext 1
  else (s.stepNext c).convNext c

/-! ### Results, R334-R339 -/

/-- The exact converted value of R334 as a fraction. -/
def hbValue (s : State) (c range : Nat) (cfg : Nat) (raw : Int) : Int × Nat :=
  let v := (4 * raw - s.ri F.HB_CAL_OFS_FACTOR (8 * c + range)) * (1048576 + s.ri F.HB_CAL_GAIN_FACTOR (8 * c + range))
  if ptRatio cfg then (v * (1048576 + s.ri F.HB_CAL_RGAIN_FACTOR (8 * c + ptExc cfg)), 4 * 1048576 * 1048576)
  else (v, 4 * 1048576)

/-- The code of a kept conversion, whether it clipped, and whether it clipped positive (R334). -/
def hbCode (s : State) (c range cfg : Nat) (raw : Int) : Int × Bool × Bool :=
  let x := s.hbValue c range cfg raw
  let code := roundDiv x.1 x.2
  let pos := decide (code > 524287 ∨ raw ≥ 524287)
  let neg := decide (code < -524288 ∨ raw ≤ -524288)
  (clampI (-524288) 524287 code, pos || neg, pos)

/-- Autorange after a result (R337). -/
def autorange (s : State) (p : Nat) (v : Visit) : State :=
  if !ptAuto v.cfg || v.burn || v.hold then s
  else
    let n := ptN v.cfg
    let r := s.r F.HB_PT_STAT_RANGE p
    let up := s.r F.HB_PT_STAT_UP p
    let changed (s : State) (r : Nat) : State :=
      (((s.w F.HB_PT_STAT_RANGE p r).w F.HB_PT_STAT_HOLD p 16).w F.HB_PT_STAT_UP p 0).settle p 2
    if v.ovr || decide (9 * n * 524288 < v.sum.natAbs * 10) then
      let s := s.w F.HB_PT_STAT_UP p 0
      if ptMin v.cfg < r then changed s (max (r - (if v.ovr then 3 else 1)) (ptMin v.cfg)) else s
    else if v.sum.natAbs * 5 < n * 524288 then
      let u := min (up + 1) 8
      let s := s.w F.HB_PT_STAT_UP p u
      if u = 8 && r < ptMax v.cfg then changed s (r + 1) else s
    else s.w F.HB_PT_STAT_UP p 0

/-- What a new configuration word does to point p's range, hold and settling (R337, R340). -/
def ptEffects (s : State) (p old new : Nat) : State :=
  let s := if old / 1024 % 256 != new / 1024 % 256 then s.settle p (ptN new) else s
  if ptAuto new && ptAuto old && ptRange old == ptRange new then s
  else
    let moved := s.r F.HB_PT_STAT_RANGE p != ptRange new
    let s := s.w F.HB_PT_STAT_RANGE p (ptRange new)
    let s := if ptAuto new then (s.w F.HB_PT_STAT_HOLD p 0).w F.HB_PT_STAT_UP p 0 else s
    if moved || (ptAuto new && ptRange old != ptRange new) then s.settle p 2 else s

/-- The result of a visit as an integer (R336, R339). -/
def visitSum (v : Visit) (open_ : Bool) : Int := if open_ then ptN v.cfg * 524287 else v.sum

/-- A visit of converter c ends with its result; `open_` says that its burn-out check found an open input. -/
def visitEnd (s : State) (c : Nat) (v : Visit) (open_ : Bool) : State :=
  let p := v.point
  let v := { v with ovr := v.ovr || open_, burn := v.burn || open_, settling := v.settling || (ptExcUse v.cfg && !s.excOk (ptExc v.cfg)) }
  let q := s.queueOf c
  let e := hbEntry p v.range v.ovr v.settling v.nbr v.burn v.urgent.isSome c (s.convh q).seq
    (visitSum v open_ / (2 ^ ptShift v.cfg : Nat))
  let s := s.setConv c { s.convh c with visit := none, prev := some p, nbrDue := v.ovr, nbrPoint := p }
  let s := (s.w F.HB_LAST_ENTRY c e).w F.HB_CONV_STAT_URGENT c 0
  let s := (s.wb F.HB_PT_STAT_LAST_BURNOUT p v.burn).wb F.HB_PT_STAT_LAST_OVR p v.ovr
  let s := if v.burn then
      ((s.inc F.HB_BURNOUT_COUNT c).w F.HB_EVT_BURNOUT 0 1).post (convSrc c) 0x5005 [(2, p)]
    else s
  let s := s.autorange p v
  let s := match v.late with | some old => s.ptEffects p old (s.ptCfg p) | none => s
  let s := if s.hbBus = c + 1 then s.w F.HB_STAT_BUS 0 0 else s
  match v.urgent with
  | some u =>
    let s := if u.noQueue then s else s.enqueue q e
    let s := if u.lost then s else s.finish u.ring u.idx .ok e
    if s.hbMode = 2 then (s.convNext c).convNext (1 - c) else s.convNext c
  | none =>
    let hide := v.settling && s.on F.HB_SCAN_CFG_SUPPRESS c && s.hbMode != 1
    (if hide then s else s.enqueue q e).scanAdvance c

/-- What is in hand on converter c is given up: a scan visit is discarded, an urgent one waits again (R351, R353). The
discharge owed stays so, and a conversion that clipped owes it too (R338). -/
def dropVisit (s : State) (c : Nat) : State :=
  let h := s.convh c
  match h.visit with
  | none => s
  | some v =>
    let us := match v.urgent with | some u => u :: h.urgents | none => h.urgents
    let s := s.setConv c { h with visit := none, prev := none, urgents := us, nbrDue := h.nbrDue || v.ovr,
                                  nbrPoint := if v.ovr then v.point else h.nbrPoint }
    let s := s.w F.HB_CONV_STAT_URGENT c 0
    let s := match v.late with | some old => s.ptEffects v.point old (s.ptCfg v.point) | none => s
    if s.hbBus = c + 1 then s.w F.HB_STAT_BUS 0 0 else s

/-- Converter c's visit makes no conversion yet: it waits for the bus, or for that of the converter whose input it joins
(R332, R347). -/
def busWaits (s : State) (c : Nat) (v : Visit) : Bool :=
  v.waitBus || (s.hbMode == 2 && c == 1 && v.urgent.isNone && (s.convh 0).visit.any fun x => x.waitBus)

/-- One conversion of converter c ends (R331): the discarded one, the check, or a kept one. -/
def convEnds (s : State) (c : Nat) (raw : Int) : State :=
  match (s.convh c).visit with
  | none => s
  | some v =>
    let put (s : State) (v : Visit) : State := s.setConv c { s.convh c with visit := some v }
    if s.busWaits c v then s
    else if v.discard then put s { v with discard := false }
    else
      let x := s.hbCode c v.range v.cfg raw
      if v.check then
        if x.2.2 then s.visitEnd c v true else put s { v with check := false }
      else
        let p := v.point
        let out := ptExcUse v.cfg && !s.excOk (ptExc v.cfg)
        let v' := { v with kept := v.kept + 1, sum := v.sum + x.1, ovr := v.ovr || x.2.1,
                           burn := v.burn || (ptBo v.cfg == 1 && x.2.2),
                           settling := v.settling || s.on F.HB_PT_STAT_SETTLE p || out,
                           hold := if v.kept = 0 then s.on F.HB_PT_STAT_HOLD p else v.hold }
        let s := s.w F.HB_PT_STAT_SETTLE p (s.r F.HB_PT_STAT_SETTLE p - 1)
        let s := s.w F.HB_PT_STAT_HOLD p (s.r F.HB_PT_STAT_HOLD p - 1)
        if ptN v.cfg ≤ v'.kept then s.visitEnd c v' false else put s v'

/-- A conversion of converter c ends; on a STOPPING converter what is then left of the visit, a partial window, is
discarded (R351). -/
def hbConversion (s : State) (c : Nat) (raw : Int) : State :=
  let t := s.convEnds c raw
  if s.convState c = 2 && (s.convh c).visit.all (fun v => !s.busWaits c v) then t.dropVisit c else t

/-- The expansion bus is granted to the converter that R41 chooses among those that wait (R332). -/
def busGrant (s : State) : State :=
  let waits (c : Nat) : Bool := (s.convh c).visit.any fun v => v.waitBus
  let order := if s.hb.busPtr % 2 = 0 then [0, 1] else [1, 0]
  if s.hbBus != 0 then s
  else match order.find? waits with
    | none => s
    | some c =>
      match (s.convh c).visit with
      | none => s
      | some v =>
        let s := (s.setConv c { s.convh c with visit := some { v with waitBus := false } }).w F.HB_STAT_BUS 0 (c + 1)
        let hb := { s.hb with busPtr := c + 1 }
        { s with hb := if v.discard then { hb with mxEn := true, mxAddr := v.point - 64 } else hb }

/-! ### Triggers, R345, R346 -/

/-- A trigger of converter c is missed. -/
def trigMiss (s : State) (c : Nat) : State :=
  ((s.inc F.HB_TRIG_MISS_COUNT c).w F.HB_EVT_TRIG_MISS 0 1).post (convSrc c) 0x5002 [(1, s.r F.HB_CONV_STAT_STEP c)]

/-- A scan cycle of converter c begins. -/
def cycleStart (s : State) (c : Nat) : State :=
  ((s.setConv c { s.convh c with cycle := true, stepDone := false }).w F.HB_CONV_STAT_STEP c 0)

/-- Converter c, or one that runs with it, has a cycle or a self-calibration under way. -/
def cycleBusy (s : State) (c : Nat) : Bool :=
  let busy (c : Nat) : Bool := (s.convh c).cycle || (s.convh c).cal.isSome
  busy c || (s.hbMode == 1 && (busy 0 || busy 1))

/-- A trigger of converter c occurs. -/
def hbTrigger (s : State) (c : Nat) : State :=
  if s.convState c != 1 || (s.hbMode != 0 && (c == 1 || s.convState 1 != 1)) then s
  else if s.cycleBusy c then s.trigMiss c
  else match s.hbMode with
    | 1 => (((s.cycleStart 0).cycleStart 1).convNext 0).convNext 1
    | 2 =>
      let s := (s.cycleStart 0).convNext 0
      (s.setConv 1 { s.convh 1 with more := (s.convh 1).more + 1 }).convNext 1
    | _ => (s.cycleStart c).convNext c

/-- An edge of PWM channel p (R345): it starts the delay of every converter that waits for it, and is missed while an
earlier delay runs. -/
def hbPwmEdge (s : State) (p : Nat) (rising : Bool) : State :=
  s.each [0, 1] fun s c =>
    if s.convState c == 1 && s.r F.HB_SCAN_CFG_TRIG c == 2 && s.r F.HB_SCAN_CFG_PWM c == p &&
        bitAt (s.r F.HB_SCAN_CFG_EDGE c) (if rising then 0 else 1) && (s.hbMode == 0 || c == 0) then
      if (s.convh c).delay then s.trigMiss c else s.setConv c { s.convh c with delay := true }
    else s

/-- The release of MSPS_CS_N that ends a chain-mode frame (R345). -/
def hbChain (s : State) : State :=
  s.each [0, 1] fun s c => if s.r F.HB_SCAN_CFG_TRIG c = 3 then s.hbTrigger c else s

/-! ### HB_START and HB_STOP, R347, R351, R359, R360 -/

/-- A list holds expanded points. -/
def listExpanded (s : State) (c : Nat) : Bool := (s.listPoints c).any (64 ≤ ·)

/-- The constraints of the mode (R347). -/
def modeOk (s : State) (mode : Nat) : Bool :=
  match mode with
  | 1 =>
    s.r F.HB_SCAN_CFG_LEN 0 == s.r F.HB_SCAN_CFG_LEN 1 &&
      (((s.listPoints 0).zip (s.listPoints 1)).all fun x =>
        ptN (s.ptCfg x.1) == ptN (s.ptCfg x.2) && ptBo (s.ptCfg x.1) == ptBo (s.ptCfg x.2)) &&
      !(s.listExpanded 0 && s.listExpanded 1)
  | 2 =>
    let cfg := s.ptCfg (s.listPoint 0 0)
    s.r F.HB_SCAN_CFG_LEN 0 == 1 && !ptAuto cfg && ptN cfg == 1 && ptBo cfg == 0
  | _ => true

/-- A named converter has a list it can measure (R330, R357). -/
def listOk (s : State) (mode c : Nat) : Bool :=
  (mode == 2 && c == 1) || (s.r F.HB_SCAN_CFG_LEN c != 0 && (s.listPoints c).all (reaches c))

/-- Queue c is emptied. -/
def flushQueue (s : State) (c : Nat) : State := s.setConv c { s.convh c with queue := [], full := false }

/-- Converter c enters RUNNING from STOPPED and arms its trigger (R351). -/
def convRun (s : State) (c : Nat) : State :=
  let s := s.w F.HB_CONV_STAT_STATE c 1
  let s := s.setConv c { s.convh c with seq := 0, cycleNo := 0, cycle := false, stepDone := false, more := 0, delay := false,
                                        flush := false }
  let s := s.w F.HB_CONV_STAT_STEP c 0
  s.resolve (.conv (c + 2)) .enablePending

/-- The trigger that a start itself is: COMMAND, and the first of TIMER (R345). -/
def startTrigger (s : State) (c : Nat) : State := if s.r F.HB_SCAN_CFG_TRIG c ≤ 1 then s.hbTrigger c else s

/-- HB_START on one converter: what changes before any trigger. -/
def startOne (s : State) (flush : Bool) (c : Nat) : State :=
  match s.convState c with
  | 0 => (if flush then s.flushQueue c else s).convRun c
  | 1 => if flush && s.r F.HB_SCAN_CFG_TRIG c == 0 then s.flushQueue c else s
  | _ =>
    let s := s.w F.HB_CONV_STAT_ENABLE_PENDING c 1
    s.setConv c { s.convh c with flush := flush || (s.convh c).flush }

/-- The converters of a mask. -/
def maskConvs (m : Nat) : List Nat := whichBelow 2 fun c => bitAt m c

/-- HB_START (R359). -/
def hbStart (s : State) (j : Job) : State :=
  let m := j.p 0 1
  let cs := maskConvs m
  let fresh := s.convState 0 == 0 && s.convState 1 == 0
  let mode := if fresh then s.r F.HB_CFG_MODE else s.hbMode
  if !(1 ≤ m && m ≤ 3 && j.p 1 1 ≤ 1 && j.pz 2 30) || !(cs.all (s.listOk mode)) || !s.modeOk mode || (mode != 0 && m != 3)
  then s.finish j.ring j.idx .badParam
  else
    let s := s.w F.HB_STAT_MODE 0 mode
    let ran := cs.filter fun c => s.convState c == 1
    let rest := cs.filter fun c => s.convState c == 2
    let went := cs.filter fun c => s.convState c == 0
    let s := s.each cs (startOne · (j.p 1 1 == 1) ·)
    let s := s.each went startTrigger
    let s := s.each (ran.filter fun c => s.r F.HB_SCAN_CFG_TRIG c == 0) hbTrigger
    s.await j.ring j.idx (rest.map fun c => .conv (c + 2)) (if rest.isEmpty then .ok else .enablePending)

/-- Converter c enters STOPPING: the conversion in progress, where there is one, still ends (R351). -/
def convStopping (s : State) (c : Nat) : State :=
  let s := if (s.convh c).visit.any (s.busWaits c) then s.dropVisit c else s
  let s := s.w F.HB_CONV_STAT_STATE c 2
  s.setConv c { s.convh c with cycle := false, stepDone := false, more := 0, delay := false }

/-- HB_STOP on one converter; a pending start is cancelled. -/
def stopOne (s : State) (c : Nat) : State :=
  match s.convState c with
  | 1 => s.convStopping c
  | 2 =>
    if s.on F.HB_CONV_STAT_ENABLE_PENDING c then
      ((s.w F.HB_CONV_STAT_ENABLE_PENDING c 0).setConv c { s.convh c with flush := false }).abortWaiters (.conv (c + 2))
        .aborted
    else s
  | _ => s

/-- HB_STOP (R360): converter 1, which may have joined converter 0's input, first. -/
def hbStop (s : State) (j : Job) : State :=
  let m := j.p 0 1
  if !(1 ≤ m && m ≤ 3 && j.pz 1 31) then s.finish j.ring j.idx .badParam
  else
    let cs := maskConvs (if s.hbMode = 0 then m else 3)
    let s := s.each cs.reverse stopOne
    s.await j.ring j.idx ((cs.filter fun c => s.convState c != 0).map Wait.conv)

/-- Converter c reaches STOPPED; a pending start is acted on (R351). -/
def hbStopped (s : State) (c : Nat) : State :=
  if s.convState c != 2 then s
  else
    let s := (s.dropVisit c).w F.HB_CONV_STAT_STATE c 0
    let s := s.setConv c { s.convh c with prev := none }
    let s := (s.post (convSrc c) 0x5006).resolve (.conv c)
    if s.on F.HB_CONV_STAT_ENABLE_PENDING c then
      let s := s.w F.HB_CONV_STAT_ENABLE_PENDING c 0
      let s := if (s.convh c).flush then s.flushQueue c else s
      ((s.convRun c).startTrigger (if s.hbMode = 0 then c else 0)).convNext c
    else s.convNext c

/-! ### Urgent requests, R353 -/

/-- The request is dropped. -/
def urgentDrop (s : State) (c : Nat) (u : Urgent) : State :=
  let s := (s.inc F.HB_URGENT_DROPPED_COUNT c).w F.HB_EVT_URGENT_DROPPED 0 1
  (s.post (convSrc c) 0x5003 [(2, u.point), (2, u.ring)]).finish u.ring u.idx .dropped

/-- A scan visit in hand on converter c is aborted, counted, and will restart; a STOPPING converter is not cut short. -/
def abortScan (s : State) (c : Nat) : State :=
  if s.convState c != 2 && (s.convh c).visit.any (fun v => v.urgent.isNone) then
    let s := (s.dropVisit c).inc F.HB_ABORTS_COUNT c
    if s.hbMode = 2 && c = 1 then s.setConv 1 { s.convh 1 with more := (s.convh 1).more + 1 } else s
  else s

/-- A self-calibration step or a scan visit in hand on converter c is aborted and will restart; with it goes what the
other converter does for a running cycle of INTERLEAVED mode, which occupies both (R353). -/
def abortHand (s : State) (c : Nat) : State :=
  let h := s.convh c
  if h.cal.any fun k => k.runs then
    (s.setConv c { h with cal := h.cal.map fun k => { k with runs := false }, prev := none }).inc F.HB_ABORTS_COUNT c
  else if s.hbMode = 2 && (s.convh 0).cycle then (s.abortScan 0).abortScan 1
  else s.abortScan c

/-- A visit is under way on converter c, or a cycle of INTERLEAVED mode, which occupies both. -/
def meetsVisit (s : State) (c : Nat) : Bool := (s.convh c).visit.isSome || (s.hbMode == 2 && (s.convh 0).cycle)

/-- An urgent request reaches converter c. -/
def urgentCome (s : State) (c : Nat) (u : Urgent) : State :=
  let wait (s : State) : State := s.setConv c { s.convh c with urgents := (s.convh c).urgents ++ [u] }
  if s.dev == .run && (s.convh c).cal.isNone && s.convState c != 2 && s.meetsVisit c then s.urgentDrop c u
  else ((wait s).abortHand c).convNext c

/-- HB_URGENT (R361). -/
def hbUrgent (s : State) (j : Job) : State :=
  let c := j.p 2 1
  if !(j.p 0 2 < 1024 && c ≤ 1 && j.p 3 1 ≤ 1 && j.pz 4 28 && reaches c (j.p 0 2)) then s.finish j.ring j.idx .badParam
  else
    let u : Urgent := { ring := j.ring, idx := j.idx, point := j.p 0 2, noQueue := j.p 3 1 == 1, lost := j.lost }
    (s.await j.ring j.idx [.urgent]).urgentCome c u

/-! ### Self-calibration, R354, R355, R362 -/

/-- Self-calibration of converter c begins, unless it runs already. -/
def calStart (s : State) (c : Nat) : State :=
  if (s.convh c).cal.isSome then s
  else ((s.setConv c { s.convh c with cal := some {} }).w F.HB_CONV_STAT_SELFCAL c 1).convNext c

/-- HB_SELFCAL (R362). -/
def hbSelfcal (s : State) (j : Job) : State :=
  let m := j.p 0 1
  if !(1 ≤ m && m ≤ 3 && j.pz 1 31) then s.finish j.ring j.idx .badParam
  else
    let cs := maskConvs m
    (s.await j.ring j.idx (cs.map Wait.selfcal)).each cs calStart

/-- The register and index of the factor of a step. -/
def calFactor (c step : Nat) : Fld × Nat :=
  if step < 8 then (F.HB_CAL_OFS_FACTOR, 8 * c + step)
  else if step < 16 then (F.HB_CAL_GAIN_FACTOR, 8 * c + (step - 8))
  else (F.HB_CAL_RGAIN_FACTOR, 8 * c + (step - 16))

/-- The KEPT bits a step belongs to. -/
def calKeptFld (step : Nat) : Fld :=
  if step < 8 then F.HB_CAL_STAT_KEPT_OFS else if step < 16 then F.HB_CAL_STAT_KEPT_GAIN else F.HB_CAL_STAT_KEPT_RGAIN

/-- The bit of a step's factor in a converter's group of RESULT1 (R362). -/
def calKeptBit (step : Nat) : Nat := if step < 16 then step + 8 else step - 16

/-- The two measurements of a step agree (R355); each is the sum of 128 raw codes. -/
def calAgree (step : Nat) (m1 m2 : Int) : Bool :=
  let d := (m1 - m2).natAbs
  if step < 8 then d ≤ 512
  else if step < 16 then d * 50000 ≤ 128 * 4194304
  else d * 50000 ≤ 128 * 2097152

/-- The factor that one measurement asks for, rounded down, and whether it is exact: the offset in quarter codes, or the
deviation in 2 ^ -20 that brings the corrected code to the ideal one (R354). -/
def calOne (s : State) (c step : Nat) (m : Int) : Option Int :=
  if step < 8 then some (m / 32)
  else
    let r := if step < 16 then step - 8 else 0
    let v := m - 32 * s.ri F.HB_CAL_OFS_FACTOR (8 * c + r)
    if v ≤ 0 then none
    else if step < 16 then some (128 * 4194304 * 1048576 / (10 * v) - 1048576)
    else
      let g := 1048576 + s.ri F.HB_CAL_GAIN_FACTOR (8 * c)
      if v * g ≤ 0 then none else some (128 * 2097152 * 1048576 * 1048576 / (10 * v * g) - 1048576)

/-- The factor of two agreeing measurements lies between what each asks for; the manual does not say where, nor how it
rounds (log 12). -/
def calValue (s : State) (a b : Int) : Int :=
  let lo := min a b
  let hi := max a b + 1
  lo + ((Config.unstated 50 s.fresh % ((hi - lo).toNat + 1) : Nat) : Int)

/-- A step of converter c's self-calibration is over: the next one begins. -/
def calStepOver (s : State) (c : Nat) (k : SelfCal) : State :=
  let k := { k with step := k.step + 1, attempt := 1, runs := false }
  (s.setConv c { s.convh c with cal := some k, prev := none }).convNext c

/-- A factor is measured well: it is stored and its KEPT and STALE bits clear. -/
def calGood (s : State) (c : Nat) (k : SelfCal) (v : Int) : State :=
  let f := calFactor c k.step
  let s := s.wi f.1 f.2 v
  let kf := calKeptFld k.step
  let s := s.w kf c (setBits (s.r kf c) (k.step % 8) 1 0)
  let s := if 16 ≤ k.step then s.w F.HB_CAL_STAT_STALE c (setBits (s.r F.HB_CAL_STAT_STALE c) (k.step - 16) 1 0) else s
  s.calStepOver c k

/-- A disagreement: the step repeats, and after the fourth the old factor is kept. -/
def calBad (s : State) (c : Nat) (k : SelfCal) : State :=
  if k.attempt < 4 then
    (s.setConv c { s.convh c with cal := some { k with attempt := k.attempt + 1, runs := false }, prev := none }).convNext c
  else
    let kf := calKeptFld k.step
    let s := (s.w kf c (setBits (s.r kf c) (k.step % 8) 1 1)).w F.HB_EVT_CAL_KEPT 0 1
    s.calStepOver c { k with kept := k.kept + 2 ^ calKeptBit k.step }

/-- The two measurements of the running step end (R354, R355). -/
def calStep (s : State) (c : Nat) (m1 m2 : Int) : State :=
  match (s.convh c).cal with
  | none => s
  | some k =>
    if !k.runs then s
    else
      let s := { s with fresh := s.fresh + 1 }
      match s.calOne c k.step m1, s.calOne c k.step m2 with
      | some a, some b =>
        let v := s.calValue a b
        if calAgree k.step m1 m2 && decide (-32768 ≤ v) && decide (v ≤ 32767) then s.calGood c k v else s.calBad c k
      | _, _ => s.calBad c k

/-! ### Excitation, R342-R344, R363 -/

/-- EXC_FAULT is set while some enabled output is out of range (R59, R356). -/
def excLevel (s : State) : State :=
  if (List.range 8).any fun k => bitAt (s.r F.HB_EXC_STAT_ON) k && !s.excOk k then s.w F.HB_EVT_EXC_FAULT 0 1 else s

/-- Output k is as its settings ask. -/
def excInRange (s : State) (k mv : Nat) (limit : Bool) : Bool :=
  let v := s.r F.HB_EXC_CFG_MV k
  s.on F.HB_EXC_CFG_EN k && decide (((mv : Int) - v).natAbs * 50 ≤ v) && !limit

/-- The instants at which the commands acted that wait for output k. -/
def excTimes (s : State) (k : Nat) : List Nat :=
  (s.jobs.flatMap (·.waits)).filterMap fun x => match x with
    | .excite k' t => if k' = k then some t else none
    | _ => none

/-- Commands that wait for output k: reached, or 100 µs gone since the command acted (R363). -/
def excResolve (s : State) (k : Nat) : State :=
  s.each (s.excTimes k) fun s t =>
    if !s.on F.HB_EXC_CFG_EN k || s.excOk k then s.resolve (.excite k t)
    else if t + 100000 ≤ s.now then s.resolve (.excite k t) .timeout
    else s

/-- One check of output k (R344): its sensed value in mV, and whether it is at its current limit. -/
def excCheck (s : State) (k mv : Nat) (limit : Bool) : State :=
  let was := s.excOk k
  let ok := s.excInRange k mv limit
  let s := s.w F.HB_EXC_STAT_LIMIT 0 (setBits (s.r F.HB_EXC_STAT_LIMIT) k 1 limit.toNat)
  let s := s.w F.HB_EXC_STAT_IN_RANGE 0 (setBits (s.r F.HB_EXC_STAT_IN_RANGE) k 1 ok.toNat)
  let setOut (s : State) (o : Option Nat) : State := { s with hb := { s.hb with excOut := s.hb.excOut.set k o none } }
  let s := if was && !ok then (setOut s (some s.now)).post 654 0x5101 [(1, k), (2, min mv 65535)]
    else if !was && ok then
      match s.hb.excOut.get k none with
      | some t => (setOut s none).post 654 0x5102 [(1, k), (4, min ((s.now - t) / 1000) (2 ^ 32 - 1))]
      | none => s
    else s
  s.excLevel.excResolve k

/-- The parameter bytes keep R363. -/
def exciteOk (j : Job) : Bool :=
  j.p 0 1 != 0 && j.p 1 1 < 8 && j.p 2 1 ≤ 1 && j.pz 3 1 && j.pz 7 25 &&
    (!bitAt (j.p 1 1) 1 || (100 ≤ j.p 4 2 && j.p 4 2 ≤ 2500))

/-- Points that depend on excitation k settle again (R340). -/
def excSettle (s : State) (k : Nat) : State :=
  s.each ((List.range 1024).filter fun p => ptExcUse (s.ptCfg p) && ptExc (s.ptCfg p) == k) fun s p =>
    s.settle p (s.r F.HB_EXC_CFG_SETTLE k)

/-- HB_EXCITE on one output. -/
def exciteOne (s : State) (j : Job) (k : Nat) : State :=
  let v := j.p 1 1
  let old := (s.r F.HB_EXC_CFG_EN k, s.r F.HB_EXC_CFG_MV k)
  let s := if bitAt v 2 then s.w F.HB_EXC_CFG_SETTLE k (j.p 6 1) else s
  let s := if bitAt v 0 then s.w F.HB_EXC_CFG_EN k (j.p 2 1) else s
  let s := if bitAt v 1 then s.w F.HB_EXC_CFG_MV k (j.p 4 2) else s
  let s := s.w F.HB_EXC_STAT_ON 0 (setBits (s.r F.HB_EXC_STAT_ON) k 1 (s.r F.HB_EXC_CFG_EN k))
  if old != (s.r F.HB_EXC_CFG_EN k, s.r F.HB_EXC_CFG_MV k) then s.excSettle k else s

/-- HB_EXCITE (R363). -/
def hbExcite (s : State) (j : Job) : State :=
  if !exciteOk j then s.finish j.ring j.idx .badParam
  else
    let ks := whichBelow 8 fun k => bitAt (j.p 0 1) k
    let s := (s.each ks fun s k => s.exciteOne j k).excLevel
    s.await j.ring j.idx (ks.map fun k => .excite k s.now)

/-! ### HB_SCAN_SET, R358 -/

/-- Some converter is not STOPPED. -/
def hbRuns (s : State) : Bool := s.convState 0 != 0 || s.convState 1 != 0

/-- A new configuration word of point p: at once, or after the visit in hand (R340). -/
def setPoint (s : State) (w p : Nat) : State :=
  let old := s.ptCfg p
  let s := s.loadWord F.HB_PT_CFG_RANGE.base p 0 w
  let visited := [0, 1].any fun c => (s.convh c).visit.any fun v => v.point == p
  if visited then
    s.each [0, 1] fun s c =>
      let h := s.convh c
      s.setConv c { h with visit := h.visit.map fun v =>
        if v.point == p && v.late.isNone then { v with late := some old } else v }
  else s.ptEffects p old w

/-- SEL 0 (R358). -/
def scanSetPoints (s : State) (j : Job) : State :=
  let w := j.p 8 4
  let ps := span (j.p 2 2) (j.p 4 2)
  if !(j.pz 1 1 && j.pz 6 2 && j.pz 12 20 && 1 ≤ j.p 4 2 && j.p 2 2 + j.p 4 2 ≤ 1024 && ptOk w) then
    s.finish j.ring j.idx .badParam
  else
    let t := s.each ps fun s p => s.setPoint w p
    if s.hbRuns && !t.modeOk s.hbMode then s.finish j.ring j.idx .notAllowed else t.finish j.ring j.idx .ok

/-- SEL 1 (R358). -/
def scanSetList (s : State) (j : Job) : State :=
  let c := j.p 1 1
  let n := j.p 2 2
  let es := (List.range n).map fun i => s.hostMem.readLE (j.addr0 + 2 * i) 2
  if !(c ≤ 1 && 1 ≤ n && n ≤ 256 && j.pz 4 28 && j.len0 == 2 * n && j.addr0 % 2 == 0) ||
      !(es.all fun e => e < 1024 && reaches c e) then s.finish j.ring j.idx .badParam
  else if s.convState c != 0 then s.finish j.ring j.idx .notAllowed
  else
    let s := s.each (List.range n) fun s i =>
      s.w (if i % 2 = 0 then F.HB_SCAN_LIST_STEP_LO else F.HB_SCAN_LIST_STEP_HI) (128 * c + i / 2) (es.getD i 0)
    (s.w F.HB_SCAN_CFG_LEN c n).finish j.ring j.idx .ok

/-- SEL 2 (R358). -/
def scanSetCfg (s : State) (j : Job) : State :=
  let c := j.p 1 1
  let b := j.p 3 1
  if !(c ≤ 1 && j.p 2 1 ≤ 3 && b < 8 && 1 ≤ b / 2 && j.p 4 1 ≤ 23 && 1 ≤ j.p 5 1 && j.pz 6 2 && 1 ≤ j.p 8 4 &&
      j.p 8 4 ≤ 1000000 && j.pz 14 18) then s.finish j.ring j.idx .badParam
  else if s.convState c != 0 then s.finish j.ring j.idx .notAllowed
  else
    let s := ((s.w F.HB_SCAN_CFG_TRIG c (j.p 2 1)).w F.HB_SCAN_CFG_SUPPRESS c (b % 2)).w F.HB_SCAN_CFG_EDGE c (b / 2)
    let s := (s.w F.HB_SCAN_CFG_PWM c (j.p 4 1)).w F.HB_SCAN_CFG_BO_EVERY c (j.p 5 1)
    ((s.w F.HB_SCAN_CFG_PERIOD c (j.p 8 4)).w F.HB_SCAN_CFG_DELAY c (j.p 12 2)).finish j.ring j.idx .ok

/-- SEL 3 (R358). -/
def scanSetMode (s : State) (j : Job) : State :=
  if !(j.p 1 1 ≤ 2 && j.pz 2 30) then s.finish j.ring j.idx .badParam
  else if s.hbRuns then s.finish j.ring j.idx .notAllowed
  else ((s.w F.HB_CFG_MODE 0 (j.p 1 1)).w F.HB_STAT_MODE 0 (j.p 1 1)).finish j.ring j.idx .ok

/-- HB_SCAN_SET (R358); only SEL 1 uses buffer 0, and its read of the list waits while memory requests are not allowed
(R267). -/
def hbScanSet (s : State) (j : Job) : State :=
  if j.p 0 1 != 1 && !(j.len0 == 0 && j.addr0 == 0) then s.finish j.ring j.idx .badParam
  else match j.p 0 1 with
    | 0 => s.scanSetPoints j
    | 1 => if s.canIssue then s.scanSetList j else s
    | 2 => s.scanSetCfg j
    | 3 => s.scanSetMode j
    | _ => s.finish j.ring j.idx .badParam

/-- Hatband at FAULT entry: scans stop under R351 with no completion, and the excitations go off (R352). -/
def hbFault (s : State) : State :=
  let s := s.each [0, 1] fun s c =>
    let s := (if s.convState c = 1 then s.convStopping c else s).dropVisit c
    let s := ((s.w F.HB_CONV_STAT_STATE c 0).w F.HB_CONV_STAT_ENABLE_PENDING c 0).w F.HB_CONV_STAT_SELFCAL c 0
    s.setConv c { s.convh c with urgents := [], cal := none, prev := none }
  ((s.w F.HB_EXC_STAT_ON 0 0).w F.HB_EXC_STAT_IN_RANGE 0 0).w F.HB_EXC_STAT_LIMIT 0 0

end State

/-! ### The meanings -/

/-- HB_SCAN_SET, R358. -/
def execHbScanSet (q : Fin 32768) (i : Fin 65536) (s : State) : Out := actJob 0x40 q i s fun j s => s.hbScanSet j

/-- HB_START, R359. -/
def execHbStart (q : Fin 32768) (i : Fin 65536) (s : State) : Out := actJob 0x41 q i s fun j s => s.hbStart j

/-- HB_STOP, R360. -/
def execHbStop (q : Fin 32768) (i : Fin 65536) (s : State) : Out := actJob 0x42 q i s fun j s => s.hbStop j

/-- HB_URGENT, R361. -/
def execHbUrgent (q : Fin 32768) (i : Fin 65536) (s : State) : Out := actJob 0x43 q i s fun j s => s.hbUrgent j

/-- HB_SELFCAL, R362. -/
def execHbSelfcal (q : Fin 32768) (i : Fin 65536) (s : State) : Out := actJob 0x44 q i s fun j s => s.hbSelfcal j

/-- HB_EXCITE, R363. -/
def execHbExcite (q : Fin 32768) (i : Fin 65536) (s : State) : Out := actJob 0x45 q i s fun j s => s.hbExcite j

/-- HB_TIMER_TRIGGER, R345. -/
def execHbTimerTrigger (c : Fin 2) (s : State) : Out :=
  whenLive s fun s => if s.r F.HB_SCAN_CFG_TRIG c == 1 then s.hbTrigger c else s

/-- HB_PWM_TRIGGER, R345. -/
def execHbPwmTrigger (c : Fin 2) (s : State) : Out :=
  whenLive s fun s =>
    if (s.convh c).delay then (s.setConv c { s.convh c with delay := false }).hbTrigger c else s

/-- HB_BUS_GRANT, R331, R332. -/
def execHbBusGrant (s : State) : Out := whenLive s State.busGrant

/-- HB_CONVERSION, R331, R334: the raw value of the conversion that ends. -/
def execHbConversion (c : Fin 2) (raw : BitVec 20) (s : State) : Out :=
  whenLive s fun s => s.hbConversion c (sint 20 raw.toNat)

/-- HB_SELFCAL_STEP, R354, R355: the sums of the 128 codes of both measurements. -/
def execHbSelfcalStep (c : Fin 2) (m1 m2 : Int) (s : State) : Out := whenLive s fun s => s.calStep c m1 m2

/-- HB_STOPPED, R351. -/
def execHbStopped (c : Fin 2) (s : State) : Out := whenLive s fun s => s.hbStopped c

/-- HB_EXC_CHECK, R344. -/
def execHbExcCheck (k : Fin 8) (mv : BitVec 16) (limit : Bool) (s : State) : Out :=
  whenLive s fun s => s.excCheck k mv.toNat limit

end Sys2Proof.Machine
end

