-- ==== Sys2Proof/Machine/House.lean ====
section
/-! DEFINITION. Housekeeping DACs and PWM outputs (spec/13_housekeeping_outputs.md R365-R382). -/

namespace Sys2Proof.Machine

open Sys2Proof

namespace State

/-- DAC channel c and PWM channel p beside their registers. -/
def dach (s : State) (c : Nat) : DacH := s.hk.dac.get c {}
def setDac (s : State) (c : Nat) (h : DacH) : State := { s with hk := { s.hk with dac := s.hk.dac.set c h {} } }
def pwmh (s : State) (p : Nat) : PwmH := s.hk.pwm.get p {}
def setPwm (s : State) (p : Nat) (h : PwmH) : State := { s with hk := { s.hk with pwm := s.hk.pwm.set p h {} } }

/-- Some lane of slot k is shed (R368). -/
def slotShed (s : State) (k : Nat) : Bool := (span (8 * k) 8).any fun n => s.on F.LANE_STAT_SHED n

/-! ### DAC channels, R366-R370 -/

/-- Channel c is forced, clamped, held. -/
def dacForced (s : State) (c : Nat) : Bool :=
  s.on F.HK_DAC_STAT_FORCE_CLR c || s.on F.HK_DAC_STAT_FORCE_FLT c || s.on F.HK_DAC_STAT_FORCE_SHED c
def dacClamped (s : State) (c : Nat) : Bool := s.on F.HK_DAC_STAT_CLAMP c
def dacHeld (s : State) (c : Nat) : Bool := s.on F.HK_DAC_STAT_HELD c

/-- SLEWING follows the code in force and the target (R366). -/
def dacSettle (s : State) (c : Nat) : State :=
  s.wb F.HK_DAC_STAT_SLEWING c
    (s.r F.HK_DAC_STAT_OUT c != s.r F.HK_DAC_TARGET_TARGET c && !s.dacForced c && !s.dacClamped c && !s.dacHeld c)

/-- A forced or held output drives the clear code. -/
def dacClear (s : State) (c : Nat) : State :=
  if s.dacForced c || (s.dacHeld c && !s.dacClamped c) then s.w F.HK_DAC_STAT_OUT c (s.r F.HK_DAC_CFG_CLEAR c) else s

/-- One slew step toward the target, signed in range 2 (R366). -/
def slewStep (range out target step : Nat) : Nat :=
  let v (x : Nat) : Int := if range = 2 then sint 16 x else x
  let o := v out
  let t := v target
  if o < t then uint 16 (min (o + step) t) else if t < o then uint 16 (max (o - step) t) else out

/-- A slew tick of channel c. -/
def slewTick (s : State) (c : Nat) : State :=
  if s.on F.HK_DAC_STAT_SLEWING c then
    (s.w F.HK_DAC_STAT_OUT c (slewStep (s.r F.HK_DAC_STAT_RANGE c) (s.r F.HK_DAC_STAT_OUT c) (s.r F.HK_DAC_TARGET_TARGET c)
      (s.r F.HK_DAC_CFG_STEP c))).dacSettle c
  else s

/-- A clamp of channel c toward a range begins, or restarts (R367). -/
def clampStart (s : State) (c r : Nat) : State :=
  (((s.w F.HK_DAC_STAT_CLAMP c 1).w F.HK_DAC_STAT_RANGE_PENDING c 0).setDac c { s.dach c with clampTo := r }).dacSettle c

/-- The clamp of channel c ends: the range switches and the code in force is 0, or the clear code where the channel is
held (R367). -/
def clampEnd (s : State) (c : Nat) : State :=
  if s.dacClamped c then
    let s := (s.w F.HK_DAC_STAT_CLAMP c 0).w F.HK_DAC_STAT_RANGE c (s.dach c).clampTo
    (((s.w F.HK_DAC_STAT_OUT c 0).dacClear c).dacSettle c).resolve (.dacRange c)
  else s

/-- A command that waits for channel c's clamp learns that the change is pending now (R380). -/
def Job.markPending (c : Nat) (j : Job) : Job :=
  if j.phase == JobPhase.running && j.waits.contains (Wait.dacRange c) then { j with r0 := j.r0 + 2 ^ c } else j

/-- Channel c's first force begins (R369, R370). -/
def forceBegin (s : State) (c : Nat) : State :=
  let h := { s.dach c with forcedAt := s.now, posted := false }
  let s := s.setDac c h
  let s := if s.dacClamped c then
      let s := ((s.w F.HK_DAC_STAT_CLAMP c 0).w F.HK_DAC_STAT_RANGE_PENDING c 1).setDac c { h with pendTo := h.clampTo }
      ({ s with jobs := s.jobs.map (Job.markPending c) }).resolve (.dacRange c)
    else s
  (s.dacClear c).dacSettle c

/-- Channel c's last force ends (R370); a hold that stood before the force stays. -/
def forceOver (s : State) (c : Nat) : State :=
  let h := s.dach c
  let rel := s.r F.HK_DAC_CFG_RELEASE c
  let s := if rel = 0 then s.w F.HK_DAC_STAT_HELD c 1 else s
  let s := if s.on F.HK_DAC_STAT_RANGE_PENDING c then s.clampStart c h.pendTo else s
  let s := s.dacSettle c
  if h.posted then s.post (656 + c) 0x6002 [(4, min ((s.now - h.forcedAt) / 1000) (2 ^ 32 - 1)), (1, rel)] else s

/-- A slot-fault or shed force of channel c is reported (R370, R382). -/
def forcePost (s : State) (c cause : Nat) : State :=
  let s := (s.setDac c { s.dach c with posted := true }).w F.HK_EVT_FORCED 0 1
  s.post (656 + c) 0x6001 [(1, cause)]

/-- Channel c's force sources follow the pin, its slot and its options (R368). -/
def dacForces (s : State) (c : Nat) : State :=
  let flt := s.on F.HK_DAC_CFG_FORCE_FLT c && s.slotFaulted (c / 2)
  let shed := s.on F.HK_DAC_CFG_FORCE_SHED c && s.slotShed (c / 2)
  let was := s.dacForced c
  let newFlt := flt && !s.on F.HK_DAC_STAT_FORCE_FLT c
  let newShed := shed && !s.on F.HK_DAC_STAT_FORCE_SHED c
  let s := ((s.wb F.HK_DAC_STAT_FORCE_FLT c flt).wb F.HK_DAC_STAT_FORCE_SHED c shed).w F.HK_DAC_STAT_FORCE_CLR c
    (s.r F.HK_STAT_CLR_PIN)
  let s := if s.dacForced c && !was then s.forceBegin c else s
  let s := if newFlt then s.forcePost c 2 else s
  let s := if newShed then s.forcePost c 3 else s
  if was && !s.dacForced c then s.forceOver c else s

/-- A range change of channel c (R367, R369). -/
def rangeChange (s : State) (c r : Nat) : State :=
  let s := (s.w F.HK_DAC_CFG_RANGE c r).w F.HK_DAC_TARGET_RANGE c r
  if s.dacForced c then
    (s.wb F.HK_DAC_STAT_RANGE_PENDING c (r != s.r F.HK_DAC_STAT_RANGE c)).setDac c { s.dach c with pendTo := r }
  else if s.dacClamped c then (s.abortWaiters (.dacRange c) .aborted).clampStart c r
  else if r = s.r F.HK_DAC_STAT_RANGE c then s.dacSettle c
  else s.clampStart c r

/-- A new target of channel c that a command's codes give: it ends a hold once no force acts (R370). -/
def dacCode (s : State) (c v : Nat) : State :=
  let s := s.w F.HK_DAC_TARGET_TARGET c v
  (if s.dacForced c then s else s.w F.HK_DAC_STAT_HELD c 0).dacSettle c

/-- FIRST and COUNT within `n` channels. -/
def dacSetOk (j : Job) : Bool :=
  let v := j.p 4 1
  j.spanOk 48 && v < 16 && j.p 5 1 < 16 && j.pz 12 4 &&
    (!bitAt v 0 || bitAt (j.p 5 1) 3 || j.p 2 2 ≤ 8) &&
    (!bitAt v 1 || (1 ≤ j.p 6 2 && j.p 6 2 ≤ 4096 && 1 ≤ j.p 8 2))

/-- HK_DAC_SET on one channel: values first, then the force options. -/
def dacSetOne (s : State) (j : Job) (c : Nat) : State :=
  let v := j.p 4 1
  let f := j.p 5 1
  let code := if bitAt f 3 then j.p 16 2 else j.p (16 + 2 * (c - j.p 0 2)) 2
  let s := if bitAt v 1 then (s.w F.HK_DAC_CFG_STEP c (j.p 6 2)).w F.HK_DAC_CFG_PERIOD c (j.p 8 2) else s
  let s := if bitAt v 2 then (s.w F.HK_DAC_CFG_CLEAR c (j.p 10 2)).dacClear c else s
  let s := if bitAt v 0 then s.dacCode c code else s
  if bitAt v 3 then
    (((s.w F.HK_DAC_CFG_RELEASE c f).w F.HK_DAC_CFG_FORCE_FLT c (f / 2)).w F.HK_DAC_CFG_FORCE_SHED c (f / 4)).dacForces c
  else s

/-- A mask of channels. -/
def maskOf (l : List Nat) : Nat := l.foldl (fun a c => a + 2 ^ c) 0

/-- HK_DAC_SET (R379). -/
def dacSet (s : State) (j : Job) : State :=
  if !dacSetOk j then s.finish j.ring j.idx .badParam
  else
    let s := s.each j.items fun s c => s.dacSetOne j c
    s.finish j.ring j.idx .ok
      (maskOf (j.items.filter fun c => s.dacForced c || (s.dacHeld c && !bitAt (j.p 4 1) 0)))

/-- HK_DAC_RANGE on one channel. -/
def dacRangeOne (s : State) (j : Job) (c : Nat) : State :=
  let s := if j.p 5 1 = 1 then s.w F.HK_DAC_TARGET_TARGET c (j.p 6 2) else s
  s.rangeChange c (j.p 4 1)

/-- HK_DAC_RANGE (R380). -/
def dacRange (s : State) (j : Job) : State :=
  if !(j.spanOk 48 && j.p 4 1 ≤ 2 && j.p 5 1 ≤ 1 && j.pz 8 24) then s.finish j.ring j.idx .badParam
  else
    let s := s.each j.items fun s c => s.dacRangeOne j c
    s.await j.ring j.idx ((j.items.filter s.dacClamped).map Wait.dacRange) .ok
      (maskOf (j.items.filter fun c => s.on F.HK_DAC_STAT_RANGE_PENDING c))

/-! ### PWM channels, R372-R376 -/

/-- Channel p is forced. -/
def pwmForced (s : State) (p : Nat) : Bool := s.on F.HK_PWM_STAT_FORCE_FLT p || s.on F.HK_PWM_STAT_FORCE_SHED p

/-- The pin takes a level; a change between ticks that make edges is an edge (R375). -/
def pwmPin (s : State) (p : Nat) (b edges : Bool) : State :=
  let was := s.on F.HK_PWM_STAT_PIN p
  let s := s.wb F.HK_PWM_STAT_PIN p b
  if edges && was != b then s.hbPwmEdge p b else s

/-- The settings in force make edges. -/
def pwmEdges (h : PwmH) : Bool := 0 < h.high && h.high < h.period

/-- The stored timing of channel p comes into force (R373). -/
def pwmApply (s : State) (p : Nat) : State :=
  let h := { s.pwmh p with period := s.r F.HK_PWM_CFG_PERIOD p, high := s.r F.HK_PWM_CFG_HIGH p,
                           presc := s.r F.HK_PWM_CFG_PRESC p }
  (s.setPwm p h).resolve (.pwm (p + 48))

/-- Channel p enters RUNNING; its first period begins at its next period start. -/
def pwmRun (s : State) (p : Nat) : State :=
  ((s.w F.HK_PWM_STAT_STATE p 1).w F.HK_PWM_STAT_ENABLE_PENDING p 0).resolve (.pwm (p + 24))

/-- A period start of channel p: settings apply whole, or a stop ends (R373, R374). -/
def periodStart (s : State) (p : Nat) : State :=
  match s.r F.HK_PWM_STAT_STATE p with
  | 1 =>
    if s.pwmForced p then s
    else
      let s := s.pwmApply p
      let h := s.pwmh p
      s.pwmPin p ((0 < h.high) != s.on F.HK_PWM_CFG_POL p) (pwmEdges h)
  | 2 =>
    let s := ((s.w F.HK_PWM_STAT_STATE p 0).w F.HK_PWM_STAT_PIN p 0).pwmApply p
    let s := s.resolve (.pwm p)
    if s.on F.HK_PWM_STAT_ENABLE_PENDING p then s.pwmRun p else s
  | _ => s

/-- Tick HIGH of a period of channel p (R375). -/
def activeEnd (s : State) (p : Nat) : State :=
  let h := s.pwmh p
  let active := s.on F.HK_PWM_STAT_PIN p != s.on F.HK_PWM_CFG_POL p
  if s.on F.HK_PWM_STAT_STATE p && !s.pwmForced p && pwmEdges h && active then
    s.pwmPin p (s.on F.HK_PWM_CFG_POL p) true
  else s

/-- Channel p's forces follow its slot and its options (R376). -/
def pwmForces (s : State) (p : Nat) : State :=
  let flt := s.on F.HK_PWM_CFG_FORCE_FLT p && s.slotFaulted p
  let shed := s.on F.HK_PWM_CFG_FORCE_SHED p && s.slotShed p
  let was := s.pwmForced p
  let newFlt := flt && !s.on F.HK_PWM_STAT_FORCE_FLT p
  let newShed := shed && !s.on F.HK_PWM_STAT_FORCE_SHED p
  let s := (s.wb F.HK_PWM_STAT_FORCE_FLT p flt).wb F.HK_PWM_STAT_FORCE_SHED p shed
  let s := if s.pwmForced p && !was then (s.w F.HK_PWM_STAT_PIN p 0).setPwm p { s.pwmh p with forcedAt := s.now } else s
  let say (s : State) (cause : Nat) : State := (s.w F.HK_EVT_FORCED 0 1).post (704 + p) 0x6101 [(1, cause)]
  let s := if newFlt then say s 2 else s
  let s := if newShed then say s 3 else s
  if was && !s.pwmForced p then
    s.post (704 + p) 0x6102 [(4, min ((s.now - (s.pwmh p).forcedAt) / 1000) (2 ^ 32 - 1))]
  else s

/-- The parameter bytes keep R381. -/
def pwmSetOk (j : Job) : Bool :=
  let v := j.p 4 1
  j.spanOk 24 && v < 16 && j.p 5 1 < 16 && j.pz 7 1 && j.pz 12 20 && (!bitAt v 0 || (j.p 6 1 ≤ 7 && 2 ≤ j.p 8 2))

/-- A change of POL names a channel that is not STOPPED. -/
def polClash (s : State) (j : Job) (p : Nat) : Bool :=
  bitAt (j.p 4 1) 1 && s.r F.HK_PWM_STAT_STATE p != 0 && s.r F.HK_PWM_CFG_POL p != j.p 5 1 / 2 % 2

/-- New timing of channel p: at once while STOPPED, else at the next period start (R373). -/
def pwmTiming (s : State) (p : Nat) : State := if s.r F.HK_PWM_STAT_STATE p = 0 then s.pwmApply p else s

/-- The run state of channel p (R374); a stop cancels a start that waits. -/
def pwmRunState (s : State) (p : Nat) (run : Bool) : State :=
  match s.r F.HK_PWM_STAT_STATE p, run with
  | 0, true => s.pwmRun p
  | 2, true => s.w F.HK_PWM_STAT_ENABLE_PENDING p 1
  | 1, false => s.w F.HK_PWM_STAT_STATE p 2
  | 2, false => (s.w F.HK_PWM_STAT_ENABLE_PENDING p 0).abortWaiters (.pwm (p + 24)) .aborted
  | _, _ => s

/-- HK_PWM_SET on one channel. -/
def pwmSetOne (s : State) (j : Job) (p : Nat) : State :=
  let v := j.p 4 1
  let f := j.p 5 1
  let s := if bitAt v 1 then s.w F.HK_PWM_CFG_POL p (f / 2) else s
  let s := if bitAt v 0 then
      (((s.w F.HK_PWM_CFG_PERIOD p (j.p 8 2)).w F.HK_PWM_CFG_HIGH p (j.p 10 2)).w F.HK_PWM_CFG_PRESC p (j.p 6 1)).pwmTiming p
    else s
  let s := if bitAt v 2 then
      ((s.w F.HK_PWM_CFG_FORCE_FLT p (f / 4)).w F.HK_PWM_CFG_FORCE_SHED p (f / 8)).pwmForces p
    else s
  if bitAt v 3 then s.pwmRunState p (bitAt f 0) else s

/-- What HK_PWM_SET waits for at channel p after it has acted; new timing was applied at once where `stopped` says that
the channel was STOPPED (R373, R381). -/
def pwmWaits (s : State) (j : Job) (stopped : Bool) (p : Nat) : List Wait :=
  let st := s.r F.HK_PWM_STAT_STATE p
  (if bitAt (j.p 4 1) 0 && !stopped then [.pwm (p + 48)] else []) ++
    (if !bitAt (j.p 4 1) 3 then []
     else if bitAt (j.p 5 1) 0 then (if s.on F.HK_PWM_STAT_ENABLE_PENDING p then [.pwm (p + 24)] else [])
     else if st = 2 then [.pwm p] else [])

/-- HK_PWM_SET (R381). -/
def pwmSet (s : State) (j : Job) : State :=
  if !pwmSetOk j then s.finish j.ring j.idx .badParam
  else if j.items.any (s.polClash j) then s.finish j.ring j.idx .notAllowed
  else
    let t := s.each j.items fun s p => s.pwmSetOne j p
    let late := bitAt (j.p 4 1) 3 && bitAt (j.p 5 1) 0 && j.items.any fun p => t.on F.HK_PWM_STAT_ENABLE_PENDING p
    t.await j.ring j.idx (j.items.flatMap fun p => t.pwmWaits j (s.r F.HK_PWM_STAT_STATE p == 0) p)
      (if late then .enablePending else .ok)

/-! ### Forces of a slot and of the pin, FAULT -/

/-- The housekeeping outputs of slot k follow its fault and shed (R368, R376); in FAULT and DUMP they stand at the clear
code and low, with no slew and no clamp, and their registers are frozen (R371, R438). -/
def slotForces (s : State) (k : Nat) : State :=
  if s.frozen then s else ((s.dacForces (2 * k)).dacForces (2 * k + 1)).pwmForces k

/-- HK_CLR_N goes low (R368, R370). -/
def clearPin (s : State) : State :=
  if s.on F.HK_STAT_CLR_PIN then s
  else
    let s := (s.w F.HK_STAT_CLR_PIN 0 1).w F.HK_EVT_CLEAR_PIN 0 1
    let s := { s with hk := { s.hk with clrAt := s.now } }
    (s.post 656 0x6003).each (List.range 48) dacForces

/-- HK_CLR_N is high again and its force ends (R370). -/
def clearPinEnd (s : State) : State :=
  if !s.on F.HK_STAT_CLR_PIN then s
  else
    let s := s.w F.HK_STAT_CLR_PIN 0 0
    (s.post 656 0x6004 [(4, min ((s.now - s.hk.clrAt) / 1000) (2 ^ 32 - 1))]).each (List.range 48) dacForces

/-- The outputs at FAULT entry (R371). -/
def hkFault (s : State) : State :=
  let s := s.each (List.range 48) fun s c =>
    ((s.w F.HK_DAC_STAT_CLAMP c 0).w F.HK_DAC_STAT_SLEWING c 0).w F.HK_DAC_STAT_OUT c (s.r F.HK_DAC_CFG_CLEAR c)
  s.each (List.range 24) fun s p =>
    ((s.w F.HK_PWM_STAT_STATE p 0).w F.HK_PWM_STAT_PIN p 0).w F.HK_PWM_STAT_ENABLE_PENDING p 0

end State

/-! ### The meanings -/

/-- HK_DAC_SET, R379. -/
def execHkDacSet (q : Fin 32768) (i : Fin 65536) (s : State) : Out := actJob 0x48 q i s fun j s => s.dacSet j

/-- HK_DAC_RANGE, R380. -/
def execHkDacRange (q : Fin 32768) (i : Fin 65536) (s : State) : Out := actJob 0x49 q i s fun j s => s.dacRange j

/-- HK_PWM_SET, R381. -/
def execHkPwmSet (q : Fin 32768) (i : Fin 65536) (s : State) : Out := actJob 0x4A q i s fun j s => s.pwmSet j

/-- DAC_SLEW_TICK, R366. -/
def execDacSlewTick (c : Fin 48) (s : State) : Out := whenLive s fun s => s.slewTick c

/-- RANGE_CLAMP_END, R367. -/
def execRangeClampEnd (c : Fin 48) (s : State) : Out := whenLive s fun s => s.clampEnd c

/-- HK_CLEAR_PIN, R368; without power for the outputs' own state, only the pin is noted. -/
def execHkClearPin (s : State) : Out :=
  let s := { s with hk := { s.hk with clrLow := true } }
  whenLive s State.clearPin

/-- HK_CLEAR_PIN_END, R370. -/
def execHkClearPinEnd (s : State) : Out :=
  let s := { s with hk := { s.hk with clrLow := false } }
  whenLive s State.clearPinEnd

/-- PWM_PERIOD_START, R373. -/
def execPwmPeriodStart (p : Fin 24) (s : State) : Out := whenLive s fun s => s.periodStart p

/-- PWM_ACTIVE_END, R375. -/
def execPwmActiveEnd (p : Fin 24) (s : State) : Out := whenLive s fun s => s.activeEnd p

end Sys2Proof.Machine
end

