-- ==== Sys2Proof/Machine/Slots.lean ====
section
/-! DEFINITION. The slot signals: SLOT_FLT_N, its filter, the hardware squelch and the response of the lanes
(spec/08_transmit_path.md R222, spec/09_lanes_gearbox_host.md R239). -/

namespace Sys2Proof.Machine

open Sys2Proof

namespace State

/-- Slot k's fault pin, and the state with it replaced. -/
def sloth (s : State) (k : Nat) : SlotH := s.slots.get k {}
def setSlot (s : State) (k : Nat) (h : SlotH) : State := { s with slots := s.slots.set k h {} }

/-- The SLOT_FLT_N pin of slot k changes level; a falling edge begins a pulse that the filter judges. -/
def slotPin (s : State) (k : Nat) (high : Bool) : State :=
  let h := s.sloth k
  s.setSlot k { h with low := !high, pulse := h.pulse || (!high && !h.low) }

/-- The filtered state of slot k as SLOT_STAT shows it. -/
def setFlt (s : State) (k : Nat) (b : Bool) : State :=
  s.w F.SLOT_STAT_FLT 0 (setBits (s.r F.SLOT_STAT_FLT) k 1 b.toNat)

/-- One lane of a slot whose filtered state changes: its status and its class 1 squelch (R221, R239). -/
def laneFault (s : State) (n : Nat) (b : Bool) : State :=
  let s := s.wb F.LANE_STAT_SLOT_FAULT n b
  let s := if b then (s.w F.LANE_EVT_SLOT_FAULT n 1).w F.LANE_TX_EVT_SLOT_SQUELCH n 1 else s
  s.squelch F.LANE_TX_STAT_SQ_SLOT n b

/-- Lead lane n in ACQUIRE, TRACK or DEGRADED goes to ACQUIRE and is held before A1 (R230, R239). -/
def laneHeld (s : State) (n : Nat) : State :=
  if s.laneState n == 3 || s.tracking n then s.toAcquire n 6 false else s

/-- A held lane starts a cold acquisition (R239). -/
def laneFreed (s : State) (n : Nat) : State := if s.laneState n == 3 then s.acqBegin n false else s

/-- The filter takes a low pulse of slot k as a fault; one during the 1 ms of recovery only restarts it (R222). -/
def slotFault (s : State) (k : Nat) : State :=
  let h := s.sloth k
  if !h.pulse then s
  else
    let s := s.setSlot k { h with pulse := false, faultAt := if s.slotFaulted k then h.faultAt else s.now }
    if s.slotFaulted k then s
    else
      let s := (s.setFlt k true).w F.SLOT_EVT_FLT 0 (setBits (s.r F.SLOT_EVT_FLT) k 1 1)
      let s := (s.inc F.SLOT_FLT_CNT_COUNT k).post (576 + k) 0x1401
      let s := s.each (slotLanes k) fun s n => s.laneFault n true
      (s.each (s.leads (slotLanes k)) laneHeld).slotForces k

/-- The pin of slot k has been high for 1 ms: the filtered state returns high (R222, R239). -/
def slotClear (s : State) (k : Nat) : State :=
  let h := s.sloth k
  if !s.slotFaulted k || h.low then s
  else
    let s := (s.setFlt k false).post (576 + k) 0x1402 [(4, min ((s.now - h.faultAt) / 1000) (2 ^ 32 - 1))]
    let s := s.each (slotLanes k) fun s n => s.laneFault n false
    (s.each (s.leads (slotLanes k)) laneFreed).slotForces k

end State

/-- The filter acts in every powered state; in FAULT and DUMP the registers it would change are frozen (R222, R438). -/
def whenFiltered (s : State) (t : State → State) : Out := .next (if s.powered && !s.frozen then t s else s)

/-! ### The meanings -/

/-- SLOT_FLT_N_CHANGE, R222: the pin's new level. -/
def execSlotFltNChange (k : Fin 24) (high : Bool) (s : State) : Out := .next (s.slotPin k high)

/-- SLOT_FAULT, R222, R239. -/
def execSlotFault (k : Fin 24) (s : State) : Out := whenFiltered s fun s => s.slotFault k

/-- SLOT_FAULT_CLEAR, R222, R239. -/
def execSlotFaultClear (k : Fin 24) (s : State) : Out := whenFiltered s fun s => s.slotClear k

end Sys2Proof.Machine
end

