-- ==== Sys2Proof/Machine/Thermal.lean ====
section
/-! DEFINITION. Thermal management: sensors, zones, levels, throttle steps, shedding, rail caps and their commands
(spec/14_thermal.md). -/

namespace Sys2Proof.Machine

open Sys2Proof

/-! ### Places, R383 -/

/-- The sensors of zone z. -/
def zoneSensors (z : Nat) : List Nat := (List.range 128).filter fun t => sensorZone t == z

/-- The zones, and those of the die of rail r; the crown zones count for VDD_CORE_C (R393). -/
def allZones : List Nat := List.range 30
def railZones (r : Nat) : List Nat := if r = 0 then List.range 13 else if r = 1 then crownZones else span 17 13

/-- The source numbers of zone z, of sensor t and of the thermal manager (R286). -/
def zoneSrc (z : Nat) : Nat := 728 + z
def sensorSrc (t : Nat) : Nat := 763 + t
def thermalSrc : Nat := 762

/-- One reading against a threshold: `hi` is at or beyond it, `lo` beyond the other side of the hysteresis; the flag sets
and clears with the third consecutive reading (R386, R389). -/
def Dwell.judge (d : Dwell) (hi lo : Bool) : Dwell :=
  let up := if hi then min 3 (d.up + 1) else if lo then 0 else d.up
  let down := if lo then min 3 (d.down + 1) else if hi then 0 else d.down
  { on := if up ≥ 3 then true else if down ≥ 3 then false else d.on, up := up, down := down }

namespace State

/-- The kept parts of a sensor and a zone, and the state with one replaced. -/
def sensorh (s : State) (t : Nat) : SensorH := s.thm.sensors.get t {}
def zoneh (s : State) (z : Nat) : ZoneH := s.thm.zones.get z {}
def setSensor (s : State) (t : Nat) (h : SensorH) : State := { s with thm := { s.thm with sensors := s.thm.sensors.set t h {} } }
def setZone (s : State) (z : Nat) (h : ZoneH) : State := { s with thm := { s.thm with zones := s.thm.zones.set z h {} } }

/-! ### Sensor judgement, R384, R385 -/

/-- Sensor t is excluded from its zone. -/
def sensorFailed (s : State) (t : Nat) : Bool := s.on F.THM_SENSOR_FAILED t

/-- The highest floor of the substitutions in force (R385). -/
def floorNow (s : State) : Nat := s.thm.zones.foldl (fun m z => if z.2.subst.isEmpty then m else max m z.2.floor) 0

/-- FLOOR shows it. -/
def floorShow (s : State) : State := s.w F.THM_STAT_FLOOR 0 s.floorNow

/-- The loss of sensor t substitutes its zone: it was the hottest, and a step is in force (R385). -/
def substitute (s : State) (t : Nat) : State :=
  let z := sensorZone t
  let h := s.zoneh z
  let left := (zoneSensors z).any fun u => !s.sensorFailed u
  if !(s.on F.THM_STAT_STEP && (s.sensorh t).top && left) then s
  else
    let fl := if h.subst.isEmpty then s.r F.THM_STAT_STEP else max h.floor (s.r F.THM_STAT_STEP)
    let s := (s.setZone z { h with subst := h.subst ++ [t], floor := fl }).floorShow
    s.post (zoneSrc z) 0x7009 [(1, t), (1, s.r F.THM_STAT_FLOOR)]

/-- Sensor t fails with a cause. -/
def sensorFail (s : State) (t cause : Nat) : State :=
  let s := (s.w F.THM_SENSOR_FAILED t 1).w F.THM_SENSOR_CAUSE t cause
  let s := s.w F.THM_SENSOR_FAIL_FAIL (t / 32) (setBits (s.r F.THM_SENSOR_FAIL_FAIL (t / 32)) (t % 32) 1 1)
  let s := s.w F.THM_EVT_SENSOR_FAIL 0 1
  let s := s.post (sensorSrc t) 0x7008 [(1, cause), (2, s.r F.THM_SENSOR_TEMP t)]
  (s.setSensor t { s.sensorh t with good := 0 }).substitute t

/-- What Stuck, Range and Rate say of a reading of sensor t: 0 for a good one. The first reading after a re-admission is
checked against Range alone. -/
def sensorCause (h : SensorH) (r : Option Reading) : Nat :=
  match r with
  | none => if h.noConv + 1 ≥ 4 then 1 else 0
  | some r =>
    let v := r.temp.toInt
    let same := if h.prev.isSome && h.raw == r.raw.toNat then h.same + 1 else 1
    if !h.first && same ≥ 64 then 1
    else if v < -880 ∨ 2400 < v then 2
    else match h.prev with
      | some p => if !h.first && 160 < (v - p).natAbs then 3 else 0
      | none => 0

/-- The history of a sensor after a reading that did not fail it. -/
def sensorNext (h : SensorH) (r : Option Reading) : SensorH :=
  match r with
  | none => { h with noConv := h.noConv + 1, good := 0 }
  | some r =>
    let same := if h.prev.isSome && h.raw == r.raw.toNat then h.same + 1 else 1
    { h with noConv := 0, same := same, raw := r.raw.toNat, prev := some r.temp.toInt, good := min 64 (h.good + 1) }

/-- Sensor t's reading of this millisecond: shown, also while failed, and judged by Stuck, Range and Rate. -/
def sensorRead (s : State) (t : Nat) (r : Option Reading) : State :=
  let s := match r with
    | some r => s.w F.THM_SENSOR_TEMP t r.temp.toNat
    | none => s
  if s.sensorFailed t then s
  else
    let c := sensorCause (s.sensorh t) r
    if c = 0 then s.setSensor t (sensorNext (s.sensorh t) r) else s.sensorFail t c

/-- Sensor t delivered a reading that was not its first after a re-admission. -/
def judged (s : State) (rs : List (Option Reading)) (t : Nat) : Bool := (rs.getD t none).isSome && !(s.sensorh t).first

/-- Reading `v` differs by more than 15 C from the median of `l`, the mean of the middle two where their count is even. -/
def offMedian (v : Int) (l : List Int) : Bool :=
  let m := l.mergeSort (· ≤ ·)
  let n := m.length
  n != 0 && decide (480 < (2 * v - (m.getD ((n - 1) / 2) 0 + m.getD (n / 2) 0)).natAbs)

/-- Zone z with three or more valid sensors: how many readings in a row of each disagree; one that is not judged, for want
of a conversion or of another sensor's reading, breaks the row (R384, log 61). -/
def disagree3 (s : State) (rs : List (Option Reading)) (l : List Nat) : List (Nat × Nat) :=
  let now := l.filter fun t => (rs.getD t none).isSome
  let val (t : Nat) : Int := (s.sensorh t).prev.getD 0
  l.map fun t =>
    if s.judged rs t && offMedian (val t) ((now.filter (· != t)).map val) then (t, (s.sensorh t).dis + 1)
    else (t, 0)

/-- Disagree in zone z (R384). -/
def zoneDisagree (s : State) (rs : List (Option Reading)) (z : Nat) : State :=
  let l := (zoneSensors z).filter fun t => !s.sensorFailed t
  let h := s.zoneh z
  if l.length ≥ 3 then
    let d := s.disagree3 rs l
    let s := s.each d fun s p => s.setSensor p.1 { s.sensorh p.1 with dis := p.2 }
    (s.setZone z { h with pair := 0 }).each (d.filter fun p => p.2 ≥ 3) fun s p => s.sensorFail p.1 4
  else
    let s := s.each l fun s t => s.setSensor t { s.sensorh t with dis := 0 }
    match l with
    | [a, b] =>
      let va := (s.sensorh a).prev.getD 0
      let vb := (s.sensorh b).prev.getD 0
      let n := if s.judged rs a && s.judged rs b && decide (240 < (va - vb).natAbs) then h.pair + 1 else 0
      let s := s.setZone z { h with pair := n }
      if n ≥ 3 then s.sensorFail (if va < vb then a else b) 4 else s
    | _ => s.setZone z { h with pair := 0 }

/-- All sensors are read and judged. -/
def readSensors (s : State) (rs : List (Option Reading)) : State :=
  let s := s.each (List.range 128) fun s t => s.sensorRead t (rs.getD t none)
  let s := s.each allZones fun s z => s.zoneDisagree rs z
  s.each ((List.range 128).filter fun t => (rs.getD t none).isSome) fun s t =>
    s.setSensor t { s.sensorh t with first := false }

/-- A 1 written to sensor t's failure bit re-admits it: its history clears, and a substitution ends with its last cause
(R384, R385). -/
def readmit (s : State) (t : Nat) : State :=
  let s := s.w F.THM_SENSOR_FAIL_FAIL (t / 32) (setBits (s.r F.THM_SENSOR_FAIL_FAIL (t / 32)) (t % 32) 1 0)
  if !s.sensorFailed t then s
  else
    let z := sensorZone t
    let s := (s.w F.THM_SENSOR_FAILED t 0).w F.THM_SENSOR_CAUSE t 0
    let s := s.setSensor t { first := true }
    let h := s.zoneh z
    let left := h.subst.filter (· != t)
    (s.setZone z { h with pair := 0, subst := left, floor := if left.isEmpty then 0 else h.floor }).floorShow

/-! ### Zones and levels, R385, R386 -/

/-- The valid sensors of a zone that have a reading, with it. -/
def zoneReadings (s : State) (z : Nat) : List (Nat × Int) :=
  (zoneSensors z).filterMap fun t =>
    if s.sensorFailed t then none else (s.sensorh t).prev.map fun v => (t, v)

/-- Zone z's temperature, from its valid sensors' last readings, and whether each that has delivered one now is its
highest at it (R385). -/
def zoneForm (s : State) (z : Nat) : State :=
  let l := s.zoneReadings z
  let h := s.zoneh z
  let valid := ((zoneSensors z).filter fun t => !s.sensorFailed t).length
  let none' := valid == 0
  let s := if none' && !s.on F.THM_ZONE_NO_SENSOR z then s.post (zoneSrc z) 0x700A else s
  let s := (s.wb F.THM_ZONE_NO_SENSOR z none').w F.THM_ZONE_VALID z valid
  let s := s.wb F.THM_ZONE_SUBST z (!h.subst.isEmpty)
  match l with
  | [] => s
  | p :: ps =>
    let top := ps.foldl (fun m q => max m q.2) p.2
    let temp := if h.subst.isEmpty then top else min 32767 (top + 4 * s.r F.THM_ZONE_LIM_OFFSET z)
    let s := s.each (l.filter fun q => (s.sensorh q.1).noConv == 0) fun s q =>
      s.setSensor q.1 { s.sensorh q.1 with top := q.2 == top }
    (s.wi F.THM_ZONE_TEMP z temp).setZone z { s.zoneh z with has := true }

/-- The level of zone z (R385, R386). -/
def zoneLevel (s : State) (z : Nat) : Nat :=
  let h := s.zoneh z
  if s.on F.THM_ZONE_NO_SENSOR z || h.shut.on then 3 else if h.throttle.on then 2 else if h.warn.on then 1 else 0

/-- A zone whose temperature counts: it has had a reading and has a sensor. -/
def zoneCounts (s : State) (z : Nat) : Bool := (s.zoneh z).has && !s.on F.THM_ZONE_NO_SENSOR z

/-- Zone z's flags and level; its events (R386, R387). -/
def zoneJudge (s : State) (z : Nat) : State :=
  let h := s.zoneh z
  let v := s.ri F.THM_ZONE_TEMP z
  let hyst : Int := 4 * s.r F.THM_ZONE_LIM_HYST z
  let one (d : Dwell) (f : Fld) : Dwell := d.judge (decide (s.ri f z ≤ v)) (decide (v < s.ri f z - hyst))
  let s := if s.zoneCounts z then
      s.setZone z { h with warn := one h.warn F.THM_ZONE_LIM_WARN, throttle := one h.throttle F.THM_ZONE_LIM_THROTTLE,
                           shut := one h.shut F.THM_ZONE_LIM_SHUTDOWN }
    else s
  let old := s.r F.THM_ZONE_LEVEL z
  let new := s.zoneLevel z
  let s := s.w F.THM_ZONE_LEVEL z new
  let t := s.r F.THM_ZONE_TEMP z
  if old < new then
    (if new = 1 then s.post (zoneSrc z) 0x7001 [(2, t)] else if new = 2 then s.post (zoneSrc z) 0x7002 [(2, t)] else s)
  else if new < old then s.post (zoneSrc z) 0x7003 [(1, new), (2, t)]
  else s

/-- The hotter of two zones, the lower-numbered on a tie. -/
def hotter (s : State) (a b : Nat) : Nat :=
  if s.ri F.THM_ZONE_TEMP a < s.ri F.THM_ZONE_TEMP b ∨ (s.ri F.THM_ZONE_TEMP a = s.ri F.THM_ZONE_TEMP b ∧ b < a) then b else a

/-- The hottest of a list of zones. -/
def hottest (s : State) : List Nat → Option Nat
  | [] => none
  | z :: zs => some (zs.foldl s.hotter z)

/-- The coldest temperature of the zones that count. -/
def coldest (s : State) : Option Int :=
  match (allZones.filter s.zoneCounts).map fun z => s.ri F.THM_ZONE_TEMP z with
  | [] => none
  | v :: vs => some (vs.foldl min v)

/-! ### Cold flags, R389 -/

/-- One flag against its limit. -/
def coldJudge (d : Dwell) (lim v : Int) : Dwell := d.judge (decide (v < lim)) (decide (lim + 48 ≤ v))

/-- The cold flags follow the coldest zone. -/
def coldFlags (s : State) : State :=
  match s.coldest with
  | none => s
  | some v =>
    let w := coldJudge s.thm.coldWarn (s.ri F.THM_COLD_LIM_WARN) v
    let i := coldJudge s.thm.coldInhibit (s.ri F.THM_COLD_LIM_INHIBIT) v
    let wasW := s.thm.coldWarn.on
    let wasI := s.thm.coldInhibit.on
    let s := { s with thm := { s.thm with coldWarn := w, coldInhibit := i,
                                          coldAt := if w.on && !wasW then s.now else s.thm.coldAt } }
    let s := (s.wb F.THM_STAT_COLD_WARN 0 w.on).wb F.THM_STAT_COLD_INHIBIT 0 i.on
    let s := if i.on && !wasI then (s.w F.THM_EVT_COLD_INHIBIT 0 1).post thermalSrc 0x700C [(2, uint 16 v)] else s
    if w.on && !wasW then s.post thermalSrc 0x700B [(2, uint 16 v)]
    else if wasW && !w.on then s.post thermalSrc 0x700D [(4, min ((s.now - s.thm.coldAt) / 1000) (2 ^ 32 - 1))]
    else s

/-! ### Throttle steps and shedding, R390-R392 -/

/-- TS_PASS of an island at a step; the other islands stay at 16 (R79, R390). -/
def tsPass (step i : Nat) : Nat :=
  let row : List Nat := match step with
    | 0 => [16, 16, 16, 16] | 1 => [16, 8, 16, 16] | 2 => [16, 4, 8, 16] | 3 => [12, 2, 8, 16]
    | 4 => [8, 1, 4, 16] | 5 => [8, 1, 4, 8] | _ => [8, 1, 4, 4]
  if i = 16 then row.getD 0 16 else if i = 19 then row.getD 1 16 else if i = 20 then row.getD 2 16
  else if i = 15 ∨ i = 39 then row.getD 3 16 else 16

/-- The step changes (R390, R391). -/
def setStep (s : State) (new : Nat) : State :=
  let old := s.r F.THM_STAT_STEP
  let s := { s with thm := { s.thm with since := 0 } }
  let s := s.w F.THM_STAT_STEP 0 new
  let s := s.each [15, 16, 19, 20, 39] fun s i => s.w F.SYS_ISL_MARGIN_TS_PASS i (tsPass new i)
  let s := if old = 0 then (s.inc F.THM_CNT_THROTTLES 0).w F.THM_EVT_THROTTLE 0 1 else s
  s.post thermalSrc 0x7005 [(1, old), (1, new)]

/-- Entry i of the shed order. -/
def shedEntry (s : State) (i : Nat) : Nat :=
  match i % 4 with
  | 0 => s.r F.THM_SHED_ORDER_E0 (i / 4)
  | 1 => s.r F.THM_SHED_ORDER_E1 (i / 4)
  | 2 => s.r F.THM_SHED_ORDER_E2 (i / 4)
  | _ => s.r F.THM_SHED_ORDER_E3 (i / 4)

/-- The zones at THROTTLE or above. -/
def hotZones (s : State) : List Nat := allZones.filter fun z => s.r F.THM_ZONE_LEVEL z ≥ 2

/-- Slot k counts for a shed when zone z is the hottest: of its die, or any where it is a crown zone. -/
def shedSide (z k : Nat) : Bool := crownZones.contains z || (if z < 13 then k < 12 else 12 ≤ k)

/-- The slot to shed next (R392). -/
def shedCandidate (s : State) : Option Nat :=
  match s.hottest s.hotZones with
  | none => none
  | some z =>
    ((List.range (s.r F.THM_SHED_COUNT_COUNT)).map s.shedEntry).find? fun k => shedSide z k && !bitAt (s.r F.THM_SHED_SLOT) k

/-- Bit k of THM_SHED. -/
def setShed (s : State) (k : Nat) (b : Bool) : State :=
  s.w F.THM_SHED_SLOT 0 (setBits (s.r F.THM_SHED_SLOT) k 1 b.toNat)

/-- Slot k is shed (R392); with the lanes frozen only SHED and the forces change (R394). -/
def shedSlot (s : State) (k : Nat) : State :=
  let s := { s with thm := { s.thm with shed := s.thm.shed ++ [(k, s.now)] } }
  let s := ((s.setShed k true).inc F.THM_CNT_SHEDS 0).w F.THM_EVT_SHED 0 1
  let s := s.post thermalSrc 0x7006 [(1, k)]
  let s := if s.frozen then s.each (slotLanes k) fun s n => s.w F.LANE_STAT_SHED n 1
    else s.each (s.leads (slotLanes k)) shedLane
  s.slotForces k

/-- The slot shed last is released (R392). -/
def shedRelease (s : State) : State :=
  match s.thm.shed.getLast? with
  | none => s
  | some (k, at_) =>
    let s := { s with thm := { s.thm with shed := s.thm.shed.dropLast } }
    let s := (s.setShed k false).post thermalSrc 0x7007 [(1, k), (4, min ((s.now - at_) / 1000) (2 ^ 32 - 1))]
    let s := if s.frozen then s.each (slotLanes k) fun s n => s.w F.LANE_STAT_SHED n 0
      else s.each (s.leads (slotLanes k)) unshedLane
    s.slotForces k

/-- One evaluation of R391. -/
def throttle (s : State) : State :=
  let s := { s with thm := { s.thm with since := s.thm.since + 1 } }
  let step := s.r F.THM_STAT_STEP
  if !s.hotZones.isEmpty then
    let s := { s with thm := { s.thm with calm := 0 } }
    if step < 6 then (if s.r F.THM_TIMING_LO_STEP_MS ≤ s.thm.since then s.setStep (step + 1) else s)
    else if s.thm.since < s.r F.THM_TIMING_LO_SHED_MS then s
    else match s.shedCandidate with
      | some k => (s.shedSlot k).setStep (step + 1)
      | none => s
  else
    let s := { s with thm := { s.thm with calm := s.thm.calm + 1 } }
    let ms := s.r F.THM_TIMING_HI_RETREAT_MS
    if ms ≤ s.thm.calm && ms ≤ s.thm.since && s.r F.THM_STAT_FLOOR < step then
      (if step > 6 then s.shedRelease else s).setStep (step - 1)
    else s

/-! ### Rail caps, R393 -/

/-- The cap of rail r, never below VMIN (R76). -/
def railCap (s : State) (r : Nat) : State :=
  let hot := (railZones r).any fun z => s.r F.THM_ZONE_LEVEL z ≥ 2
  let vmax := s.r F.SYS_RAIL_CFG_VMAX r
  let critical := (islandsOf r).any fun i => isPayload i && s.on F.SYS_ISL_MARGIN_CRITICAL i
  let was := s.thm.frozen.contains r
  let base := if !hot then vmax else if was then s.r F.SYS_RAIL_STAT_CAP r else s.r F.SYS_RAIL_STAT_SETPOINT r
  let cap := max (if hot && critical then min (base + 5) vmax else base) (s.r F.SYS_RAIL_CFG_VMIN r)
  let s := { s with thm := { s.thm with frozen := if !hot then s.thm.frozen.filter (· != r)
                                                  else if was then s.thm.frozen else s.thm.frozen ++ [r] } }
  if cap = s.r F.SYS_RAIL_STAT_CAP r then s else (s.w F.SYS_RAIL_STAT_CAP r cap).each (islandsOf r) marginFlags

/-! ### The tick -/

/-- The device-wide registers follow the zones. -/
def thermalShow (s : State) : State :=
  let l := allZones.filter s.zoneCounts
  let s := s.w F.THM_STAT_MAX_LEVEL 0 (allZones.foldl (fun m z => max m (s.r F.THM_ZONE_LEVEL z)) 0)
  match s.hottest l, s.coldest with
  | some z, some v =>
    ((s.w F.THM_STAT_HOT_ZONE 0 z).w F.THM_DEV_TEMP_HOTTEST 0 (s.r F.THM_ZONE_TEMP z)).wi F.THM_DEV_TEMP_COLDEST 0 v
  | _, _ => s

/-- Sensors, zones and levels of one millisecond; RESET runs this part alone (R388). -/
def thermalSense (s : State) (rs : List (Option Reading)) : State :=
  let s := (s.readSensors rs).each allZones zoneForm
  (s.each allZones zoneJudge).thermalShow

/-- The zones that entered SHUTDOWN since `old`. -/
def shutZones (s old : State) : List Nat :=
  allZones.filter fun z => s.r F.THM_ZONE_LEVEL z == 3 && old.r F.THM_ZONE_LEVEL z != 3

/-- The zone that a shutdown names is recorded (R387). -/
def shutRecord (s : State) (z : Nat) : State :=
  ((s.w F.THM_SHUT_INFO_VALID 0 1).w F.THM_SHUT_INFO_ZONE 0 z).w F.THM_SHUT_INFO_TEMP 0 (s.r F.THM_ZONE_TEMP z)

/-- The rest of a millisecond without a shutdown: cold flags, steps, caps (R389-R394). -/
def thermalAct (s : State) : State := ((s.coldFlags).throttle).each [0, 1, 2] railCap

/-- Every zone is below its shutdown level by the hysteresis and has a sensor judged valid over 64 readings (R388). -/
def thermalCool (s : State) : Bool :=
  allZones.all fun z =>
    s.zoneCounts z && decide (s.ri F.THM_ZONE_TEMP z < s.ri F.THM_ZONE_LIM_SHUTDOWN z - 4 * s.r F.THM_ZONE_LIM_HYST z) &&
      (zoneSensors z).any fun t => !s.sensorFailed t && (s.sensorh t).good ≥ 64

/-! ### Commands, R397, R398 -/

/-- The values of zone z that THERM_LIMITS would leave satisfy R397. -/
def zoneLimitsOk (s : State) (j : Job) (z : Nat) : Bool :=
  let v := j.p 4 1
  let pick (b : Nat) (f : Fld) (k : Nat) : Int := if bitAt v b then sint 16 (j.p k 2) else s.ri f z
  let warn := pick 0 F.THM_ZONE_LIM_WARN 8
  let thr := pick 1 F.THM_ZONE_LIM_THROTTLE 10
  let shut := pick 2 F.THM_ZONE_LIM_SHUTDOWN 12
  let hyst : Int := 4 * (if bitAt v 3 then j.p 5 1 else s.r F.THM_ZONE_LIM_HYST z : Nat)
  decide (960 ≤ warn ∧ warn ≤ thr ∧ thr < shut ∧ shut ≤ 1840 ∧ warn - 160 ≤ thr - hyst)

/-- The zones of ZONE_MASK. -/
def limitZones (j : Job) : List Nat := whichBelow 30 fun z => bitAt (j.p 0 4) z

/-- THERM_LIMITS keeps R397. -/
def limitsOk (s : State) (j : Job) : Bool :=
  let v := j.p 4 1
  let cw := sint 16 (j.p 14 2)
  let ci := sint 16 (j.p 16 2)
  decide (j.p 0 4 < 2 ^ 30) && v < 128 && j.pz 7 1 && j.pz 24 8 && (v % 32 == 0 || j.p 0 4 != 0) &&
    (!bitAt v 3 || (4 ≤ j.p 5 1 && j.p 5 1 ≤ 0x28)) && (!bitAt v 4 || j.p 6 1 ≤ 0x50) &&
    (!bitAt v 5 || decide (-160 ≤ ci ∧ ci < cw ∧ cw ≤ 320)) &&
    (!bitAt v 6 || (1 ≤ j.p 18 2 && j.p 18 2 ≤ 1000 && 1 ≤ j.p 20 2 && j.p 20 2 ≤ 10000 && 10 ≤ j.p 22 2 &&
      j.p 22 2 ≤ 10000)) &&
    (limitZones j).all (s.zoneLimitsOk j)

/-- The zone fields of THERM_LIMITS at zone z. -/
def setLimits (s : State) (j : Job) (z : Nat) : State :=
  let v := j.p 4 1
  let set (s : State) (b : Nat) (f : Fld) (x : Nat) : State := if bitAt v b then s.w f z x else s
  set (set (set (set (set s 0 F.THM_ZONE_LIM_WARN (j.p 8 2)) 1 F.THM_ZONE_LIM_THROTTLE (j.p 10 2))
    2 F.THM_ZONE_LIM_SHUTDOWN (j.p 12 2)) 3 F.THM_ZONE_LIM_HYST (j.p 5 1)) 4 F.THM_ZONE_LIM_OFFSET (j.p 6 1)

/-- THERM_LIMITS (R397). -/
def thermLimits (s : State) (j : Job) : State :=
  let v := j.p 4 1
  if !s.limitsOk j then s.finish j.ring j.idx .badParam
  else
    let s := s.each (limitZones j) fun s z => s.setLimits j z
    let s := if bitAt v 5 then (s.w F.THM_COLD_LIM_WARN 0 (j.p 14 2)).w F.THM_COLD_LIM_INHIBIT 0 (j.p 16 2) else s
    let s := if bitAt v 6 then
        ((s.w F.THM_TIMING_LO_STEP_MS 0 (j.p 18 2)).w F.THM_TIMING_LO_SHED_MS 0 (j.p 20 2)).w F.THM_TIMING_HI_RETREAT_MS 0
          (j.p 22 2)
      else s
    s.finish j.ring j.idx .ok

/-- Entry i of the shed order takes a slot. -/
def setShedEntry (s : State) (i k : Nat) : State :=
  match i % 4 with
  | 0 => s.w F.THM_SHED_ORDER_E0 (i / 4) k
  | 1 => s.w F.THM_SHED_ORDER_E1 (i / 4) k
  | 2 => s.w F.THM_SHED_ORDER_E2 (i / 4) k
  | _ => s.w F.THM_SHED_ORDER_E3 (i / 4) k

/-- A list names no number twice. -/
def distinct : List Nat → Bool
  | [] => true
  | a :: l => !l.contains a && distinct l

/-- THERM_SHED_ORDER (R398). -/
def thermShedOrder (s : State) (j : Job) : State :=
  let n := j.p 0 1
  let l := (List.range n).map fun i => j.p (8 + i) 1
  if !(n ≤ 24 && j.pz 1 7 && j.pz (8 + n) (24 - n) && l.all (· ≤ 23) && distinct l) then s.finish j.ring j.idx .badParam
  else
    let s := s.each (List.range 24) fun s i => s.setShedEntry i (l.getD i 0)
    (s.w F.THM_SHED_COUNT_COUNT 0 n).finish j.ring j.idx .ok

end State

/-! ### The meanings -/

/-- THERM_LIMITS, R397. -/
def execThermLimits (q : Fin 32768) (i : Fin 65536) (s : State) : Out := actJob 0x50 q i s fun j s => s.thermLimits j

/-- THERM_SHED_ORDER, R398. -/
def execThermShedOrder (q : Fin 32768) (i : Fin 65536) (s : State) : Out :=
  actJob 0x51 q i s fun j s => s.thermShedOrder j

end Sys2Proof.Machine
end

