-- ==== Sys2Proof/Machine/Serial.lean ====
section
/-! DEFINITION. The master side of the management serial port: frames, execute-in-place and MSP_XFER
(spec/15_serial_port.md R400-R413). -/

namespace Sys2Proof.Machine

open Sys2Proof

/-- The source numbers of the master and of the slave (R426). -/
def mspmSrc : Nat := 759
def mspsSrc : Nat := 760

/-- A target code that R404 defines. -/
def targetOk (t : Nat) : Bool := t ≤ 1 || (16 ≤ t && t ≤ 31)

/-! ### The phases of a frame, R401, R402, R405 -/

/-- The lanes of a phase by its code: 1, 2, 4 or 8. -/
def phaseLanes (ph : Nat) : Nat := 2 ^ (ph % 4)

/-- What stands on the lanes for a byte, one number a transfer, its most significant bits first. -/
def byteTransfers (lanes b : Nat) : List Nat :=
  (List.range (8 / lanes)).map fun k => b / 2 ^ (8 - lanes * (k + 1)) % 2 ^ lanes

/-- The clocks of a phase of `n` bytes: a transfer a clock, or one on each edge. -/
def phaseClocks (ph n : Nat) : Nat := ceilDiv (n * (8 / phaseLanes ph)) (if bitAt ph 2 then 2 else 1)

/-- The clocks of a frame. -/
def Frame.clocks (f : Frame) : Nat :=
  phaseClocks f.phCmd f.cmd.length + phaseClocks f.phAddr f.addr.length + f.dummy + phaseClocks f.phData f.data.length

/-- MSPM_DQ during one transfer: the lanes the port drives with what it drives, and the lanes it takes; all others, and
lanes neither driven nor taken, are at high impedance (R400, R402). -/
structure DqCell where
  drive : Nat := 0
  value : Nat := 0
  take : Nat := 0
deriving DecidableEq, Repr

/-- The transfers of a phase of bytes: one lane goes out on MSPM_DQ[0] and comes in on MSPM_DQ[1], more lanes lie on the
lowest ones both ways (R402). -/
def dqPhase (ph : Nat) (read : Bool) (bs : List Nat) : List DqCell :=
  let n := phaseLanes ph
  (bs.flatMap (byteTransfers n)).map fun v =>
    if read then { take := if n = 1 then 2 else 2 ^ n - 1 } else { drive := 2 ^ n - 1, value := v }

/-- The transfers of a frame in order; the dummy phase drives its mode byte alone (R402, R410). -/
def Frame.cells (f : Frame) : List DqCell :=
  dqPhase f.phCmd false f.cmd ++ dqPhase f.phAddr false f.addr ++ dqPhase f.phAddr false f.mode.toList ++
    List.replicate (f.dummy - phaseClocks f.phAddr f.mode.toList.length) ({} : DqCell) ++ dqPhase f.phData f.read f.data

/-- MSPM_DQ at the time points D0 to D5: high impedance outside the frame, but for the first bit from D1 on with CPHA 0
(R401, R405). -/
def Frame.dqAt (cpha : Bool) (f : Frame) : Nat → DqCell
  | 1 => if cpha then ({} : DqCell) else f.cells.headD ({} : DqCell)
  | 2 => f.cells.headD ({} : DqCell)
  | 3 => f.cells.getLastD ({} : DqCell)
  | _ => ({} : DqCell)

/-- A value's low `n` bytes, the most significant first. -/
def addrBytes (n v : Nat) : List Nat := (leBytes n v).reverse

/-- The time points D1 to D5 of a frame after D0, in cycles of 1.25 ns, with MSPM_CLK at 800 MHz ÷ `div` (R401, R405). -/
def framePoints (div : Nat) (f : Frame) : List Nat :=
  let d2 := 4 + max div 4
  let d3 := d2 + div * f.clocks
  [4, d2, d3, d3 + max div 4, d3 + max div 4 + 4]

/-- The data is sampled on rising edges of MSPM_CLK in this clock shape, and launched on the other ones (R401). -/
def sampleRising (cpol cpha : Bool) : Bool := cpol == cpha
def launchRising (cpol cpha : Bool) : Bool := !sampleRising cpol cpha

/-- When SDR transfer `k` of a frame is launched, and when it is sampled, in cycles of 1.25 ns after D0: with CPHA 0 the
first bit at select assertion and each later one half a period before its sampling edge (R401, R403, R405). -/
def launchAt (div : Nat) (cpha : Bool) (k : Nat) : Nat :=
  let d2 := 4 + max div 4
  if cpha then d2 + div * k else if k = 0 then 4 else d2 + div * k - div / 2
def sampleAt (div : Nat) (cpha : Bool) (dly k : Nat) : Nat :=
  4 + max div 4 + div * k + (if cpha then div / 2 else 0) + dly

namespace State

/-- A register of the master changes, unless FAULT or DUMP freezes it (R438). -/
def mspW (s : State) (f : Fld) (v : Nat) : State := if s.frozen then s else s.w f 0 v
def mspInc (s : State) (f : Fld) : State := if s.frozen then s else s.inc f 0

/-- The port's parts beside its registers, replaced. -/
def setMsp (s : State) (m : MspH) : State := { s with msp := m }

/-! ### Execute-in-place, R408-R411 -/

/-- The target of the window, and frames to it. -/
def xipTgt (s : State) : Nat := s.r F.MSPM_XIP_CFG0_XIP_TGT

/-- Every line is invalid (R409, R411). -/
def xipDrop (s : State) : State := s.setMsp { s.msp with lines := [] }

/-- The clock shape and the sampling delay that MSPM_CFG sets for every target (R401, R403). -/
def clockShape (s : State) : Bool × Bool × Nat :=
  (s.on F.MSPM_CFG_CPOL, s.on F.MSPM_CFG_CPHA, s.r F.MSPM_CFG_SAMPLE_DLY)

/-- The target is in continuous mode, or not; MSPM_STAT shows it unless it is frozen (R410, R438). -/
def setCont (s : State) (b : Bool) : State := (s.setMsp { s.msp with cont := b }).mspW F.MSPM_STAT_CONT_ACTIVE b.toNat

/-- A change of EN: every line is invalid and no fill waits (R409); the first fill after a change of EN or CONT_EN carries
its command (R410). -/
def xipRestart (s : State) : State := (s.setMsp { s.msp with lines := [], fills := [] }).setCont false

/-- Line `l` is valid, or its fill is requested. -/
def xipValid (s : State) (l : Nat) : Bool := s.msp.lines.any fun x => x.1 == l
def xipAsked (s : State) (l : Nat) : Bool := s.msp.fills.any fun f => f.line == l

/-- The bytes of window line `l`, which offset 64 l and the 63 after it read as (R408). -/
def xipLine (s : State) (l : Nat) : List Nat := ((s.msp.lines.find? fun x => x.1 == l).map (·.2)).getD []

/-- A read of window line `l`: a hit is served from it and makes it the most recently used, a miss requests its fill, and a
read of a line whose fill is requested waits for that one (R409). -/
def xipRead (s : State) (l : Nat) : State :=
  if !s.on F.MSPM_XIP_CFG0_EN then s
  else if s.xipValid l then
    let hit := s.msp.lines.filter fun x => x.1 == l
    let rest := s.msp.lines.filter fun x => x.1 != l
    (s.setMsp { s.msp with lines := hit ++ rest, window := s.xipLine l }).mspInc F.MSPM_XIP_HIT_COUNT
  else if s.xipAsked l then
    s.setMsp { s.msp with fills := s.msp.fills.map fun f => if f.line == l then { f with reader := true } else f }
  else (s.setMsp { s.msp with fills := s.msp.fills ++ [{ line := l, prefetch := false }] }).mspInc F.MSPM_XIP_MISS_COUNT

/-- A fill's 64 bytes become a line, in place of the least recently used of four, and serve the read that waits for them;
a miss asks for the next line (R409). -/
def xipFill (s : State) (f : Fill) (data : List Nat) : State :=
  let line := (List.range 64).map fun k => byteAt data k
  let s := s.setMsp { s.msp with lines := ((f.line, line) :: s.msp.lines.filter fun x => x.1 != f.line).take 4,
                                 window := if f.reader then line else s.msp.window }
  if !f.prefetch && s.on F.MSPM_XIP_CFG0_PREFETCH_EN && f.line + 1 < 2 ^ 20 && !s.xipValid (f.line + 1) &&
      !s.xipAsked (f.line + 1) then
    s.setMsp { s.msp with fills := s.msp.fills ++ [{ line := f.line + 1, prefetch := true }] }
  else s

/-! ### Frames, R402-R411 -/

/-- The window's line fill, with the data the target gave (R408, R410): in continuous mode the mode byte stands at the start
of the dummy phase, and a fill but the first carries no command. -/
def fillFrameOf (s : State) (line : Nat) (data : List Nat) : Frame :=
  let n := s.r F.MSPM_XIP_CFG0_CMD_LEN
  let cmd := [s.r F.MSPM_XIP_CFG1_CMD0, s.r F.MSPM_XIP_CFG1_CMD1].take n
  { cls := 2, tgt := s.xipTgt, cmd := if s.msp.cont then [] else cmd,
    addr := addrBytes (s.r F.MSPM_XIP_CFG0_ADDR_LEN) (64 * line), dummy := s.r F.MSPM_XIP_CFG0_DUMMY,
    mode := if s.on F.MSPM_XIP_CFG0_CONT_EN then some (s.r F.MSPM_XIP_CFG1_MODE_BYTE) else none, read := true,
    data := (List.range 64).map (byteAt data), phCmd := s.r F.MSPM_XIP_CFG0_PH_CMD,
    phAddr := s.r F.MSPM_XIP_CFG0_PH_ADDR, phData := s.r F.MSPM_XIP_CFG0_PH_DATA }

/-- The exit frame of continuous mode: no command, an address of zeros, EXIT_BYTE for the mode byte and no data (R410). -/
def exitFrameOf (s : State) (c : Nat) : Frame :=
  { cls := c, tgt := s.xipTgt, addr := List.replicate (s.r F.MSPM_XIP_CFG0_ADDR_LEN) 0, dummy := s.r F.MSPM_XIP_CFG0_DUMMY,
    mode := some (s.r F.MSPM_XIP_CFG1_EXIT_BYTE), phAddr := s.r F.MSPM_XIP_CFG0_PH_ADDR }

/-- A frame of the firmware, with the data that a read of it gives (R402). -/
def fwFrameOf (f : FwFrame) (data : List Nat) : Frame :=
  { cls := 1, tgt := f.tgt, cmd := f.cmd.map BitVec.toNat, addr := f.addr.map BitVec.toNat, dummy := f.dummy,
    read := f.read, data := if f.read then data else f.data.map BitVec.toNat, phCmd := f.phCmd, phAddr := f.phAddr,
    phData := f.phData }

/-- The frames of a grant: the exit frame goes before one of class 1 or 3 to XIP_TGT (R410). MSPM_SEL stands at the last
decoded target (R405). -/
def frameLog (s : State) (c t : Nat) (f : Frame) : State :=
  let exit := c != 2 && t == s.xipTgt && s.msp.cont
  s.setMsp { s.msp with sent := (if exit then [s.exitFrameOf c] else []) ++ [f],
                        sel := if 16 ≤ t then t - 16 else s.msp.sel }

/-- A frame of class `c` to target `t` has run; `drops` is false for one with a read data phase. The exit frame of
continuous mode goes before one of class 1 or 3 to XIP_TGT, and one that may change the target's content invalidates the
lines (R410, R411). -/
def frameRun (s : State) (c t : Nat) (drops : Bool) : State :=
  let toXip := c != 2 && t == s.xipTgt
  let s := if toXip && s.msp.cont then (s.mspInc F.MSPM_FRAMES_COUNT).setCont false else s
  let s := (s.mspInc F.MSPM_FRAMES_COUNT).mspW F.MSPM_STAT_TGT t
  if toXip && drops then s.xipDrop else s

/-- No strobe came in a DDR read (R403, R444). -/
def dqsTimeout (s : State) (c t : Nat) : State :=
  let s := (s.mspW F.MSPM_EVT_DQS_TIMEOUT 1).post mspmSrc 0x9001 [(1, t), (1, c)]
  if c == 1 && s.dev == .dump && s.sys.dump == some .flash then
    { (s.w F.SYS_DUMP_STAT_FLASH 0 3) with sys := { s.sys with dump := some .ended } }
  else s

/-- A class 1 frame may run: in BOOT boot reads, in DUMP those of the summary, in FAULT none (R407); boot flash, which the
summary is written to, is target 0 (R430). -/
def fwMay (s : State) (f : FwFrame) : Bool :=
  targetOk f.tgt.val &&
    (match s.dev with
     | .boot => f.read
     | .fault => false
     | .dump => s.sys.dump == some .flash && f.tgt == 0
     | _ => true)

/-- A class 1 frame (R407). -/
def fwFrame (s : State) (f : FwFrame) (data : List Nat) (strobe : Bool) : State :=
  let s := (s.frameLog 1 f.tgt.val (fwFrameOf f data)).frameRun 1 f.tgt.val (!f.read)
  if f.read && f.ddr && !strobe then s.dqsTimeout 1 f.tgt.val else s

/-- A class 2 frame: the oldest fill (R408, R410). -/
def fillFrame (s : State) (f : Fill) (data : List Nat) (strobe : Bool) : State :=
  let t := s.xipTgt
  let s := s.frameLog 2 t (s.fillFrameOf f.line data)
  let s := s.setMsp { s.msp with fills := s.msp.fills.drop 1 }
  let s := (s.frameRun 2 t false).setCont (s.on F.MSPM_XIP_CFG0_CONT_EN)
  if bitAt (s.r F.MSPM_XIP_CFG0_PH_DATA) 2 && !strobe then s.dqsTimeout 2 t else s.xipFill f data

/-! ### MSP_XFER, R412, R413 -/

/-- FLAGS and DATA_LEN of a transfer. -/
def Job.xRead (j : Job) : Bool := bitAt (j.p 1 1) 0
def Job.xNvw (j : Job) : Bool := bitAt (j.p 1 1) 1
def Job.xPoll (j : Job) : Bool := bitAt (j.p 1 1) 2
def Job.xLen (j : Job) : Nat := j.p 16 4

/-- The parameter bytes and buffers keep R412 and R413. -/
def xferOk (j : Job) : Bool :=
  targetOk (j.p 0 1) && j.p 1 1 < 8 && j.p 2 1 ≤ 2 && j.p 3 1 ≤ 4 && j.p 4 1 ≤ 31 && j.p 5 1 < 8 && j.p 6 1 < 8 &&
    j.p 7 1 < 8 && j.pz 10 2 && Job.xLen j ≤ 65536 && j.pz 28 4 &&
    !(j.p 2 1 == 0 && j.p 3 1 == 0 && j.p 4 1 == 0 && Job.xLen j == 0) &&
    (if Job.xRead j then j.len0 == 0 && j.addr0 == 0 && Job.xLen j ≤ j.len1
     else j.len0 == Job.xLen j && j.len1 == 0 && j.addr1 == 0) &&
    (if Job.xPoll j then Job.xRead j && Job.xLen j == 1 && 1 ≤ j.p 22 2 && 1 ≤ j.p 24 4 && j.p 24 4 ≤ 60000
     else j.pz 20 8)

/-- The frame of a transfer, with the bytes that a read gave (R402, R412). -/
def xferFrameOf (s : State) (j : Job) (data : List Nat) : Frame :=
  { cls := 3, tgt := j.p 0 1, cmd := [j.p 8 1, j.p 9 1].take (j.p 2 1), addr := addrBytes (j.p 3 1) (j.p 12 4),
    dummy := j.p 4 1, read := Job.xRead j,
    data := if Job.xRead j then (List.range (Job.xLen j)).map (byteAt data) else s.hostMem.readN j.addr0 (Job.xLen j),
    phCmd := j.p 5 1, phAddr := j.p 6 1, phData := j.p 7 1 }

/-- MSP_XFER asks for its first frame. -/
def mspXfer (s : State) (j : Job) : State :=
  if !xferOk j then s.finish j.ring j.idx .badParam
  else
    let s := s.setMsp { s.msp with xfers := s.msp.xfers ++ [({ job := j } : Xfer)] }
    s.await j.ring j.idx [.xfer]

/-- Of two transfers that wait for the port, the one the round robin over rings takes, the earlier of one ring (R43). -/
def xferFirst (s : State) (a b : Xfer) : Xfer :=
  let d (x : Xfer) : Nat := (x.job.ring + 65536 - s.msp.ptr) % 65536
  if d b < d a then b else a

/-- The transfer that may have the port next; data to or from the host needs memory requests (R267). -/
def xferNext (s : State) : Option Xfer :=
  match s.msp.xfers.filter fun x => !x.waits && (s.canIssue || Job.xLen x.job == 0) with
  | [] => none
  | x :: xs => some (xs.foldl s.xferFirst x)

/-- The transfer is this job's. -/
def Xfer.isOf (ring idx : Nat) (x : Xfer) : Bool := x.job.ring == ring && x.job.idx == idx

/-- The transfer that waits between two polls for the descriptor at a ring index; after a ring engine reset it runs on
under a number of its own (R292), and one fetched there since waits behind it. -/
def pollOf (s : State) (ring idx : Nat) : Option Xfer :=
  s.msp.xfers.find? fun x => x.job.ring % 32768 == ring % 32768 && x.job.idx == idx && Job.xPoll x.job

/-- The transfer of a job replaced, and gone. -/
def setXfer (s : State) (y : Xfer) : State :=
  s.setMsp { s.msp with xfers := s.msp.xfers.map fun x => if Xfer.isOf y.job.ring y.job.idx x then y else x }
def dropXfer (s : State) (ring idx : Nat) : State :=
  s.setMsp { s.msp with xfers := s.msp.xfers.filter fun x => !Xfer.isOf ring idx x }

/-- The transfer ends. -/
def xferEnd (s : State) (x : Xfer) (st : Status) (r0 r1 : Nat) : State :=
  (s.dropXfer x.job.ring x.job.idx).finish x.job.ring x.job.idx st r0 r1

/-- The bytes of a read are in buffer 1. -/
def xferData (s : State) (j : Job) (data : List Nat) : State :=
  if j.lost || !Job.xRead j then s
  else { s with hostMem := s.hostMem.writeBytes j.addr1 ((List.range (Job.xLen j)).map fun k => byteAt data k) }

/-- A frame of transfer `x` has run with its data (R413). -/
def xferRan (s : State) (x : Xfer) (data : List Nat) : State :=
  let j := x.job
  let s := s.xferData j data
  if !Job.xPoll j then s.xferEnd x .ok (Job.xLen j) 0
  else
    let b := byteAt data 0
    if b &&& j.p 20 1 == j.p 21 1 then s.xferEnd x .ok b (x.frames + 1)
    else s.setXfer { x with frames := x.frames + 1, last := b, waits := true }

/-- A class 3 frame: the next of transfer `x` (R407, R413). -/
def xferFrame (s : State) (x : Xfer) (data : List Nat) (strobe : Bool) : State :=
  let j := x.job
  let s := s.setMsp { s.msp with ptr := (j.ring + 1) % 32768 }
  if Job.xNvw j && x.frames == 0 && s.nvmTempBad then s.xferEnd x .thermalInhibit 0 0
  else
    let t := j.p 0 1
    let reads := Job.xRead j && Job.xLen j != 0
    let s := (s.frameLog 3 t (s.xferFrameOf j data)).frameRun 3 t (!reads)
    if reads && bitAt (j.p 7 1) 2 && !strobe then (s.dqsTimeout 3 t).xferEnd x .timeout 0 0 else s.xferRan x data

/-- The frame the port grants (R407): the firmware's where it asks for one, else the oldest fill, else a transfer. -/
def mspmFrame (s : State) (fw : Option FwFrame) (data : List Nat) (strobe : Bool) : State :=
  match fw with
  | some f => if s.fwMay f then s.fwFrame f data strobe else s
  | none =>
    match s.msp.fills with
    | f :: _ => s.fillFrame f data strobe
    | [] =>
      match s.xferNext with
      | some x => if s.serviced then s.xferFrame x data strobe else s
      | none => s

/-- POLL_US has passed for the transfer of a job: its next frame is requested. -/
def pollWait (s : State) (ring idx : Nat) : State :=
  match s.pollOf ring idx with
  | none => s
  | some y => s.setXfer { y with waits := false }

/-- POLL_MS has passed from the first frame of the transfer of a job. -/
def pollTimeout (s : State) (ring idx : Nat) : State :=
  match s.pollOf ring idx with
  | none => s
  | some x =>
    if x.frames = 0 then s
    else
      let s := (s.w F.MSPM_EVT_POLL_TIMEOUT 0 1).post mspmSrc 0x9002 [(1, x.job.p 0 1), (4, x.frames), (2, ring)]
      s.xferEnd x .timeout x.last x.frames

end State

/-! ### The meanings -/

/-- MSPM_FRAME, R407: in OFF and RESET no frame runs; in FAULT and DUMP only class 2, and class 1 for the summary. -/
def execMspmFrame (fw : Option FwFrame) (data : List (BitVec 8)) (strobe : Bool) (s : State) : Out :=
  .next (if s.live || s.frozen then s.mspmFrame fw (data.map BitVec.toNat) strobe else s)

/-- XIP_READ, R409: a read of the line at 64 times `line`. -/
def execXipRead (line : Fin 1048576) (s : State) : Out :=
  .next (if s.live || s.frozen then s.xipRead line else s)

/-- MSP_POLL_WAIT, R413. -/
def execMspPollWait (q : Fin 32768) (i : Fin 65536) (s : State) : Out :=
  .next (if s.serviced then s.pollWait q i else s)

/-- MSP_POLL_TIMEOUT, R413. -/
def execMspPollTimeout (q : Fin 32768) (i : Fin 65536) (s : State) : Out :=
  .next (if s.serviced then s.pollTimeout q i else s)

/-- MSP_XFER, R412, R413. -/
def execMspXfer (q : Fin 32768) (i : Fin 65536) (s : State) : Out := actJob 0x58 q i s fun j s => s.mspXfer j

end Sys2Proof.Machine
end

