-- ==== Sys2Proof/Machine/Encodings.lean ====
section
/-! DEFINITION. The values that the encoded fields take: ranges, alignments and relations of the register descriptions,
judged when a register is written (spec/02_register_model.md R53 and the register tables). -/

namespace Sys2Proof.Machine

open Sys2Proof

/-- The valid values of a field as a range of unsigned numbers (register tables of R91, R94, R117, R151, R180, R205,
R225, R257, R259, R356, R377, R396, R425). -/
def encRanges : List (Fld × Nat × Nat) := [
  (F.SYS_RAIL_CFG_VMAX, 650, 850), (F.SYS_RAIL_CFG_VMIN, 650, 850), (F.SYS_FAB_CFG_TARGET, 0x1267, 0x1800),
  (F.SYS_FAB_CFG_RELEASE, 0, 0x2000), (F.SYS_DUMP_BUF_SIZE_SIZE, 0, 0x2000000),
  (F.LANE_FE_CFG_CTLE_CODE, 0, 36), (F.LANE_FE_CFG_VGA_CODE, 0, 72), (F.LANE_AGC_CFG_PERIOD, 0, 10),
  (F.LANE_AGC_CFG_TARGET_RMS, 0x10, 0x60), (F.LANE_SIGDET_CFG_THRESH_RMS, 2, 0x20),
  (F.LANE_CAL_CFG_TEMP_STEP, 2, 0x80), (F.LANE_CAL_CFG_RAMP_US, 64, 64000), (F.LANE_CAL_ACT_CFG_ACT_THRESH, 8, 0x400)] ++ [
  (F.LANE_EQ_CFG_MLSE_THRESH, 0x10, 0xE0), (F.LANE_EQ_CFG_CURSOR, 1, 46), (F.LANE_EQ_CFG_CURSOR_F, 1, 46),
  (F.LANE_EQ_CFG_DET, 0, 2), (F.LANE_EQ_MU_LVL, 4, 20), (F.LANE_EQ_MU_H1, 4, 20), (F.LANE_EQ_MU_TRK_FFE, 4, 20),
  (F.LANE_EQ_MU_ACQ_FFE, 4, 20), (F.LANE_TR_CFG_KI_TRK, 2, 24), (F.LANE_TR_CFG_KP_TRK, 2, 24),
  (F.LANE_TR_CFG_KI_ACQ, 2, 24), (F.LANE_TR_CFG_KP_ACQ, 2, 24), (F.LANE_EQ_LOCK_CFG_ACQ_TIMEOUT, 1, 255),
  (F.LANE_EQ_LOCK_CFG_UNLOCK_MARGIN, 8, 0xA0), (F.LANE_EQ_LOCK_CFG_LOCK_SNR, 0x800, 0x1C00)] ++ [
  (F.LANE_FEC_CFG_LOCK_ZMIN, 4, 32), (F.LANE_FEC_CFG_OUTER_MODE, 0, 2), (F.LANE_POOL_CFG_RES, 0, 100),
  (F.LANE_TX_CFG_UNSQ, 0, 6), (F.LANE_TX_CFG_SWING, 0, 70), (F.LANE_CFG_ACQ_RETRY, 1, 15), (F.LANE_CFG_GRACE, 1, 255),
  (F.LANE_CFG_LOOPBACK, 0, 4), (F.HSL_CFG_PRBS_CHK, 0, 2), (F.HSL_CFG_PRBS_GEN, 0, 2), (F.HSL_CFG_FILL, 0, 2)] ++ [
  (F.HB_CFG_MODE, 0, 2), (F.HB_SCAN_CFG_BO_EVERY, 1, 255), (F.HB_SCAN_CFG_PWM, 0, 23), (F.HB_SCAN_CFG_EDGE, 1, 3),
  (F.HB_SCAN_CFG_PERIOD, 1, 1000000), (F.HB_SCAN_CFG_LEN, 0, 256), (F.HB_EXC_CFG_MV, 100, 2500),
  (F.HB_PT_CFG_BO_MODE, 0, 2), (F.HB_PT_CFG_SHIFT, 0, 8), (F.HB_PT_CFG_AVG, 0, 8)] ++ [
  (F.HK_DAC_CFG_STEP, 1, 4096), (F.HK_DAC_CFG_RANGE, 0, 2), (F.HK_DAC_CFG_PERIOD, 1, 65535),
  (F.HK_PWM_CFG_PERIOD, 2, 65535), (F.THM_ZONE_LIM_OFFSET, 0, 0x50), (F.THM_ZONE_LIM_HYST, 4, 0x28),
  (F.THM_TIMING_LO_STEP_MS, 1, 1000), (F.THM_TIMING_LO_SHED_MS, 1, 10000), (F.THM_TIMING_HI_RETREAT_MS, 10, 10000),
  (F.THM_SHED_ORDER_E0, 0, 23), (F.THM_SHED_ORDER_E1, 0, 23), (F.THM_SHED_ORDER_E2, 0, 23),
  (F.THM_SHED_ORDER_E3, 0, 23), (F.THM_SHED_COUNT_COUNT, 0, 24), (F.MSPM_CFG_MIN_DESEL, 1, 15), (F.MSPM_CFG_DIV, 4, 254),
  (F.MSPM_XIP_CFG0_ADDR_LEN, 3, 4), (F.MSPM_XIP_CFG0_CMD_LEN, 1, 2)]

/-- Values that must be multiples of a number (R60, R91, R297, R425, R453). -/
def encSteps : List (Fld × Nat) := [
  (F.SYS_RAIL_CFG_VMAX, 5), (F.SYS_RAIL_CFG_VMIN, 5), (F.SYS_DUMP_BUF_ADDR, 4096), (F.SYS_DUMP_BUF_SIZE_SIZE, 4096),
  (F.RNG_TABLE_ADDR, 4096), (F.SYS_HBOOT_ADDR_VALUE, 4), (F.MSPM_CFG_DIV, 2)]

/-- Values that no range describes: a predistortion entry is not 0x80 (R225), a target code is defined (R404). -/
def encOther (f : Fld) (v : Nat) : Bool :=
  if f.base == F.LANE_TX_PD_E0.base then v != 0x80
  else if f == F.MSPM_XIP_CFG0_XIP_TGT then targetOk v
  else true

/-- The value is one that the field's own description defines. -/
def encOwn (f : Fld) (v : Nat) : Bool :=
  (match encRanges.find? fun x => x.1 == f with | some (_, lo, hi) => lo ≤ v && v ≤ hi | none => true) &&
    (match encSteps.find? fun x => x.1 == f with | some (_, m) => v % m == 0 | none => true) && encOther f v

namespace State

/-- Values that depend on what the part does: a mode or loopback of a lane that a direct write may give (R241, R257), and
the polarity of a PWM channel that is not STOPPED (R381). -/
def encNow (s : State) (i : Nat) (f : Fld) (v : Nat) : Bool :=
  if f == F.LANE_CFG_MODE then v != 1 && (!s.fused i || v == s.r F.LANE_CFG_MODE i)
  else if f == F.LANE_CFG_LOOPBACK then !(v == 3 && s.fused i)
  else if f == F.HK_PWM_CFG_POL then s.r F.HK_PWM_STAT_STATE i == 0 || v == s.r F.HK_PWM_CFG_POL i
  else true

/-- Host lane m may be assigned to lane n: it lies on its die and no other lane holds it (R242, R258). -/
def mapFree (s : State) (n m : Nat) : Bool :=
  m / 192 == n / 96 && (List.range nLanes).all fun k => k == n || !(s.mapped k).contains m

/-- The value is defined for the field at index i. -/
def encAt (s : State) (i : Nat) (f : Fld) (v : Nat) : Bool := encOwn f v && s.encNow i f v

/-- Fields that one relation binds are defined together: `val` is the value each would hold, `stays` tells that a field
keeps its value, and `f` is the field asked about (R91, R180, R242, R259, R337, R340, R397). -/
def encRel (s : State) (i : Nat) (val : Fld → Nat) (stays : Fld → Bool) (f : Fld) : Bool :=
  let t (g : Fld) : Int := sint 16 (val g)
  if f.base == F.SYS_RAIL_CFG_VMAX.base then val F.SYS_RAIL_CFG_VMIN ≤ val F.SYS_RAIL_CFG_VMAX
  else if f.base == F.SYS_FAB_CFG_TARGET.base then val F.SYS_FAB_CFG_TARGET + 0x100 ≤ val F.SYS_FAB_CFG_RELEASE
  else if f == F.LANE_EQ_MU_ACQ_FFE || f == F.LANE_EQ_MU_TRK_FFE then
    val F.LANE_EQ_MU_ACQ_FFE ≤ val F.LANE_EQ_MU_TRK_FFE
  else if f.base == F.LANE_TR_CFG_KP_ACQ.base then
    val F.LANE_TR_CFG_KP_ACQ < val F.LANE_TR_CFG_KI_ACQ && val F.LANE_TR_CFG_KP_TRK < val F.LANE_TR_CFG_KI_TRK &&
      val F.LANE_TR_CFG_KP_ACQ ≤ val F.LANE_TR_CFG_KP_TRK && val F.LANE_TR_CFG_KI_ACQ ≤ val F.LANE_TR_CFG_KI_TRK
  else if f == F.LANE_POOL_CFG_RES then
    s.resSum (i / 96) - s.r F.LANE_POOL_CFG_RES i + val F.LANE_POOL_CFG_RES ≤ 3840
  else if f == F.XBAR_MAP_A || f == F.XBAR_MAP_A_VALID then
    val F.XBAR_MAP_A_VALID == 0 || (s.mapFree i (val F.XBAR_MAP_A) &&
      !(stays F.XBAR_MAP_B && val F.XBAR_MAP_B_VALID == 1 && val F.XBAR_MAP_A == val F.XBAR_MAP_B))
  else if f == F.XBAR_MAP_B || f == F.XBAR_MAP_B_VALID then
    val F.XBAR_MAP_B_VALID == 0 ||
      (s.mapFree i (val F.XBAR_MAP_B) && !(val F.XBAR_MAP_A_VALID == 1 && val F.XBAR_MAP_A == val F.XBAR_MAP_B))
  else if f.base == F.HSL_TX_FIR_MAIN.base then
    decide ((sint 8 (val F.HSL_TX_FIR_PRE2)).natAbs + (sint 8 (val F.HSL_TX_FIR_PRE1)).natAbs +
      (sint 8 (val F.HSL_TX_FIR_MAIN)).natAbs + (sint 8 (val F.HSL_TX_FIR_POST1)).natAbs ≤ 64)
  else if f == F.HB_PT_CFG_RATIO || f == F.HB_PT_CFG_EXC_USE then
    val F.HB_PT_CFG_RATIO == 0 || val F.HB_PT_CFG_EXC_USE == 1
  else if f == F.HB_PT_CFG_AUTO || f == F.HB_PT_CFG_RANGE || f == F.HB_PT_CFG_AR_MIN || f == F.HB_PT_CFG_AR_MAX then
    val F.HB_PT_CFG_AUTO == 0 ||
      (val F.HB_PT_CFG_AR_MIN ≤ val F.HB_PT_CFG_RANGE && val F.HB_PT_CFG_RANGE ≤ val F.HB_PT_CFG_AR_MAX)
  else if f.base == F.THM_ZONE_LIM_WARN.base && f != F.THM_ZONE_LIM_OFFSET then
    decide (960 ≤ t F.THM_ZONE_LIM_WARN ∧ t F.THM_ZONE_LIM_WARN ≤ t F.THM_ZONE_LIM_THROTTLE ∧
      t F.THM_ZONE_LIM_THROTTLE < t F.THM_ZONE_LIM_SHUTDOWN ∧ t F.THM_ZONE_LIM_SHUTDOWN ≤ 1840 ∧
      t F.THM_ZONE_LIM_WARN - 160 ≤ t F.THM_ZONE_LIM_THROTTLE - 4 * (val F.THM_ZONE_LIM_HYST : Nat))
  else if f.base == F.THM_COLD_LIM_WARN.base then
    decide (-160 ≤ t F.THM_COLD_LIM_INHIBIT ∧ t F.THM_COLD_LIM_INHIBIT < t F.THM_COLD_LIM_WARN ∧
      t F.THM_COLD_LIM_WARN ≤ 320)
  else true

/-- What field f would hold: its value in the list, or the one it holds. -/
def encVal (s : State) (i : Nat) (l : List (Fld × Nat)) (f : Fld) : Nat :=
  match l.find? fun p => p.1 == f with
  | some p => p.2
  | none => s.r f i

/-- Of the values in `l` those that are defined with each other and with what the other fields keep; a value that falls
out leaves its field as it is, and the rest is judged again. -/
def encSettle (s : State) (i : Nat) : Nat → List (Fld × Nat) → List (Fld × Nat)
  | 0, l => l
  | n + 1, l => encSettle s i n (l.filter fun p => s.encRel i (s.encVal i l) (fun f => !(l.any fun q => q.1 == f)) p.1)

/-- Of the values written to the fields of a word at index i, those that R53 lets take effect: defined in themselves,
and with each other where a relation binds them, so that the word holds no undefined encoding afterwards. -/
def encAccepted (s : State) (i : Nat) (l : List (Fld × Nat)) : List (Fld × Nat) :=
  s.encSettle i l.length (l.filter fun p => s.encAt i p.1 p.2)

/-- Writes a list of fields at index i. -/
def writeFields (s : State) (i : Nat) (l : List (Fld × Nat)) : State := s.each l fun s p => s.w p.1 i p.2

/-- A word that firmware writes into a configuration register: undefined values are kept out (R53, R425). -/
def firmwareWrite (s : State) (base v : Nat) : State :=
  s.writeFields 0 (s.encAccepted 0 ((fieldsOf base).map fun f => (f, bits v f.lo f.width)))

end State

end Sys2Proof.Machine
end

