-- ==== Sys2Proof/Machine/Reset.lean ====
section
/-! DEFINITION. Power, RESET, the PCIe endpoint and its link, and the telemetry records that wait for it
(spec/03_fabric_power_reset.md R81-R90, spec/10_command_rings.md R267, R292, spec/16_management_test.md R450, R451). -/

namespace Sys2Proof.Machine

open Sys2Proof

/-- The fields kept across RESET (R84, R387, R432, R437, R443), and the straps, which hold until the next sampling. -/
def keptFields : List Fld := [
  F.SYS_FAULT_CAUSE_VALID, F.SYS_FAULT_CAUSE_PREV_STATE, F.SYS_FAULT_CAUSE_DETAIL, F.SYS_FAULT_CAUSE_CAUSE,
  F.SYS_FAULT_TIME_TIME, F.SYS_DUMP_STAT_FLASH, F.SYS_DUMP_STAT_HOST, F.SYS_DUMP_BYTES_BYTES,
  F.SYS_BOOT_STAT_LAST_FAIL, F.SYS_BOOT_STAT_STRAP, F.MSPS_STAT_MODE, F.THM_SHUT_INFO_VALID, F.THM_SHUT_INFO_ZONE,
  F.THM_SHUT_INFO_TEMP]

/-- The registers of a device in RESET: the kept fields, every other one at its reset value. -/
def resetRegs (r : Regs) : Regs := keptFields.foldl (fun a f => a.set f 0 (r.get f 0)) []

/-- What a slot's pin brings into RESET: a low level is judged afresh by the filter. -/
def SlotH.atReset (h : SlotH) : SlotH := { low := h.low, pulse := h.low || h.pulse }

namespace State

/-! ### Power and RESET, R81-R84 -/

/-- What outlasts a loss of the device's own state: time, host memory, NVM, the pins and the model's records. -/
def blank (s : State) : State :=
  { pending := s.pending, now := s.now, hostMem := s.hostMem, readData := s.readData, msiSent := s.msiSent,
    fresh := s.fresh, nvm := { bytes := s.nvm.bytes, baseS := s.nvm.baseS }, poweredNs := s.poweredNs,
    slots := (s.slots.map fun x => (x.1, x.2.atReset)).filter fun x => x.2 != {},
    hk := { clrLow := s.hk.clrLow },
    sys := { resetAt := s.now, perstLow := s.sys.perstLow, perstUntil := s.sys.perstUntil,
             lrefAbsent := s.sys.lrefAbsent, summary := s.sys.summary } }

/-- PERST_N is low now: it was asserted, and the instant of its release has not come or is not known (R84, log 26). -/
def perstPin (s : State) : Bool := s.sys.perstLow && (s.sys.perstUntil == 0 || s.now < s.sys.perstUntil)

/-- PERST_N low is a cause of RESET while PERST_MODE is 0, as it is in RESET. -/
def perstCause (s : State) : State := if s.perstPin then s.w F.SYS_RST_CAUSE_PCIE 0 1 else s

/-- The device enters RESET for cause `f` (R84); NVM programming stops. -/
def enterReset (s : State) (f : Fld) : State :=
  let t := s.nvmStop false
  let u := { t.blank with regs := resetRegs t.regs }
  let u := { u with sys := { u.sys with thermalHold := s.sys.thermalHold, shutPost := s.sys.shutPost } }
  (u.w f 0 1).perstCause

/-- A cause of RESET is present: it begins one, or is recorded in the one that lasts (R84). -/
def resetCause (s : State) (f : Fld) : State :=
  match s.dev with
  | .off => s
  | .reset => s.w f 0 1
  | _ => s.enterReset f

/-- PWRGD rises (R81, R84). -/
def powerUp (s : State) : State :=
  if s.powered then s
  else
    let u := s.blank
    (({ u with poweredNs := 0, nvm := { bytes := s.nvm.bytes } }).w F.SYS_RST_CAUSE_POWER 0 1).perstCause

/-- PWRGD falls (R83). -/
def powerDown (s : State) : State :=
  if !s.powered then s
  else
    let t := (s.nvmStop false).blank
    { t with regs := Regs.set [] F.SYS_STATE_STATE 0 DevState.off.code,
             hk := { t.hk with offOut := (List.range 48).map fun c =>
               (s.r F.HK_DAC_STAT_RANGE c, s.r F.HK_DAC_CFG_CLEAR c) } }

/-- RESET may end: not before RST_N and a PERST_N of known release are released, and after a thermal shutdown only on cool
zones with valid sensors (R84, R388). -/
def resetMayEnd (s : State) : Bool :=
  s.dev == .reset && (!s.sys.thermalHold || s.thermalCool) && s.sys.perstUntil ≤ s.now && s.sys.rstUntil ≤ s.now

/-- The target of rail r as read back at BOOT entry; `none` where the transaction failed (R74). -/
def railReadback (s : State) (r : Nat) (mv : Option (BitVec 10)) : State :=
  match mv with
  | some v => (s.w F.SYS_RAIL_STAT_SETPOINT r v.toNat).avsCount r true
  | none => s.avsCount r false

/-- A transition rate of 1 mV/us is written to rail r (R74). -/
def railSlew (s : State) (r : Nat) (ok : Bool) : State :=
  (if ok then s.setRail r { s.railh r with slew := 1 } else s).avsCount r ok

/-- The end of RESET: straps are sampled, each rail gets its transition rate, the supply loop starts from the readbacks
and BOOT is entered; a host boot waits at once (R74, R84, R429, R433). -/
def resetEnd (s : State) (src : Nat) (chain : Bool) (rateOk : Fin 3 → Bool) (mv : Fin 3 → Option (BitVec 10)) : State :=
  let s := { s with sys := { s.sys with perstLow := false, perstUntil := 0, thermalHold := false, bootAt := s.now,
                                        wdAt := s.now } }
  let s := (s.w F.SYS_BOOT_STAT_STRAP 0 src).wb F.MSPS_STAT_MODE 0 chain
  let s := { s with fab := { s.fab with loopAt := s.now } }
  let s := s.enterState .boot
  let s := s.each [0, 1, 2] fun s r => (s.railSlew r (rateOk (Fin.ofNat 3 r))).railReadback r (mv (Fin.ofNat 3 r))
  let s := if src = 1 then s.w F.SYS_BOOT_STAT_PHASE 0 4 else s
  if s.hk.clrLow then s.clearPin else s

/-! ### Telemetry records, R450, R451 -/

/-- Subscription k, and the state with it replaced. -/
def subh (s : State) (k : Nat) : SubH := s.subs.get k {}
def setSub (s : State) (k : Nat) (h : SubH) : State := { s with subs := s.subs.set k h {} }

/-- Subscription k is stopped. -/
def subEnd (s : State) (k : Nat) : State :=
  ((s.setSub k {}).w F.SYS_TLM_STAT_STATE k 0).w F.SYS_TLM_STAT_CONV k 0

/-- The record of subscription k that waits is written, payload before header, then the tail; a stop that waited for it
ends (R449, R450). -/
def subWrite (s : State) (k : Nat) : State :=
  let h := s.subh k
  match h.waiting with
  | none => s
  | some bs =>
    if !(s.serviced && s.canIssue) then s
    else
      let at_ := (h.seq - 1) % h.count * h.size
      let m := (s.hostMem.writeBytes (h.base + at_ + 32) (bs.drop 32)).writeBytes (h.base + at_) (bs.take 32)
      let m := if h.tail = 0 then m else m.writeBytes h.tail (leBytes 4 (h.seq % h.count * h.size))
      let s := ({ s with hostMem := m }).setSub k { h with waiting := none }
      if h.stopping then (s.subEnd k).resolve (.telemetry k) else s

/-- The subscription whose record is granted the link: of the ring that the arbiter chooses, the lowest number (R41, R43). -/
def subNext (s : State) : Option Nat :=
  match arbitrate s.ptrOf s.upRequests with
  | some r => if r.cls == 2 then (List.range 64).find? fun k => (s.subh k).waiting.isSome && (s.subh k).ring == r.idx else none
  | none => none

/-- A record that waits is written, when the link is granted to telemetry (R40-R43, R450). -/
def subGrant (s : State) : State :=
  if !(s.serviced && s.canIssue && s.subs.any fun x => x.2.waiting.isSome) then s
  else
    match s.subNext with
    | some k => (s.subWrite k).granted 2 (s.subh k).ring
    | none => s

/-- Subscription k stops without a command (R451). -/
def subStopped (s : State) (k : Nat) : State :=
  if s.on F.SYS_TLM_STAT_STATE k then (s.subEnd k).post sysSrc 0xA009 [(1, k), (8, (s.subh k).seq)] else s

/-! ### The endpoint without RESET, R85, R267, R292 -/

/-- A Hatband request whose ring was taken. -/
def Urgent.orphan (u : Urgent) : Urgent := { u with ring := lostRing u.ring, lost := true }

/-- The urgent requests of a converter whose rings were taken. -/
def ConvH.orphan (h : ConvH) : ConvH :=
  { h with urgents := h.urgents.map Urgent.orphan,
           visit := h.visit.map fun v => { v with urgent := v.urgent.map Urgent.orphan } }

/-- A Plank job and a commit whose rings were taken. -/
def PlankJob.orphan (p : PlankJob) : PlankJob := { job := Job.orphan p.job, lost := true }
def Commit.orphan (c : Commit) : Commit := { c with ring := lostRing c.ring }

/-- A raise for a BIST run whose ring was taken. -/
def Change.orphan : Change → Change
  | .bist q i m => .bist (Fin.ofNat 65536 (lostRing q)) i m
  | c => c

/-- What goes on of started jobs goes on without their rings: no completion and no host write (R292). -/
def jobsLost (s : State) : State :=
  let lostRead (r : CapRead) : CapRead := { r with ring := lostRing r.ring, lost := true, ready := false }
  let lostRaise (r : Raise) : Raise := { r with change := Change.orphan r.change }
  let lostXfer (x : Xfer) : Xfer := { x with job := Job.orphan x.job }
  { s with
    cap := { s.cap with reads := s.cap.reads.map lostRead },
    plank := { s.plank with waiting := s.plank.waiting.map PlankJob.orphan,
                            engines := s.plank.engines.map fun e => (e.1, e.2.map PlankJob.orphan) },
    hb := { s.hb with conv := s.hb.conv.map fun c => (c.1, ConvH.orphan c.2) },
    nvm := { s.nvm with queue := s.nvm.queue.map Commit.orphan,
                        running := s.nvm.running.map fun r => { r with commit := Commit.orphan r.commit } },
    msp := { s.msp with xfers := s.msp.xfers.map lostXfer },
    fab := { s.fab with raises := s.fab.raises.map lostRaise } }

/-- The ring engine is reset without RESET; in FAULT and DUMP it has stopped already (R292, R293). -/
def endpointReset (s : State) : State :=
  if s.frozen then s else (s.each (List.range 64) subStopped).jobsLost.ringEngineReset

/-- The configuration of the function at its reset. -/
def functionReset (s : State) : State :=
  { s with pcie := { s.pcie with bme := false, d3hot := false, msix := [], unmasked := [] } }

/-- PERST_N is asserted with PERST_MODE 1, and released `ns` nanoseconds later (R85). -/
def perstEndpoint (s : State) (ns : Nat) : State :=
  let s := s.endpointReset.functionReset
  let s := { s with pcie := { s.pcie with ready := false, linkL0 := false },
                    sys := { s.sys with perstLow := true, perstUntil := s.now + ns } }
  s.markDelayed

/-- Requests may leave again: what waited is issued (R267). -/
def requestsAllowed (s : State) : State := s.flushIssue.subGrant

/-- The link is in L0, or not. -/
def setLink (s : State) (b : Bool) : State := { s with pcie := { s.pcie with linkL0 := b } }

/-- The link reaches L0. -/
def linkEntry (s : State) : State :=
  if s.pcie.ready then
    ({ s with pcie := { s.pcie with linkL0 := true, linkDown := false } }).requestsAllowed
  else s

/-- The link has been out of L0 for 100 ms since the endpoint was ready (R90). -/
def linkDownNow (s : State) : State :=
  if s.pcie.linkL0 || !(s.pcie.ready || s.sys.perstLow) then s
  else
    s.outranking fun s =>
      (({ s with pcie := { s.pcie with linkDown := true } }).w F.SYS_SAFE_CAUSE_LINK_DOWN 0 1).autoSafe

end State

/-- The command acts where the function is there. -/
def whenBooted (s : State) (t : State → State) : Out := .next (if s.booted then t s else s)

/-! ### The meanings -/

/-- POWER_UP, R81, R84. -/
def execPowerUp (s : State) : Out := .next s.powerUp

/-- POWER_DOWN, R83. -/
def execPowerDown (s : State) : Out := .next s.powerDown

/-- RST_N falls: it is a cause of RESET, and rises again after a time that is the host's choice, which no row carries
(R84, log 26). -/
def rstPin (s : State) : State :=
  let t := s.resetCause F.SYS_RST_CAUSE_PIN
  if t.powered then { t with sys := { t.sys with rstUntil := s.now + Config.unstated 18 s.now } } else t

/-- RESET_PIN, R84. -/
def execResetPin (s : State) : Out := .next (rstPin s)

/-- PCIE_FUNDAMENTAL_RESET, R84: PERST_N is low with PERST_MODE 0. -/
def execPcieFundamentalReset (s : State) : Out :=
  .next (if s.on F.SYS_RESET_CFG_PERST_MODE then s
    else ({ s with sys := { s.sys with perstLow := true, perstUntil := 0 } }).resetCause F.SYS_RST_CAUSE_PCIE)

/-- For how long PERST_N stays low once it is asserted now: the host's choice, which no row carries (log 26). -/
def perstLength (s : State) : Nat := Config.unstated 17 s.now

/-- PERST_ENDPOINT_RESET, R85, R292. -/
def execPerstEndpointReset (s : State) : Out :=
  whenBooted s fun s => if s.on F.SYS_RESET_CFG_PERST_MODE then s.perstEndpoint (perstLength s) else s

/-- FUNCTION_LEVEL_RESET, R267, R292. -/
def execFunctionLevelReset (s : State) : Out :=
  whenBooted s fun s => (s.endpointReset.functionReset).markDelayed

/-- D3HOT_ENTRY, R267, R292. -/
def execD3hotEntry (s : State) : Out :=
  whenBooted s fun s =>
    let s := s.endpointReset
    ({ s with pcie := { s.pcie with d3hot := true } }).markDelayed

/-- D3HOT_EXIT, R267. -/
def execD3hotExit (s : State) : Out :=
  whenBooted s fun s => ({ s with pcie := { s.pcie with d3hot := false } }).requestsAllowed

/-- BUS_MASTER_ENABLE_WRITE, R267. -/
def execBusMasterEnableWrite (enable : Bool) (s : State) : Out :=
  whenBooted s fun s => (({ s with pcie := { s.pcie with bme := enable } }).markDelayed).requestsAllowed

/-- RESET_END, R84, R429: the straps, and the AVSBus transactions of BOOT entry: whether each rail took its transition
rate, and the target it read back. -/
def execResetEnd (src : Fin 4) (chain : Bool)
    (avs : (Bool × Bool × Bool) × Option (BitVec 10) × Option (BitVec 10) × Option (BitVec 10)) (s : State) : Out :=
  .next (if s.resetMayEnd then
      s.resetEnd src chain (fun r => if r = 0 then avs.1.1 else if r = 1 then avs.1.2.1 else avs.1.2.2)
        fun r => if r = 0 then avs.2.1 else if r = 1 then avs.2.2.1 else avs.2.2.2
    else s)

/-- ENDPOINT_READY, R85. -/
def execEndpointReady (s : State) : Out :=
  whenBooted s fun s => { s with pcie := { s.pcie with ready := true },
                                     sys := { s.sys with perstLow := false, perstUntil := 0 } }

/-- LINK_L0_ENTRY, R90, R267. -/
def execLinkL0Entry (s : State) : Out := whenBooted s State.linkEntry

/-- LINK_DOWN_TIMEOUT, R90. -/
def execLinkDownTimeout (s : State) : Out := whenLive s State.linkDownNow

end Sys2Proof.Machine
end

