-- ==== Sys2Proof/Machine/Fault.lean ====
section
/-! DEFINITION. FAULT entry, the fatal conditions, the firmware watchdog and the entry to DUMP
(spec/16_management_test.md R428, R437-R445, spec/03_fabric_power_reset.md R89). -/

namespace Sys2Proof.Machine

open Sys2Proof

namespace State

/-! ### Transitions, R60, R87, R88 -/

/-- SETUP is entered from BOOT: the events of a boot, and of a thermal RESET that went before it (R433, R454). -/
def bootEntered (s : State) : State :=
  let us := min ((s.now - s.sys.bootAt) / 1000) (2 ^ 32 - 1)
  let fail := s.r F.SYS_BOOT_STAT_LAST_FAIL
  let s := (s.w F.SYS_BOOT_TIME_VALUE 0 us).post sysSrc 0xA006
    [(1, s.r F.SYS_BOOT_STAT_SLOT), (4, s.r F.SYS_FW_VER_VALUE), (4, us)]
  let s := if s.on F.SYS_BOOT_STAT_FALLBACK then s.post sysSrc 0xA007 [(1, s.r F.SYS_BOOT_STAT_ERROR), (1, fail)] else s
  let s := s.w F.SYS_BOOT_STAT_LAST_FAIL 0 0
  if s.sys.shutPost then
    ({ s with sys := { s.sys with shutPost := false } }).post thermalSrc 0x7004 [(4, s.image F.THM_SHUT_INFO_ZONE.base 0)]
  else s

/-- SAFE is entered: retries that wait for a place give it up (R129). -/
def safeEntered (s : State) : State :=
  s.each ((List.range nLanes).filter fun n => s.laneState n == 2) fun s n => s.setCal n { s.calh n with want := false }

/-- RUN is entered: with the link down the device goes on to SAFE, else waiting lanes are restored (R90, R238). -/
def runEntered (s : State) : State :=
  if s.pcie.linkDown then (s.w F.SYS_SAFE_CAUSE_LINK_DOWN 0 1).autoSafe else s.restoreAll (List.range nLanes)

/-- What the entry to a state brings with it; `old` is the state left. -/
def entered (s : State) (old d : DevState) : State :=
  match d with
  | .setup => if old == .boot then s.bootEntered else s
  | .run => s.runEntered
  | .safe => s.safeEntered
  | _ => s

/-- The state that the transition under way leads to is entered. -/
def transStep (s : State) : State :=
  match s.sys.trans with
  | [] => s
  | x :: xs => (({ s with sys := { s.sys with trans := xs } }).enterState x.dest).entered s.dev x.dest

/-- Transitions under way complete before a later trigger acts (R88): at most a request, SAFE after it and SAFE for a link
that is down follow each other. -/
def transAll (s : State) : State := s.transStep.transStep.transStep

/-! ### FAULT entry, R437, R438 -/

/-- LAST_FAIL names the flash slot whose firmware runs in BOOT (R432). -/
def lastFail (s : State) : State :=
  let slot := s.r F.SYS_BOOT_STAT_SLOT
  if s.dev == .boot && s.r F.SYS_BOOT_STAT_PHASE == 6 && (slot == 1 || slot == 2) then
    s.w F.SYS_BOOT_STAT_LAST_FAIL 0 slot
  else s

/-- The device is in a phase of BOOT. -/
def bootPhase (s : State) (p : Nat) : Bool := s.dev == .boot && s.r F.SYS_BOOT_STAT_PHASE == p

/-- The condition that causes the entry is recorded (R437). -/
def faultRecord (s : State) (cause detail : Nat) : State :=
  let s := (s.w F.SYS_FAULT_CAUSE_VALID 0 1).w F.SYS_FAULT_CAUSE_PREV_STATE 0 s.dev.code
  ((s.w F.SYS_FAULT_CAUSE_CAUSE 0 cause).w F.SYS_FAULT_CAUSE_DETAIL 0 detail).w F.SYS_FAULT_TIME_TIME 0 s.sysTime

/-- Telemetry stops without records, Plank, copies, transfers and BIST without completions (R438, R451). -/
def faultStop (s : State) : State :=
  let s := s.each (List.range 64) subEnd
  let s := s.w F.SYS_BIST_STAT_RUNNING 0 0
  let bist (r : Raise) : Bool := match r.change with | .bist _ _ _ => true | .lane _ _ => false
  { s with plank := { s.plank with waiting := [], engines := [] }, cap := { s.cap with reads := [] },
           msp := { s.msp with xfers := [] },
           fab := { s.fab with raises := s.fab.raises.filter fun r => !bist r } }

/-- An automatic entry to SAFE of this instant gives way to the fatal condition (R88). -/
def safeWithdraw (s : State) : State :=
  { s with sys := { s.sys with trans := s.sys.trans.filter fun x => !(x.at_ == s.now && x.dest == .safe && x.host.isNone) } }

/-- The device enters FAULT (R438): a transition under way completes first (R88), outputs and subsystems stop, the cause is
recorded, the registers are kept for the dump. -/
def faultEnter (s : State) (cause detail : Nat) : State :=
  if !s.live then s
  else s.outranking fun s =>
    let s := (s.safeWithdraw.transAll.lastFail).faultRecord cause detail
    let s := ((s.hbFault).hkFault).battsEnd (fun _ => true) 8
    let s := ((s.nvmStop false).faultStop).setDev .fault
    { s with sys := { s.sys with snap := s.regs, snapNs := s.poweredNs, tag := 0, dump := none, dumped := false } }

/-- A fatal condition arises: FAULT is entered, or of several conditions of the instant of its entry the one with the lowest
code is recorded (R437). -/
def fatal (s : State) (cause detail : Nat) : State :=
  if s.dev == .fault && s.r F.SYS_FAULT_TIME_TIME == s.sysTime && !s.sys.dumped && cause < s.r F.SYS_FAULT_CAUSE_CAUSE then
    let s := (s.w F.SYS_FAULT_CAUSE_CAUSE 0 cause).w F.SYS_FAULT_CAUSE_DETAIL 0 detail
    { s with sys := { s.sys with snap := (s.sys.snap.set F.SYS_FAULT_CAUSE_CAUSE 0 cause).set F.SYS_FAULT_CAUSE_DETAIL 0 detail } }
  else s.faultEnter cause detail

/-! ### The watchdog and the firmware, R89, R428 -/

/-- The firmware restarts from crown SRAM, unless its check fails (R428). -/
def firmwareRestart (s : State) (imageOk : Bool) : State :=
  if imageOk then
    ({ s with sys := { s.sys with wdAt := s.now } }).post sysSrc 0xA00B [(4, s.r F.SYS_FW_VER_VALUE)]
  else s.faultEnter 3 2

/-- The watchdog expires; a transition under way completes first (R88, R89). -/
def watchdogExpired (s : State) (imageOk : Bool) : State :=
  s.outranking fun s =>
  let s := s.transAll
  let was := s.on F.SYS_SAFE_CAUSE_FW_WATCHDOG
  let s := (s.w F.SYS_SAFE_CAUSE_FW_WATCHDOG 0 1).post sysSrc 0xA004
  if was || s.dev == .boot then s.faultEnter 1 0 else s.autoSafe.firmwareRestart imageOk

/-- The watchdog expires, and is fatal, in the instant of a FAULT entry from another condition (R89, R437). -/
def watchdogFatal (s : State) : State :=
  if s.on F.SYS_SAFE_CAUSE_FW_WATCHDOG || s.r F.SYS_FAULT_CAUSE_PREV_STATE == DevState.boot.code then s.fatal 1 0 else s

/-- DETAIL of cause PLL: the first of west line, west host, east line, east host among the PLLs named, and whether
LREFCLK is absent (R437, R460). -/
def pllDetail (s : State) (mask : Nat) : Nat :=
  (((List.range 4).find? (bitAt mask)).getD 0) + 4 * s.sys.lrefAbsent.toNat

/-- DUMP_REQUEST (R445). -/
def dumpRequest (s : State) (j : Job) : State :=
  if !(j.p 0 4 == 0xD192 && j.pz 4 4 && j.pz 16 16) then s.finish j.ring j.idx .badParam
  else
    let s := s.faultEnter 7 0
    { s with sys := { s.sys with tag := j.p 8 8 } }

/-! ### DUMP entry and its time limits, R440, R443, R444 -/

/-- The host buffer can take the dump (R440). -/
def hostDump (s : State) : Bool := s.on F.SYS_DUMP_BUF_SIZE_SIZE && s.canIssue

/-- The flash summary starts with the erasure of its range; outside the temperature window it does not (R436, R444). -/
def summaryStart (s : State) : State :=
  if s.nvmTempBad then { (s.w F.SYS_DUMP_STAT_FLASH 0 2) with sys := { s.sys with dump := some .ended } }
  else { s with sys := { s.sys with dump := some .flash, summary := [] } }

/-- The device enters DUMP and chooses the destination (R440). -/
def dumpEntry (s : State) : State :=
  if s.dev != .fault || s.sys.dumped then s
  else
    let s := ((s.w F.SYS_DUMP_STAT_HOST 0 0).w F.SYS_DUMP_STAT_FLASH 0 0).w F.SYS_DUMP_BYTES_BYTES 0 0
    let s := s.setDev .dump
    if s.hostDump then { s with sys := { s.sys with dump := some .host } } else s.summaryStart

/-- The dump is over: the device returns to FAULT (R87, R443). -/
def dumpEnd (s : State) : State :=
  { (s.setDev .fault) with sys := { s.sys with dump := none, dumped := true } }

/-- The flash summary is not finished 10 s after DUMP entry (R444). -/
def dumpTimeout (s : State) : State :=
  if s.dev == .dump && s.sys.dump == some .flash then (s.w F.SYS_DUMP_STAT_FLASH 0 3).dumpEnd else s

end State

/-! ### The meanings -/

/-- WATCHDOG_EXPIRED, R89, R428: `imageOk` is the result of the image check where the firmware restarts. In PHASE 4 and 5
the boot ROM keeps restarting the watchdog (R434). -/
def execWatchdogExpired (imageOk : Bool) (s : State) : Out :=
  .next (if s.bootPhase 4 || s.bootPhase 5 then s else if s.live then s.watchdogExpired imageOk else if s.dev == .fault then s.watchdogFatal else s)

/-- WATCHDOG_RESTART, R89. -/
def execWatchdogRestart (s : State) : Out := whenLive s fun s => { s with sys := { s.sys with wdAt := s.now } }

/-- BRIDGE_TIMEOUT, R437: the channel of brim east or of brim west. -/
def execBridgeTimeout (east : Bool) (s : State) : Out := .next (s.fatal 4 (if east then 2 else 0))

/-- PLL_LOCK_TIMEOUT, R437: the PLLs whose time out of lock passes 1 ms at this instant, west line 0 to east host 3. -/
def execPllLockTimeout (mask : Fin 16) (s : State) : Out :=
  .next (if mask = 0 then s else s.fatal 5 (s.pllDetail mask))

/-- FW_MEMORY_ERROR, R437. -/
def execFwMemoryError (s : State) : Out := .next (s.fatal 3 1)

/-- FW_CHECK_FAIL, R437: the firmware's code. -/
def execFwCheckFail (code : BitVec 8) (s : State) : Out := .next (s.fatal 6 code.toNat)

/-- DUMP_REQUEST, R445. -/
def execDumpRequest (q : Fin 32768) (i : Fin 65536) (s : State) : Out := actJob 0x71 q i s fun j s => s.dumpRequest j

/-- LREFCLK_ABSENT, R460. -/
def execLrefclkAbsent (s : State) : Out := .next { s with sys := { s.sys with lrefAbsent := true } }

/-- LREFCLK_RETURN, R460. -/
def execLrefclkReturn (s : State) : Out := .next { s with sys := { s.sys with lrefAbsent := false } }

/-- DUMP_ENTRY, R440. -/
def execDumpEntry (s : State) : Out := .next s.dumpEntry

/-- DUMP_FLASH_TIMEOUT, R444. -/
def execDumpFlashTimeout (s : State) : Out := .next s.dumpTimeout

end Sys2Proof.Machine
end

