-- ==== Sys2Proof/Machine/Boot.lean ====
section
/-! DEFINITION. Boot: image headers, slot choice, image load and check, firmware start and the end of BOOT
(spec/16_management_test.md R429-R434), and the device state requests (R61, R62, R87). -/

namespace Sys2Proof.Machine

open Sys2Proof

/-- A byte list at exactly `n` bytes; what is missing counts as 0. -/
def exactly (bs : List Nat) (n : Nat) : List Nat := bs.take n ++ List.replicate (n - bs.length) 0

/-! ### Image headers, R431, R432 -/

/-- IMAGE_LEN, SEQUENCE, FW_VERSION and BODY_CRC of a header. -/
def hdrLen (h : List Nat) : Nat := leAt h 0x08 4
def hdrSeq (h : List Nat) : Nat := leAt h 0x0C 4
def hdrVer (h : List Nat) : Nat := leAt h 0x10 4
def hdrCrc (h : List Nat) : Nat := leAt h 0x28 4

/-- The READ values and FLASH_OPS of a header are in range (R431). -/
def hdrReadOk (h : List Nat) : Bool :=
  let b (k : Nat) : Nat := byteAt h (0x18 + k)
  b 0 % 2 == 0 && 4 ≤ b 0 && b 0 ≤ 254 && b 1 < 32 && b 2 ≤ 2 && b 5 ≤ 4 && b 6 ≤ 31 && b 7 < 8 && b 8 < 8 && b 9 < 8 &&
    8 ≤ byteAt h 0x27 && byteAt h 0x27 ≤ 12

/-- The fields that both boots check: magic, version, size, CRC, length, sequence, silicon. -/
def hdrOk (silicon : Nat) (h : List Nat) : Bool :=
  leAt h 0 4 == 0x465A4C52 && leAt h 4 2 == 1 && leAt h 6 2 == 0x100 && leAt h 0xFC 4 == crc32c (h.take 0xFC) &&
    hdrLen h % 4 == 0 && 4096 ≤ hdrLen h && hdrLen h ≤ 3145728 && 1 ≤ hdrSeq h && hdrSeq h ≤ 0xFFFFFFFE &&
    byteAt h 0x14 ≤ silicon && silicon ≤ byteAt h 0x15

/-- The slots with a valid header, the higher SEQUENCE first and A first on a tie; slot A is 1 and B is 2 (R432). -/
def slotOrder (a b : List Nat) (va vb : Bool) : List Nat :=
  if va && vb then (if hdrSeq a < hdrSeq b then [2, 1] else [1, 2]) else if va then [1] else if vb then [2] else []

namespace State

/-! ### Flash boot, R432, R433 -/

/-- The header of slot k. -/
def slotHeader (s : State) (k : Nat) : List Nat := s.sys.headers.getD (k - 1) []

/-- The flash ranges of target 0 (R430): slot k's header, its body, and the dump summary. -/
def slotAt (k : Nat) : Nat := 0x400000 * (k - 1)
def bodyAt (k : Nat) : Nat := slotAt k + 0x100

/-- The frame that reads 256 bytes of slot k's header, with the reset values of MSPM_CFG: command 0x03, 3 address bytes,
one lane at single rate (R430, R432, R433). -/
def headerFrame (k : Nat) (h : List Nat) : Frame :=
  { cls := 1, tgt := 0, cmd := [3], addr := addrBytes 3 (slotAt k), read := true, data := h }

/-- The frame that reads the body's bytes from byte `o` on by the header's READ settings (R431, R432). -/
def bodyFrame (k : Nat) (h : List Nat) (o : Nat) (bs : List Nat) : Frame :=
  let b (i : Nat) : Nat := byteAt h (0x18 + i)
  { cls := 1, tgt := 0, cmd := [b 3, b 4].take (b 2), addr := addrBytes (b 5) (bodyAt k + o), dummy := b 6, read := true,
    data := bs, phCmd := b 7, phAddr := b 8, phData := b 9 }

/-- The frames that load a body, of 65,536 bytes each (R432). -/
def bodyFrames (k : Nat) (h body : List Nat) : List Frame :=
  (List.range (ceilDiv body.length 65536)).map fun i => bodyFrame k h (65536 * i) ((body.drop (65536 * i)).take 65536)

/-- MSPM_CLK's divisor, CPHA, CPOL and the sampling delay under a header's READ settings (R431). -/
def readClock (h : List Nat) : Nat × Bool × Bool × Nat :=
  (byteAt h 0x18, bitAt (byteAt h 0x19) 3, bitAt (byteAt h 0x19) 4, byteAt h 0x19 % 8)

/-- No slot is left to try: FAULT, or the host wait of BOOT_SRC 0b11. -/
def noImage (s : State) : State :=
  if s.r F.SYS_BOOT_STAT_STRAP = 3 then s.w F.SYS_BOOT_STAT_PHASE 0 4
  else s.faultEnter 2 (s.r F.SYS_BOOT_STAT_ERROR)

/-- Firmware starts: its configuration registers and Hatband self-calibration (R352, R425, R433). -/
def firmwareStart (s : State) (init : FwInit) : State :=
  let s := (s.w F.SYS_BOOT_STAT_PHASE 0 6).firmwareWrite F.MSPM_CFG_DIV.base init.cfg.toNat
  let s := (s.firmwareWrite F.MSPM_XIP_CFG0_EN.base init.xip0.toNat).firmwareWrite F.MSPM_XIP_CFG1_CMD0.base init.xip1.toNat
  s.xipRestart.each [0, 1] calStart

/-- The header is one that R432 lets run. -/
def hdrValid (s : State) (h : List Nat) : Bool := hdrOk (s.r F.SYS_ID_SILICON) h && hdrReadOk h

/-- Both headers have been read, are judged, and the order is chosen. -/
def headersRead (s : State) (a b : List Nat) : State :=
  let va := s.hdrValid a
  let vb := s.hdrValid b
  let s := (s.w F.SYS_BOOT_STAT_PHASE 0 1).setMsp { s.msp with sent := [headerFrame 1 a, headerFrame 2 b] }
  let s := (s.wb F.SYS_BOOT_STAT_VALID_A 0 va).wb F.SYS_BOOT_STAT_VALID_B 0 vb
  let order := slotOrder a b va vb
  let bad := order.length == 2 && order.head? == some (s.r F.SYS_BOOT_STAT_LAST_FAIL)
  let s := if bad then s.w F.SYS_BOOT_STAT_FALLBACK 0 1 else s
  let s := { s with sys := { s.sys with headers := [a, b], order := if bad then order.reverse else order } }
  if order.isEmpty then (s.w F.SYS_BOOT_STAT_ERROR 0 1).noImage else s.w F.SYS_BOOT_STAT_PHASE 0 2

/-- The body of slot k passes its check. -/
def bodyOk (s : State) (k : Nat) (body : List Nat) : Bool :=
  let h := s.slotHeader k
  crc32c (exactly body (hdrLen h)) == hdrCrc h

/-- The body of slot k has been loaded, and its CRC is checked in PHASE 3. -/
def bodyLoaded (s : State) (k : Nat) (body : List Nat) (init : FwInit) : State :=
  let h := s.slotHeader k
  let ok := s.bodyOk k body
  let s := (s.w F.SYS_BOOT_STAT_PHASE 0 3).setMsp { s.msp with sent := bodyFrames k h (exactly body (hdrLen h)) }
  if ok then
    let s := { s with sys := { s.sys with fwHdr := h } }
    let s := (s.w F.SYS_BOOT_STAT_SLOT 0 k).w F.SYS_FW_VER_VALUE 0 (hdrVer h)
    (s.w F.SYS_FW_SEQ_VALUE 0 (hdrSeq h)).firmwareStart init
  else
    let s := (s.w F.SYS_BOOT_STAT_ERROR 0 2).w F.SYS_BOOT_STAT_FALLBACK 0 1
    let s := { s with sys := { s.sys with order := s.sys.order.drop 1 } }
    if s.sys.order.isEmpty then s.noImage else s.w F.SYS_BOOT_STAT_PHASE 0 2

/-- No image is found in the instant of a FAULT entered from BOOT for another condition, in phase `p` (R437). -/
def noImageFatal (s : State) (p err : Nat) (none_ : Bool) : State :=
  if s.dev == .fault && s.r F.SYS_FAULT_CAUSE_PREV_STATE == DevState.boot.code && s.r F.SYS_BOOT_STAT_PHASE == p &&
      s.r F.SYS_BOOT_STAT_STRAP != 3 && none_ then s.fatal 2 err
  else s

/-! ### Host boot, R434 -/

/-- The image that the host named fails or passes its check. -/
def hostImageOk (s : State) : Bool :=
  let len := s.r F.SYS_HBOOT_LEN_VALUE
  let at_ := s.r F.SYS_HBOOT_ADDR_VALUE
  let h := s.hostMem.readN at_ 256
  256 ≤ len && hdrOk (s.r F.SYS_ID_SILICON) h && 256 + hdrLen h ≤ len &&
    crc32c (s.hostMem.readN (at_ + 256) (hdrLen h)) == hdrCrc h

/-- The read of the host image has ended; `ok` is false where the read failed, which needs a read to be made. -/
def hostImage (s : State) (ok : Bool) (init : FwInit) : State :=
  let back (e : Nat) : State := (s.w F.SYS_BOOT_STAT_ERROR 0 e).w F.SYS_BOOT_STAT_PHASE 0 4
  if 256 ≤ s.r F.SYS_HBOOT_LEN_VALUE && !s.canIssue then s
  else if 256 ≤ s.r F.SYS_HBOOT_LEN_VALUE && !ok then back 4
  else if !s.hostImageOk then back 3
  else
    let h := s.hostMem.readN (s.r F.SYS_HBOOT_ADDR_VALUE) 256
    let s := { s with sys := { s.sys with fwHdr := h } }
    let s := (s.w F.SYS_BOOT_STAT_SLOT 0 3).w F.SYS_FW_VER_VALUE 0 (hdrVer h)
    (s.w F.SYS_FW_SEQ_VALUE 0 0).firmwareStart init

/-! ### The end of BOOT, R433, R454 -/

/-- Firmware initialisation and the record load have ended. -/
def bootDone (s : State) : Bool :=
  s.bootPhase 6 && s.nvm.loaded && [0, 1].all fun c => (s.convh c).cal.isNone

/-- Boot is complete, and the transition to SETUP begins. -/
def bootComplete (s : State) : State := (s.w F.SYS_BOOT_STAT_PHASE 0 7).changeState .setup

end State

/-! ### The meanings -/

/-- BOOT_HEADERS_READ, R432: the 256 bytes of each header. -/
def execBootHeadersRead (a b : List (BitVec 8)) (s : State) : Out :=
  let x := exactly (a.map BitVec.toNat) 256
  let y := exactly (b.map BitVec.toNat) 256
  .next (if s.bootPhase 0 || s.bootPhase 1 then s.headersRead x y
    else (s.noImageFatal 0 1 (!s.hdrValid x && !s.hdrValid y)).noImageFatal 1 1 (!s.hdrValid x && !s.hdrValid y))

/-- BOOT_IMAGE_LOADED, R432: the body of the slot under load, and what the firmware writes if it starts. -/
def execBootImageLoaded (body : List (BitVec 8)) (init : FwInit) (s : State) : Out :=
  .next (match s.sys.order with
    | k :: ks =>
      let bs := body.map BitVec.toNat
      if s.bootPhase 2 then s.bodyLoaded k bs init else s.noImageFatal 2 2 (ks.isEmpty && !s.bodyOk k bs)
    | [] => s)

/-- HOST_IMAGE_LOADED, R434. -/
def execHostImageLoaded (ok : Bool) (init : FwInit) (s : State) : Out :=
  .next (if s.bootPhase 5 then s.hostImage ok init else s)

/-- BOOT_COMPLETE, R433, R454. -/
def execBootComplete (s : State) : Out := .next (if s.bootDone then s.bootComplete else s)

end Sys2Proof.Machine
end

