-- ==== Sys2Proof/Machine/Manage.lean ====
section
/-! DEFINITION. BIST, the timebase, the end of a rate raise, failed host reads and the thermal millisecond
(spec/16_management_test.md R446-R448, R452, spec/03_fabric_power_reset.md R73, spec/10_command_rings.md R281,
spec/14_thermal.md R383-R394). -/

namespace Sys2Proof.Machine

open Sys2Proof

namespace State

/-! ### BIST, R446-R448 -/

/-- The dies that a BIST mask tests. -/
def bistDies (mask : Nat) : Nat := (mask ||| mask / 8) % 8

/-- The change that a BIST job asks of the islands. -/
def bistChange (j : Job) : Change :=
  .bist (Fin.ofNat 65536 j.ring) (Fin.ofNat 65536 j.idx) (Fin.ofNat 8 (bistDies (j.p 0 1)))

/-- BIST_RUN: the run begins with the raise of its islands' rates (R446, R447, R255). -/
def bistRun (s : State) (j : Job) : State :=
  let m := j.p 0 1
  if !(m != 0 && m < 64 && j.pz 1 31) then s.finish j.ring j.idx .badParam
  else if (List.range nLanes).any (fun n => s.laneState n != 0) || allBatts.any s.battActive then
    s.finish j.ring j.idx .notAllowed
  else
    let s := (s.w F.SYS_BIST_STAT_RUNNING 0 1).w F.SYS_BIST_STAT_LAST_MASK 0 m
    (s.await j.ring j.idx [.bist]).raiseStart (bistChange j)

/-- The raise of a BIST run that has started, or that may. -/
def bistRaise (s : State) (started : Bool) : Option Raise :=
  s.fab.raises.find? fun r => r.started == started && (match r.change with | .bist _ _ _ => true | .lane _ _ => false)

/-- The job that waits for BIST finishes with these results. -/
def bistFinish (s : State) (st : Status) (r0 r1 : Nat) : State :=
  { s with jobs := s.jobs.map fun j =>
      if j.phase == .running && j.waits.contains .bist then Job.finished j st 0 r0 r1 s.now s.sysTime else j }

/-- A refused raise ends the run (R447). -/
def bistRefused (s : State) : State := (s.w F.SYS_BIST_STAT_RUNNING 0 0).bistFinish .exhausted 0 0

/-- The memory groups of die d (R446). -/
def bistGroups (d : Nat) : Nat := if d = 1 then 0x1FF else 0xFFFF

/-- The results of die d: its signature and its failed memory groups, in the parts that were tested (R448). -/
def bistDie (s : State) (sigs : Nat → Nat) (mems : Nat → Nat) (d : Nat) : State :=
  let m := s.r F.SYS_BIST_STAT_LAST_MASK
  let s := if bitAt m d then s.w F.SYS_BIST_SIG_MEASURED d (sigs d) else s
  let mem := if bitAt m (3 + d) then mems d &&& bistGroups d else 0
  let s := s.w F.SYS_MBIST_FAIL_GROUP d mem
  let bad (b : Bool) (k : Nat) (s : State) : State :=
    if b then s.w F.SYS_BIST_STAT_FAIL 0 (setBits (s.r F.SYS_BIST_STAT_FAIL) k 1 1) else s
  bad (mem != 0) (3 + d) (bad (bitAt m d && s.r F.SYS_BIST_SIG_EXPECTED d != sigs d) d s)

/-- The register belongs to a part that BIST tests: a lane or host lane, a pool half, or the crown's capture store and
Plank (R446, R447). -/
def partDie (sp : RegSpec) (i : Nat) : Option Nat :=
  let lane (n : Nat) : Nat := if n < 96 then 0 else 2
  match sp.dims with
  | (192, _) :: ds => some (lane (i / ds.foldl (fun a d => a * d.1) 1))
  | (384, _) :: _ => some (lane (i / 2))
  | _ =>
    if 0x10F000 ≤ sp.base && sp.base < 0x10F200 then some (2 * i)
    else if 0x60000 ≤ sp.base && sp.base < 0x80000 then some 1
    else none
def bistTested (s : State) (sp : RegSpec) (i : Nat) : Bool :=
  match partDie sp i with
  | some d => (s.bistRaise true).isSome && s.bistTests d
  | none => false

/-- The registers of tested parts have the values they had at the start (R447). -/
def bistRestore (s : State) : State :=
  s.each regTable fun s sp =>
    s.each sp.fields fun s f =>
      s.each ((Tab.get s.regs f.id [] ++ Tab.get s.sys.bist f.id []).map (·.1) |>.filter (s.bistTested sp)) fun s i =>
        s.w f i (s.sys.bist.get f i)

/-- A BIST run ends (R447, R448, R325). -/
def bistDone (s : State) (sigs : Nat → Nat) (mems : Nat → Nat) : State :=
  match s.bistRaise true with
  | none => s
  | some r =>
    let s := (s.bistRestore.w F.SYS_BIST_STAT_FAIL 0 0).each [0, 1, 2] fun s d => s.bistDie sigs mems d
    let s := ((s.w F.SYS_BIST_STAT_RUNNING 0 0).raiseDrop r.change).marginsSettle
    let bad := s.r F.SYS_MBIST_FAIL_GROUP 1
    let s := s.each ((List.range 8).filter fun e => bitAt bad (e + 1)) engineFault
    let fail := s.r F.SYS_BIST_STAT_FAIL
    let r1 := s.r F.SYS_MBIST_FAIL_GROUP 0 + 2 ^ 16 * s.r F.SYS_MBIST_FAIL_GROUP 1 + 2 ^ 32 * s.r F.SYS_MBIST_FAIL_GROUP 2
    (s.bistFinish (if fail = 0 then .ok else .internal) fail r1).post sysSrc 0xA008 [(1, fail)]

/-! ### The end of a rate raise, R73 -/

/-- The change starts: a lane leaves OFF, or a BIST run begins and saves the registers. -/
def raiseGo (s : State) (c : Change) : State :=
  match c with
  | .lane n cause => s.upGo n cause
  | .bist _ _ _ =>
    { s with fab := { s.fab with raises := s.fab.raises.map fun r =>
               if r.change == c then { r with started := true } else r },
             sys := { s.sys with bist := s.regs } }

/-- The change is refused. -/
def raiseRefused (s : State) (c : Change) : State :=
  match c with
  | .lane n _ => s.upRefused n .exhausted
  | .bist _ _ _ => s.bistRefused

/-- Every raised island of `c` has its margin. -/
def rateReady (s : State) (c : Change) : State :=
  match s.raise? c with
  | some r => if s.raiseReady r then s.raiseGo c else s
  | none => s

/-- 2 ms have passed since the raise for `c` began. -/
def rateTimeout (s : State) (c : Change) : State :=
  match s.raise? c with
  | some r =>
    if s.raiseReady r then s.raiseGo c
    else if s.raiseAllowed r then (s.raiseLow r).raiseGo c
    else (s.raiseDenied r).raiseRefused c
  | none => s

/-! ### The timebase, R452 -/

/-- TIME_SET. -/
def timeSet (s : State) (j : Job) : State :=
  let mode := j.p 8 1
  let old := s.sysTime
  let new := if mode = 0 then j.p 0 8 else (old + j.p 0 8) % 2 ^ 64
  if 1 < mode || !j.pz 9 23 then s.finish j.ring j.idx .badParam
  else ((s.w F.SYS_TIME_TIME 0 new).finish j.ring j.idx .ok old new).post sysSrc 0xA00A [(8, old)]

/-! ### Failed host reads, R281 -/

/-- The job completes with DATA_ERROR and HOST_READ_FAILED. -/
def hostReadFailed (s : State) (q i : Nat) : State :=
  (s.w F.RNG_ENG_EVT_HOST_READ_ERR 0 1).finish q i .dataError 0 0 0x80

/-- The job at a ring index reads a host buffer now, and the read fails; a job that reads none is left alone. -/
def hostReadError (s : State) (q i : Nat) : State :=
  match s.job? q i with
  | none => s
  | some j =>
    let op := byteAt j.desc 0
    let plank (p : PlankJob) : Bool := p.job.ring == q && p.job.idx == i
    if !(s.serviced && s.canIssue) then s
    else if (op == 0x38 || op == 0x39) && (List.range 8).any (fun e => (s.engineJob e).any plank) && j.len0 != 0 then
      (s.plankReadError q i).hostReadFailed q i
    else if op == 0x58 && !Job.xRead j && Job.xLen j != 0 && s.msp.xfers.any (Xfer.isOf q i) then
      (s.dropXfer q i).hostReadFailed q i
    else if j.phase == .started && ((op == 0x40 && j.p 0 1 == 1) || (op == 0x60 && j.p 1 1 == 1)) then
      s.hostReadFailed q i
    else s

/-! ### The thermal millisecond, R383-R394 -/

/-- A zone entered SHUTDOWN: the hottest of them is recorded and RESET follows; a thermal RESET under way keeps its
record (R387). -/
def thermalShut (s : State) (zs : List Nat) : State :=
  match s.hottest zs with
  | none => s
  | some z =>
    let s := if s.sys.thermalHold then s else s.shutRecord z
    ({ s with sys := { s.sys with thermalHold := true, shutPost := true } }).resetCause F.SYS_RST_CAUSE_THERMAL

/-- A running summary or commit meets a temperature outside its window (R142, R436, R444). -/
def thermalNvm (s : State) : State :=
  if !s.nvmTempBad then s
  else if s.dev == .dump && s.sys.dump == some .flash then
    { (s.w F.SYS_DUMP_STAT_FLASH 0 2) with sys := { s.sys with dump := some .ended } }
  else if s.live && s.nvm.running.any (fun r => r.phase != .waitTemp) then s.nvmStop true
  else s

/-- One millisecond of the thermal manager. -/
def thermalTick (s : State) (rs : List (Option Reading)) : State :=
  let t := s.thermalSense rs
  let zs := t.shutZones s
  if !zs.isEmpty then t.thermalShut zs
  else if t.dev == .reset then t
  else t.thermalAct.thermalNvm

end State

/-! ### The meanings -/

/-- BIST_RUN, R446, R447. -/
def execBistRun (q : Fin 32768) (i : Fin 65536) (s : State) : Out := actJob 0x70 q i s fun j s => s.bistRun j

/-- BIST_DONE, R447, R448: the signature and the failed memory groups of brim west, the crown and brim east. -/
def execBistDone (sigs : BitVec 64 × BitVec 64 × BitVec 64) (mems : BitVec 16 × BitVec 16 × BitVec 16) (s : State) : Out :=
  whenLive s fun s => s.bistDone
    (fun d => (if d = 0 then sigs.1 else if d = 1 then sigs.2.1 else sigs.2.2).toNat)
    (fun d => (if d = 0 then mems.1 else if d = 1 then mems.2.1 else mems.2.2).toNat)

/-- RATE_RAISE_READY, R73. -/
def execRateRaiseReady (c : Change) (s : State) : Out := whenLive s fun s => s.rateReady c

/-- RATE_RAISE_TIMEOUT, R73. -/
def execRateRaiseTimeout (c : Change) (s : State) : Out := whenLive s fun s => s.rateTimeout c

/-- TIME_SET, R452. -/
def execTimeSet (q : Fin 32768) (i : Fin 65536) (s : State) : Out := actJob 0x72 q i s fun j s => s.timeSet j

/-- HOST_READ_ERROR, R281. -/
def execHostReadError (q : Fin 32768) (i : Fin 65536) (s : State) : Out := .next (s.hostReadError q i)

/-- THERMAL_TICK, R383-R394: the reading of each of the 128 sensors, none where its conversion did not complete. -/
def execThermalTick (readings : List (Option Reading)) (s : State) : Out :=
  .next (if s.powered then s.thermalTick readings else s)

end Sys2Proof.Machine
end

