-- ==== Sys2Proof/Machine/Flags.lean ====
section
/-! DEFINITION. Status flags: what holds the level W1C bits set, and what a write of 1s clears
(spec/02_register_model.md R59). -/

namespace Sys2Proof.Machine

open Sys2Proof

namespace State

/-- The level W1C bits of a register with what holds them set (R91, R117, R151, R182, R256, R326, R356, R395). -/
def levelOf (s : State) (f : Fld) (i : Nat) : Bool :=
  if f == F.SYS_SAFE_CAUSE_LINK_DOWN then s.pcie.linkDown
  else if f == F.LANE_ADC_EVT_AGC_LIMIT then s.on F.LANE_FE_STAT_AGC_LIMIT i
  else if f == F.LANE_CAL_EVT_SPARE_EXHAUSTED then s.on F.LANE_CAL_STAT_SPARE_EXHAUSTED i
  else if f == F.LANE_EQ_EVT_TAP_LIMIT then (s.eqh i).limited
  else if f == F.LANE_EQ_EVT_FREQ_LIMIT then s.on F.LANE_TR_STAT_FREQ_LIMIT i
  else if f == F.LANE_EVT_SLOT_FAULT then s.on F.LANE_STAT_SLOT_FAULT i
  else if f == F.CAP_EVT_EXT_REFRESH then s.on F.CAP_STAT_EXT_REFRESH 0
  else if f == F.HB_EVT_EXC_FAULT then
    (List.range 8).any fun k => bitAt (s.r F.HB_EXC_STAT_ON) k && !s.excOk k
  else if f == F.THM_EVT_COLD_INHIBIT then s.on F.THM_STAT_COLD_INHIBIT 0
  else false

/-- A write of `v` to W1C field `f`: its 1s clear; a level bit whose condition holds sets again (R59). -/
def clearField (i v : Nat) (s : State) (f : Fld) : State :=
  let x := bits v (f.lo % 32) f.width
  if x = 0 then s
  else if s.levelOf f i then s
  else s.w f i (s.r f i - (s.r f i &&& x))

end State

end Sys2Proof.Machine
end

