-- ==== Sys2Proof/Machine/Access.lean ====
section
/-! DEFINITION. Register accesses: the address map, reads with their latches and clearings, writes with their checks,
staging and effects (spec/02_register_model.md R46-R59, R477, spec/16_management_test.md R439). -/

namespace Sys2Proof

/-! ### The address map, R46, R51, R55 -/

/-- The flattened index at which offset `o` from the register's base falls, and the byte within that copy. -/
def dimIndex : List (Nat × Nat) → Nat → Nat → Option (Nat × Nat)
  | [], o, i => some (i, o)
  | (n, stride) :: ds, o, i => if o / stride < n then dimIndex ds (o % stride) (i * n + o / stride) else none

/-- Offset `off` lies in this register: its index and word. -/
def RegSpec.hit (sp : RegSpec) (off : Nat) : Option (Nat × Nat) :=
  if off < sp.base then none
  else match dimIndex sp.dims (off - sp.base) 0 with
    | some (i, o) => if o < 4 * sp.words then some (i, o / 4) else none
    | none => none

/-- The register word at BAR0 offset `off`: the register, its index and the word; none where unmapped (R51). -/
def locate (off : Nat) : Option (RegSpec × Nat × Nat) :=
  regTable.findSome? fun sp => (sp.hit off).map fun h => (sp, h.1, h.2)

/-- The field is wider than what is left of its first word (R55). -/
def Fld.multi (f : Fld) : Bool := 32 < f.lo % 32 + f.width

/-- The word of its register in which a field begins, and in which it ends. -/
def Fld.first (f : Fld) : Nat := f.lo / 32
def Fld.last (f : Fld) : Nat := (f.lo + f.width - 1) / 32

/-- The fields of word k of a register. -/
def RegSpec.word (sp : RegSpec) (k : Nat) : List Fld := sp.fields.filter fun f => f.first ≤ k && k ≤ f.last

end Sys2Proof

namespace Sys2Proof.Machine

open Sys2Proof

/-- A value by key, and the list with it replaced. -/
def keyed (l : List ((Nat × Nat × Nat) × Nat)) (k : Nat × Nat × Nat) : Option Nat := (l.find? fun e => e.1 == k).map (·.2)
def keyDrop (l : List ((Nat × Nat × Nat) × Nat)) (k : Nat × Nat × Nat) : List ((Nat × Nat × Nat) × Nat) :=
  l.filter fun e => e.1 != k
def keyPut (l : List ((Nat × Nat × Nat) × Nat)) (k : Nat × Nat × Nat) (v : Nat) : List ((Nat × Nat × Nat) × Nat) :=
  (k, v) :: keyDrop l k

namespace State

/-! ### Values that a read forms -/

/-- The state whose device state and powered time are those of FAULT entry, for values that follow them (R438). -/
def atEntry (s : State) : State :=
  if s.frozen then { (s.w F.SYS_STATE_STATE 0 (s.r F.SYS_FAULT_CAUSE_PREV_STATE)) with poweredNs := s.sys.snapNs } else s

/-- EVT_PEND(w): sources that hold an undelivered event (R288). -/
def pendWord (s : State) (w : Nat) : Nat :=
  (List.range 32).foldl (fun a b => if s.held.any (fun e => e.src == 32 * w + b) then a + 2 ^ b else a) 0

/-- A field that shows other state rather than holding a value of its own. -/
def shown (s : State) (f : Fld) (i : Nat) : Option Nat :=
  if f == F.SYS_STATE_IN_TRANSITION then some s.inTransition.toNat
  else if f == F.EVT_PEND_PEND then some (s.pendWord i)
  else if f == F.RNG_STAT_JOBS then some (s.ringJobs i)
  else if f == F.RNG_ENG_STAT_JOBS then some s.jobs.length
  else if f == F.HB_CONV_STAT_QCOUNT then some (s.convh i).queue.length
  else if f == F.LANE_CAL_STAT_PHASE then some (s.atEntry.calPhase i)
  else if f == F.LANE_CAL_STAT_SUSPECT then some (s.suspectCount i)
  else if f == F.LANE_CAL_STAT_CARD_PAUSED then some (s.atEntry.tracking i && !s.atEntry.cardRuns (s.lead i)).toNat
  else if f == F.POOL_STAT_RES_SUM then some (s.resSum i)
  else if f == F.CAL_NVM_STAT_EXPLICIT_LEFT then some s.atEntry.explicitLeft
  else if f == F.LANE_EQ_STAT_FRZ_HOST then some (s.frzHost i && !s.fusedOdd i).toNat
  else if f == F.LANE_EQ_STAT_FRZ_SIGNAL then some (s.frzSignal i).toNat
  else if f == F.LANE_EQ_STAT_FRZ_OVERLOAD then some (s.r F.LANE_ADC_STAT_HOLD i)
  else if f == F.LANE_FEC_STAT_HUNTING then
    some (s.hunting i).toNat
  else if f == F.LANE_EQ_FFE_HELD then
    some (s.on F.LANE_EQ_STAT_ACQ_STEP (i / 48) && s.tapHeld (i / 48) (i % 48)).toNat
  else if f == F.HSL_STAT_POWERED then some (s.atEntry.hostPowered i).toNat
  else if f == F.HSL_STAT_FILL then some (s.atEntry.hostFills i).toNat
  else none

/-- What a read of a field finds: WO fields read 0 (R9). The register shadow's copy is taken to be as old as its source
(R29, log 27). -/
def readField (s : State) (f : Fld) (i : Nat) : Nat :=
  if f.acc = .wo then 0 else ((s.shown f i).getD (s.r f i)) % 2 ^ f.width

/-! ### Reads, R54-R57, R439 -/

/-- Master `m` reads word k of a field that ends in another word: the low word latches the value and, of an RC field,
takes it; an upper word answers the latched content, or the live one before any low-word read. -/
def readMulti (s : State) (m : Nat) (f : Fld) (i k : Nat) : Nat × State :=
  let key := (m, f.id, i)
  if k ≠ f.first then
    (((keyed s.latches key).getD (if f == F.HB_Q_ENTRY then (s.dequeue i).1 else s.readField f i)) /
      2 ^ (32 * (k - f.first)) % 2 ^ 32, s)
  else if f == F.HB_Q_ENTRY then
    let q := s.dequeue i
    let t := if s.frozen then s else q.2
    (q.1 % 2 ^ 32, { t with latches := keyPut t.latches key q.1 })
  else
    let v := s.readField f i
    let t := { s with latches := keyPut s.latches key v }
    (v % 2 ^ 32, if f.acc = .rc && !s.frozen then t.w f i 0 else t)

/-- Master `m` reads one field in word k. -/
def readPart (m i k : Nat) (a : Nat × State) (f : Fld) : Nat × State :=
  if f.multi then
    let r := a.2.readMulti m f i k
    (a.1 + r.1, r.2)
  else
    let v := a.2.readField f i
    (a.1 + v * 2 ^ (f.lo % 32), if f.acc = .rc && !a.2.frozen then a.2.w f i 0 else a.2)

/-- Master `m` reads the word at `off`; none where it is unmapped. Master 2 is telemetry (R450). A part that BIST tests
answers the values saved at the start (R447). -/
def readWord (s : State) (m off : Nat) : Option (Nat × State) :=
  (locate off).map fun h =>
    let read (s : State) : Nat × State := (h.1.word h.2.2).foldl (readPart m h.2.1 h.2.2) (0, s)
    if s.bistTested h.1 h.2.1 then
      let a := read { s with regs := s.sys.bist }
      (a.1, { s with latches := a.2.latches })
    else read s

/-- One 32-bit read of a longer access: the words so far, whether one was unmapped, which reads 0, and the state (R51). -/
def busReadWord (m : Master) (a : List Nat × Bool × State) (off : Nat) : List Nat × Bool × State :=
  match a.2.2.readWord m.code off with
  | some r => (a.1 ++ [r.1], a.2.1, r.2)
  | none => (a.1 ++ [0], true, a.2.2)

/-- The form of a BAR0 access (R49): 8 bytes aligned to 8, or a multiple of 4 bytes up to 64 in one 64-byte region. -/
def accessForm (off len : Nat) : Bool :=
  off % 4 == 0 && len % 4 == 0 && 4 ≤ len && len ≤ 64 && (if len = 8 then off % 8 == 0 else off % 64 + len ≤ 64)

/-- The words of an access. -/
def accessWords (off len : Nat) : List Nat := (List.range (len / 4)).map fun k => off + 4 * k

/-- A read of `len` bytes at BAR0 offset `off` (R49-R51, R56); its data are the words answered, and unmapped words among
them are one error, at the address of the access (R63, log 28). -/
def busRead (s : State) (m : Master) (off len : Nat) : State :=
  if !accessForm off len then
    { (s.accErr { partialAcc := true } m.code off false) with readData := List.replicate (ceilDiv len 4) 0 }
  else
    let r := (accessWords off len).foldl (busReadWord m) ([], false, s)
    { (r.2.2.accErr { unmapped := r.2.1 } m.code off false) with readData := r.1 }

/-! ### What a written configuration does at once -/

/-- An excitation follows its new settings (R340, R342). -/
def excWritten (s old : State) (k : Nat) : State :=
  let s := s.w F.HB_EXC_STAT_ON 0 (setBits (s.r F.HB_EXC_STAT_ON) k 1 (s.r F.HB_EXC_CFG_EN k))
  if old.r F.HB_EXC_CFG_EN k != s.r F.HB_EXC_CFG_EN k || old.r F.HB_EXC_CFG_MV k != s.r F.HB_EXC_CFG_MV k then
    (s.excSettle k).excLevel
  else s

/-- A housekeeping DAC follows its new settings (R366-R370). -/
def dacWritten (s old : State) (c k : Nat) : State :=
  if k = 1 then s.dacClear c
  else
    let r := s.r F.HK_DAC_CFG_RANGE c
    let s := if old.r F.HK_DAC_CFG_RANGE c != r then s.rangeChange c r else s
    s.dacForces c

/-- A write to word k of the register at `base` took effect at index i; `old` is the state without the new values. -/
def written (s old : State) (base i k : Nat) : State :=
  if base = F.LANE_CFG_MODE.base then
    if old.r F.LANE_CFG_MODE i != s.r F.LANE_CFG_MODE i then s.setMode i (s.r F.LANE_CFG_MODE i) else s
  else if base = F.LANE_FEC_CFG_OUTER_MODE.base then
    if old.r F.LANE_FEC_CFG_OUTER_MODE i != s.r F.LANE_FEC_CFG_OUTER_MODE i then
      s.setOuterMode i (s.r F.LANE_FEC_CFG_OUTER_MODE i)
    else s
  else if base = F.LANE_TX_CFG_SWING.base then
    s.squelch F.LANE_TX_STAT_SQ_HOST i (s.on F.LANE_TX_CFG_HOST_SQUELCH i)
  else if base = F.XBAR_MAP_A.base then s.mapSettle [i] (old.mapped i ++ s.mapped i)
  else if base = F.HSL_CFG_PRBS_GEN.base then
    if old.r F.HSL_CFG_PRBS_GEN i != s.r F.HSL_CFG_PRBS_GEN i || old.r F.HSL_CFG_PRBS_CHK i != s.r F.HSL_CFG_PRBS_CHK i then
      s.prbsSettle i
    else s
  else if base = F.HB_EXC_CFG_EN.base then s.excWritten old i
  else if base = F.HB_PT_CFG_RANGE.base then old.setPoint (s.ptCfg i) i
  else if base = F.HK_DAC_CFG_RANGE.base then s.dacWritten old i k
  else if base = F.HK_PWM_CFG_PERIOD.base then (s.pwmTiming i).pwmForces i
  else if base = F.MSPM_XIP_CFG0_EN.base then
    if old.r F.MSPM_XIP_CFG0_EN != s.r F.MSPM_XIP_CFG0_EN then s.xipRestart
    else if old.r F.MSPM_XIP_CFG0_CONT_EN != s.r F.MSPM_XIP_CFG0_CONT_EN || old.xipTgt != s.xipTgt then s.setCont false
    else s
  else if base = F.SYS_RESET_CFG_PERST_MODE.base then
    if s.perstPin && !s.on F.SYS_RESET_CFG_PERST_MODE then s.resetCause F.SYS_RST_CAUSE_PCIE else s
  else if base = F.EVT_ROUTE_RING.base || base = F.EVT_SLOT_ROUTE_RING.base then
    ({ s with held := old.markDelayed.held }).rerouted
  else s

/-! ### Writes, R52-R54, R58, R59, R477 -/

/-- A field that a write may change now: RW, and LK in SETUP (R9). -/
def writable (s : State) (f : Fld) : Bool := f.acc == .rw || (f.acc == .lk && s.dev == .setup)

/-- The values that a write of `v` to word k brings to the RW and LK fields of that word: single-word ones from `v`, and
a multi-word one, in its last word, whole, with the staged lower word or else its current content (R58). One that may not
be written now has no staged word: the access carries its lower word `own` or none (R52). -/
def newValues (s : State) (m : Master) (sp : RegSpec) (i k v : Nat) (own : Option Nat) : List (Fld × Nat) :=
  ((sp.word k).filter fun f => (f.acc == .rw || f.acc == .lk) && (!f.multi || k == f.last)).map fun f =>
    if f.multi then
      let low := (if s.writable f then keyed s.staged (m.code, f.id, i) else own).getD (s.r f i % 2 ^ 32)
      (f, low + v * 2 ^ 32)
    else (f, bits v (f.lo % 32) f.width)

/-- A lower word of a multi-word value that may be written now is staged, and the word that applies it empties the
staging register, also where its value is not accepted (R52, R58, log 29). -/
def stage (s : State) (m : Master) (sp : RegSpec) (i k v : Nat) : State :=
  s.each ((sp.word k).filter fun f => s.writable f && f.multi) fun s f =>
    let key := (m.code, f.id, i)
    { s with staged := if k = f.last then keyDrop s.staged key else keyPut s.staged key v }

/-- A lower word written outside SETUP to a multi-word LK value differs from what the value holds there (R52). -/
def lockLow (s : State) (sp : RegSpec) (i k v : Nat) : Bool :=
  s.dev != .setup && (sp.word k).any fun f => f.acc == .lk && f.multi && k != f.last &&
    v != s.r f i / 2 ^ (32 * (k - f.first)) % 2 ^ 32

/-- LK fields keep their values outside SETUP; one that would change is an error (R52). -/
def lockError (s : State) (i : Nat) (l : List (Fld × Nat)) : Bool :=
  s.dev != .setup && l.any fun p => p.1.acc == .lk && p.2 != s.r p.1 i

/-- Some value of the list is undefined for its field (R53): of those that may be written one that is not accepted, of
the others one that differs from what the field holds and would not be. -/
def valueError (s : State) (i : Nat) (l : List (Fld × Nat)) : Bool :=
  let good := s.encAccepted i (l.filter fun p => s.writable p.1)
  let all := s.encAccepted i l
  l.any fun p => if s.writable p.1 then !good.contains p else p.2 != s.r p.1 i && !all.contains p

/-- The bits that checks 4 and 5 of R477 set for a write of `v` to word k of a register that holds values. -/
def writeErr (s : State) (m : Master) (sp : RegSpec) (i k v : Nat) (own : Option Nat) : ErrBits :=
  let l := s.newValues m sp i k v own
  { lkWrite := s.lockError i l || s.lockLow sp i k v, badValue := s.valueError i l }

/-- What that write does: the accepted values take effect together, and W1C bits written with 1 clear (R53, R54, R59). -/
def writeReg (s : State) (m : Master) (sp : RegSpec) (i k v : Nat) : State :=
  let good := s.encAccepted i ((s.newValues m sp i k v none).filter fun p => s.writable p.1)
  let t := s.stage m sp i k v
  let t := (((sp.word k).filter fun f => f.acc == .w1c)).foldl (clearField i v) t
  if good.isEmpty then t else (t.writeFields i good).written t sp.base i k

/-- A write to SYS_HBOOT_GO in PHASE 4 (R434). -/
def hbootGo (s : State) (v : Nat) : State := if v = 0xB007 then s.w F.SYS_BOOT_STAT_PHASE 0 5 else s

/-- Bits of THM_SENSOR_FAIL(w) written with 1 take their sensors back (R384). -/
def readmitBits (s : State) (w v : Nat) : State :=
  s.each (whichBelow 32 fun b => bitAt (s.r F.THM_SENSOR_FAIL_FAIL w) b && bitAt v b) fun s b => s.readmit (32 * w + b)

/-- The register is LK configuration of a part that BIST tests (R447). -/
def bistLocks (s : State) (sp : RegSpec) (i : Nat) : Bool :=
  s.on F.SYS_BIST_STAT_RUNNING && sp.fields.any (fun f => f.acc == .lk) &&
    ((partDie sp i).any s.bistTests || (sp.base == F.SLOT_EN_CFG_EN.base && (s.bistTests 0 || s.bistTests 2)))

/-- The register's description ignores the write in the state in force (R477 check 3). -/
def writeIgnored (s : State) (sp : RegSpec) (i : Nat) : Bool :=
  if sp.base = F.RNG_TABLE_ADDR.base then !(Tab.get s.regs F.RNG_STAT_STATE.id []).isEmpty
  else if sp.base = F.SYS_HBOOT_ADDR_VALUE.base || sp.base = F.SYS_HBOOT_LEN_VALUE.base ||
      sp.base = F.SYS_HBOOT_GO_KEY.base then !s.bootPhase 4
  else s.bistLocks sp i

/-- The bits that one 32-bit write of a master sets by checks 2 to 5 of R477; `own` is the word before it in its access. -/
def wordErr (s : State) (m : Master) (off v : Nat) (own : Option Nat) : ErrBits :=
  match locate off with
  | none => { unmapped := true }
  | some (sp, i, k) =>
    if s.frozen && !(sp.base == F.SYS_SWRST_KEY.base && v == 0xD192) then { badValue := true }
    else if s.writeIgnored sp i then { badValue := true }
    else if sp.base = F.SYS_SWRST_KEY.base then { badValue := v != 0xD192 }
    else if sp.base = F.SYS_HBOOT_GO_KEY.base then { badValue := v != 0xB007 }
    else if sp.base = F.RNG_CTL_ENABLE.base then { badValue := s.ringCtlBad i (v % 2) }
    else s.writeErr m sp i k v own

/-- What one 32-bit write of a master does. -/
def wordDo (s : State) (m : Master) (off v : Nat) : State :=
  match locate off with
  | none => s
  | some (sp, i, k) =>
    if s.frozen && !(sp.base == F.SYS_SWRST_KEY.base && v == 0xD192) then s
    else if s.writeIgnored sp i then s
    else if sp.base = F.SYS_SWRST_KEY.base then if v = 0xD192 then s.resetCause F.SYS_RST_CAUSE_SOFT else s
    else if sp.base = F.SYS_STATE_REQ_REQ.base then s.stateReq m (v % 16)
    else if sp.base = F.SYS_HBOOT_GO_KEY.base then s.hbootGo v
    else if sp.base = F.RNG_CTL_ENABLE.base then if s.ringCtlBad i (v % 2) then s else s.ringCtlDo i (v % 2) true
    else if sp.base = F.THM_SENSOR_FAIL_FAIL.base then s.readmitBits i v
    else s.writeReg m sp i k v

/-- The word at the address before `off` in an access. -/
def ownLow (l : List (Nat × Nat)) (off : Nat) : Option Nat := (l.find? fun x => x.1 + 4 == off).map (·.2)

/-- One 32-bit write of the access `l` with the error bits so far; a RESET among them ends it. -/
def busWriteWord (m : Master) (l : List (Nat × Nat)) (a : ErrBits × State) (x : Nat × Nat) : ErrBits × State :=
  if a.2.booted then (a.1.or (a.2.wordErr m x.1 x.2 (ownLow l x.1)), a.2.wordDo m x.1 x.2) else a

/-- An access that consists of the 32-bit writes `l`, in order; what errs in it is one error, at the address of the
access (R63, log 28), and a RESET leaves no error behind. -/
def writeWords (s : State) (m : Master) (off : Nat) (l : List (Nat × Nat)) : State :=
  let r := l.foldl (busWriteWord m l) ({}, s)
  if r.2.booted then r.2.accErr r.1 m.code off false else r.2

/-- A write of `len` bytes at BAR0 offset `off`, its words in ascending order (R49, R50); an 8-byte write of a two-word
value stages the one and applies both with the other, in one command (R58). -/
def busWrite (s : State) (m : Master) (off len : Nat) (allBytes : Bool) (vs : List Nat) : State :=
  if !(accessForm off len && allBytes) then s.accErr { partialAcc := true } m.code off false
  else s.writeWords m off ((List.range (len / 4)).map fun k => (off + 4 * k, vs.getD k 0))

end State

/-! ### The meanings -/

/-- REGISTER_WRITE, R54, R477. -/
def execRegisterWrite (m : Master) (off : Fin 67108864) (len : Nat) (allBytes : Bool) (vs : List (BitVec 32)) (s : State) :
    Out :=
  whenBooted s fun s => s.busWrite m off len allBytes (vs.map BitVec.toNat)

/-- W1C_WRITE, R59. -/
def execW1cWrite (m : Master) (off : Fin 67108864) (v : BitVec 32) (s : State) : Out :=
  whenBooted s fun s => s.busWrite m off 4 true [v.toNat]

/-- RC_READ, R32, R57. -/
def execRcRead (m : Master) (off : Fin 67108864) (len : Nat) (s : State) : Out :=
  whenBooted s fun s => s.busRead m off len

/-- MULTIWORD_LOW_READ, R56: the low word of a multi-word value, or the pair at once. -/
def execMultiwordLowRead (m : Master) (off : Fin 67108864) (both : Bool) (s : State) : Out :=
  whenBooted s fun s => s.busRead m off (if both then 8 else 4)

/-- MULTIWORD_STAGED_WRITE, R58: one word of a multi-word value. -/
def execMultiwordStagedWrite (m : Master) (off : Fin 67108864) (v : BitVec 32) (s : State) : Out :=
  whenBooted s fun s => s.busWrite m off 4 true [v.toNat]

/-- STATE_REQ_RUN, R62. -/
def execStateReqRun (m : Master) (s : State) : Out := whenBooted s fun s => s.busWrite m 8 4 true [4]

/-- STATE_REQ_SAFE, R62. -/
def execStateReqSafe (m : Master) (s : State) : Out := whenBooted s fun s => s.busWrite m 8 4 true [5]

/-- STATE_REQ_SETUP, R62. -/
def execStateReqSetup (m : Master) (s : State) : Out := whenBooted s fun s => s.busWrite m 8 4 true [3]

/-- SYS_SWRST, R84. -/
def execSysSwrst (m : Master) (s : State) : Out := whenBooted s fun s => s.busWrite m 0xC 4 true [0xD192]

/-- SYS_HBOOT_GO, R434. -/
def execSysHbootGo (m : Master) (s : State) : Out := whenBooted s fun s => s.busWrite m 0x5CC 4 true [0xB007]

/-- EVT_ROUTE_WRITE, R287: the word of EVT_ROUTE(k), or of EVT_SLOT_ROUTE(k - 10). -/
def execEvtRouteWrite (m : Master) (k : Fin 34) (v : BitVec 32) (s : State) : Out :=
  whenBooted s fun s => s.busWrite m (if k < 10 then 0x1144 + 4 * k else 0x1180 + 4 * (k - 10)) 4 true [v.toNat]

/-- SENSOR_READMIT, R384: a write to THM_SENSOR_FAIL(w). -/
def execSensorReadmit (m : Master) (w : Fin 4) (v : BitVec 32) (s : State) : Out :=
  whenBooted s fun s => s.busWrite m (F.THM_SENSOR_FAIL_FAIL.base + 4 * w) 4 true [v.toNat]

/-- HB_Q_READ, R350: a read of HB_Q_LO(c). -/
def execHbQRead (m : Master) (c : Fin 2) (s : State) : Out :=
  whenBooted s fun s => s.busRead m (F.HB_Q_ENTRY.base + 8 * c) 4

end Sys2Proof.Machine
end

