-- ==== Sys2Proof/Machine/Slave.lean ====
section
/-! DEFINITION. The slave side of the management serial port: addressed frames, the fetch buffer and chain mode
(spec/15_serial_port.md R414-R422). -/

namespace Sys2Proof.Machine

open Sys2Proof

/-- What a READ answers for slow-class words (R416). -/
def busyWord : Nat := 0xB5B5B5B5

/-- The offset lies in the fast-class window of its block (R46, R47). -/
def fastClass (off : Nat) : Bool :=
  if off < 0x80000 then decide (off % 0x10000 < 0x1000)
  else if off < 0x100000 then true
  else if off < 0x200000 then decide (off < 0x110000)
  else if off < 0x1000000 then false
  else if off < 0x1C00000 then decide (off % 0x10000 < 0x1000)
  else decide (0x2000000 ≤ off) && decide (off < 0x2300000) && decide (off % 0x2000 < 0x400)

/-- The bits of a frame's address are as R415 asks. -/
def frameAddrOk (addr : Nat) : Bool := decide (addr < 2 ^ 26) && addr % 4 == 0

namespace State

/-- The slave takes addressed frames, or is a stage of a chain: from BOOT entry, in the mode sampled (R414). -/
def slaveIn (s : State) (mode : Nat) : Bool := (s.live || s.frozen) && s.r F.MSPS_STAT_MODE == mode

/-- MSPS_CS_N falls with the clock at the level of `shape` (R414). -/
def frameStart (s : State) (shape : Bool) : State := s.wb F.MSPS_STAT_SHAPE 0 shape

/-- An addressed frame is in error (R420). -/
def frameError (s : State) (cause cmd : Nat) : State :=
  ((s.w F.MSPS_EVT_FRAME_ERR 0 1).inc F.MSPS_ERRS_COUNT 0).post mspsSrc 0x9101 [(1, cause), (1, cmd)]

/-- A word past the map, or at an unmapped address (R419). -/
def endOfMap (s : State) : State := s.w F.MSPS_EVT_END_OF_MAP 0 1

/-- The slave reads the word at `off` (R416, R419). -/
def slaveWord (s : State) (off : Nat) : Nat × State :=
  match s.readWord Master.serial.code off with
  | some r => r
  | none => (0, (s.endOfMap).accErr { unmapped := true } Master.serial.code off false)

/-! ### READ, R416, R419 -/

/-- The fetch buffer is busy or holds unread words. -/
def fetchHeld (s : State) : Bool := s.r F.MSPS_STAT_FETCH != 0

/-- The addresses that a fetch reads: of the words from `addr` on that the frame clocks out, at most 16. -/
def fetchAddrs (addr : Nat) (words : Nat) : List Nat :=
  ((List.range (min words 16)).map fun k => addr + 4 * k).filter fun a => decide (a < 2 ^ 26)

/-- A slow-class word at `addr` starts a fetch of the `words` words that are left of the frame, or is refused. -/
def startFetch (s : State) (addr words : Nat) : State :=
  if s.fetchHeld then (s.w F.MSPS_EVT_FETCH_FULL 0 1).post mspsSrc 0x9103 [(4, addr)]
  else
    let s := s.setMsp { s.msp with fetch := fetchAddrs addr words }
    (s.w F.MSPS_STAT_FETCH 0 1).w F.MSPS_FETCH_ADDR_ADDR 0 addr

/-- The words of a READ from `addr` on, `n` of them. -/
def slaveReadFrom (s : State) (addr : Nat) : Nat → List Nat × State
  | 0 => ([], s)
  | n + 1 =>
    if 2 ^ 26 ≤ addr then (List.replicate (n + 1) 0, s.endOfMap)
    else if (locate addr).isSome && !fastClass addr then
      (List.replicate (n + 1) busyWord, s.startFetch addr (n + 1))
    else
      let r := s.slaveWord addr
      let q := slaveReadFrom r.2 (addr + 4) n
      (r.1 :: q.1, q.2)

/-- A READ frame whose address was clocked in whole. -/
def slaveRead (s : State) (addr words : Nat) : State :=
  if !frameAddrOk addr then { (s.frameError 2 0xA1) with readData := List.replicate words 0 }
  else
    let r := s.slaveReadFrom addr words
    { r.2 with readData := r.1 }

/-! ### WRITE, R414, R418, R419 -/

/-- FAULT and DUMP ignore this write, whether or not its address is mapped (R414, R439). -/
def slaveIgnores (s : State) (off v : Nat) : Bool :=
  s.frozen && !(off == F.SYS_SWRST_KEY.base && v == 0xD192)

/-- The lanes of MSPS_DQ that the slave drives: none in OFF and RESET; in chain mode the output alone; in addressed mode
all four during the data words of READ, STATUS and FETCH (R400, R414, R415, R421). -/
def slaveDrives (s : State) (dataWord : Bool) : Nat :=
  if s.slaveIn 1 then 2 else if s.slaveIn 0 && dataWord then 15 else 0

/-- One word of a WRITE at `off`. -/
def slaveWriteWord (s : State) (off v : Nat) : State :=
  let s := if (locate off).isSome then s else s.endOfMap
  let s := if s.slaveIgnores off v then s.w F.MSPS_EVT_WR_IGNORED 0 1 else s
  s.writeWords .serial off [(off, v)]

/-- The words of a WRITE from `addr` on; a reset among them ends it. -/
def slaveWriteFrom (s : State) (addr : Nat) : List Nat → State
  | [] => s
  | v :: vs =>
    if !(s.live || s.frozen) then s
    else if 2 ^ 26 ≤ addr then s.endOfMap
    else slaveWriteFrom (s.slaveWriteWord addr v) (addr + 4) vs

/-- A WRITE frame; `cut` where a last word was cut short (R418, R420). -/
def slaveWrite (s : State) (addr : Nat) (words : List Nat) (cut : Bool) : State :=
  if !frameAddrOk addr then s.frameError 2 0xA2
  else
    let s := s.slaveWriteFrom addr words
    if cut && (s.live || s.frozen) then s.frameError 3 0xA2 else s

/-! ### STATUS and FETCH, R415, R417 -/

/-- The status word. -/
def slaveStatus (s : State) : Nat :=
  s.wordImage F.MSPS_STAT_MODE.base 0 0 % 2 ^ 16 + (s.wordImage F.MSPS_EVT_END_OF_MAP.base 0 0) % 2 ^ 5 * 2 ^ 16

/-- The data words of a FETCH frame. -/
def slaveFetch (s : State) (words : Nat) : State :=
  if s.r F.MSPS_STAT_FETCH = 1 then { s with readData := List.replicate words busyWord }
  else if s.r F.MSPS_STAT_FETCH = 2 then
    let out := (List.range words).map fun k => s.msp.fetched.getD k 0
    let left := s.msp.fetched.drop words
    let s := { (s.setMsp { s.msp with fetched := left }) with readData := out }
    (s.w F.MSPS_STAT_WORDS 0 left.length).w F.MSPS_STAT_FETCH 0 (if left.isEmpty then 0 else 2)
  else { s with readData := List.replicate words 0 }

/-- One word that a fetch reads at its owner. -/
def fetchWord (a : List Nat × State) (off : Nat) : List Nat × State :=
  let r := a.2.slaveWord off
  (a.1 ++ [r.1], r.2)

/-- The fetch reads its words (R416). -/
def fetchDone (s : State) : State :=
  if s.r F.MSPS_STAT_FETCH != 1 then s
  else
    let r := s.msp.fetch.foldl fetchWord ([], s)
    let s := r.2.setMsp { r.2.msp with fetch := [], fetched := r.1 }
    (s.w F.MSPS_STAT_FETCH 0 2).w F.MSPS_STAT_WORDS 0 r.1.length

/-! ### Chain mode, R421, R422 -/

/-- The response with STATUS `st` for a request to `addr`. -/
def chainReply (s : State) (st addr v : Nat) : State :=
  s.setMsp { s.msp with chain := st * 2 ^ 60 + 2 * 2 ^ 58 + addr * 2 ^ 32 + v % 2 ^ 32 }

/-- An invalid chain word (R422). -/
def chainError (s : State) (clocks : Nat) : State :=
  ((s.w F.MSPS_EVT_CHAIN_ERR 0 1).inc F.MSPS_ERRS_COUNT 0).post mspsSrc 0x9102 [(4, min clocks (2 ^ 32 - 1))]

/-- The frame's length is one that a chain can have. -/
def chainLen (clocks : Nat) : Bool := clocks != 0 && clocks % 64 == 0

/-- The word is one that R422 lets act. -/
def chainOk (w : Nat) : Bool := bits w 58 2 == 2 && bits w 60 3 ≤ 2 && bits w 32 26 % 4 == 0

/-- A READ word is executed. -/
def chainRead (s : State) (addr : Nat) : State :=
  if (locate addr).isSome && !fastClass addr then s.chainReply 2 addr 0
  else
    let r := s.slaveWord addr
    r.2.chainReply (if (locate addr).isSome then 0 else 5) addr r.1

/-- A WRITE word is executed. -/
def chainWrite (s : State) (addr v : Nat) : State :=
  let st := if (locate addr).isNone then 5 else if s.slaveIgnores addr v then 6 else 1
  let t := s.slaveWriteWord addr v
  if t.live || t.frozen then t.chainReply st addr 0 else t

/-- A valid word is executed, its trigger first (R345, R422). -/
def chainAct (s : State) (w : Nat) : State :=
  let s := if bitAt w 63 && s.live then s.hbChain else s
  match bits w 60 3 with
  | 0 => s.chainReply 4 (bits w 32 26) 0
  | 1 => s.chainRead (bits w 32 26)
  | _ => s.chainWrite (bits w 32 26) (bits w 0 32)

/-- The bits that leave on MSPS_DQ[1] while `x` comes in on MSPS_DQ[0] in `clocks` clocks, in words, the first first: the
response held, then what came in before the last 64 bits (R421). -/
def chainOut (s : State) (clocks x : Nat) : State :=
  let out := (s.msp.chain * 2 ^ clocks + x % 2 ^ clocks) / 2 ^ 64
  { s with readData := ((List.range (clocks / 32)).map fun k => out / 2 ^ (32 * k) % 2 ^ 32).reverse }

/-- MSPS_CS_N rises after `clocks` clocks that shifted `x` in; the register holds the last 64 bits of it (R421, R422). -/
def chainRelease (s : State) (clocks x : Nat) : State :=
  let w := x % 2 ^ 64
  if !chainLen clocks then s.chainError clocks
  else if chainOk w then (s.chainOut clocks x).chainAct w
  else ((s.chainOut clocks x).chainError clocks).chainReply 3 0 0

end State

/-- A frame of the addressed mode. -/
def addressed (s : State) (shape : Bool) (t : State → State) : Out :=
  .next (if s.slaveIn 0 then t (s.frameStart shape) else s)

/-! ### The meanings -/

/-- SLAVE_READ, R415, R416, R419, R420: `whole` is false where the address was cut short, and `words` counts the words
clocked out whole. -/
def execSlaveRead (shape : Bool) (addr : BitVec 32) (whole : Bool) (words : Nat) (s : State) : Out :=
  addressed s shape fun s => if whole then s.slaveRead addr.toNat words else s.frameError 3 0xA1

/-- SLAVE_WRITE, R418-R420. -/
def execSlaveWrite (shape : Bool) (addr : BitVec 32) (whole : Bool) (words : List (BitVec 32)) (cut : Bool) (s : State) :
    Out :=
  addressed s shape fun s =>
    if whole then s.slaveWrite addr.toNat (words.map BitVec.toNat) cut else s.frameError 3 0xA2

/-- SLAVE_STATUS, R415. -/
def execSlaveStatus (shape : Bool) (words : Nat) (s : State) : Out :=
  addressed s shape fun s => { s with readData := List.replicate words s.slaveStatus }

/-- SLAVE_FETCH, R417. -/
def execSlaveFetch (shape : Bool) (words : Nat) (s : State) : Out := addressed s shape fun s => s.slaveFetch words

/-- SLAVE_FETCH_DONE, R416. -/
def execSlaveFetchDone (s : State) : Out := .next (if s.slaveIn 0 then s.fetchDone else s)

/-- SLAVE_UNDEFINED_COMMAND, R420: the command byte, or none where it was cut short; what the event then shows of it is
free (log 12). -/
def execSlaveUndefinedCommand (shape : Bool) (cmd : Option (BitVec 8)) (s : State) : Out :=
  addressed s shape fun s =>
    match cmd with
    | none => { (s.frameError 3 (Config.unstated 62 s.fresh % 256)) with fresh := s.fresh + 1 }
    | some c => if [0xA1, 0xA2, 0xA5, 0xA6].contains c.toNat then s else s.frameError 1 c.toNat

/-- CHAIN_RELEASE, R421, R422: the bits that a frame of up to 8 devices shifted in, the last of them bit 0. -/
def execChainRelease (shape : Bool) (clocks : Nat) (word : BitVec 512) (s : State) : Out :=
  .next (if s.slaveIn 1 then (s.frameStart shape).chainRelease clocks word.toNat else s)

end Sys2Proof.Machine
end

