-- ==== Sys2Proof/Machine/Telemetry.lean ====
section
/-! DEFINITION. Telemetry subscriptions (spec/16_management_test.md R449-R451). -/

namespace Sys2Proof.Machine

open Sys2Proof

namespace State

/-! ### TELEMETRY_SUBSCRIBE, R449 -/

/-- The parameter bytes and the buffers keep R449, the content of buffer 0 apart. -/
def subParamsOk (j : Job) : Bool :=
  let period := decide (10 ≤ j.p 4 4) && decide (j.p 4 4 ≤ 1000000)
  let none0 := j.addr0 == 0 && j.len0 == 0
  let none1 := j.addr1 == 0 && j.len1 == 0
  j.p 0 1 < 64 && j.p 8 8 % 4 == 0 && j.pz 16 16 &&
    (match j.p 1 1 with
     | 0 => j.p 2 1 == 0 && j.p 3 1 == 0 && j.p 4 4 == 0 && none0 && none1
     | 1 => j.p 2 1 == 0 && decide (1 ≤ j.p 3 1) && j.p 3 1 ≤ 16 && period && j.len0 == 8 * j.p 3 1
     | 2 => j.p 2 1 ≤ 1 && j.p 3 1 == 0 && period && none0
     | _ => false)

/-- The ranges of buffer 0: (offset, words). -/
def subRanges (s : State) (j : Job) : List (Nat × Nat) :=
  if j.p 1 1 = 1 then
    (List.range (j.p 3 1)).map fun k => (s.hostMem.readLE (j.addr0 + 8 * k) 4, s.hostMem.readLE (j.addr0 + 8 * k + 4) 4)
  else []

/-- The words of all ranges. -/
def rangeWords (l : List (Nat × Nat)) : Nat := l.foldl (fun a r => a + r.2) 0

/-- The ranges keep R449. -/
def rangesOk (l : List (Nat × Nat)) : Bool :=
  (l.all fun r => r.1 % 4 == 0 && decide (r.1 < 2 ^ 26) && decide (1 ≤ r.2) && r.2 ≤ 256) && rangeWords l ≤ 1024

/-- RS (R449). -/
def recordSize (op : Nat) (l : List (Nat × Nat)) : Nat := if op = 1 then roundUp (32 + 4 * rangeWords l) 32 else 288

/-- Buffer 1 is K records of RS bytes. -/
def subBufferOk (j : Job) (rs : Nat) : Bool :=
  j.addr1 % 64 == 0 && j.len1 % rs == 0 && decide (2 ≤ j.len1 / rs) && j.len1 / rs ≤ 65536

/-- Some subscription streams the queue of converter c. -/
def streamed (s : State) (c : Nat) : Bool :=
  (List.range 64).any fun k => s.r F.SYS_TLM_STAT_STATE k == 2 && s.r F.SYS_TLM_STAT_CONV k == c

/-- Subscription k starts. -/
def subStart (s : State) (j : Job) (l : List (Nat × Nat)) : State :=
  let k := j.p 0 1
  let op := j.p 1 1
  let rs := recordSize op l
  if s.on F.SYS_TLM_STAT_STATE k || (op == 2 && s.streamed (j.p 2 1)) then s.finish j.ring j.idx .notAllowed
  else
    let s := s.setSub k { op := op, conv := j.p 2 1, ranges := l, base := j.addr1, size := rs, count := j.len1 / rs,
                          period := j.p 4 4, tail := j.p 8 8, ring := j.ring }
    ((s.w F.SYS_TLM_STAT_STATE k op).w F.SYS_TLM_STAT_CONV k (j.p 2 1)).finish j.ring j.idx .ok rs

/-- Subscription k stops; a record that waits is written first. -/
def subStop (s : State) (j : Job) : State :=
  let k := j.p 0 1
  let h := s.subh k
  if !s.on F.SYS_TLM_STAT_STATE k then s.finish j.ring j.idx .ok
  else if h.waiting.isSome then
    (s.setSub k { h with stopping := true }).await j.ring j.idx [.telemetry k] .ok h.seq
  else (s.subEnd k).finish j.ring j.idx .ok h.seq

/-- TELEMETRY_SUBSCRIBE. -/
def subscribe (s : State) (j : Job) : State :=
  if !subParamsOk j then s.finish j.ring j.idx .badParam
  else if j.p 1 1 = 0 then s.subStop j
  else if j.p 1 1 = 1 && !s.canIssue then s
  else
    let l := s.subRanges j
    if !(rangesOk l && subBufferOk j (recordSize (j.p 1 1) l)) then s.finish j.ring j.idx .badParam
    else s.subStart j l

/-! ### Records, R450 -/

/-- The offsets of the words of the ranges, in order. -/
def rangeOffsets (l : List (Nat × Nat)) : List Nat := l.flatMap fun r => (List.range r.2).map fun k => r.1 + 4 * k

/-- Telemetry reads one word, as a master of its own; an unmapped one reads 0. -/
def subRead (a : List Nat × State) (off : Nat) : List Nat × State :=
  match a.2.readWord 2 off with
  | some r => (a.1 ++ leBytes 4 r.1, r.2)
  | none => (a.1 ++ leBytes 4 0, a.2)

/-- The header of a record. -/
def recordHeader (ty k count seq time missed : Nat) : List Nat :=
  [ty, k] ++ leBytes 2 count ++ leBytes 4 0 ++ leBytes 8 seq ++ leBytes 8 time ++ leBytes 4 (min missed (2 ^ 32 - 1)) ++
    leBytes 4 0

/-- The record of subscription k with this payload is written once the link is granted to it. -/
def subRecord (s : State) (k count : Nat) (payload : List Nat) (time : Nat) : State :=
  let h := s.subh k
  let body := recordHeader h.op k count (h.seq + 1) time h.missed ++ payload
  let bs := body ++ List.replicate (h.size - body.length) 0
  (s.setSub k { h with seq := h.seq + 1, missed := 0, waiting := some bs }).subGrant

/-- A period of a register subscription starts. -/
def subPeriod (s : State) (k : Nat) : State :=
  let h := s.subh k
  if s.r F.SYS_TLM_STAT_STATE k != 1 || h.stopping then s
  else if h.waiting.isSome then (s.setSub k { h with missed := h.missed + 1 }).inc F.SYS_TLM_STAT_MISSED k
  else
    let r := (rangeOffsets h.ranges).foldl subRead ([], s)
    r.2.subRecord k (rangeWords h.ranges) r.1 s.sysTime

/-- `n` entries leave the queue of converter c. -/
def takeEntries (s : State) (c : Nat) : Nat → List Nat × State
  | 0 => ([], s)
  | n + 1 =>
    let q := s.dequeue c
    let r := takeEntries q.2 c n
    (leBytes 8 q.1 ++ r.1, r.2)

/-- A Hatband stream forms a record of 32 waiting entries, or of fewer once its period has passed. -/
def subQueue (s : State) (k : Nat) (period : Bool) : State :=
  let h := s.subh k
  let n := min 32 (s.convh h.conv).queue.length
  if s.r F.SYS_TLM_STAT_STATE k != 2 || h.stopping || h.waiting.isSome || n = 0 || (n < 32 && !period) then s
  else
    let r := s.takeEntries h.conv n
    r.2.subRecord k n r.1 s.sysTime

end State

/-! ### The meanings -/

/-- TELEMETRY_SUBSCRIBE, R449. -/
def execTelemetrySubscribe (q : Fin 32768) (i : Fin 65536) (s : State) : Out :=
  actJob 0x60 q i s fun j s => s.subscribe j

/-- TELEMETRY_PERIOD, R450. -/
def execTelemetryPeriod (k : Fin 64) (s : State) : Out := .next (if s.serviced then s.subPeriod k else s)

/-- TELEMETRY_QUEUE_RECORD, R450: `period` where PERIOD_US has passed since the last record. -/
def execTelemetryQueueRecord (k : Fin 64) (period : Bool) (s : State) : Out :=
  .next (if s.serviced then s.subQueue k period else s)

end Sys2Proof.Machine
end

