-- ==== Sys2Proof/Machine/Dump.lean ====
section
/-! DEFINITION. The content of the host dump and of the flash summary, and the end of a dump
(spec/16_management_test.md R440-R444). -/

namespace Sys2Proof.Machine

open Sys2Proof

/-- A section of a dump: TYPE, offset, bytes written, and whether it was cut or left out. -/
structure Section where
  type : Nat
  offset : Nat
  data : List Nat
  truncated : Bool
  skipped : Bool
deriving DecidableEq, Repr

/-- `n` bytes of a list from byte `o` on; bytes it does not have are 0. -/
def padded (l : List Nat) (o n : Nat) : List Nat :=
  let t := (l.drop o).take n
  t ++ List.replicate (n - t.length) 0

/-- The newest positions of a batt that fit in `lim` bytes (R441). -/
def fitRecs (ty lim : Nat) : List Rec → List Rec
  | [] => []
  | r :: rs => if State.recsBytes ty (r :: rs) ≤ lim then r :: rs else fitRecs ty lim rs

namespace State

/-! ### What the dump engine reads, R440 -/

/-- The device as it stood at FAULT entry: its registers and the powered time then; nothing else that a dump shows of it
has moved (R438). -/
def faultView (s : State) : State := { s with regs := s.sys.snap, poweredNs := s.sys.snapNs }

/-- The value the dump engine finds in a field. -/
def peekField (s : State) (f : Fld) (i : Nat) : Nat :=
  if f == F.HB_Q_ENTRY then (s.dequeue i).1 else s.readField f i

/-- The word at `off`, without any effect; 0 where it is unmapped. -/
def peekWord (s : State) (off : Nat) : Nat :=
  match locate off with
  | none => 0
  | some (sp, i, k) =>
    (sp.word k).foldl (fun a f =>
      a + (if f.multi then s.peekField f i / 2 ^ (32 * (k - f.first)) % 2 ^ 32
        else s.peekField f i * 2 ^ (f.lo % 32))) 0

/-- `len` bytes of BAR0 from `off` on. -/
def peekBytes (s : State) (off len : Nat) : List Nat :=
  (List.range (len / 4)).flatMap fun k => leBytes 4 (s.peekWord (off + 4 * k))

/-- The same windows of THM, CAL, HB, HK, MSP, PLK and CAP. -/
def peekBlocks (s : State) (off len : Nat) : List Nat :=
  (List.range 7).flatMap fun k => s.peekBytes (0x10000 * (k + 1) + off) len

/-- The windows of every host lane. -/
def peekHosts (s : State) (off len : Nat) : List Nat :=
  (List.range 384).flatMap fun m => s.peekBytes (0x2000000 + 0x2000 * m + off) len

/-- Held events in the order of R288. -/
def heldOrder (l : List Held) : Nat → List Held
  | 0 => []
  | n + 1 =>
    match l.filter fun e => (l.find? fun x => x.src == e.src) == some e with
    | [] => []
    | e :: es =>
      let m := es.foldl evFirst e
      m :: heldOrder (l.filter fun x => !(x.src == m.src && x.code == m.code)) n

/-- Section 9 in full. -/
def heldBytes (s : State) : List Nat := (heldOrder s.held s.held.length).flatMap eventBytes

/-- LANE(n) in section 10. -/
def laneDeep (s : State) (n : Nat) : List Nat :=
  let a := 0x1000000 + 0x10000 * n
  padded (s.peekBytes (a + 0x1000) 0x600 ++ s.peekBytes (a + 0x2000) 0xE00 ++ s.peekBytes (a + 0x3000) 0x100 ++
    s.peekBytes (a + 0x4000) 0x100 ++ s.peekBytes (a + 0x5000) 0x100) 0 0x2000

/-- LANE(n) in section 15. -/
def laneBrief (s : State) (n : Nat) : List Nat :=
  let a := 0x1000000 + 0x10000 * n
  s.peekBytes a 0x100 ++ s.peekBytes (a + 0x100) 64 ++ s.peekBytes (a + 0x200) 64 ++ s.peekBytes (a + 0x300) 64 ++
    s.peekBytes (a + 0x400) 64

/-- The image of batt b with its newest records, in at most 1 MiB (R441). -/
def battTail (s : State) (b : Nat) : List Nat :=
  let h := s.batt b
  (s.setBatt b { h with recs := fitRecs (s.battType b) (2 ^ 20 - 288) h.recs }).battImage b

/-- The batt images that fit in `room` bytes, and whether one was left out (R441). -/
def battTails (s : State) : List Nat → Nat → List Nat × Bool
  | [], _ => ([], false)
  | b :: bs, room =>
    let i := s.battTail b
    if i.length ≤ room then
      let r := battTails s bs (room - i.length)
      (i ++ r.1, r.2)
    else ([], true)

/-- The batts that FAULT ended. -/
def faultBatts (s : State) : List Nat :=
  allBatts.filter fun b => s.battState b == 3 && s.r F.CAP_BATT_STAT_END_CAUSE b == 8

/-! ### Sections, R441, R444 -/

/-- A section of fixed size at `offset` in a dump of `size` bytes. -/
def sectionAt (size type offset len : Nat) (data : List Nat) : Section :=
  if size ≤ offset then { type := type, offset := offset, data := [], truncated := false, skipped := true }
  else
    { type := type, offset := offset, data := (padded data 0 len).take (size - offset),
      truncated := decide (size < offset + len) || decide (len < data.length), skipped := false }

/-- Section 13. -/
def battSection (s : State) (size : Nat) : Section :=
  if size ≤ 0x463000 then { type := 13, offset := 0x463000, data := [], truncated := false, skipped := true }
  else
    let r := s.battTails s.faultBatts (size - 0x463000)
    { type := 13, offset := 0x463000, data := r.1, truncated := r.2, skipped := false }

/-- The sections of a host dump after its header; `fw` is what the Roloz core contributes. -/
def hostSections (s : State) (size : Nat) (fw : List Nat) : List Section :=
  [sectionAt size 2 0x1000 0x2000 (s.peekBytes 0 0x2000),
   sectionAt size 3 0x3000 0x7000 (s.peekBlocks 0 0x1000),
   sectionAt size 4 0xA000 0x10000 (s.peekBytes 0x100000 0x10000),
   sectionAt size 5 0x1A000 0xC0000 ((List.range 192).flatMap fun n => s.peekBytes (0x1000000 + 0x10000 * n) 0x1000),
   sectionAt size 6 0xDA000 0x60000 (s.peekHosts 0 0x400),
   sectionAt size 7 0x13A000 0x80000 (s.peekBytes 0x80000 0x80000),
   sectionAt size 8 0x1BA000 0x20000 (padded fw 0 0x20000),
   sectionAt size 9 0x1DA000 0x40000 s.heldBytes,
   sectionAt size 10 0x21A000 0x180000 ((List.range 192).flatMap s.laneDeep),
   sectionAt size 11 0x39A000 0x69000 (s.peekBlocks 0x1000 0xF000),
   sectionAt size 12 0x403000 0x60000 (s.peekHosts 0x400 0x400),
   s.battSection size]

/-- The sections of the flash summary after its header. -/
def flashSections (s : State) (fw : List Nat) : List Section :=
  let size := 0x40000
  [sectionAt size 2 0x1000 0x1000 (s.peekBytes 0 0x1000),
   sectionAt size 3 0x2000 0x7000 (s.peekBlocks 0 0x1000),
   sectionAt size 14 0x9000 0x1000 (s.peekBytes 0x100000 0x200 ++ s.peekBytes 0x10F000 0x200),
   sectionAt size 15 0xA000 0x18000 ((List.range 192).flatMap s.laneBrief),
   sectionAt size 8 0x22000 0x10000 (padded fw 0x1000 0x10000),
   sectionAt size 9 0x32000 0xE000 s.heldBytes]

/-! ### The header, R442 -/

/-- An entry of the section table. -/
def sectionEntry (x : Section) (crc : Nat) : List Nat :=
  leBytes 2 x.type ++ leBytes 2 (x.truncated.toNat + 2 * x.skipped.toNat) ++ leBytes 4 0 ++ leBytes 8 x.offset ++
    leBytes 8 x.data.length ++ leBytes 4 crc ++ leBytes 4 0

/-- The entry of the header itself, whose CRC-32C over bytes that hold it R442 does not state (log 12). -/
def headerEntry (s : State) : List Nat :=
  leBytes 2 1 ++ leBytes 2 0 ++ leBytes 4 0 ++ leBytes 8 0 ++ leBytes 8 0x1000 ++
    leBytes 4 (Config.unstated 61 s.fresh) ++ leBytes 4 0

/-- The bytes a dump has written: its header and its sections. -/
def dumpSize (l : List Section) : Nat := l.foldl (fun a x => a + x.data.length) 0x1000

/-- The header over the state at FAULT entry `e`. -/
def dumpHeader (s e : State) (dest : Nat) (l : List Section) : List Nat :=
  let ident := (List.range 3).flatMap fun d => e.peekBytes (0x100 + 0x10 * d) 12
  let table := s.headerEntry ++ l.flatMap fun x => sectionEntry x (crc32c x.data)
  let head :=
    leBytes 4 0x504D4452 ++ leBytes 2 1 ++ leBytes 2 (l.length + 1) ++ leBytes 8 (dumpSize l) ++
    leBytes 8 (e.r F.SYS_FAULT_TIME_TIME) ++ leBytes 8 s.sysTime ++ leBytes 8 e.poweredS ++
    [e.r F.SYS_FAULT_CAUSE_CAUSE, e.r F.SYS_FAULT_CAUSE_DETAIL, e.r F.SYS_FAULT_CAUSE_PREV_STATE, dest] ++
    leBytes 4 (e.r F.SYS_FW_VER_VALUE) ++ leBytes 4 (e.r F.SYS_FW_SEQ_VALUE) ++
    [e.r F.SYS_ID_SILICON, e.r F.SYS_BOOT_STAT_SLOT, 0, 0] ++ leBytes 8 s.sys.tag ++ ident ++ List.replicate 28 0 ++
    padded table 0 2048 ++ List.replicate 1916 0
  head ++ leBytes 4 (crc32c head)

/-! ### The end of a dump, R443, R444 -/

/-- The sections are written at their offsets in the host buffer. -/
def writeSections (m : Mem) (base : Nat) (l : List Section) : Mem :=
  l.foldl (fun m x => m.writeBytes (base + x.offset) x.data) m

/-- The host dump is written, its header last. -/
def hostDumpWrite (s : State) (fw : List Nat) : State :=
  let e := s.faultView
  let base := s.r F.SYS_DUMP_BUF_ADDR
  let l := e.hostSections (s.r F.SYS_DUMP_BUF_SIZE_SIZE) fw
  let m := (writeSections s.hostMem base l).writeBytes base (s.dumpHeader e 0 l)
  let whole := l.all fun x => !(x.truncated || x.skipped)
  let s := { s with hostMem := m, fresh := s.fresh + 1 }
  (s.w F.SYS_DUMP_STAT_HOST 0 (if whole then 1 else 2)).w F.SYS_DUMP_BYTES_BYTES 0 (dumpSize l)

/-- The header whose FLASH_OPS the summary uses: that of the running image, or slot A's if none runs (R444). -/
def opsHeader (s : State) : List Nat := if s.sys.fwHdr.isEmpty then s.slotHeader 1 else s.sys.fwHdr

/-- Where the dump summary lies in the flash (R430). -/
def summaryAt : Nat := 0x800000

/-- One flash operation by FLASH_OPS of header h: a write-enable, the operation, and the status read that finds it done. -/
def flashOp (h : List Nat) (f : Frame) : List Frame :=
  [{ cls := 1, tgt := 0, cmd := [byteAt h 0x22] }, f, { cls := 1, tgt := 0, cmd := [byteAt h 0x25], read := true, data := [0] }]

/-- Sector k of the summary is erased, and a page at offset `o` of it programmed. -/
def eraseFrame (h : List Nat) (k : Nat) : Frame :=
  { cls := 1, tgt := 0, cmd := [byteAt h 0x23], addr := addrBytes 3 (summaryAt + 4096 * k) }
def pageFrame (h bytes : List Nat) (o : Nat) : Frame :=
  { cls := 1, tgt := 0, cmd := [byteAt h 0x24], addr := addrBytes 3 (summaryAt + o),
    data := (bytes.drop o).take (2 ^ byteAt h 0x27) }

/-- The frames of a summary: the 64 sectors are erased, then every section but the header is programmed, then the header
(R444). -/
def summaryFrames (h bytes : List Nat) : List Frame :=
  let page := 2 ^ byteAt h 0x27
  let pages (from_ upto : Nat) : List Frame :=
    (List.range ((upto - from_) / page)).flatMap fun i => flashOp h (pageFrame h bytes (from_ + page * i))
  ((List.range 64).flatMap fun k => flashOp h (eraseFrame h k)) ++ pages 0x1000 0x40000 ++ pages 0 0x1000

/-- The flash summary is written, its header last. -/
def flashDumpWrite (s : State) (fw : List Nat) : State :=
  let e := s.faultView
  let l := e.flashSections fw
  let bytes := s.dumpHeader e 1 l ++ l.flatMap fun x => x.data
  let s := s.setMsp { s.msp with sent := summaryFrames s.opsHeader bytes }
  { (s.w F.SYS_DUMP_STAT_FLASH 0 1) with sys := { s.sys with summary := bytes }, fresh := s.fresh + 1 }

/-- The summary ends, unless the temperature has left its window (R436, R444). -/
def summaryDone (s : State) (fw : List Nat) : State :=
  if s.nvmTempBad then s.w F.SYS_DUMP_STAT_FLASH 0 2 else s.flashDumpWrite fw

/-- The first `n` bytes of the sections are written, in the order given. -/
def writePart (m : Mem) (base : Nat) : List Section → Nat → Mem
  | [], _ => m
  | x :: xs, n => writePart (m.writeBytes (base + x.offset) (x.data.take n)) base xs (n - x.data.length)

/-- The link leaves L0 during a host dump: host writes stop after a number of bytes that is free, as is what the Roloz core
gave for them (log 12), and the flash summary is written in its place (R440). -/
def hostDumpLost (s : State) : State :=
  if s.dev == .dump && s.sys.dump == some .host then
    let fw := (List.range 0x20000).map fun k => Config.unstated 46 (s.fresh * 2 ^ 20 + k) % 256
    let l := s.faultView.hostSections (s.r F.SYS_DUMP_BUF_SIZE_SIZE) fw
    let n := Config.unstated 60 s.fresh % (dumpSize l - 0xFFF)
    let s := { s with hostMem := writePart s.hostMem (s.r F.SYS_DUMP_BUF_ADDR) l n, fresh := s.fresh + 1 }
    ((s.w F.SYS_DUMP_STAT_HOST 0 3).w F.SYS_DUMP_BYTES_BYTES 0 n).summaryStart
  else s

/-- The link leaves L0. -/
def linkExit (s : State) : State := (s.hostDumpLost.setLink false).markDelayed

/-- The dump under way completes, and the device returns to FAULT (R87, R443). -/
def dumpComplete (s : State) (fw : List Nat) : State :=
  if s.dev != .dump then s
  else match s.sys.dump with
    | none => s
    | some .host => if s.canIssue then (s.hostDumpWrite fw).dumpEnd else s
    | some .flash => (s.summaryDone fw).dumpEnd
    | some .ended => s.dumpEnd

end State

/-- LINK_L0_EXIT, R90, R267. -/
def execLinkL0Exit (s : State) : Out := whenBooted s State.linkExit

/-- HOST_DUMP_LINK_LOST, R440. -/
def execHostDumpLinkLost (s : State) : Out :=
  .next (if s.dev == .dump && s.sys.dump == some .host then s.linkExit else s)

/-- DUMP_COMPLETE, R443, R444: `fw` holds the Roloz core's registers (4 KiB), its log (64 KiB) and its data SRAM
(60 KiB), which the core gives and R441 does not state. -/
def execDumpComplete (fw : List (BitVec 8)) (s : State) : Out := .next (s.dumpComplete (fw.map BitVec.toNat))

end Sys2Proof.Machine
end

