-- ==== Sys2Proof/Machine/Dispatch.lean ====
section
/-! DEFINITION. The meaning of each command. -/

namespace Sys2Proof.Machine

open Sys2Proof

/-- The effect of a command on everything but the queue. -/
def exec (i : Instr) (s : State) : Host.Outcome State Fault Refusal :=
  match i with
  | .registerWrite m off len allBytes vs => Sys2Proof.Machine.execRegisterWrite m off len allBytes vs s
  | .w1cWrite m off v => Sys2Proof.Machine.execW1cWrite m off v s
  | .rcRead m off len => Sys2Proof.Machine.execRcRead m off len s
  | .multiwordLowRead m off both => Sys2Proof.Machine.execMultiwordLowRead m off both s
  | .multiwordStagedWrite m off v => Sys2Proof.Machine.execMultiwordStagedWrite m off v s
  | .stateReqRun m => Sys2Proof.Machine.execStateReqRun m s
  | .stateReqSafe m => Sys2Proof.Machine.execStateReqSafe m s
  | .stateReqSetup m => Sys2Proof.Machine.execStateReqSetup m s
  | .sysSwrst m => Sys2Proof.Machine.execSysSwrst m s
  | .powerUp => Sys2Proof.Machine.execPowerUp s
  | .powerDown => Sys2Proof.Machine.execPowerDown s
  | .resetPin => Sys2Proof.Machine.execResetPin s
  | .pcieFundamentalReset => Sys2Proof.Machine.execPcieFundamentalReset s
  | .perstEndpointReset => Sys2Proof.Machine.execPerstEndpointReset s
  | .functionLevelReset => Sys2Proof.Machine.execFunctionLevelReset s
  | .d3hotEntry => Sys2Proof.Machine.execD3hotEntry s
  | .resetEnd src chain avs => Sys2Proof.Machine.execResetEnd src chain avs s
  | .endpointReady => Sys2Proof.Machine.execEndpointReady s
  | .linkDownTimeout => Sys2Proof.Machine.execLinkDownTimeout s
  | .watchdogExpired imageOk => Sys2Proof.Machine.execWatchdogExpired imageOk s
  | .bridgeTimeout east => Sys2Proof.Machine.execBridgeTimeout east s
  | .pllLockTimeout mask => Sys2Proof.Machine.execPllLockTimeout mask s
  | .fwMemoryError => Sys2Proof.Machine.execFwMemoryError s
  | .fwCheckFail code => Sys2Proof.Machine.execFwCheckFail code s
  | .dumpEntry => Sys2Proof.Machine.execDumpEntry s
  | .hostDumpLinkLost => Sys2Proof.Machine.execHostDumpLinkLost s
  | .dumpComplete fw => Sys2Proof.Machine.execDumpComplete fw s
  | .dumpFlashTimeout => Sys2Proof.Machine.execDumpFlashTimeout s
  | .lrefclkAbsent => Sys2Proof.Machine.execLrefclkAbsent s
  | .lrefclkReturn => Sys2Proof.Machine.execLrefclkReturn s
  | .bootHeadersRead a b => Sys2Proof.Machine.execBootHeadersRead a b s
  | .bootImageLoaded body init => Sys2Proof.Machine.execBootImageLoaded body init s
  | .sysHbootGo m => Sys2Proof.Machine.execSysHbootGo m s
  | .hostImageLoaded ok init => Sys2Proof.Machine.execHostImageLoaded ok init s
  | .nvmRecordLoad => Sys2Proof.Machine.execNvmRecordLoad s
  | .bootComplete => Sys2Proof.Machine.execBootComplete s
  | .marginMeasure isl rate => Sys2Proof.Machine.execMarginMeasure isl rate s
  | .rateRaiseReady c => Sys2Proof.Machine.execRateRaiseReady c s
  | .rateRaiseTimeout c => Sys2Proof.Machine.execRateRaiseTimeout c s
  | .supplyLoopEval => Sys2Proof.Machine.execSupplyLoopEval s
  | .avsTransactionDone r ok => Sys2Proof.Machine.execAvsTransactionDone r ok s
  | .avsStatusRead r statusOk fault targetOk mv => Sys2Proof.Machine.execAvsStatusRead r statusOk fault targetOk mv s
  | .avsFaultRetry r good => Sys2Proof.Machine.execAvsFaultRetry r good s
  | .fifoSlip x => Sys2Proof.Machine.execFifoSlip x s
  | .converterRunning n => Sys2Proof.Machine.execConverterRunning n s
  | .agcPeriod n => Sys2Proof.Machine.execAgcPeriod n s
  | .feWalkStep n => Sys2Proof.Machine.execFeWalkStep n s
  | .adcWindow n samples => Sys2Proof.Machine.execAdcWindow n samples s
  | .mapChange n => Sys2Proof.Machine.execMapChange n s
  | .foregroundPassStart d => Sys2Proof.Machine.execForegroundPassStart d s
  | .fgDone n rx tx => Sys2Proof.Machine.execFgDone n rx tx s
  | .calWaitRetry n => Sys2Proof.Machine.execCalWaitRetry n s
  | .cardingSlot n ms => Sys2Proof.Machine.execCardingSlot n ms s
  | .txCellSwap n => Sys2Proof.Machine.execTxCellSwap n s
  | .laneTempReport n => Sys2Proof.Machine.execLaneTempReport n s
  | .rampStep n => Sys2Proof.Machine.execRampStep n s
  | .nvmCommitStart => Sys2Proof.Machine.execNvmCommitStart s
  | .scheduledCommit => Sys2Proof.Machine.execScheduledCommit s
  | .nvmCommitResume => Sys2Proof.Machine.execNvmCommitResume s
  | .nvmCommitTimeout => Sys2Proof.Machine.execNvmCommitTimeout s
  | .nvmProgramDone bad => Sys2Proof.Machine.execNvmProgramDone bad s
  | .nvmEraseDone => Sys2Proof.Machine.execNvmEraseDone s
  | .adaptationStep n prev k xs => Sys2Proof.Machine.execAdaptationStep n prev k xs s
  | .timingUpdate n prev xs => Sys2Proof.Machine.execTimingUpdate n prev xs s
  | .acqStepEnd n => Sys2Proof.Machine.execAcqStepEnd n s
  | .ctleTryEnd n prev xs => Sys2Proof.Machine.execCtleTryEnd n prev xs s
  | .eqWindow n prev xs => Sys2Proof.Machine.execEqWindow n prev xs s
  | .acqTimeout n => Sys2Proof.Machine.execAcqTimeout n s
  | .innerHuntTest n prev xs => Sys2Proof.Machine.execInnerHuntTest n prev xs s
  | .poolEpoch d ins => Sys2Proof.Machine.execPoolEpoch d ins s
  | .decodeDeliver d => Sys2Proof.Machine.execDecodeDeliver d s
  | .poolWindow d => Sys2Proof.Machine.execPoolWindow d s
  | .rsCodeword n word => Sys2Proof.Machine.execRsCodeword n word s
  | .payloadLockTimeout n => Sys2Proof.Machine.execPayloadLockTimeout n s
  | .payloadStart n => Sys2Proof.Machine.execPayloadStart n s
  | .holdoverGraceExpiry n => Sys2Proof.Machine.execHoldoverGraceExpiry n s
  | .drainComplete n => Sys2Proof.Machine.execDrainComplete n s
  | .txSatWindow n x => Sys2Proof.Machine.execTxSatWindow n x s
  | .unsquelchRampEnd n => Sys2Proof.Machine.execUnsquelchRampEnd n s
  | .swingWalkStep n => Sys2Proof.Machine.execSwingWalkStep n s
  | .txParamApply n => Sys2Proof.Machine.execTxParamApply n s
  | .slotFault k => Sys2Proof.Machine.execSlotFault k s
  | .slotFaultClear k => Sys2Proof.Machine.execSlotFaultClear k s
  | .hostAlignTest m word start => Sys2Proof.Machine.execHostAlignTest m word start s
  | .cdrLock m => Sys2Proof.Machine.execCdrLock m s
  | .hostLinkDown m sig => Sys2Proof.Machine.execHostLinkDown m sig s
  | .loopbackSlip x => Sys2Proof.Machine.execLoopbackSlip x s
  | .ringEnable m q ok => Sys2Proof.Machine.execRingEnable m q ok s
  | .ringDisable m q => Sys2Proof.Machine.execRingDisable m q s
  | .doorbell off len allBytes v => Sys2Proof.Machine.execDoorbell off len allBytes v s
  | .evtRouteWrite m k v => Sys2Proof.Machine.execEvtRouteWrite m k v s
  | .msixUnmask e => Sys2Proof.Machine.execMsixUnmask e s
  | .descriptorFetch q ok => Sys2Proof.Machine.execDescriptorFetch q ok s
  | .jobStart q k => Sys2Proof.Machine.execJobStart q k s
  | .hostReadError q k => Sys2Proof.Machine.execHostReadError q k s
  | .completionWrite q => Sys2Proof.Machine.execCompletionWrite q s
  | .eventDeliver q => Sys2Proof.Machine.execEventDeliver q s
  | .irqCoalTimer q => Sys2Proof.Machine.execIrqCoalTimer q s
  | .triggerTick => Sys2Proof.Machine.execTriggerTick s
  | .captureUnitWrite b prev before own after full => Sys2Proof.Machine.execCaptureUnitWrite b prev before own after full s
  | .captureTimeout b => Sys2Proof.Machine.execCaptureTimeout b s
  | .dramTempRead temp => Sys2Proof.Machine.execDramTempRead temp s
  | .captureReadDone k => Sys2Proof.Machine.execCaptureReadDone k s
  | .plankJobStart => Sys2Proof.Machine.execPlankJobStart s
  | .plankJobEnd e => Sys2Proof.Machine.execPlankJobEnd e s
  | .plankEngineFault e => Sys2Proof.Machine.execPlankEngineFault e s
  | .hbTimerTrigger c => Sys2Proof.Machine.execHbTimerTrigger c s
  | .hbPwmTrigger c => Sys2Proof.Machine.execHbPwmTrigger c s
  | .hbBusGrant => Sys2Proof.Machine.execHbBusGrant s
  | .hbConversion c raw => Sys2Proof.Machine.execHbConversion c raw s
  | .hbQRead m c => Sys2Proof.Machine.execHbQRead m c s
  | .hbSelfcalStep c m1 m2 => Sys2Proof.Machine.execHbSelfcalStep c m1 m2 s
  | .hbStopped c => Sys2Proof.Machine.execHbStopped c s
  | .hbExcCheck k mv limit => Sys2Proof.Machine.execHbExcCheck k mv limit s
  | .dacSlewTick c => Sys2Proof.Machine.execDacSlewTick c s
  | .rangeClampEnd c => Sys2Proof.Machine.execRangeClampEnd c s
  | .hkClearPin => Sys2Proof.Machine.execHkClearPin s
  | .hkClearPinEnd => Sys2Proof.Machine.execHkClearPinEnd s
  | .pwmPeriodStart p => Sys2Proof.Machine.execPwmPeriodStart p s
  | .thermalTick readings => Sys2Proof.Machine.execThermalTick readings s
  | .sensorReadmit m w v => Sys2Proof.Machine.execSensorReadmit m w v s
  | .mspmFrame fw data strobe => Sys2Proof.Machine.execMspmFrame fw data strobe s
  | .xipRead line => Sys2Proof.Machine.execXipRead line s
  | .mspPollWait q k => Sys2Proof.Machine.execMspPollWait q k s
  | .mspPollTimeout q k => Sys2Proof.Machine.execMspPollTimeout q k s
  | .slaveRead shape addr whole words => Sys2Proof.Machine.execSlaveRead shape addr whole words s
  | .slaveWrite shape addr whole words cut => Sys2Proof.Machine.execSlaveWrite shape addr whole words cut s
  | .slaveStatus shape words => Sys2Proof.Machine.execSlaveStatus shape words s
  | .slaveFetch shape words => Sys2Proof.Machine.execSlaveFetch shape words s
  | .slaveFetchDone => Sys2Proof.Machine.execSlaveFetchDone s
  | .chainRelease shape clocks word => Sys2Proof.Machine.execChainRelease shape clocks word s
  | .bistDone sigs mems => Sys2Proof.Machine.execBistDone sigs mems s
  | .telemetryPeriod k => Sys2Proof.Machine.execTelemetryPeriod k s
  | .telemetryQueueRecord k period => Sys2Proof.Machine.execTelemetryQueueRecord k period s
  | .nop q k => Sys2Proof.Machine.execNop q k s
  | .fence q k => Sys2Proof.Machine.execFence q k s
  | .laneConfig q k => Sys2Proof.Machine.execLaneConfig q k s
  | .laneEnable q k => Sys2Proof.Machine.execLaneEnable q k s
  | .laneDisable q k => Sys2Proof.Machine.execLaneDisable q k s
  | .laneLoopback q k => Sys2Proof.Machine.execLaneLoopback q k s
  | .laneMap q k => Sys2Proof.Machine.execLaneMap q k s
  | .lanePair q k => Sys2Proof.Machine.execLanePair q k s
  | .eqParam q k => Sys2Proof.Machine.execEqParam q k s
  | .txParam q k => Sys2Proof.Machine.execTxParam q k s
  | .fecConfig q k => Sys2Proof.Machine.execFecConfig q k s
  | .poolConfig q k => Sys2Proof.Machine.execPoolConfig q k s
  | .calRun q k => Sys2Proof.Machine.execCalRun q k s
  | .calPolicy q k => Sys2Proof.Machine.execCalPolicy q k s
  | .calCommit q k => Sys2Proof.Machine.execCalCommit q k s
  | .calRestore q k => Sys2Proof.Machine.execCalRestore q k s
  | .captureArm q k => Sys2Proof.Machine.execCaptureArm q k s
  | .captureAbort q k => Sys2Proof.Machine.execCaptureAbort q k s
  | .captureRead q k => Sys2Proof.Machine.execCaptureRead q k s
  | .plankCompress q k => Sys2Proof.Machine.execPlankCompress q k s
  | .plankDecompress q k => Sys2Proof.Machine.execPlankDecompress q k s
  | .hbScanSet q k => Sys2Proof.Machine.execHbScanSet q k s
  | .hbStart q k => Sys2Proof.Machine.execHbStart q k s
  | .hbStop q k => Sys2Proof.Machine.execHbStop q k s
  | .hbUrgent q k => Sys2Proof.Machine.execHbUrgent q k s
  | .hbSelfcal q k => Sys2Proof.Machine.execHbSelfcal q k s
  | .hbExcite q k => Sys2Proof.Machine.execHbExcite q k s
  | .hkDacSet q k => Sys2Proof.Machine.execHkDacSet q k s
  | .hkDacRange q k => Sys2Proof.Machine.execHkDacRange q k s
  | .hkPwmSet q k => Sys2Proof.Machine.execHkPwmSet q k s
  | .thermLimits q k => Sys2Proof.Machine.execThermLimits q k s
  | .thermShedOrder q k => Sys2Proof.Machine.execThermShedOrder q k s
  | .mspXfer q k => Sys2Proof.Machine.execMspXfer q k s
  | .telemetrySubscribe q k => Sys2Proof.Machine.execTelemetrySubscribe q k s
  | .bistRun q k => Sys2Proof.Machine.execBistRun q k s
  | .dumpRequest q k => Sys2Proof.Machine.execDumpRequest q k s
  | .timeSet q k => Sys2Proof.Machine.execTimeSet q k s
  | .linkL0Exit => Sys2Proof.Machine.execLinkL0Exit s
  | .linkL0Entry => Sys2Proof.Machine.execLinkL0Entry s
  | .busMasterEnableWrite enable => Sys2Proof.Machine.execBusMasterEnableWrite enable s
  | .d3hotExit => Sys2Proof.Machine.execD3hotExit s
  | .watchdogRestart => Sys2Proof.Machine.execWatchdogRestart s
  | .slotFltNChange k high => Sys2Proof.Machine.execSlotFltNChange k high s
  | .prbsCheck m errs => Sys2Proof.Machine.execPrbsCheck m errs s
  | .pwmActiveEnd p => Sys2Proof.Machine.execPwmActiveEnd p s
  | .slaveUndefinedCommand shape cmd => Sys2Proof.Machine.execSlaveUndefinedCommand shape cmd s

end Sys2Proof.Machine
end

