-- ==== Sys2Proof/Machine/Clock.lean ====
section
/-! DEFINITION. The passing of time while no command waits (spec/00_scope.md R8, spec/05_converter_calibration.md R143,
spec/17_electrical_package.md R460). -/

namespace Sys2Proof.Machine

open Sys2Proof

namespace State

/-- By how much SYS_TIME advances in one nanosecond. On the crown's internal oscillator it may be 0 or 2 instead of 1, which
is free (log 12), but once in 20 ns at most: the oscillator is accurate to 5% (R460). -/
def timeStep (s : State) : Nat :=
  if s.sys.lrefAbsent && s.sys.oscNs + 20 ≤ s.now then Config.unstated 63 s.now % 3 else 1

/-- The clocks count one nanosecond (log 2): without power only the model's own. -/
def clockStep (s : State) : State :=
  let t := { s with now := s.now + 1 }
  if s.powered then
    ({ t with poweredNs := s.poweredNs + 1,
              sys := if s.timeStep = 1 then s.sys else { s.sys with oscNs := s.now } }).w
      F.SYS_TIME_TIME 0 (s.sysTime + s.timeStep)
  else t

/-- One nanosecond passes: a transition triggered before it has entered its state (R60, log 31), and a telemetry record that
waited for the link alone is written (R40, R43). -/
def tick (s : State) : State := s.clockStep.transStep.subGrant

end State

end Sys2Proof.Machine
end

