-- ==== Sys2Proof/Safety.lean ====
section
/-! DEFINITION. What a safe state is: memories in their canonical form, a legal chip state, and a step that answers a next state. -/

namespace Sys2Proof.Machine

open Sys2Proof

/-- Host memory and the non-volatile memory are in canonical form. -/
def State.memOk (s : State) : Prop := s.hostMem.wf = true ∧ s.nvm.wf = true

/-- SYS_STATE.STATE holds one of the eight codes of R61. -/
def legalState (r : Regs) : Prop := r.get F.SYS_STATE_STATE 0 ≤ 7

/-- The machine goes on from `s`: neither a fault nor a refusal. -/
def State.goesOn (s : State) : Prop := ∃ t, step s = .next t

/-! ### What a command changes -/

/-- Of the registers only the fields of `l`, each at its index, may differ between `s` and `t`. -/
def onlyRegs (l : List (Fld × Nat)) (s t : State) : Prop :=
  ∀ f i, (f.id, i) ∉ l.map (fun p => (p.1.id, p.2)) → t.r f i = s.r f i

/-- Of the registers only the fields of `l`, at any index, may differ between `s` and `t`. -/
def onlyFields (l : List Fld) (s t : State) : Prop := ∀ f i, f.id ∉ l.map Fld.id → t.r f i = s.r f i

/-- Of the registers only fields of the registers whose base offset `p` accepts may differ between `s` and `t`. -/
def onlyBlocks (p : Nat → Bool) (s t : State) : Prop := ∀ f i, f.lo < 512 → p f.base = false → t.r f i = s.r f i

/-- The base offsets of the lane blocks, of the host lane blocks and of the island margins (R46). -/
def laneBlock (b : Nat) : Bool := decide (0x1000000 ≤ b) && decide (b < 0x1C00000)
def hostBlock (b : Nat) : Bool := decide (0x2000000 ≤ b)
def marginBlock (b : Nat) : Bool := b == F.SYS_ISL_MARGIN_MARGIN.base

/-- The base offsets of block k of the map: 1 thermal, 2 calibration, 3 Hatband, 4 housekeeping, 5 serial (R46). -/
def blockAt (k b : Nat) : Bool := b / 0x10000 == k

/-- Every byte of host memory outside the `n` bytes from `a` on reads as before. -/
def onlyBytes (a n : Nat) (s t : State) : Prop := ∀ x, x < a ∨ a + n ≤ x → t.hostMem.read x = s.hostMem.read x

/-- Every byte of host memory reads as before. -/
def sameBytes (s t : State) : Prop := ∀ x, t.hostMem.read x = s.hostMem.read x

/-- Every job but the one at (q, i) stands as before. -/
def onlyJob (q i : Nat) (s t : State) : Prop := ∀ p k, (p, k) ≠ (q, i) → t.job? p k = s.job? p k

/-- The registers whose written values have a further effect, or that commands of their own write (R434, R62, R84, R88,
R241, R249, R252, R270, R287, R340, R366, R373, R384, R409). -/
def effectBases : List Nat :=
  [F.SYS_STATE_REQ_REQ, F.SYS_SWRST_KEY, F.SYS_HBOOT_ADDR_VALUE, F.SYS_HBOOT_LEN_VALUE, F.SYS_HBOOT_GO_KEY,
   F.RNG_TABLE_ADDR, F.RNG_CTL_ENABLE, F.THM_SENSOR_FAIL_FAIL, F.LANE_CFG_MODE, F.LANE_FEC_CFG_OUTER_MODE,
   F.LANE_TX_CFG_SWING, F.XBAR_MAP_A, F.HSL_CFG_PRBS_GEN, F.HB_EXC_CFG_EN, F.HB_PT_CFG_RANGE, F.HK_DAC_CFG_RANGE,
   F.HK_PWM_CFG_PERIOD, F.MSPM_XIP_CFG0_EN, F.SYS_RESET_CFG_PERST_MODE, F.EVT_ROUTE_RING, F.EVT_SLOT_ROUTE_RING].map Fld.base

/-- A register whose write stores values and does nothing else. -/
def plainRegister (sp : RegSpec) : Bool := !effectBases.contains sp.base

/-- The job at (q, i) is due with this status and these results. -/
def State.due (s : State) (q i : Nat) (st : Status) (r0 r1 : Nat) : Prop :=
  ∃ j, s.job? q i = some j ∧ j.phase = .due ∧ j.status = st ∧ j.r0 = r0 ∧ j.r1 = r1

/-- The job at (q, i) runs on and waits for `ws`. -/
def State.waits (s : State) (q i : Nat) (ws : List Wait) : Prop :=
  ∃ j, s.job? q i = some j ∧ j.phase = .running ∧ j.waits = ws

end Sys2Proof.Machine
end

