-- ==== Sys2Proof/Certificates/Slice0/Obligations.lean ====
section
/-! DEFINITION. The statements for the provers. -/

open Sys2Proof Sys2Proof.Machine

/-- A step with a command at the front of the queue is that command's meaning on the state with the queue's rest: the
model's own rule, by which a block takes its commands (log 2). On an empty queue, with no transition under way and no
telemetry record that waits to be written (logs 31, 70 and 2), a step answers a next state: with power and LREFCLK one
nanosecond passes on SYS_TIME and on the powered time (R143), without power on the model's own clock alone (the model's
choice of log 2). -/
def Obligations.StepRunsFront : Prop :=
  (
  ∀ (c : Instr) (cs : List Instr) (s : State), s.pending = c :: cs → step s = exec c { s with pending := cs }) ∧
  (
  ∀ s : State, s.pending = [] → s.sys.trans = [] → (s.subs.any fun x => x.2.waiting.isSome) = false →
    (s.dev ≠ .off → s.sys.lrefAbsent = false → ∃ t, step s = .next t ∧
      t.sysTime = (s.sysTime + 1) % 2 ^ 64 ∧ t.poweredNs = s.poweredNs + 1 ∧ t.now = s.now + 1 ∧
      onlyRegs [(F.SYS_TIME_TIME, 0)] s t ∧
      t = { s with now := t.now, poweredNs := t.poweredNs, regs := t.regs }) ∧
    (s.dev = .off → step s = .next { s with now := s.now + 1 }))

/-- Every command answers a next state, also where it has nothing to act on, and leaves the queue and the clock of the model
alone: the model's choice (logs 2, 3 and 15), for the spec gives no command that stops the block. -/
def Obligations.EveryCommandAnswers : Prop :=
  ∀ (c : Instr) (s : State), ∃ t, exec c s = .next t ∧ t.pending = s.pending ∧ t.now = s.now

/-- Every step keeps host memory and the non-volatile memory in canonical form. -/
def Obligations.StepKeepsMemories : Prop :=
  ∀ s t : State, s.memOk → step s = .next t → t.memOk

/-- Every step keeps SYS_STATE.STATE at one of the eight codes of R61. -/
def Obligations.StepKeepsState : Prop :=
  ∀ s t : State, legalState s.regs → step s = .next t → legalState t.regs

/-- The state after reset meets both invariants: canonical memories and a legal device state. -/
def Obligations.ResetMeetsInvariants : Prop :=
  State.reset.memOk ∧ legalState State.reset.regs

/-- After power-up RESET the device is in state RESET with cause POWER (that the model starts there is log 5), the model's
own queue, event store, job list and host memory hold nothing (DESIGN CHOICE and PRESUMED: logs 1, 5, 15 and 23), and the
registers hold their reset values: no event held, no command waiting, no ring in use, every batt FREE, every lane OFF with
the crossbar's identity pair and 64 grace windows, SYS_TIME 0, every housekeeping DAC at code 0, and the fixed identity. -/
def Obligations.ResetState : Prop :=
  State.reset.dev = .reset ∧ State.reset.r F.SYS_RST_CAUSE_POWER = 1 ∧ State.reset.r F.SYS_TIME_TIME = 0 ∧
    State.reset.pending = [] ∧ State.reset.held = [] ∧ State.reset.jobs = [] ∧ State.reset.hostMem = [] ∧
    (∀ q, State.reset.r F.RNG_STAT_STATE q = 0 ∧ State.reset.r F.RNG_STAT_TYPE q = 0) ∧
    (∀ n, State.reset.r F.LANE_STAT_STATE n = 0 ∧ State.reset.r F.XBAR_MAP_A n = 2 * n ∧
      State.reset.r F.XBAR_MAP_B n = 2 * n + 1 ∧ State.reset.r F.LANE_CFG_GRACE n = 64) ∧
    (∀ b, State.reset.r F.CAP_BATT_STAT_STATE b = 0) ∧ (∀ c, State.reset.r F.HK_DAC_STAT_OUT c = 0) ∧
    State.reset.r F.SYS_ID_PART = 0xD192 ∧ State.reset.r F.SYS_ID_FAMILY = 1

/-- RING_ENABLE on a DISABLED ring whose table entry is good makes it ACTIVE with the entry's type, both indices 0, PHASE 0
for a command ring and 1 for another, and ERR 0; a failed table read leads to ERROR with ERR 5, an invalid entry to ERR 1,
and a command ring whose completion ring is not ACTIVE to ERR 2, each with RING_ERROR held (R270). RING_DISABLE of a command
ring with jobs in flight makes it STOPPING; a ring without jobs becomes DISABLED with its TYPE, ERR and OVERFLOW 0 and PHASE
1. Nothing else changes (R271). exec answers a next state, under conditions on the operands and the state alone, for each
of: ringEnable, ringDisable. -/
def Obligations.RingSwitch : Prop :=
  (
  ∀ (m : Master) (q : Fin 32768) (ok : Bool) (s : State), s.serviced = true → s.canIssue = true →
    s.r F.RNG_STAT_STATE q = 0 → s.pcie.tableWait = [] →
    ∃ t, exec (.ringEnable m q ok) s = .next t ∧ t.r F.RNG_CTL_ENABLE q = 1 ∧
      (let e := s.hostMem.readN (s.tableEntry q) 64
       let good := ok && State.entryCommon e && State.entryTyped e
       let cqBad := byteAt e 8 ≤ 2 ∧ s.ringIs (leAt e 10 2) 3 = false
       (good = true → ¬ cqBad → t.r F.RNG_STAT_STATE q = 1 ∧ t.r F.RNG_STAT_TYPE q = byteAt e 8 ∧
          t.r F.RNG_STAT_ERR q = 0 ∧ t.r F.RNG_IDX_DEV_IDX q = 0 ∧ t.r F.RNG_IDX_HOST_IDX q = 0 ∧
          t.r F.RNG_STAT_OVERFLOW q = 0 ∧ t.r F.RNG_STAT_PHASE q = (if byteAt e 8 ≤ 2 then 0 else 1) ∧
          t.ring q = State.entryKept e ∧ t = { s with regs := t.regs, rings := t.rings }) ∧
       (good = true → cqBad → t.r F.RNG_STAT_STATE q = 3 ∧ t.r F.RNG_STAT_ERR q = 2 ∧ t.r F.RNG_STAT_PHASE q = 0) ∧
       (good = false → t.r F.RNG_STAT_STATE q = 3 ∧ t.r F.RNG_STAT_ERR q = (if ok then 1 else 5)) ∧
       (t.r F.RNG_STAT_STATE q = 3 → t.isHeld State.sysSrc 0xA005 = true ∧ t.r F.RNG_ENG_EVT_RING_ERROR = 1)) ∧
      t = { s with regs := t.regs, rings := t.rings, held := t.held, occ := t.occ } ∧ (∀ p, p ≠ q.val → t.ring p = s.ring p) ∧ sameBytes s t ∧
      onlyRegs [(F.RNG_CTL_ENABLE, q), (F.RNG_STAT_STATE, q), (F.RNG_STAT_TYPE, q), (F.RNG_STAT_ERR, q),
        (F.RNG_IDX_DEV_IDX, q), (F.RNG_IDX_HOST_IDX, q), (F.RNG_STAT_OVERFLOW, q), (F.RNG_STAT_PHASE, q),
        (F.RNG_ENG_EVT_RING_ERROR, 0)] s t) ∧
  (
  ∀ (m : Master) (q : Fin 32768) (s : State), s.serviced = true → s.disableIgnored q = false →
    s.r F.RNG_STAT_STATE q ≠ 0 →
    ∃ t, exec (.ringDisable m q) s = .next t ∧ t.r F.RNG_CTL_ENABLE q = 0 ∧ t.r F.RNG_STAT_ENABLE_PENDING q = 0 ∧
      (s.r F.RNG_STAT_TYPE q ≤ 2 → 0 < s.ringJobs q → t.r F.RNG_STAT_STATE q = 2 ∧ t.r F.RNG_STAT_ERR q = 0 ∧
        t.r F.RNG_STAT_TYPE q = s.r F.RNG_STAT_TYPE q) ∧
      (s.r F.RNG_STAT_TYPE q > 2 ∨ s.ringJobs q = 0 → t.r F.RNG_STAT_STATE q = 0 ∧ t.r F.RNG_STAT_TYPE q = 0 ∧
        t.r F.RNG_STAT_ERR q = 0 ∧ t.r F.RNG_STAT_OVERFLOW q = 0 ∧ t.r F.RNG_STAT_PHASE q = 1) ∧
      t = { s with regs := t.regs, held := t.held, pcie := t.pcie } ∧ t.held.map Held.code = s.held.map Held.code ∧
      t.pcie = { s.pcie with tableWait := s.pcie.tableWait.filter (· != q.val),
                             tableFail := s.pcie.tableFail.filter (· != q.val) } ∧
      onlyRegs [(F.RNG_CTL_ENABLE, q), (F.RNG_STAT_STATE, q), (F.RNG_STAT_TYPE, q), (F.RNG_STAT_ERR, q),
        (F.RNG_STAT_OVERFLOW, q), (F.RNG_STAT_PHASE, q), (F.RNG_STAT_ENABLE_PENDING, q)] s t)

/-- DOORBELL of 4 bytes at 64 times the number of an ACTIVE ring: a valid index becomes HOST_IDX and nothing else changes;
another puts the ring into ERROR with ERR 3; and a read of BAR2 of any form answers zeros and has no effect (R48, R49,
R273). DESCRIPTOR_FETCH first deals the free job slots among the rings that ask, one at a time; for the ring that then has
the turn it reads as many descriptors as it was dealt slots, of those that room, the limits and the ring's end allow, as
jobs in phase fetched, moves DEV_IDX past them, writes it to the ring's head write-back address and moves the pointer of the
fetch reads behind the ring; nothing else changes (R41, R43, R276, R277; that a fetch's checks 1 to 3 of R275 are judged
here is log 22). exec answers a next state, under conditions on the operands and the state alone, for each of: doorbell,
descriptorFetch. -/
def Obligations.DoorbellAndFetch : Prop :=
  (
  (∀ (off : Fin 2097152) (len : Nat) (all : Bool) (s : State), (s.live || s.frozen) = true →
    exec (.doorbell off len all none) s = .next { s with readData := List.replicate (ceilDiv len 4) 0 }) ∧
  ∀ (q : Fin 32768) (off : Fin 2097152) (v : BitVec 32) (s : State), off.val = 64 * q → s.live = true →
    s.r F.RNG_STAT_STATE q = 1 →
    ∃ t, exec (.doorbell off 4 true (some v)) s = .next t ∧
      (s.doorbellBad q v.toNat = false → t.r F.RNG_IDX_HOST_IDX q = v.toNat % 2 ^ 16 ∧ t = { s with regs := t.regs } ∧
        onlyRegs [(F.RNG_IDX_HOST_IDX, q)] s t) ∧
      (s.doorbellBad q v.toNat = true → t.r F.RNG_STAT_STATE q = 3 ∧ t.r F.RNG_STAT_ERR q = 3 ∧
        t.isHeld State.sysSrc 0xA005 = true ∧ t = { s with regs := t.regs, held := t.held, occ := t.occ } ∧
        onlyRegs [(F.RNG_STAT_STATE, q), (F.RNG_STAT_ERR, q), (F.RNG_ENG_EVT_RING_ERROR, 0)] s t)) ∧
  (
  ∀ (q : Fin 32768) (s : State), s.serviced = true → s.canIssue = true → s.r F.RNG_STAT_STATE q = 1 →
    s.r F.RNG_STAT_TYPE q ≤ 2 → s.slotsDeal.fetchCount q 8 ≠ 0 →
    ∃ t, exec (.descriptorFetch q true) s = .next t ∧
      (let n := s.slotsDeal.fetchCount q 8
       let d := s.r F.RNG_IDX_DEV_IDX q
       t.jobs = s.jobs ++ (List.range n).map (fun k => s.jobOf q (d + k)) ∧
       t.r F.RNG_IDX_DEV_IDX q = (d + n) % s.ringSize q % 2 ^ 16 ∧
       ((s.ring q).headWb = 0 → sameBytes s t) ∧
       ((s.ring q).headWb ≠ 0 → onlyBytes (s.ring q).headWb 4 s t ∧
         ∀ k, k < 4 → t.hostMem.read ((s.ring q).headWb + k) =
           BitVec.ofNat 8 ((leBytes 4 (t.r F.RNG_IDX_DEV_IDX q)).getD k 0))) ∧
      t = { s with regs := t.regs, jobs := t.jobs, hostMem := t.hostMem, arb := s.slotsDeal.arb.set 5 (q + 1) 0,
                   grants := s.slotsDeal.grants.filter (· != q.val) } ∧
      onlyRegs [(F.RNG_IDX_DEV_IDX, q)] s t)

/-- JOB_START: a fetched job that its ring's order lets start is started when it passed its checks and the device state
accepts its opcode; otherwise it completes with the status of the check that failed, or with NOT_ALLOWED, and a Plank job
that completes so is counted in PLK_JOBS (R327). Other jobs stand as before and nothing else changes (R275, R278; that the
state is judged again at the start is log 22, DEDUCED). exec answers a next state, under conditions on the operands and the
state alone, for each of: jobStart. -/
def Obligations.JobStart : Prop :=
  ∀ (q : Fin 32768) (i : Fin 65536) (s : State) (j : Job), s.job? q i = some j → s.serviced = true →
    j.phase = .fetched → s.mayStart j = true →
    ∃ t, exec (.jobStart q i) s = .next t ∧
      (if j.failed.isSome then t.due q i (j.failed.getD .ok) 0 0
       else if (State.opInfo (byteAt j.desc 0)).any s.opState then t.job? q i = some { j with phase := .started }
       else t.due q i (if (State.opInfo (byteAt j.desc 0)).isSome then .notAllowed else .badOpcode) 0 0) ∧
      onlyJob q i s t ∧ t = { s with jobs := t.jobs, regs := t.regs } ∧ onlyRegs [(F.PLK_JOBS_COUNT, 0)] s t ∧
      t.r F.PLK_JOBS_COUNT =
        (if t.job? q i ≠ some { j with phase := .started } ∧ (byteAt j.desc 0 = 0x38 ∨ byteAt j.desc 0 = 0x39) then
           satAdd F.PLK_JOBS_COUNT.width (s.r F.PLK_JOBS_COUNT) 1
         else s.r F.PLK_JOBS_COUNT)

/-- NOP and FENCE complete with OK where their unused bytes are 0 and SCOPE is defined, else with BAD_PARAM, without any
other effect (R279). COMPLETION_WRITE with room in ACTIVE completion ring q: the 32 bytes of the next completion stand at
the ring's next entry with its PHASE, no other byte changes, DEV_IDX moves on and PHASE toggles at the wrap, the job is
gone, a status other than OK is counted for its ring, and the pointer of the writes moves behind the ring; the last
completion of a STOPPING ring makes it DISABLED (R41, R271, R283, R284). exec answers a next state, under conditions on the
operands and the state alone, for each of: nop, fence, completionWrite. -/
def Obligations.NopAndCompletion : Prop :=
  (
  ∀ (q : Fin 32768) (i : Fin 65536) (s : State) (j : Job),
    (s.started? 1 q i = some j → s.bistHolds j = false → ∃ t, exec (.nop q i) s = .next t ∧
      t.due q i (if zeroBytes j.desc 32 32 then .ok else .badParam) 0 0 ∧ onlyJob q i s t ∧ t = { s with jobs := t.jobs }) ∧
    (s.started? 2 q i = some j → s.bistHolds j = false → ∃ t, exec (.fence q i) s = .next t ∧
      t.due q i (if byteAt j.desc 32 ≤ 1 && zeroBytes j.desc 33 31 then .ok else .badParam) 0 0 ∧
      onlyJob q i s t ∧ t = { s with jobs := t.jobs })) ∧
  (
  ∀ (q : Fin 32768) (s : State) (j : Job), s.nextDue q = some j → s.serviced = true → s.canIssue = true →
    s.ringIs q 3 = true → s.ringFree q ≠ 0 →
    ∃ t, exec (.completionWrite q) s = .next t ∧
      (let i := s.r F.RNG_IDX_DEV_IDX q
       let e := s.complBytes j
       let a := (s.ring q).base + 32 * i
       onlyBytes a 32 s t ∧
       (∀ k, k < 32 → t.hostMem.read (a + k) = BitVec.ofNat 8
          (e.getD k 0 + if k = 3 then 128 * s.r F.RNG_STAT_PHASE q else 0)) ∧
       t.r F.RNG_IDX_DEV_IDX q = (i + 1) % s.ringSize q % 2 ^ 16 ∧
       t.r F.RNG_STAT_PHASE q = (if (i + 1) % s.ringSize q = 0 then (1 - s.r F.RNG_STAT_PHASE q) % 2
         else s.r F.RNG_STAT_PHASE q)) ∧
      (s.r F.RNG_STAT_STATE j.ring = 2 → s.ringJobs j.ring = 1 → s.on F.RNG_STAT_ENABLE_PENDING j.ring = false →
        t.r F.RNG_STAT_STATE j.ring = 0) ∧
      t.job? j.ring j.idx = none ∧ onlyJob j.ring j.idx s t ∧
      t.r F.RNG_CNT_COUNT j.ring =
        (if j.status = .ok then s.r F.RNG_CNT_COUNT j.ring else satAdd 32 (s.r F.RNG_CNT_COUNT j.ring) 1) ∧
      (s.r F.RNG_STAT_STATE j.ring ≠ 2 → t.arb = s.arb.set 1 (q + 1) 0 ∧ (∀ p, p ≠ q.val → t.ring p = s.ring p) ∧
        t = { s with regs := t.regs, hostMem := t.hostMem, rings := t.rings, jobs := t.jobs, msiSent := t.msiSent,
                     pcie := t.pcie, arb := t.arb } ∧
        onlyRegs [(F.RNG_IDX_DEV_IDX, q), (F.RNG_STAT_PHASE, q), (F.RNG_CNT_COUNT, j.ring)] s t))

/-- An event is delivered into the ring of its slot's VALID route, else of its group's VALID route; with neither, or where
that ring is not an ACTIVE event ring, it stays held. EVENT_DELIVER with two free entries in the ACTIVE event ring q: the 32
bytes of the next event stand at the ring's next entry with its PHASE, no other byte changes, DEV_IDX moves on, the event is
no longer held and every other one is (R287, R283, R285, R288). exec answers a next state, under conditions on the operands
and the state alone, for each of: eventDeliver. -/
def Obligations.EventDeliver : Prop :=
  (∀ (q : Nat) (s : State) (e : Held), s.nextEvent q = some e → e ∈ s.held ∧
    (∀ k, s.slotOf e.src = some k → s.on F.EVT_SLOT_ROUTE_VALID k = true → s.r F.EVT_SLOT_ROUTE_RING k = q) ∧
    ((∀ k, s.slotOf e.src = some k → s.on F.EVT_SLOT_ROUTE_VALID k = false) →
      1 ≤ e.code / 4096 ∧ e.code / 4096 ≤ 10 ∧ s.on F.EVT_ROUTE_VALID (e.code / 4096 - 1) = true ∧
      s.r F.EVT_ROUTE_RING (e.code / 4096 - 1) = q)) ∧
  (∀ (q : Fin 32768) (s : State) (e : Held), e ∈ s.held → s.routeOf e.src e.code ≠ some q.val ∨ s.ringIs q 4 = false →
    ∃ t, exec (.eventDeliver q) s = .next t ∧ t.isHeld e.src e.code = true) ∧
  ∀ (q : Fin 32768) (s : State) (e : Held), s.nextEvent q = some e → s.serviced = true → s.canIssue = true →
    s.ringIs q 4 = true → 2 ≤ s.ringFree q →
    ∃ t, exec (.eventDeliver q) s = .next t ∧
      (let i := s.r F.RNG_IDX_DEV_IDX q
       let a := (s.ring q).base + 32 * i
       onlyBytes a 32 s t ∧
       (e.data.length = 16 → ∀ k, k < 32 → t.hostMem.read (a + k) = BitVec.ofNat 8
          ((State.eventBytes e).getD k 0 + if k = 3 then 128 * s.r F.RNG_STAT_PHASE q else 0)) ∧
       t.r F.RNG_IDX_DEV_IDX q = (i + 1) % s.ringSize q % 2 ^ 16) ∧
      t.held = s.held.filter (fun x => !(x.src == e.src && x.code == e.code)) ∧ t.arb = s.arb.set 1 (q + 1) 0 ∧
      t = { s with regs := t.regs, hostMem := t.hostMem, rings := t.rings, held := t.held, msiSent := t.msiSent,
                   pcie := t.pcie, arb := t.arb } ∧ (∀ p, p ≠ q.val → t.ring p = s.ring p) ∧
      onlyRegs [(F.RNG_IDX_DEV_IDX, q), (F.RNG_STAT_PHASE, q), (F.RNG_STAT_OVERFLOW, q)] s t

/-- IRQ_COAL_TIMER with entries not yet announced sends the ring's vector, when it is unmasked and requests may leave, and
clears the count and the timer; MSIX_UNMASK writes an entry of the MSI-X table, and with the mask bit 0 sends a message
pending on its vector once, with the entry's address and data, and clears its pending bit. No register and no byte of memory
changes (R290, R291). exec answers a next state, under conditions on the operands and the state alone, for each of:
irqCoalTimer, msixUnmask. -/
def Obligations.Interrupts : Prop :=
  (∀ (q : Fin 32768) (s : State), s.live = true → (s.ring q).irqEn = true → (s.ring q).timer = true → 0 < (s.ring q).u →
    s.pcie.unmasked.get (s.ring q).vector false = true → s.canIssue = true →
    ∃ t, exec (.irqCoalTimer q) s = .next t ∧ t.msiSent = s.msiSent ++ [s.message (s.ring q).vector] ∧
      (t.ring q).u = 0 ∧ (t.ring q).timer = false ∧ (∀ p, p ≠ q.val → t.ring p = s.ring p) ∧
      t = { s with rings := t.rings, msiSent := t.msiSent }) ∧
  (∀ (e : MsixEntry) (s : State), s.live = true →
    ∃ t, exec (.msixUnmask e) s = .next t ∧ t.pcie.unmasked.get e.vector false = !e.mask ∧
      t.pcie.msix.get e.vector (0, 0) = (e.addr.toNat, e.data.toNat) ∧
      t.pcie.msixPend.get e.vector false = (e.mask && s.pcie.msixPend.get e.vector false) ∧
      (e.mask = true ∨ s.canIssue = true → t.msiSent = s.msiSent ++
        if !e.mask && s.pcie.msixPend.get e.vector false then [⟨e.vector, e.addr.toNat, e.data.toNat⟩] else []) ∧
      t = { s with pcie := t.pcie, msiSent := t.msiSent })

/-- REGISTER_WRITE of one word that errs in nothing, to a register whose write does nothing but store values: every RW and
LK field of the word takes its bits (an LK field outside SETUP holds them already), W1C fields lose the bits written with 1,
but for one whose condition holds (log 60, DEDUCED), RO and RC fields, every other field of the map and all other state stay
as they were. An 8-byte write of a two-word value that may be written applies both words at once. A longer access that errs
in nothing is its 32-bit writes in ascending order (R49, R50, R52, R53, R54, R58). A write to an unmapped word, a write that
is not of whole words, and outside SETUP a write that would change an LK field, change no field but SYS_ACC_ERR's, which
records the error with the master and the address of the access; the first error of an episode posts ACCESS_ERROR; an
undefined value that an LK field would not take is BAD_VALUE too, and an access that errs in several words is one error
(R49, R51, R52, R53, R63). That the address of an 8-byte access is recorded, and its words' errors as one, is the model's
reading (logs 28 and 67, DEDUCED). EVT_ROUTE_WRITE stores the ring and VALID of one route, of EVT_ROUTE(k) or of
EVT_SLOT_ROUTE(k - 10); the events that waited at their source before it or wait after it are marked delayed, a ring to
which no held event is routed any more ends its overflow episode, and nothing else changes (R285, R289). SENSOR_READMIT
clears the failed flag of the sensors written with 1 that had failed, and of no other sensor (R287, R384). exec answers a
next state, under conditions on the operands and the state alone, for each of: registerWrite, evtRouteWrite, sensorReadmit.
-/
def Obligations.RegisterAccess : Prop :=
  (
  (∀ (m : Master) (off : Fin 67108864) (v : BitVec 32) (s : State) (sp : RegSpec) (i k : Nat), s.live = true →
    off.val % 4 = 0 → locate off = some (sp, i, k) → plainRegister sp = true → s.writeIgnored sp i = false →
    (sp.word k).all (fun f => !f.multi) = true → s.wordErr m off v.toNat none = {} →
    ∃ t, exec (.registerWrite m off 4 true [v]) s = .next t ∧
      (∀ f ∈ sp.word k, (f.acc = .rw ∨ f.acc = .lk) → t.r f i = bits v.toNat (f.lo % 32) f.width) ∧
      (∀ f ∈ sp.word k, f.acc = .w1c → s.r f i < 2 ^ f.width →
        t.r f i = if s.levelOf f i then s.r f i else s.r f i - (s.r f i &&& bits v.toNat (f.lo % 32) f.width)) ∧
      t = { s with regs := t.regs } ∧ onlyRegs (((sp.word k).filter fun f => s.writable f || f.acc == .w1c).map (·, i)) s t) ∧
  (∀ (m : Master) (off : Fin 67108864) (lo hi : BitVec 32) (s : State) (sp : RegSpec) (i k : Nat) (f : Fld), s.live = true →
    off.val % 8 = 0 → locate off = some (sp, i, k) → locate (off + 4) = some (sp, i, k + 1) → plainRegister sp = true →
    s.writeIgnored sp i = false → sp.word k = [f] → sp.word (k + 1) = [f] → f.multi = true → f.first = k → f.last = k + 1 →
    s.writable f = true →
    s.encAccepted i [(f, lo.toNat + hi.toNat * 2 ^ 32)] = [(f, lo.toNat + hi.toNat * 2 ^ 32)] →
    ∃ t, exec (.registerWrite m off 8 true [lo, hi]) s = .next t ∧
      t.r f i = (lo.toNat + hi.toNat * 2 ^ 32) % 2 ^ f.width ∧ keyed t.staged (m.code, f.id, i) = none ∧
      t = { s with regs := t.regs, staged := t.staged } ∧ onlyRegs [(f, i)] s t) ∧
  (∀ (m : Master) (off : Fin 67108864) (len : Nat) (vs : List (BitVec 32)) (s t : State), s.live = true →
    State.accessForm off len = true →
    (let l := (List.range (len / 4)).map fun k => (off.val + 4 * k, (vs.map BitVec.toNat).getD k 0)
     l.foldl (State.busWriteWord m l) ({}, s) = ({}, t)) →
    exec (.registerWrite m off len true vs) s = .next t)) ∧
  (
  ∀ (m : Master) (off : Fin 67108864) (v : BitVec 32) (s : State), s.live = true → s.accErrLow = 0 →
    let errs := [(F.SYS_ACC_ERR_UNMAPPED, 0), (F.SYS_ACC_ERR_LK_WRITE, 0), (F.SYS_ACC_ERR_PARTIAL, 0),
      (F.SYS_ACC_ERR_MASTER, 0), (F.SYS_ACC_ERR_ADDR_IN_BAR2, 0), (F.SYS_ACC_ERR_ADDR_ADDR, 0)]
    let recorded (t : State) : Prop := t.isHeld State.sysSrc 0xA003 = true ∧
      t.r F.SYS_ACC_ERR_MASTER = m.code ∧ t.r F.SYS_ACC_ERR_ADDR_ADDR = off.val ∧ t.r F.SYS_ACC_ERR_ADDR_IN_BAR2 = 0 ∧
      t = { s with regs := t.regs, held := t.held, occ := t.occ }
    (off.val % 4 = 0 → locate off = none →
      ∃ t, exec (.registerWrite m off 4 true [v]) s = .next t ∧ t.r F.SYS_ACC_ERR_UNMAPPED = 1 ∧ recorded t ∧
        onlyRegs errs s t) ∧
    (∀ w : BitVec 32, off.val % 8 = 0 → locate off = none → locate (off + 4) = none →
      ∃ t, exec (.registerWrite m off 8 true [v, w]) s = .next t ∧ t.r F.SYS_ACC_ERR_UNMAPPED = 1 ∧ recorded t ∧
        onlyRegs errs s t) ∧
    (∃ t, exec (.registerWrite m off 4 false [v]) s = .next t ∧ t.r F.SYS_ACC_ERR_PARTIAL = 1 ∧ recorded t ∧
      onlyRegs errs s t) ∧
    (∀ sp i k f, off.val % 4 = 0 → s.dev ≠ .setup → locate off = some (sp, i, k) → plainRegister sp = true →
      s.writeIgnored sp i = false → sp.word k = [f] → f.acc = .lk → f.multi = false →
      bits v.toNat (f.lo % 32) f.width ≠ s.r f i →
      ∃ t, exec (.registerWrite m off 4 true [v]) s = .next t ∧ t.r F.SYS_ACC_ERR_LK_WRITE = 1 ∧ t.r f i = s.r f i ∧
        (t.r F.SYS_ACC_ERR_BAD_VALUE = 0 ↔ s.encAccepted i (s.newValues m sp i k v.toNat none) = s.newValues m sp i k v.toNat none) ∧
        recorded t ∧ onlyRegs ((F.SYS_ACC_ERR_BAD_VALUE, 0) :: errs) s t)) ∧
  (
  (∀ (m : Master) (k : Fin 34) (v : BitVec 32) (s : State), s.live = true →
    ∃ t, exec (.evtRouteWrite m k v) s = .next t ∧
      (k.val < 10 → t.r F.EVT_ROUTE_RING k = v.toNat % 2 ^ 15 ∧ t.r F.EVT_ROUTE_VALID k = bits v.toNat 31 1 ∧
        (∀ j, j ≠ k.val → t.r F.EVT_ROUTE_RING j = s.r F.EVT_ROUTE_RING j ∧ t.r F.EVT_ROUTE_VALID j = s.r F.EVT_ROUTE_VALID j) ∧
        onlyFields [F.EVT_ROUTE_RING, F.EVT_ROUTE_VALID, F.RNG_STAT_OVERFLOW] s t) ∧
      (∀ j : Nat, k.val = j + 10 → t.r F.EVT_SLOT_ROUTE_RING j = v.toNat % 2 ^ 15 ∧
        t.r F.EVT_SLOT_ROUTE_VALID j = bits v.toNat 31 1 ∧
        (∀ i, i ≠ j → t.r F.EVT_SLOT_ROUTE_RING i = s.r F.EVT_SLOT_ROUTE_RING i ∧
          t.r F.EVT_SLOT_ROUTE_VALID i = s.r F.EVT_SLOT_ROUTE_VALID i) ∧
        onlyFields [F.EVT_SLOT_ROUTE_RING, F.EVT_SLOT_ROUTE_VALID, F.RNG_STAT_OVERFLOW] s t) ∧
      (∀ q, t.r F.RNG_STAT_OVERFLOW q = if t.held.any (t.routedTo q) then s.r F.RNG_STAT_OVERFLOW q else 0) ∧
      (∃ d : Held → Bool, t.held = s.held.map (fun e => { e with delayed := e.delayed || s.blocked e || d e }) ∧
        ∀ e, t.blocked e = true → d e = true) ∧
      t = { s with regs := t.regs, held := t.held }) ∧
  (∀ (m : Master) (w : Fin 4) (v : BitVec 32) (s : State), s.live = true →
    ∃ t, exec (.sensorReadmit m w v) s = .next t ∧
      (∀ b, b < 32 → bitAt (t.r F.THM_SENSOR_FAIL_FAIL w) b =
        (bitAt (s.r F.THM_SENSOR_FAIL_FAIL w) b && !bitAt v.toNat b)) ∧
      (∀ b, b < 32 → bitAt (s.r F.THM_SENSOR_FAIL_FAIL w) b = true → bitAt v.toNat b = true →
        t.r F.THM_SENSOR_FAILED (32 * w + b) = 0) ∧
      (∀ n, n / 32 ≠ w.val ∨ bitAt v.toNat (n % 32) = false →
        t.r F.THM_SENSOR_FAILED n = s.r F.THM_SENSOR_FAILED n ∧ t.sensorh n = s.sensorh n) ∧
      t = { s with regs := t.regs, thm := t.thm } ∧
      onlyFields [F.THM_SENSOR_FAIL_FAIL, F.THM_SENSOR_FAILED, F.THM_SENSOR_CAUSE, F.THM_STAT_FLOOR] s t))

/-- W1C_WRITE: each W1C field of the word that no condition holds set loses the bits written with 1 and keeps the others; a
field whose condition holds keeps its value; nothing else changes (R59, which sets such a field again with the owner's next
update: that it keeps its value meanwhile is log 60, DEDUCED). RC_READ of one word without multi-word values answers the
fields in their places; afterwards the word's RC fields read 0 and every other field is as before, except in FAULT and DUMP,
where nothing changes. A read of any allowed form answers as many words as it has, and an unmapped word reads 0 and errs
(R32, R49, R51, R57, R439). A part under BIST answers the values saved at its start and is left out here (R447). exec
answers a next state, under conditions on the operands and the state alone, for each of: w1cWrite, rcRead. -/
def Obligations.W1cAndRc : Prop :=
  (
  ∀ (m : Master) (off : Fin 67108864) (v : BitVec 32) (s : State) (sp : RegSpec) (i k : Nat), s.live = true →
    off.val % 4 = 0 → locate off = some (sp, i, k) → plainRegister sp = true → s.writeIgnored sp i = false →
    (sp.word k).all (fun f => f.acc == .w1c || f.acc == .ro) = true →
    ∃ t, exec (.w1cWrite m off v) s = .next t ∧
      (∀ f ∈ sp.word k, f.acc = .w1c → s.r f i < 2 ^ f.width →
        t.r f i = if s.levelOf f i then s.r f i else s.r f i - (s.r f i &&& bits v.toNat (f.lo % 32) f.width)) ∧
      t = { s with regs := t.regs } ∧ onlyRegs (((sp.word k).filter fun f => f.acc == .w1c).map (·, i)) s t) ∧
  (
  (∀ (m : Master) (off : Fin 67108864) (len : Nat) (s : State), (s.live || s.frozen) = true →
    State.accessForm off len = true → ∃ t, exec (.rcRead m off len) s = .next t ∧ t.readData.length = len / 4) ∧
  (∀ (m : Master) (off : Fin 67108864) (s : State), (s.live || s.frozen) = true → off.val % 4 = 0 → locate off = none →
    ∃ t, exec (.rcRead m off 4) s = .next t ∧ t.readData = [0] ∧ t.r F.SYS_ACC_ERR_UNMAPPED = 1) ∧
  ∀ (m : Master) (off : Fin 67108864) (s : State) (sp : RegSpec) (i k : Nat), (s.live || s.frozen) = true →
    off.val % 4 = 0 → locate off = some (sp, i, k) → (sp.word k).all (fun f => !f.multi) = true →
    s.bistTested sp i = false →
    ∃ t, exec (.rcRead m off 4) s = .next t ∧
      t.readData = [(sp.word k).foldl (fun a f => a + s.readField f i * 2 ^ (f.lo % 32)) 0] ∧
      (∀ f ∈ sp.word k, f.acc = .rc → s.frozen = false → t.r f i = 0) ∧
      (s.frozen = true → t = { s with readData := t.readData }) ∧
      t = { s with regs := t.regs, readData := t.readData } ∧
      onlyRegs (((sp.word k).filter fun f => f.acc == .rc).map (·, i)) s t)

/-- MULTIWORD_LOW_READ of a multi-word value alone in its words latches the whole value for the master and answers its low
word, or with an 8-byte read both words; the later read of the upper word answers the latched content (R56).
MULTIWORD_STAGED_WRITE of a value that may be written: the write of the low word is held in the master's staging register
and changes no field; the write of the upper word then applies both words at once and empties the staging register (R58).
exec answers a next state, under conditions on the operands and the state alone, for each of: multiwordLowRead,
multiwordStagedWrite. -/
def Obligations.Multiword : Prop :=
  (
  ∀ (m : Master) (off : Fin 67108864) (s : State) (sp : RegSpec) (i k : Nat) (f : Fld), s.live = true →
    off.val % 8 = 0 → locate off = some (sp, i, k) → locate (off + 4) = some (sp, i, k + 1) → sp.word k = [f] →
    sp.word (k + 1) = [f] → f.multi = true → f.first = k → f ≠ F.HB_Q_ENTRY → f.acc ≠ .rc → s.bistTested sp i = false →
    (∃ t, exec (.multiwordLowRead m off false) s = .next t ∧ t.readData = [s.readField f i % 2 ^ 32] ∧
      keyed t.latches (m.code, f.id, i) = some (s.readField f i) ∧
      (t.readWord m.code (off + 4)).map Prod.fst = some (s.readField f i / 2 ^ 32 % 2 ^ 32) ∧
      t = { s with latches := t.latches, readData := t.readData }) ∧
    (∃ t, exec (.multiwordLowRead m off true) s = .next t ∧
      t.readData = [s.readField f i % 2 ^ 32, s.readField f i / 2 ^ 32 % 2 ^ 32] ∧
      t = { s with latches := t.latches, readData := t.readData })) ∧
  (
  ∀ (m : Master) (off : Fin 67108864) (v : BitVec 32) (s : State) (sp : RegSpec) (i k : Nat) (f : Fld), s.live = true →
    off.val % 4 = 0 → locate off = some (sp, i, k) → plainRegister sp = true → s.writeIgnored sp i = false →
    sp.word k = [f] → f.multi = true → s.writable f = true → f.last = f.first + 1 →
    (k = f.first → ∃ t, exec (.multiwordStagedWrite m off v) s = .next t ∧
      keyed t.staged (m.code, f.id, i) = some v.toNat ∧ t = { s with staged := t.staged }) ∧
    (k = f.last → ∀ lo, keyed s.staged (m.code, f.id, i) = some lo → s.encAccepted i [(f, lo + v.toNat * 2 ^ 32)] =
        [(f, lo + v.toNat * 2 ^ 32)] →
      ∃ t, exec (.multiwordStagedWrite m off v) s = .next t ∧ t.r f i = (lo + v.toNat * 2 ^ 32) % 2 ^ f.width ∧
        keyed t.staged (m.code, f.id, i) = none ∧ t = { s with regs := t.regs, staged := t.staged } ∧
        onlyRegs [(f, i)] s t))

/-- STATE_REQ_RUN from SETUP, or from SAFE when no automatic cause holds, STATE_REQ_SAFE from RUN and STATE_REQ_SETUP from
SAFE with every lane OFF are accepted while no transition is under way: the request is recorded, one for SAFE sets HOST, the
transition is under way, and nothing else changes (R62, R87, R90). That the transition lasts until the next nanosecond is
the choice of log 31. With the next nanosecond the state of a transition under way is entered: STATE and PREV_STATE take the
new and the old one, STATE_CHANGED is posted, leaving SAFE clears HOST, no transition is under way any more, and nothing
else changes but the clocks; a device that enters RUN with the link down sets LINK_DOWN and is under way to SAFE, and
entering SAFE ends the wait of CAL_WAIT lanes for a place in the foreground pass (R62, R64, R87, R90, R129). A request that
the state in force does not allow is rejected: REQ_REJECTED is set, REQ_REJECTED is posted, the request is recorded, and
neither the state nor anything else changes; a request that meets a transition is rejected in every state (R62, R87). exec
answers a next state, under conditions on the operands and the state alone, for each of: stateReqRun, stateReqSafe,
stateReqSetup. -/
def Obligations.StateRequests : Prop :=
  (
  ∀ (m : Master) (s : State),
    let accepted (req : Nat) (d : DevState) (t : State) : Prop :=
      t.dev = s.dev ∧ t.inTransition = true ∧ t.r F.SYS_STATE_LAST_REQ = req ∧
      t = { s with regs := t.regs, sys := { s.sys with trans := [⟨d, s.now, some (m, req)⟩] } }
    s.sys.trans = [] →
    ((s.dev = .setup ∨ (s.dev = .safe ∧ s.safeCause / 2 = 0)) → ∃ t, exec (.stateReqRun m) s = .next t ∧
      accepted 4 .run t ∧ onlyRegs [(F.SYS_STATE_LAST_REQ, 0)] s t) ∧
    (s.dev = .run → ∃ t, exec (.stateReqSafe m) s = .next t ∧ accepted 5 .safe t ∧ t.r F.SYS_SAFE_CAUSE_HOST = 1 ∧
      onlyRegs [(F.SYS_STATE_LAST_REQ, 0), (F.SYS_SAFE_CAUSE_HOST, 0)] s t) ∧
    (s.dev = .safe → (∀ n, n < 192 → s.laneState n = 0) → ∃ t, exec (.stateReqSetup m) s = .next t ∧
      accepted 3 .setup t ∧ onlyRegs [(F.SYS_STATE_LAST_REQ, 0)] s t)) ∧
  (
  ∀ (x : Trans) (s : State),
    let clocked (next : List Trans) (t : State) : Prop :=
      t.dev = x.dest ∧ t.r F.SYS_STATE_PREV_STATE = s.dev.code ∧
      t.r F.SYS_SAFE_CAUSE_HOST = (if s.dev = .safe then 0 else s.r F.SYS_SAFE_CAUSE_HOST) ∧
      t.isHeld State.sysSrc 0xA001 = true ∧ t.inTransition = !next.isEmpty ∧
      t = { s with now := s.now + 1, poweredNs := s.poweredNs + 1, regs := t.regs, held := t.held, occ := t.occ,
                   sys := { s.sys with trans := next }, cal := t.cal }
    let regs := [(F.SYS_STATE_STATE, 0), (F.SYS_STATE_PREV_STATE, 0), (F.SYS_SAFE_CAUSE_HOST, 0), (F.SYS_TIME_TIME, 0)]
    s.pending = [] → s.sys.trans = [x] → s.powered = true → s.sys.lrefAbsent = false → (∀ p ∈ s.subs, p.2.waiting = none) →
    (x.dest = .run → (∀ n, s.r F.LANE_STAT_RESTORE_PENDING n = 0) →
      (s.pcie.linkDown = false → ∃ t, step s = .next t ∧ clocked [] t ∧ t.cal = s.cal ∧ onlyRegs regs s t) ∧
      (s.pcie.linkDown = true → ∃ t, step s = .next t ∧ clocked [⟨.safe, s.now + 1, none⟩] t ∧ t.cal = s.cal ∧
        t.r F.SYS_SAFE_CAUSE_LINK_DOWN = 1 ∧ onlyRegs ((F.SYS_SAFE_CAUSE_LINK_DOWN, 0) :: regs) s t)) ∧
    (x.dest = .setup → s.dev ≠ .boot → ∃ t, step s = .next t ∧ clocked [] t ∧ t.cal = s.cal ∧ onlyRegs regs s t) ∧
    (x.dest = .safe → ∃ t, step s = .next t ∧ clocked [] t ∧ onlyRegs regs s t ∧
      ∀ n, t.calh n = if n < 192 ∧ s.laneState n = 2 then { s.calh n with want := false } else s.calh n)) ∧
  (
  ∀ (m : Master) (s : State),
    let rejected (req : Nat) (t : State) : Prop :=
      t.dev = s.dev ∧ t.r F.SYS_STATE_REQ_REJECTED = 1 ∧ t.r F.SYS_STATE_LAST_REQ = req ∧
      t.isHeld State.sysSrc 0xA002 = true ∧ t = { s with regs := t.regs, held := t.held, occ := t.occ } ∧
      onlyRegs [(F.SYS_STATE_REQ_REJECTED, 0), (F.SYS_STATE_LAST_REQ, 0)] s t
    ((s.dev = .boot ∨ s.dev = .run ∨ (s.dev = .safe ∧ s.safeCause / 2 ≠ 0)) →
      ∃ t, exec (.stateReqRun m) s = .next t ∧ rejected 4 t) ∧
    ((s.dev = .boot ∨ s.dev = .setup ∨ s.dev = .safe) → ∃ t, exec (.stateReqSafe m) s = .next t ∧ rejected 5 t) ∧
    ((s.dev = .boot ∨ s.dev = .setup ∨ s.dev = .run ∨ (s.dev = .safe ∧ ∃ n, n < 192 ∧ s.laneState n ≠ 0)) →
      ∃ t, exec (.stateReqSetup m) s = .next t ∧ rejected 3 t) ∧
    (s.live = true → s.inTransition = true → (∃ t, exec (.stateReqRun m) s = .next t ∧ rejected 4 t) ∧
      (∃ t, exec (.stateReqSafe m) s = .next t ∧ rejected 5 t) ∧ ∃ t, exec (.stateReqSetup m) s = .next t ∧ rejected 3 t))

/-- SYS_SWRST, RESET_PIN and PCIE_FUNDAMENTAL_RESET (with PERST_MODE 0) take a device that is out of RESET to RESET and
record their cause; in RESET the two pins record theirs and hold RESET. For how long they stay low is a free value (log 26).
POWER_UP takes it there from OFF, and POWER_DOWN to OFF. Every field but the causes of RESET and those that R84 keeps then
holds its reset value; the kept ones hold what they held; rings, jobs and held events are gone; host memory is untouched
(R81, R84). RESET_END samples the straps and enters BOOT: PREV_STATE is RESET, STRAP and the port's mode are the sampled
ones, PHASE is 4 for a host boot and 0 otherwise, each rail whose transition rate was written holds 1 mV/us, its SETPOINT is
the target read back, STATE_CHANGED is posted (log 66) and nothing else of the registers changes (R74, R84, R429, R433).
exec answers a next state, under conditions on the operands and the state alone, for each of: sysSwrst, resetPin,
pcieFundamentalReset, powerUp, powerDown, resetEnd. -/
def Obligations.ResetEntryAndEnd : Prop :=
  (
  ∀ (m : Master) (s : State),
    let causes := [F.SYS_RST_CAUSE_POWER, F.SYS_RST_CAUSE_PIN, F.SYS_RST_CAUSE_SOFT, F.SYS_RST_CAUSE_PCIE,
      F.SYS_RST_CAUSE_THERMAL]
    let reset (f : Fld) (t : State) : Prop :=
      t.dev = .reset ∧ t.r f = 1 ∧ t.jobs = [] ∧ t.rings = [] ∧ t.held = [] ∧ t.ramps = [] ∧ t.subs = [] ∧
      t.hostMem = s.hostMem ∧ t.msiSent = s.msiSent ∧ t.arb = [] ∧ t.tx = [] ∧ t.fab = {} ∧ sameBytes s t
    let cleared (kept : List Fld) (t : State) : Prop :=
      (∀ g i, g.id ∉ (kept ++ causes).map Fld.id → t.r g i = g.resetAt i) ∧ ∀ g ∈ kept, t.r g = s.r g % 2 ^ g.width
    ((s.live || s.frozen) = true → ∃ t, exec (.sysSwrst m) s = .next t ∧ reset F.SYS_RST_CAUSE_SOFT t ∧
      (s.nvm.running = none → cleared keptFields t)) ∧
    ((s.live || s.frozen) = true → ∃ t, exec .resetPin s = .next t ∧ reset F.SYS_RST_CAUSE_PIN t ∧
      (s.nvm.running = none → cleared keptFields t)) ∧
    ((s.live || s.frozen) = true → s.r F.SYS_RESET_CFG_PERST_MODE = 0 →
      ∃ t, exec .pcieFundamentalReset s = .next t ∧ reset F.SYS_RST_CAUSE_PCIE t ∧
        (s.nvm.running = none → cleared keptFields t)) ∧
    (s.dev = .reset → (∃ t, exec .resetPin s = .next t ∧ t.r F.SYS_RST_CAUSE_PIN = 1 ∧
        t = { s with regs := t.regs, sys := { s.sys with rstUntil := s.now + Config.unstated 18 s.now } } ∧
        onlyRegs [(F.SYS_RST_CAUSE_PIN, 0)] s t) ∧
      (s.r F.SYS_RESET_CFG_PERST_MODE = 0 → ∃ t, exec .pcieFundamentalReset s = .next t ∧ t.r F.SYS_RST_CAUSE_PCIE = 1 ∧
        t = { s with regs := t.regs, sys := t.sys } ∧ onlyRegs [(F.SYS_RST_CAUSE_PCIE, 0)] s t)) ∧
    (s.dev = .off → ∃ t, exec .powerUp s = .next t ∧ reset F.SYS_RST_CAUSE_POWER t ∧ cleared [] t ∧ t.poweredNs = 0) ∧
    (s.powered = true → ∃ t, exec .powerDown s = .next t ∧ t.dev = .off ∧ t.jobs = [] ∧ t.rings = [] ∧ t.held = [] ∧
      (∀ g i, g.id ≠ F.SYS_STATE_STATE.id → t.r g i = g.resetAt i) ∧ sameBytes s t)) ∧
  (
  ∀ (src : Fin 4) (chain : Bool) (rateOk : Bool × Bool × Bool)
    (mv : Option (BitVec 10) × Option (BitVec 10) × Option (BitVec 10)) (s : State),
    s.dev = .reset → s.sys.perstUntil ≤ s.now → s.sys.rstUntil ≤ s.now → s.sys.thermalHold = false → s.hk.clrLow = false → s.fab.rails = [] →
    s.r F.SYS_BOOT_STAT_PHASE = 0 →
    ∃ t, exec (.resetEnd src chain (rateOk, mv)) s = .next t ∧ t.dev = .boot ∧ t.r F.SYS_STATE_PREV_STATE = 1 ∧
      t.r F.SYS_BOOT_STAT_STRAP = src.val ∧ t.r F.MSPS_STAT_MODE = chain.toNat ∧
      t.r F.SYS_BOOT_STAT_PHASE = (if src.val = 1 then 4 else 0) ∧
      t.r F.SYS_RAIL_STAT_SETPOINT 0 = (mv.1.map BitVec.toNat).getD (s.r F.SYS_RAIL_STAT_SETPOINT 0) ∧
      t.r F.SYS_RAIL_STAT_SETPOINT 1 = (mv.2.1.map BitVec.toNat).getD (s.r F.SYS_RAIL_STAT_SETPOINT 1) ∧
      t.r F.SYS_RAIL_STAT_SETPOINT 2 = (mv.2.2.map BitVec.toNat).getD (s.r F.SYS_RAIL_STAT_SETPOINT 2) ∧
      (rateOk.1 = true → (t.railh 0).slew = 1) ∧ (rateOk.2.1 = true → (t.railh 1).slew = 1) ∧
      (rateOk.2.2 = true → (t.railh 2).slew = 1) ∧
      t.isHeld State.sysSrc 0xA001 = true ∧
      t.sys = { s.sys with perstLow := false, perstUntil := 0, bootAt := s.now, wdAt := s.now } ∧
      t = { s with regs := t.regs, sys := t.sys, fab := t.fab, held := t.held, occ := t.occ } ∧
      onlyRegs [(F.SYS_STATE_STATE, 0), (F.SYS_STATE_PREV_STATE, 0), (F.SYS_BOOT_STAT_STRAP, 0), (F.MSPS_STAT_MODE, 0),
        (F.SYS_BOOT_STAT_PHASE, 0), (F.SYS_RAIL_STAT_SETPOINT, 0), (F.SYS_RAIL_STAT_SETPOINT, 1),
        (F.SYS_RAIL_STAT_SETPOINT, 2)] s t)

/-- The host's view of the endpoint: ENDPOINT_READY, LINK_L0_ENTRY and LINK_L0_EXIT, BUS_MASTER_ENABLE_WRITE and D3HOT_EXIT
set or clear what allows memory requests. When requests become allowed the interrupt messages that waited are sent, in order
and as the MSI-X table has them; no register changes, and no byte of memory where no telemetry record waits (R85, R90,
R267). That LINK_L0_EXIT resets no ring engine is log 68. PERST_ENDPOINT_RESET (with PERST_MODE 1), FUNCTION_LEVEL_RESET and
D3HOT_ENTRY reset the ring engine without RESET: every ring is DISABLED, no job is in flight, no job slot is granted, no
message waits, held events and the device state stay, and no byte of memory changes; the first two clear the MSI-X table
(R85, R267, R292). For how long PERST_N then stays low is a free value (log 26); that Bus Master Enable and the MSI-X table
then hold 0 is logs 68 and 91. exec answers a next state, under conditions on the operands and the state alone, for each of:
endpointReady, linkL0Entry, linkL0Exit, busMasterEnableWrite, d3hotExit, perstEndpointReset, functionLevelReset, d3hotEntry.
-/
def Obligations.LinkAndEndpoint : Prop :=
  (
  ∀ (s : State), (s.live || s.frozen) = true → s.pcie.tableWait = [] → s.subs = [] →
    let sent (t : State) : Prop :=
      t.msiSent = s.msiSent ++ (if t.canIssue && s.serviced then s.pcie.msiWait.map s.message else []) ∧
      t.pcie.msiWait = (if t.canIssue && s.serviced then [] else s.pcie.msiWait) ∧
      t = { s with pcie := t.pcie, msiSent := t.msiSent, held := t.held }
    (∃ t, exec .endpointReady s = .next t ∧ t.pcie = { s.pcie with ready := true } ∧
      t.sys = { s.sys with perstLow := false, perstUntil := 0 } ∧ t = { s with pcie := t.pcie, sys := t.sys }) ∧
    (s.pcie.ready = true → ∃ t, exec .linkL0Entry s = .next t ∧ t.pcie.linkL0 = true ∧ t.pcie.linkDown = false ∧ sent t) ∧
    (s.dev ≠ .dump → ∃ t, exec .linkL0Exit s = .next t ∧ t.pcie = { s.pcie with linkL0 := false } ∧
      t = { s with pcie := t.pcie, held := t.held }) ∧
    (∀ b, ∃ t, exec (.busMasterEnableWrite b) s = .next t ∧ t.pcie.bme = b ∧ sent t) ∧
    (∃ t, exec .d3hotExit s = .next t ∧ t.pcie.d3hot = false ∧ sent t)) ∧
  (
  ∀ (s : State), s.live = true → (∀ k, s.r F.SYS_TLM_STAT_STATE k = 0) →
    let engineReset (t : State) : Prop :=
      (∀ q, t.r F.RNG_STAT_STATE q = 0 ∧ t.r F.RNG_STAT_TYPE q = 0 ∧ t.r F.RNG_IDX_DEV_IDX q = 0) ∧ t.jobs = [] ∧
      t.rings = [] ∧ t.pcie.msiWait = [] ∧ t.pcie.msixPend = [] ∧ t.dev = s.dev ∧
      t.held.map Held.code = s.held.map Held.code ∧ sameBytes s t ∧
      t = { s with regs := t.regs, pcie := t.pcie, held := t.held, rings := [], jobs := [], grants := [], orphans := t.orphans, cap := t.cap,
                   plank := t.plank, hb := t.hb, nvm := t.nvm, msp := t.msp, fab := t.fab, sys := t.sys } ∧
      onlyFields [F.RNG_CTL_ENABLE, F.RNG_STAT_ERR, F.RNG_STAT_OVERFLOW, F.RNG_STAT_PHASE, F.RNG_STAT_ENABLE_PENDING,
        F.RNG_STAT_TYPE, F.RNG_STAT_STATE, F.RNG_IDX_HOST_IDX, F.RNG_IDX_DEV_IDX, F.RNG_CNT_COUNT] s t
    (s.r F.SYS_RESET_CFG_PERST_MODE ≠ 0 → ∃ t, exec .perstEndpointReset s = .next t ∧ engineReset t ∧
      t.pcie.ready = false ∧ t.pcie.linkL0 = false ∧ t.pcie.bme = false ∧ t.pcie.msix = [] ∧ t.pcie.unmasked = [] ∧
      t.sys = { s.sys with perstLow := true, perstUntil := s.now + perstLength s }) ∧
    (∃ t, exec .functionLevelReset s = .next t ∧ engineReset t ∧ t.pcie.bme = false ∧ t.pcie.msix = [] ∧
      t.pcie.unmasked = [] ∧ t.sys = s.sys) ∧
    (∃ t, exec .d3hotEntry s = .next t ∧ engineReset t ∧ t.pcie.d3hot = true ∧ t.pcie.bme = s.pcie.bme ∧
      t.pcie.msix = s.pcie.msix ∧ t.sys = s.sys))

/-- The automatic causes of SAFE: LINK_DOWN_TIMEOUT with the link out of L0 sets LINK_DOWN, the first WATCHDOG_EXPIRED sets
FW_WATCHDOG, posts FW_WATCHDOG and restarts a good firmware image; in RUN both put the transition to SAFE under way, in
SETUP and SAFE the state stays. No transition is under way before (log 31). WATCHDOG_RESTART changes nothing a program can
read (R89, R90, R428). LREFCLK_ABSENT and LREFCLK_RETURN record whether the reference clock is there and change nothing else
(R460). exec answers a next state, under conditions on the operands and the state alone, for each of: linkDownTimeout,
watchdogExpired, watchdogRestart, lrefclkAbsent, lrefclkReturn. -/
def Obligations.SafeAndClock : Prop :=
  (
  ∀ (s : State), s.serviced = true → s.sys.trans = [] →
    let next : List Trans := if s.dev = .run then [⟨.safe, s.now, none⟩] else []
    (s.pcie.linkL0 = false → s.pcie.ready = true → ∃ t, exec .linkDownTimeout s = .next t ∧ t.pcie.linkDown = true ∧
      t.r F.SYS_SAFE_CAUSE_LINK_DOWN = 1 ∧ onlyRegs [(F.SYS_SAFE_CAUSE_LINK_DOWN, 0)] s t ∧
      t = { s with regs := t.regs, pcie := { s.pcie with linkDown := true }, sys := { s.sys with trans := next } }) ∧
    (s.r F.SYS_SAFE_CAUSE_FW_WATCHDOG = 0 → ∃ t, exec (.watchdogExpired true) s = .next t ∧
      t.r F.SYS_SAFE_CAUSE_FW_WATCHDOG = 1 ∧ t.isHeld State.sysSrc 0xA004 = true ∧
      t.isHeld State.sysSrc 0xA00B = true ∧ onlyRegs [(F.SYS_SAFE_CAUSE_FW_WATCHDOG, 0)] s t ∧
      t = { s with regs := t.regs, sys := { s.sys with wdAt := s.now, trans := next }, held := t.held, occ := t.occ }) ∧
    (∃ t, exec .watchdogRestart s = .next t ∧ t = { s with sys := { s.sys with wdAt := s.now } })) ∧
  (
  ∀ s : State,
    (∃ t, exec .lrefclkAbsent s = .next t ∧ t.sys.lrefAbsent = true ∧ t = { s with sys := t.sys } ∧
      { t.sys with lrefAbsent := s.sys.lrefAbsent } = s.sys) ∧
    (∃ t, exec .lrefclkReturn s = .next t ∧ t.sys.lrefAbsent = false ∧ t = { s with sys := t.sys } ∧
      { t.sys with lrefAbsent := s.sys.lrefAbsent } = s.sys))

/-- MARGIN_MEASURE keeps the last four sustainable rates of the island; its margin is the least of them over the required
rate in 1/4096, at most 0xFFFF, also where nothing is required; BELOW_TARGET compares it with the island's minimum; below
it, with the rail at its cap, AT_CAP is set, and below 1.05 CRITICAL of a payload island; at or above the minimum both
clear; CRITICAL of any other island below its minimum is unchanged. Only this island's margin register changes (R70, R72,
R76). Truncation and saturation are log 25; acting in every state that supplies the islands is log 3. SUPPLY_LOOP_EVAL: a
rail neither under fault nor still being written asks for 5 mV less above its ceiling, for 5 mV more, never past the
ceiling, where an island lacks margin and its step is due, for 5 mV less, never below VMIN, where every island has held its
release level, else for nothing; no setpoint changes yet (R75). AVS_TRANSACTION_DONE: a good target write makes the target
the setpoint and starts the rail's step time; the third failure in a row sets AVS_FAULT with its SAFE cause and event, and
puts a device in RUN and in no transition under way to SAFE (log 31). AVS_STATUS_READ: good transactions, no fault bit and a
target within 20 mV change nothing but the failure count, a fault bit is a fault at once. AVS_FAULT_RETRY: a fully good
transaction ends the fault (R75, R77). FIFO_SLIP of a FIFO that data passes, at an island whose margin is below 1.0, counts
one slip for the device and one for the lane, each saturating, posts FIFO_SLIP, and leaves the FIFO at its fill target: a
full one dropped the word that came and those above the target, an empty one repeated words up to it; a host receiver hunts
again. Otherwise nothing changes (R68, R69, R248). exec answers a next state, under conditions on the operands and the state
alone, for each of: marginMeasure, supplyLoopEval, avsTransactionDone, avsStatusRead, avsFaultRetry, fifoSlip. -/
def Obligations.Fabric : Prop :=
  (
  ∀ (i : Fin 40) (rate : BitVec 32) (s : State), (s.live || s.frozen) = true →
    ∃ t, exec (.marginMeasure i rate) s = .next t ∧
      (let rs := (rate.toNat :: s.fab.rates.get i []).take 4
       t.fab.rates.get i [] = rs ∧
       t.r F.SYS_ISL_MARGIN_MARGIN i =
         (if s.required i = 0 then 0xFFFF else min 0xFFFF (rs.foldl min rate.toNat * 4096 / s.required i)) ∧
       (t.r F.SYS_ISL_MARGIN_MARGIN i < s.minMargin i → t.r F.SYS_ISL_MARGIN_BELOW_TARGET i = 1) ∧
       (s.minMargin i ≤ t.r F.SYS_ISL_MARGIN_MARGIN i → t.r F.SYS_ISL_MARGIN_BELOW_TARGET i = 0 ∧
         t.r F.SYS_ISL_MARGIN_AT_CAP i = 0 ∧ t.r F.SYS_ISL_MARGIN_CRITICAL i = 0) ∧
       (t.r F.SYS_ISL_MARGIN_MARGIN i < s.minMargin i → s.atCap (railOf i) = true → t.r F.SYS_ISL_MARGIN_AT_CAP i = 1 ∧
         (isPayload i = true → t.r F.SYS_ISL_MARGIN_MARGIN i < 0x10CD → t.r F.SYS_ISL_MARGIN_CRITICAL i = 1)) ∧
       (isPayload i = false → t.r F.SYS_ISL_MARGIN_MARGIN i < s.minMargin i →
         t.r F.SYS_ISL_MARGIN_CRITICAL i = s.r F.SYS_ISL_MARGIN_CRITICAL i) ∧
       (t.r F.SYS_ISL_MARGIN_MARGIN i < s.minMargin i → s.atCap (railOf i) = false → t.r F.SYS_ISL_MARGIN_AT_CAP i = 0)) ∧
      { t.fab with rates := s.fab.rates, lowAt := s.fab.lowAt, low := s.fab.low } = s.fab ∧
      t = { s with regs := t.regs, fab := t.fab, held := t.held, occ := t.occ } ∧
      onlyRegs [(F.SYS_ISL_MARGIN_MARGIN, i), (F.SYS_ISL_MARGIN_BELOW_TARGET, i), (F.SYS_ISL_MARGIN_AT_CAP, i),
        (F.SYS_ISL_MARGIN_CRITICAL, i)] s t) ∧
  (
  ∀ (s : State), (s.live || s.frozen) = true →
    ∃ t, exec .supplyLoopEval s = .next t ∧
      (∀ r, r < 3 → s.r F.SYS_RAIL_STAT_AVS_FAULT r = 0 → (s.railh r).target = none →
        let v := s.r F.SYS_RAIL_STAT_SETPOINT r
        let c := s.ceiling r
        (c < v → (t.railh r).target = some (max (v - 5) c)) ∧
        (v < c → s.wantsUp r = true → s.stepDue r = true → (t.railh r).target = some (min (v + 5) c)) ∧
        (v ≤ c → s.wantsUp r = false → s.wantsDown r = true → s.stepDue r = true → s.r F.SYS_RAIL_CFG_VMIN r < v →
          (t.railh r).target = some (max (v - 5) (s.r F.SYS_RAIL_CFG_VMIN r))) ∧
        (v ≤ c → s.wantsUp r = false → s.wantsDown r = false → (t.railh r).target = none)) ∧
      (∀ r, r < 3 → s.r F.SYS_RAIL_STAT_AVS_FAULT r ≠ 0 → (t.railh r).target = (s.railh r).target) ∧
      { t.fab with rails := s.fab.rails, low := s.fab.low } = s.fab ∧
      t = { s with regs := t.regs, fab := t.fab, held := t.held, occ := t.occ } ∧
      onlyFields [F.SYS_ISL_MARGIN_AT_CAP, F.SYS_ISL_MARGIN_CRITICAL] s t) ∧
  (
  ∀ (r : Fin 3) (s : State), (s.live || s.frozen) = true →
    let faulted (t : State) : Prop := t.r F.SYS_RAIL_STAT_AVS_FAULT r = 1 ∧ t.r F.SYS_SAFE_CAUSE_AVS_FAULT = 1 ∧
      (s.live = true → t.isHeld (railSrc r) 0x8004 = true) ∧
      t = { s with regs := t.regs, fab := t.fab, held := t.held, occ := t.occ,
                   sys := { s.sys with trans := if s.dev = .run then [⟨.safe, s.now, none⟩] else [] } } ∧
      onlyFields [F.SYS_RAIL_STAT_AVS_FAULT, F.SYS_SAFE_CAUSE_AVS_FAULT, F.SYS_ISL_MARGIN_AT_CAP,
        F.SYS_ISL_MARGIN_CRITICAL] s t
    (∀ x, (s.railh r).target = some x → ∃ t, exec (.avsTransactionDone r true) s = .next t ∧
      t.r F.SYS_RAIL_STAT_SETPOINT r = x % 2 ^ F.SYS_RAIL_STAT_SETPOINT.width ∧ (t.railh r).target = none ∧
      (t.railh r).stepAt = some s.now ∧ (t.railh r).fails = 0 ∧
      t = { s with regs := t.regs, fab := t.fab, held := t.held, occ := t.occ } ∧
      onlyFields [F.SYS_RAIL_STAT_SETPOINT, F.SYS_ISL_MARGIN_AT_CAP, F.SYS_ISL_MARGIN_CRITICAL] s t) ∧
    (∀ x, (s.railh r).target = some x → 2 ≤ (s.railh r).fails → s.r F.SYS_RAIL_STAT_AVS_FAULT r = 0 → s.sys.trans = [] →
      ∃ t, exec (.avsTransactionDone r false) s = .next t ∧ faulted t) ∧
    (∀ mv, s.readbackBad r (BitVec.toNat mv) = false → ∃ t, exec (.avsStatusRead r true false true mv) s = .next t ∧
      (t.railh r).fails = 0 ∧ t = { s with fab := t.fab } ∧ (t.railh r).target = (s.railh r).target) ∧
    (∀ mv, s.r F.SYS_RAIL_STAT_AVS_FAULT r = 0 → s.sys.trans = [] → ∃ t, exec (.avsStatusRead r true true true mv) s = .next t ∧ faulted t) ∧
    (s.r F.SYS_RAIL_STAT_AVS_FAULT r ≠ 0 → ∃ t, exec (.avsFaultRetry r true) s = .next t ∧
      t.r F.SYS_RAIL_STAT_AVS_FAULT r = 0 ∧ (t.railh r).fails = 0 ∧ t = { s with regs := t.regs, fab := t.fab } ∧
      onlyRegs [(F.SYS_RAIL_STAT_AVS_FAULT, r)] s t)) ∧
  (
  ∀ (f : Fifo) (full : Bool) (s : State), s.live = true →
    let a := s.fifoAt f
    let g := State.fifoTarget f
    let slipped (t : State) : Prop :=
      t.r F.SYS_FIFO_SLIP_COUNT = satAdd F.SYS_FIFO_SLIP_COUNT.width (s.r F.SYS_FIFO_SLIP_COUNT) 1 ∧
      t.r F.LANE_SLIP_COUNT a.1 = satAdd F.LANE_SLIP_COUNT.width (s.r F.LANE_SLIP_COUNT a.1) 1 ∧
      t.isHeld (islandSrc a.2.1) 0x8003 = true ∧
      t.fifoh f = (if full then { fill := g, dropped := (s.fifoh f).dropped + 1 + (State.fifoDepth f - g), repeated := (s.fifoh f).repeated }
        else { fill := g, dropped := (s.fifoh f).dropped, repeated := (s.fifoh f).repeated + 1 + g }) ∧
      { t.fab with fifos := s.fab.fifos } = s.fab ∧ (∀ h, State.fifoNo h ≠ State.fifoNo f → t.fifoh h = s.fifoh h)
    ((a.2.2 = false ∨ 0x1000 ≤ s.marginAt a.2.1) → exec (.fifoSlip (f, full)) s = .next s) ∧
    (a.2.2 = true → s.marginAt a.2.1 < 0x1000 → (∀ m, f ≠ .hostRx m) → ∃ t, exec (.fifoSlip (f, full)) s = .next t ∧
      slipped t ∧ t = { s with regs := t.regs, held := t.held, occ := t.occ, fab := t.fab } ∧
      onlyRegs [(F.SYS_FIFO_SLIP_COUNT, 0), (F.LANE_SLIP_COUNT, a.1)] s t) ∧
    (∀ m : Fin 384, f = .hostRx m → a.2.2 = true → s.marginAt a.2.1 < 0x1000 → s.laneMode a.1 ≠ 3 →
      ∃ t, exec (.fifoSlip (f, full)) s = .next t ∧ slipped t ∧ t.r F.HSL_STAT_ALIGNED m = 0 ∧
        (t.hosth m).cand = (s.hosth m).last ∧ (t.hosth m).pass = 0 ∧ (t.hosth m).fail = 0 ∧ sameBytes s t))

/-- LANE_CONFIG on lanes with every field selected, while they are OFF and unpaired, stores MODE, GRACE and ACQ_RETRY of
each, puts the mode in force and completes with OK; the host lane form stores polarity, precoding, FILL, the FIR taps and
the PRBS settings; the slot form stores the enable bit of each slot. Bytes that break R260 complete with BAD_PARAM, and a
mode for a lane that is not OFF with NOT_ALLOWED, without any other effect (R260). LANE_LOOPBACK of OFF lanes stores the
type in LANE_CFG of each, and of its partner in a pair, and completes with OK; a lane that is not OFF makes it NOT_ALLOWED,
and type 3 on a pair BAD_PARAM, without effect. LANE_PAIR with its lanes OFF forms a pair as roles 1 and 2 and mode L400F of
both, and breaks a pair into two lanes of L400 (R241, R262, R264). LANE_MAP with well-formed entries for OFF lanes, taking
no host lane from a lane that is up, and with a legal result, stores every entry's host lanes or their absence and completes
with OK; a result that is not one-to-one or crosses dies completes with BAD_PARAM, and a lane that is not OFF with
NOT_ALLOWED, without effect (R242, R263). exec answers a next state, under conditions on the operands and the state alone,
for each of: laneConfig, laneLoopback, lanePair, laneMap. -/
def Obligations.LaneSettings : Prop :=
  (
  ∀ (q : Fin 32768) (i : Fin 65536) (s : State) (j : Job), s.started? 0x10 q i = some j → s.bistHolds j = false →
    ∃ t, exec (.laneConfig q i) s = .next t ∧
      (State.laneConfigOk j = false → t.due q i .badParam 0 0 ∧ t = { s with jobs := t.jobs }) ∧
      (State.laneConfigOk j = true → s.laneConfigAllowed j = false → t.due q i .notAllowed 0 0 ∧
        t = { s with jobs := t.jobs }) ∧
      (State.laneConfigOk j = true → s.laneConfigAllowed j = true → t.due q i .ok 0 0 ∧
        (j.p 4 1 = 0 → (∀ n ∈ j.items,
            (bitAt (j.p 5 1) 0 = true → t.r F.LANE_CFG_MODE n = j.p 6 1 ∧ t.laneMode n = j.p 6 1) ∧
            (bitAt (j.p 5 1) 1 = true → t.r F.LANE_CFG_GRACE n = j.p 7 1) ∧
            (bitAt (j.p 5 1) 2 = true → t.r F.LANE_CFG_ACQ_RETRY n = j.p 8 1)) ∧
          onlyBlocks (fun b => laneBlock b || hostBlock b || blockAt 7 b) s t) ∧
        (j.p 4 1 = 1 → (∀ m ∈ j.items,
            (bitAt (j.p 5 1) 0 = true → t.r F.HSL_CFG_TX_INVERT m = j.p 6 1 % 2 ∧ t.r F.HSL_CFG_RX_INVERT m = j.p 6 1 / 2 % 2 ∧
              t.r F.HSL_CFG_TX_PRECODE m = j.p 6 1 / 4 % 2 ∧ t.r F.HSL_CFG_RX_PRECODE m = j.p 6 1 / 8 % 2) ∧
            (bitAt (j.p 5 1) 1 = true → t.r F.HSL_CFG_FILL m = j.p 7 1) ∧
            (bitAt (j.p 5 1) 2 = true → t.r F.HSL_CFG_PRBS_GEN m = j.p 8 1 ∧ t.r F.HSL_CFG_PRBS_CHK m = j.p 9 1) ∧
            (bitAt (j.p 5 1) 3 = true → t.r F.HSL_TX_FIR_PRE2 m = j.p 12 1 ∧ t.r F.HSL_TX_FIR_PRE1 m = j.p 13 1 ∧
              t.r F.HSL_TX_FIR_MAIN m = j.p 14 1 ∧ t.r F.HSL_TX_FIR_POST1 m = j.p 15 1)) ∧
          onlyBlocks (fun b => laneBlock b || hostBlock b) s t) ∧
        (j.p 4 1 = 2 → bitAt (j.p 5 1) 0 = true → ∀ k, k < 24 →
          bitAt (t.r F.SLOT_EN_CFG_EN) k = if j.items.contains k then j.p 6 1 == 1 else bitAt (s.r F.SLOT_EN_CFG_EN) k) ∧
        (j.p 4 1 = 2 → onlyRegs [(F.SLOT_EN_CFG_EN, 0)] s t)) ∧
      t = { s with regs := t.regs, host := t.host, held := t.held, occ := t.occ, cap := t.cap, jobs := t.jobs }) ∧
  (
  (∀ (q : Fin 32768) (i : Fin 65536) (s : State) (j : Job), s.started? 0x13 q i = some j → s.bistHolds j = false →
    (j.spanOk 192 && decide (j.p 4 1 ≤ 4) && j.pz 5 27) = true →
    ∃ t, exec (.laneLoopback q i) s = .next t ∧ onlyJob q i s t ∧
      (let paired := j.p 4 1 = 3 ∧ j.items.any s.fused = true
       (paired → t.due q i .badParam 0 0 ∧ t = { s with jobs := t.jobs }) ∧
       (¬ paired → (∃ n ∈ j.items, s.laneState n ≠ 0) → t.due q i .notAllowed 0 0 ∧ t = { s with jobs := t.jobs }) ∧
       (¬ paired → (∀ n ∈ j.items, s.laneState n = 0) → t.due q i .ok 0 0 ∧
         (∀ n ∈ j.items, t.r F.LANE_CFG_LOOPBACK n = j.p 4 1) ∧
         onlyRegs ((j.items.flatMap s.members).map (F.LANE_CFG_LOOPBACK, ·)) s t ∧
         t = { s with regs := t.regs, jobs := t.jobs }))) ∧
  (∀ (q : Fin 32768) (i : Fin 65536) (s : State) (j : Job) (n : Nat), s.started? 0x15 q i = some j →
    s.bistHolds j = false → s.lanePairOk j = true → (∀ n ∈ j.items, s.laneState n = 0) → n ∈ j.items → n % 2 = 0 →
    ∃ t, exec (.lanePair q i) s = .next t ∧
      (j.p 4 1 = 1 → s.fused n = false → t.r F.LANE_FE_STAT_FUSED_ROLE n = 1 ∧ t.r F.LANE_FE_STAT_FUSED_ROLE (n + 1) = 2 ∧
        t.r F.LANE_CFG_MODE n = 1 ∧ t.r F.LANE_CFG_MODE (n + 1) = 1) ∧ t.due q i .ok 0 0 ∧
      (j.p 4 1 = 0 → s.fused n = true → t.r F.LANE_FE_STAT_FUSED_ROLE n = 0 ∧
        t.r F.LANE_FE_STAT_FUSED_ROLE (n + 1) = 0 ∧ t.r F.LANE_CFG_MODE n = 0 ∧ t.r F.LANE_CFG_MODE (n + 1) = 0) ∧
      sameBytes s t)) ∧
  (
  ∀ (q : Fin 32768) (i : Fin 65536) (s : State) (j : Job), s.started? 0x14 q i = some j → s.bistHolds j = false →
    State.laneMapOk j = true →
    (let es := State.mapEntries j
     let up := es.any fun e => s.laneState e.1 != 0 || s.takesFromUp e.1 e.2.1 || s.takesFromUp e.1 e.2.2
     let legal := (s.each es State.mapSet).mapLegal
     (up = true → ∃ t, exec (.laneMap q i) s = .next t ∧ t.due q i .notAllowed 0 0 ∧ t = { s with jobs := t.jobs }) ∧
     (up = false → legal = false → ∃ t, exec (.laneMap q i) s = .next t ∧ t.due q i .badParam 0 0 ∧
       t = { s with jobs := t.jobs }) ∧
     (up = false → legal = true → (es.map (·.1)).Nodup → ∃ t, exec (.laneMap q i) s = .next t ∧ t.due q i .ok 0 0 ∧
       (∀ e ∈ es, t.r F.XBAR_MAP_A_VALID e.1 = (if e.2.1 = 0xFFFF then 0 else 1) ∧
         (e.2.1 ≠ 0xFFFF → t.r F.XBAR_MAP_A e.1 = e.2.1) ∧
         t.r F.XBAR_MAP_B_VALID e.1 = (if e.2.2 = 0xFFFF then 0 else 1) ∧
         (e.2.2 ≠ 0xFFFF → t.r F.XBAR_MAP_B e.1 = e.2.2)) ∧ t.mapLegal = true ∧
       onlyBlocks (fun b => laneBlock b || hostBlock b || b == F.XBAR_MAP_A.base) s t ∧ sameBytes s t)))

/-- LANE_ENABLE with well-formed bytes that R236 refuses for none of the lanes: a raise waits for every lane that was OFF, a
lane in DRAIN gets ENABLE_PENDING, and the job waits for all of these; with neither it completes with OK at once. A refusal
completes the job with its status and changes nothing else (R73, R236). LANE_DISABLE of lanes that are all OFF, with no
enable and no restore pending, completes with OK and changes nothing; a lane that is up enters DRAIN, and the job waits
until it is OFF; in DRAIN a pending enable is cancelled (R235, R236, R237). exec answers a next state, under conditions on
the operands and the state alone, for each of: laneEnable, laneDisable. -/
def Obligations.LaneSwitch : Prop :=
  (
  ∀ (q : Fin 32768) (i : Fin 65536) (s : State) (j : Job), s.started? 0x11 q i = some j → s.bistHolds j = false →
    State.lanesOnly j = true →
    ∃ t, exec (.laneEnable q i) s = .next t ∧ onlyJob q i s t ∧
      (let l := s.leads j.items
       let off := l.filter fun n => s.laneState n == 0
       let drain := l.filter fun n => s.laneState n == 6
       (∀ st, l.findSome? s.enableRefusal = some st → t.due q i st 0 0 ∧ t = { s with jobs := t.jobs }) ∧
       (l.findSome? s.enableRefusal = none →
          (off ++ drain = [] → t.due q i .ok 0 0 ∧ t = { s with jobs := t.jobs }) ∧
          (off ++ drain ≠ [] → t.waits q i ((off ++ drain).map Wait.laneUp)) ∧
          (∀ n ∈ off, t.upPending n = true) ∧ (∀ n ∈ drain, t.r F.LANE_STAT_ENABLE_PENDING n = 1) ∧
          onlyFields [F.LANE_STAT_ENABLE_PENDING, F.SYS_ISL_MARGIN_MARGIN, F.SYS_ISL_MARGIN_BELOW_TARGET,
            F.SYS_ISL_MARGIN_AT_CAP, F.SYS_ISL_MARGIN_CRITICAL] s t ∧
          t = { s with regs := t.regs, fab := t.fab, held := t.held, occ := t.occ, jobs := t.jobs }))) ∧
  (
  ∀ (q : Fin 32768) (i : Fin 65536) (s : State) (j : Job), s.started? 0x12 q i = some j → s.bistHolds j = false →
    State.lanesOnly j = true →
    ((∀ n, n < 192 → s.laneState n = 0 ∧ s.r F.LANE_STAT_ENABLE_PENDING n = 0 ∧ s.fused n = false) →
      ∃ t, exec (.laneDisable q i) s = .next t ∧ t.due q i .ok 0 0 ∧ onlyJob q i s t ∧
        (∀ n ∈ j.items, t.r F.LANE_STAT_RESTORE_PENDING n = 0) ∧ onlyFields [F.LANE_STAT_RESTORE_PENDING] s t ∧
        t = { s with regs := t.regs, jobs := t.jobs }) ∧
    (∀ n, j.items = [n] → s.fused n = false → s.laneState n ≠ 0 → s.laneState n ≠ 6 →
      s.r F.LANE_STAT_ENABLE_PENDING n = 0 →
      ∃ t, exec (.laneDisable q i) s = .next t ∧ t.waits q i [.laneOff n] ∧ t.laneState n = 6 ∧
        t.r F.LANE_STAT_PREV_STATE n = s.laneState n ∧ t.r F.LANE_STAT_RESTORE_PENDING n = 0 ∧
        t.isHeld n 0x1001 = true ∧ onlyBlocks laneBlock s t ∧ sameBytes s t) ∧
    (∀ n, j.items = [n] → s.fused n = false → s.laneState n = 6 → s.r F.LANE_STAT_ENABLE_PENDING n = 1 →
      ∃ t, exec (.laneDisable q i) s = .next t ∧ t.waits q i [.laneOff n] ∧ t.laneState n = 6 ∧
        t.r F.LANE_STAT_ENABLE_PENDING n = 0 ∧ t.r F.LANE_STAT_RESTORE_PENDING n = 0 ∧
        onlyRegs [(F.LANE_STAT_ENABLE_PENDING, n), (F.LANE_STAT_RESTORE_PENDING, n)] s t ∧
        t = { s with regs := t.regs, jobs := t.jobs }))

/-- RATE_RAISE_READY of a lane whose raised islands all have their margins, and RATE_RAISE_TIMEOUT of one whose islands
reach 0x10CD, let an OFF lane that R236 does not refuse leave OFF for CAL: state 1 from 0 with LANE_STATE, the loopback and
the mode of LANE_CFG in force, its foreground pass wanted and its raise gone. A timeout with an island below 0x10CD leaves
the lane OFF and posts RATE_DENIED (R73, R230, R236). exec answers a next state, under conditions on the operands and the
state alone, for each of: rateRaiseReady, rateRaiseTimeout. -/
def Obligations.RateRaise : Prop :=
  ∀ (n : Fin 192) (s : State) (r : Raise), s.live = true → s.raise? (.lane n 1) = some r → s.laneState n = 0 →
    s.fused n = false → s.enableRefusal n = none →
    let left (t : State) : Prop := t.laneState n = 1 ∧ t.r F.LANE_STAT_PREV_STATE n = 0 ∧
      t.r F.LANE_STAT_LOOPBACK n = s.r F.LANE_CFG_LOOPBACK n % 8 ∧ t.laneMode n = s.r F.LANE_CFG_MODE n % 4 ∧
      (t.calh n).want = true ∧ t.raise? (.lane n 1) = none ∧ t.isHeld n 0x1001 = true ∧
      onlyBlocks (fun b => laneBlock b || marginBlock b) s t ∧ sameBytes s t
    (s.raiseReady r = true → ∃ t, exec (.rateRaiseReady (.lane n 1)) s = .next t ∧ left t) ∧
    (s.raiseReady r = false → ∃ t, exec (.rateRaiseReady (.lane n 1)) s = .next t ∧ t = s) ∧
    (s.raiseAllowed r = true → ∃ t, exec (.rateRaiseTimeout (.lane n 1)) s = .next t ∧ left t) ∧
    (s.raiseReady r = false → s.raiseAllowed r = false → ∃ t, exec (.rateRaiseTimeout (.lane n 1)) s = .next t ∧
      t.laneState n = 0 ∧ t.raise? (.lane n 1) = none ∧
      (∀ k ∈ r.islands, s.marginAt k < 0x10CD → t.isHeld (islandSrc k) 0x8006 = true) ∧ onlyBlocks marginBlock s t ∧
      sameBytes s t)

/-- DRAIN_COMPLETE takes a lane in DRAIN to OFF: state 0 from 6, its converter stopped with the isolation switch open, its
front end and driver off, LANE_STATE posted (R230, R235). A lane that is not in DRAIN is left alone (log 3). PAYLOAD_START
on a lane in TRACK or DEGRADED with payload lock and no holdover sets PAYLOAD, except in host loopback, (log 40), and after
a holdover posts its end; HOLDOVER_GRACE_EXPIRY takes a lane in holdover to ACQUIRE and ends the holdover (R230, R232). exec
answers a next state, under conditions on the operands and the state alone, for each of: drainComplete, payloadStart,
holdoverGraceExpiry. -/
def Obligations.DrainAndGrace : Prop :=
  (
  ∀ (n : Fin 192) (s : State), s.live = true → s.fused n = false →
    (s.laneState n ≠ 6 → ∃ t, exec (.drainComplete n) s = .next t ∧ t = s) ∧
    (s.laneState n = 6 → s.r F.LANE_STAT_ENABLE_PENDING n = 0 → s.r F.LANE_STAT_RESTORE_PENDING n = 0 →
      ∃ t, exec (.drainComplete n) s = .next t ∧ t.laneState n = 0 ∧ t.r F.LANE_STAT_PREV_STATE n = 6 ∧
        t.r F.LANE_FE_STAT_ISO_OPEN n = 1 ∧ t.r F.LANE_ADC_STAT_RUNNING n = 0 ∧ t.r F.LANE_FE_STAT_FE_ON n = 0 ∧
        t.r F.LANE_TX_STAT_DRV_ON n = 0 ∧ t.isHeld n 0x1001 = true ∧
        onlyBlocks (fun b => laneBlock b || hostBlock b || marginBlock b || blockAt 7 b) s t ∧ sameBytes s t)) ∧
  (
  ∀ (n : Fin 192) (s : State), s.live = true → s.tracking n = true →
    (s.r F.LANE_STAT_HOLDOVER n = 0 → s.r F.LANE_STAT_PAYLOAD n = 0 → s.payloadLocked n = true →
      ∃ t, exec (.payloadStart n) s = .next t ∧
        t.r F.LANE_STAT_PAYLOAD n = (if s.r F.LANE_STAT_LOOPBACK n = 1 then 0 else 1) ∧
        ((s.laneh n).resume ≠ none → t.isHeld n 0x1003 = true) ∧ (t.laneh n).resume = none ∧
        t = { s with regs := t.regs, lane := t.lane, held := t.held, occ := t.occ } ∧
        onlyRegs [(F.LANE_STAT_PAYLOAD, n)] s t) ∧
    (s.r F.LANE_STAT_HOLDOVER n ≠ 0 → s.fused n = false → ∃ t, exec (.holdoverGraceExpiry n) s = .next t ∧
      t.laneState n = 3 ∧ t.r F.LANE_STAT_HOLDOVER n = 0 ∧ t.r F.LANE_STAT_PREV_STATE n = s.laneState n ∧
      t.isHeld n 0x1001 = true ∧ onlyBlocks laneBlock s t ∧ sameBytes s t))

/-- CDR_LOCK of a powered host lane whose owner has a hunt sets RX_SIG and CDR_LOCK, and ALIGNED with them where the stream
passes bit for bit in L100; HOST_LINK_DOWN clears CDR_LOCK, ALIGNED and PRBS_LOCK, and posts CDR_LOST where its owner is
active (R245, R252). That HOST_LINK_DOWN says whether a signal is there is log 89. HOST_ALIGN_TEST at a host lane that hunts
judges the codeword that its receiver makes of the decided levels under its polarity and precoding (R251): the third good
codeword in a row sets ALIGNED and holds the candidate, an earlier one is counted, and a bad one moves to the next candidate
of 2,720; at an aligned one the sixteenth bad codeword in a row clears ALIGNED and the hunt goes back to the last locked
candidate (R245). PRBS_CHECK: 64 good symbols in a row without lock set PRBS_LOCK; with lock an error is counted (R253).
LOOPBACK_SLIP of a lane in host or line loopback counts a slip for the lane, posts FIFO_SLIP for its gearbox island, and
drops or repeats in that loopback's buffer alone (R250); which codeword is log 88. exec answers a next state, under
conditions on the operands and the state alone, for each of: cdrLock, hostLinkDown, hostAlignTest, prbsCheck, loopbackSlip.
-/
def Obligations.HostLane : Prop :=
  (
  ∀ (m : Fin 384) (s : State), s.live = true → s.hostPowered m = true →
    (s.r F.HSL_STAT_CDR_LOCK m = 0 → s.bitForBit m = false → ∃ t, exec (.cdrLock m) s = .next t ∧
      t.r F.HSL_STAT_CDR_LOCK m = 1 ∧ t.r F.HSL_STAT_RX_SIG m = 1 ∧ t = { s with regs := t.regs } ∧
      onlyRegs [(F.HSL_STAT_CDR_LOCK, m), (F.HSL_STAT_RX_SIG, m)] s t) ∧
    (s.r F.HSL_STAT_CDR_LOCK m = 0 → s.bitForBit m = true → ∃ t, exec (.cdrLock m) s = .next t ∧
      t.r F.HSL_STAT_CDR_LOCK m = 1 ∧ t.r F.HSL_STAT_RX_SIG m = 1 ∧ t.r F.HSL_STAT_ALIGNED m = 1 ∧
      t = { s with regs := t.regs, held := t.held, occ := t.occ } ∧
      onlyBlocks (fun b => laneBlock b || hostBlock b) s t) ∧
    (∀ sig, s.r F.HSL_STAT_CDR_LOCK m ≠ 0 → ∃ t, exec (.hostLinkDown m sig) s = .next t ∧
      t.r F.HSL_STAT_CDR_LOCK m = 0 ∧ t.r F.HSL_STAT_RX_SIG m = sig.toNat ∧ t.r F.HSL_STAT_ALIGNED m = 0 ∧
      t.r F.HSL_STAT_PRBS_LOCK m = 0 ∧ (s.ownerActive m = true → t.isHeld (192 + m) 0x1504 = true) ∧
      t = { s with regs := t.regs, host := t.host, held := t.held, occ := t.occ } ∧
      onlyBlocks (fun b => laneBlock b || hostBlock b) s t)) ∧
  (
  (∀ (m : Fin 384) (word : Levels) (start : Int) (s : State), s.live = true → s.alignHunts m = true →
    s.r F.HSL_STAT_ALIGNED m = 0 →
    let good := (rsDecode (symbolsOf 544 (s.hostBits m word))).isSome
    let h := s.hosth m
    (good = true → h.pass + 1 < 3 → ∃ t, exec (.hostAlignTest m word start) s = .next t ∧
      t.hosth m = { h with pass := h.pass + 1 } ∧ t = { s with host := t.host }) ∧
    (good = true → 3 ≤ h.pass + 1 → ∃ t, exec (.hostAlignTest m word start) s = .next t ∧
      t.r F.HSL_STAT_ALIGNED m = 1 ∧ (t.hosth m).last = h.cand ∧ (t.hosth m).start = start ∧
      t = { s with regs := t.regs, host := t.host, held := t.held, occ := t.occ } ∧
      onlyBlocks (fun b => laneBlock b || hostBlock b) s t) ∧
    (good = false → ∃ t, exec (.hostAlignTest m word start) s = .next t ∧
      t.hosth m = { h with cand := (h.cand + 1) % 2720, pass := 0 } ∧ t = { s with host := t.host })) ∧
  (∀ (m : Fin 384) (word : Levels) (start : Int) (s : State), s.live = true → s.alignHunts m = true →
    s.r F.HSL_STAT_ALIGNED m = 1 → (rsDecode (symbolsOf 544 (s.hostBits m word))).isSome = false →
    ((s.hosth m).fail + 1 < 16 → ∃ t, exec (.hostAlignTest m word start) s = .next t ∧
      t.hosth m = { s.hosth m with fail := (s.hosth m).fail + 1 } ∧ t = { s with host := t.host }) ∧
    (16 ≤ (s.hosth m).fail + 1 → ∃ t, exec (.hostAlignTest m word start) s = .next t ∧ t.r F.HSL_STAT_ALIGNED m = 0 ∧
      (t.hosth m).cand = (s.hosth m).last ∧ t = { s with regs := t.regs, host := t.host, held := t.held, occ := t.occ })) ∧
  (∀ (m : Fin 384) (s : State), s.live = true → s.hostPowered m = true → s.r F.HSL_CFG_PRBS_CHK m ≠ 0 →
    s.r F.HSL_STAT_CDR_LOCK m ≠ 0 →
    (s.r F.HSL_STAT_PRBS_LOCK m = 0 → (s.hosth m).run = 0 →
      ∃ t, exec (.prbsCheck m (List.replicate 64 false)) s = .next t ∧ t.r F.HSL_STAT_PRBS_LOCK m = 1 ∧
        t = { s with regs := t.regs, host := t.host } ∧ onlyRegs [(F.HSL_STAT_PRBS_LOCK, m)] s t) ∧
    (s.r F.HSL_STAT_PRBS_LOCK m ≠ 0 → (s.hosth m).errs < 63 → ∃ t, exec (.prbsCheck m [true]) s = .next t ∧
      t.r F.HSL_PRBS_ERR_COUNT m = satAdd F.HSL_PRBS_ERR_COUNT.width (s.r F.HSL_PRBS_ERR_COUNT m) 1 ∧
      t.r F.HSL_STAT_PRBS_LOCK m = s.r F.HSL_STAT_PRBS_LOCK m ∧ t = { s with regs := t.regs, host := t.host } ∧
      onlyRegs [(F.HSL_PRBS_ERR_COUNT, m)] s t)) ∧
  (∀ (n : Fin 192) (again : Bool) (s : State), s.live = true → (s.r F.LANE_STAT_LOOPBACK n = 1 ∨ s.lineLoop n = true) →
    s.laneState n ≠ 0 → s.laneState n ≠ 6 → ∃ t, exec (.loopbackSlip (n, again)) s = .next t ∧
      t.r F.LANE_SLIP_COUNT n = satAdd F.LANE_SLIP_COUNT.width (s.r F.LANE_SLIP_COUNT n) 1 ∧
      t.isHeld (islandSrc (State.gearboxIsland n)) 0x8003 = true ∧
      (s.lineLoop n = true → t.host = s.host ∧ ∀ k, k ≠ n.val → t.txh k = s.txh k) ∧
      (s.lineLoop n = false → t.tx = s.tx ∧
        (again = false → 1 < s.laneMode n →
          (t.hosth (s.r F.XBAR_MAP_A n)).skip = (s.hosth (s.r F.XBAR_MAP_A n)).skip + s.loopUnit n)) ∧
      t = { s with regs := t.regs, held := t.held, occ := t.occ, tx := t.tx, host := t.host } ∧
      onlyRegs [(F.LANE_SLIP_COUNT, n)] s t))

/-- TX_PARAM with bytes that break R226 completes with BAD_PARAM, and polarity or precoding for a lane that is not OFF with
NOT_ALLOWED, without effect. SEL 0 on OFF lanes stores every selected setting of each and completes with OK; a new swing
target on a lane that is up starts the walk and the job waits for it. SEL 1 on OFF lanes stores the 16 taps of each; on a
lane that is up they wait for a DAC word boundary, and the job with them. SEL 2 to 17 write one page of the staging table,
and with APPLY_PD on an OFF lane that page stands in the active table (R219, R226, R227). exec answers a next state, under
conditions on the operands and the state alone, for each of: txParam. -/
def Obligations.TxParam : Prop :=
  ∀ (q : Fin 32768) (i : Fin 65536) (s : State) (j : Job), s.started? 0x19 q i = some j → s.bistHolds j = false →
    let off := ∀ n ∈ j.items, s.laneState n = 0 ∧ s.txPending n = false ∧ s.r F.LANE_TX_STAT_WALKING n = 0
    let page (n e : Nat) : Nat :=
      if 16 * (j.p 4 1 - 2) ≤ e ∧ e < 16 * (j.p 4 1 - 2) + 16 then j.p (8 + (e - 16 * (j.p 4 1 - 2))) 1
      else (s.stagingPd n).getD e 0
    (State.txParamOk j = false → ∃ t, exec (.txParam q i) s = .next t ∧ t.due q i .badParam 0 0 ∧ onlyJob q i s t ∧
      t = { s with jobs := t.jobs }) ∧
    (State.txParamOk j = true → j.p 4 1 = 0 → 16 ≤ j.p 8 1 → (∃ n ∈ j.items, s.laneState n ≠ 0) →
      ∃ t, exec (.txParam q i) s = .next t ∧ t.due q i .notAllowed 0 0 ∧ onlyJob q i s t ∧ t = { s with jobs := t.jobs }) ∧
    (State.txParamOk j = true → j.p 4 1 = 0 → j.p 5 1 = 0 → off →
      ∃ t, exec (.txParam q i) s = .next t ∧ t.due q i .ok 0 0 ∧ onlyJob q i s t ∧
        (∀ n ∈ j.items,
          (bitAt (j.p 8 1) 0 = true → t.r F.LANE_TX_CFG_SWING n = j.p 10 1) ∧
          (bitAt (j.p 8 1) 1 = true → t.r F.LANE_TX_CFG_UNSQ n = j.p 11 1) ∧
          (bitAt (j.p 8 1) 2 = true → t.r F.LANE_TX_CFG_PD_EN n = (bitAt (j.p 9 1) 0).toNat) ∧
          (bitAt (j.p 8 1) 3 = true → t.r F.LANE_TX_CFG_HOST_SQUELCH n = (bitAt (j.p 9 1) 1).toNat ∧
            t.r F.LANE_TX_STAT_SQ_HOST n = (bitAt (j.p 9 1) 1).toNat) ∧
          (bitAt (j.p 8 1) 4 = true → t.r F.LANE_TX_CFG_PRECODE n = (bitAt (j.p 9 1) 2).toNat) ∧
          (bitAt (j.p 8 1) 5 = true → t.r F.LANE_TX_CFG_INVERT n = (bitAt (j.p 9 1) 3).toNat)) ∧
        onlyBlocks laneBlock s t ∧
        t = { s with regs := t.regs, tx := t.tx, held := t.held, occ := t.occ, jobs := t.jobs }) ∧
    (∀ n, State.txParamOk j = true → j.items = [n] → j.p 4 1 = 0 → j.p 5 1 = 0 → j.p 8 1 = 1 → s.laneState n ≠ 0 →
      s.r F.LANE_TX_STAT_SWING_CODE n ≠ j.p 10 1 → ∃ t, exec (.txParam q i) s = .next t ∧ t.waits q i [.swing n] ∧
        t.r F.LANE_TX_CFG_SWING n = j.p 10 1 ∧ t.r F.LANE_TX_STAT_WALKING n = 1 ∧
        onlyRegs [(F.LANE_TX_CFG_SWING, n), (F.LANE_TX_STAT_WALKING, n)] s t ∧
        t = { s with regs := t.regs, tx := t.tx, jobs := t.jobs }) ∧
    (State.txParamOk j = true → j.p 4 1 = 1 → j.p 5 1 = 0 → off →
      ∃ t, exec (.txParam q i) s = .next t ∧ t.due q i .ok 0 0 ∧ onlyJob q i s t ∧
        (∀ n ∈ j.items, ∀ k, k < 16 → t.r F.LANE_TX_FIR_COEF (16 * n + k) = bits (j.p 8 24) (12 * k) 12) ∧
        onlyFields [F.LANE_TX_FIR_COEF] s t ∧ t = { s with regs := t.regs, jobs := t.jobs }) ∧
    (∀ n, State.txParamOk j = true → j.items = [n] → j.p 4 1 = 1 → j.p 5 1 = 0 → s.laneState n ≠ 0 →
      ∃ t, exec (.txParam q i) s = .next t ∧ t.waits q i [.txApply n] ∧ onlyJob q i s t ∧
        t.txh n = { s.txh n with pendFir := some ((List.range 16).map fun k => bits (j.p 8 24) (12 * k) 12) } ∧
        t = { s with tx := t.tx, jobs := t.jobs }) ∧
    (State.txParamOk j = true → 2 ≤ j.p 4 1 → j.p 5 1 = 0 → ∃ t, exec (.txParam q i) s = .next t ∧
      t.due q i .ok 0 0 ∧ onlyJob q i s t ∧ (∀ n ∈ j.items, t.stagingPd n = (List.range 256).map (page n)) ∧
      t = { s with tx := t.tx, jobs := t.jobs }) ∧
    (State.txParamOk j = true → 2 ≤ j.p 4 1 → j.p 5 1 = 1 → off → ∃ t, exec (.txParam q i) s = .next t ∧
      t.due q i .ok 0 0 ∧ onlyJob q i s t ∧ (∀ n ∈ j.items, ∀ e, e < 256 → t.pdEntry n e = page n e % 256) ∧
      onlyFields [F.LANE_TX_PD_E0, F.LANE_TX_PD_E1, F.LANE_TX_PD_E2, F.LANE_TX_PD_E3] s t ∧
      t = { s with regs := t.regs, tx := t.tx, jobs := t.jobs })

/-- SWING_WALK_STEP moves the driver's code one step towards LANE_TX_CFG.SWING; at the target WALKING clears and the
commands that waited for the walk are told. TX_PARAM_APPLY at a DAC word boundary brings the taps, the table and the enable
that waited for it into force together and tells the commands (R219, R227). UNSQUELCH_RAMP_END ends the release ramp of a
lane: RAMPING clears, the output is released and UNSQUELCHED is posted. TX_SAT_WINDOW runs symbols of a lane's chain, for
which the host lanes bring decided levels: with the chain off nothing changes; a run changes the saturation count, its flag
and event and no other register, and the count grows by at most the symbols run. A symbol takes the next bit pair, and where
four newer ones were sent before it the code that leaves is the rounded FIR sum, limited to 127, through table and polarity;
one beyond the limits counts; the window's last symbol ends it, and a window with some, after one without, posts SATURATION.
With the inner code on, a block of 544 bits of the gearbox becomes the pairs of its four codewords, interleaved: host bits
where they flow, line fill from a mark at which the host stream is not there (R209-R212, R214-R217, R223, R228). The start
of the fill is log 86, the form of the operand log 97, and a row that its state rules out log 3. exec answers a next state,
under conditions on the operands and the state alone, for each of: swingWalkStep, txParamApply, unsquelchRampEnd,
txSatWindow. -/
def Obligations.TransmitRamp : Prop :=
  (
  ∀ (n : Fin 192) (s : State), s.live = true →
    (s.r F.LANE_TX_STAT_WALKING n ≠ 0 → s.r F.LANE_TX_CFG_SWING n < 128 → s.r F.LANE_TX_STAT_SWING_CODE n < 128 →
      ∃ t, exec (.swingWalkStep n) s = .next t ∧
        (let c := s.r F.LANE_TX_STAT_SWING_CODE n
         let g := s.r F.LANE_TX_CFG_SWING n
         (c < g → t.r F.LANE_TX_STAT_SWING_CODE n = c + 1) ∧ (g < c → t.r F.LANE_TX_STAT_SWING_CODE n + 1 = c) ∧
         (t.r F.LANE_TX_STAT_SWING_CODE n = g → t.r F.LANE_TX_STAT_WALKING n = 0 ∧ t.awaited (.swing n) = false) ∧
         (t.r F.LANE_TX_STAT_SWING_CODE n ≠ g → t.r F.LANE_TX_STAT_WALKING n = s.r F.LANE_TX_STAT_WALKING n ∧
           t.jobs = s.jobs)) ∧
        t.txh n = { s.txh n with walkAt := s.now } ∧ (∀ m, m ≠ n.val → t.txh m = s.txh m) ∧
        t = { s with regs := t.regs, tx := t.tx, jobs := t.jobs } ∧
        onlyRegs [(F.LANE_TX_STAT_SWING_CODE, n), (F.LANE_TX_STAT_WALKING, n)] s t) ∧
    (s.laneState n ≠ 0 → s.txPending n = true → s.dacWord n = true → ∃ t, exec (.txParamApply n) s = .next t ∧
      (∀ taps, (s.txh n).pendFir = some taps →
        ∀ k, k < 16 → t.r F.LANE_TX_FIR_COEF (16 * n + k) = taps.getD k 0 % 2 ^ 12) ∧
      ((s.txh n).pendFir = none → onlyFields [F.LANE_TX_PD_E0, F.LANE_TX_PD_E1, F.LANE_TX_PD_E2, F.LANE_TX_PD_E3,
        F.LANE_TX_CFG_PD_EN, F.LANE_TX_STAT_PD_ACTIVE] s t) ∧
      (∀ tab, (s.txh n).pendPd = some tab → ∀ e, e < 256 → t.pdEntry n e = tab.getD e 0 % 256) ∧
      (∀ b, (s.txh n).pendPdEn = some b → t.r F.LANE_TX_CFG_PD_EN n = b.toNat ∧ t.r F.LANE_TX_STAT_PD_ACTIVE n = b.toNat) ∧
      t.txPending n = false ∧ t.awaited (.txApply n) = false ∧ (∀ m, m ≠ n.val → t.txh m = s.txh m) ∧
      onlyFields [F.LANE_TX_FIR_COEF, F.LANE_TX_PD_E0, F.LANE_TX_PD_E1, F.LANE_TX_PD_E2, F.LANE_TX_PD_E3,
        F.LANE_TX_CFG_PD_EN, F.LANE_TX_STAT_PD_ACTIVE] s t ∧ t = { s with regs := t.regs, tx := t.tx, jobs := t.jobs }) ∧
    (s.dacWord n = false → exec (.txParamApply n) s = .next s)) ∧
  (
  ∀ (n : Fin 192) (s : State), s.live = true →
    (s.r F.LANE_TX_STAT_RAMPING n ≠ 0 → ∃ t, exec (.unsquelchRampEnd n) s = .next t ∧
      t.r F.LANE_TX_STAT_RAMPING n = 0 ∧ t.txh n = { s.txh n with released := true } ∧ t.isHeld n 0x1302 = true ∧
      (∀ m, m ≠ n.val → t.txh m = s.txh m) ∧ t = { s with regs := t.regs, tx := t.tx, held := t.held, occ := t.occ } ∧
      onlyRegs [(F.LANE_TX_STAT_RAMPING, n)] s t) ∧
    (∀ (k : Nat) (a b : Levels), s.r F.LANE_TX_STAT_DRV_ON n = 0 → exec (.txSatWindow n (k, a, b)) s = .next s) ∧
    (∀ (k : Nat) (a b : Levels), s.r F.LANE_TX_STAT_DRV_ON n ≠ 0 → ∃ t, exec (.txSatWindow n (k, a, b)) s = .next t ∧
      (t.txh n).k ≤ (s.txh n).k + k ∧
      t.r F.LANE_TX_SAT_COUNT n ≤ s.r F.LANE_TX_SAT_COUNT n + k ∧
      t = { s with regs := t.regs, tx := t.tx, host := t.host, held := t.held, occ := t.occ } ∧
      (∀ m, m ≠ n.val → t.txh m = s.txh m) ∧
      onlyRegs [(F.LANE_TX_SAT_COUNT, n), (F.LANE_TX_EVT_SATURATION, n)] s t) ∧
    (let h := s.txh n
     s.r F.LANE_TX_STAT_DRV_ON n ≠ 0 → s.laneMode n ≠ 3 →
     (∀ p ps, h.out = p :: ps → 4 ≤ h.sent.length → h.winN + 1 < txWindowN (s.laneMode n) →
       ∃ t, exec (.txSatWindow n (1, ⟨0, []⟩, ⟨0, []⟩)) s = .next t ∧
         (let g := gray p
          let x := if s.r F.LANE_TX_CFG_PRECODE n ≠ 0 then (g + 4 - h.precoder % 4) % 4 else g
          let c := s.firCode n ((x :: h.sent).take 16)
          (t.txh n).out = ps ∧ (t.txh n).precoder = x ∧ (t.txh n).dacCode = s.dacOf n (sat127 c) ∧ (t.txh n).k = h.k + 1 ∧
          t.r F.LANE_TX_SAT_COUNT n = satAdd F.LANE_TX_SAT_COUNT.width (s.r F.LANE_TX_SAT_COUNT n)
            (decide (127 < c ∨ c < -127)).toNat) ∧
         t.held = s.held ∧ onlyRegs [(F.LANE_TX_SAT_COUNT, n)] s t) ∧
     (∀ p ps, h.out = p :: ps → 4 ≤ h.sent.length → txWindowN (s.laneMode n) ≤ h.winN + 1 → 0 < h.winSat →
       ∃ t, exec (.txSatWindow n (1, ⟨0, []⟩, ⟨0, []⟩)) s = .next t ∧ (t.txh n).winN = 0 ∧ (t.txh n).winSat = 0 ∧
         (t.txh n).satEpisode = true ∧
         (h.satEpisode = false → t.isHeld n 0x1303 = true ∧ t.r F.LANE_TX_EVT_SATURATION n = 1) ∧
         (h.satEpisode = true → t.held = s.held)) ∧
     (h.out = [] → h.pos ≠ 0 → h.data = true →
       (544 ≤ h.buf.length → ∃ t, exec (.txSatWindow n (1, ⟨0, []⟩, ⟨0, []⟩)) s = .next t ∧
         (t.txh n).out = (encodeBlock (h.buf.take 544)).tail ∧ (t.txh n).buf = h.buf.drop 544 ∧
         (t.txh n).pos = (h.pos + 544) % 5440) ∧
       (h.buf.length < 544 → ∃ t, exec (.txSatWindow n (1, ⟨0, []⟩, ⟨0, []⟩)) s = .next t ∧ t.txh n = { h with codes := [] })) ∧
     (h.out = [] → h.pos = 0 → s.lineLoop n = false → s.hostReady n = false →
       ∃ t, exec (.txSatWindow n (1, ⟨0, []⟩, ⟨0, []⟩)) s = .next t ∧ (t.txh n).data = false ∧ (t.txh n).buf = [] ∧
         (t.txh n).out = (encodeBlock (prbsBits prbs31 544 h.prbs).1).tail ∧
         (t.txh n).prbs = (prbsBits prbs31 544 h.prbs).2)))

/-- CONVERTER_RUNNING sets RUNNING of a lane in CAL. AGC_PERIOD, while the loop runs, moves the VGA code by at most one:
down where the RMS over the period is above 1.06 times the target, up, outside overload hold, where it is below the target
over 1.06; the levels follow the code within their range, AGC_LIMIT says whether the wanted step has no code left or an
episode of overload met code 0, and the sums begin anew; a period without samples judges nothing. With each period the
target and the threshold of LANE_AGC_CFG and LANE_SIGDET_CFG come into force and the commands that waited for that are told
(R95, R97, R109, R154, R156, R181). exec answers a next state, under conditions on the operands and the state alone, for
each of: converterRunning, agcPeriod. -/
def Obligations.ConverterStartAndGain : Prop :=
  ∀ (n : Fin 192) (s : State), s.live = true →
    let target := s.r F.LANE_AGC_CFG_TARGET_RMS n
    let thresh := s.r F.LANE_SIGDET_CFG_THRESH_RMS n
    (s.laneState n = 1 → s.on F.LANE_ADC_STAT_RUNNING n = false → ∃ t, exec (.converterRunning n) s = .next t ∧
      t.r F.LANE_ADC_STAT_RUNNING n = 1 ∧ t = { s with regs := t.regs } ∧ onlyRegs [(F.LANE_ADC_STAT_RUNNING, n)] s t) ∧
    (s.adcRuns n = true → ((s.adch n).vgaAuto = false ∨ (s.adch n).pass = true) →
      ∃ t, exec (.agcPeriod n) s = .next t ∧ t.adch n = { s.adch n with target := target, thresh := thresh } ∧
        t.awaited (.agc n) = false ∧ (∀ m, m ≠ n.val → t.adch m = s.adch m) ∧
        t = { s with adc := t.adc, jobs := t.jobs }) ∧
    (s.adcRuns n = true → (s.adch n).vgaAuto = true → (s.adch n).pass = false → (s.adch n).agcN = 0 →
      ∃ t, exec (.agcPeriod n) s = .next t ∧
        t.adch n = { s.adch n with agcSum := 0, target := target, thresh := thresh } ∧
        t.awaited (.agc n) = false ∧ (∀ m, m ≠ n.val → t.adch m = s.adch m) ∧
        t = { s with adc := t.adc, jobs := t.jobs }) ∧
    (s.adcRuns n = true → (s.adch n).vgaAuto = true → (s.adch n).pass = false → (s.adch n).agcN ≠ 0 →
      s.r F.LANE_FE_STAT_VGA_CODE n ≤ 72 →
      ∃ t, exec (.agcPeriod n) s = .next t ∧
        (let h := s.adch n
         let g := h.target
         let v := s.r F.LANE_FE_STAT_VGA_CODE n
         let c := t.r F.LANE_FE_STAT_VGA_CODE n
         let above := 10000 * h.agcSum > (106 * g) ^ 2 * h.agcN
         let below := 106 ^ 2 * h.agcSum < (100 * g) ^ 2 * h.agcN
         (above → c = v - 1) ∧ (below → ¬above → s.on F.LANE_ADC_STAT_HOLD n = false → c = min 72 (v + 1)) ∧
         (¬above → (¬below ∨ s.on F.LANE_ADC_STAT_HOLD n = true) → c = v) ∧
         (c = v → t.levels n = s.levels n) ∧
         (c = v + 1 → t.levels n = (s.levels n).map fun l => clampI (-2032) 2032 (scaleLevel true l)) ∧
         (c + 1 = v → t.levels n = (s.levels n).map fun l => clampI (-2032) 2032 (scaleLevel false l)) ∧
         t.r F.LANE_FE_STAT_AGC_LIMIT n = (decide ((above ∧ c = 0) ∨ (below ∧ c = 72) ∨ h.overLimit = true)).toNat ∧
         (t.r F.LANE_FE_STAT_AGC_LIMIT n = 1 → s.on F.LANE_FE_STAT_AGC_LIMIT n = false →
           t.isHeld n 0x1105 = true ∧ t.r F.LANE_ADC_EVT_AGC_LIMIT n = 1) ∧
         (s.on F.LANE_FE_STAT_AGC_LIMIT n = true → c = v → t.held = s.held)) ∧
        t.adch n = { s.adch n with agcSum := 0, agcN := 0, target := target, thresh := thresh } ∧
        t.awaited (.agc n) = false ∧ (∀ m, m ≠ n.val → t.adch m = s.adch m) ∧
        t = { s with regs := t.regs, adc := t.adc, eq := t.eq, held := t.held, occ := t.occ, jobs := t.jobs } ∧
        onlyRegs [(F.LANE_FE_STAT_VGA_CODE, n), (F.LANE_EQ_LVL_L0, n), (F.LANE_EQ_LVL_L1, n), (F.LANE_EQ_LVL_L2, n),
          (F.LANE_EQ_LVL_L3, n), (F.LANE_EQ_EVT_TAP_LIMIT, n), (F.LANE_FE_STAT_AGC_LIMIT, n),
          (F.LANE_ADC_EVT_AGC_LIMIT, n)] s t)

/-- FE_WALK_STEP moves a commanded VGA or CTLE walk one code towards its target, in overload hold the VGA only downwards and
the CTLE not at all; a walk that arrives is over and the commands that waited for it are told. ADC_WINDOW takes the
conversions of a run of samples one after the other. A conversion forms the code of the sample before it, whose bandwidth
step takes both neighbours: it counts in the window, enters the unit of the sample tap, whose 512th sample completes it, and
adds to the clip count where it was beyond 127. At the start of a frame the sets of values that wait come into force before
it (R105). The N-th sample ends the window: its figures are recorded; in a foreground pass the residual activity is measured
once 1 ms has gone, and outside one an overloaded window enters the hold with its count and event, and the 16th clean one in
a row ends it (R98, R104, R106-R109, R113, R114, R116, R126, R175). The rounding of the figures is log 10, the run of
samples log 46, and that the residual activity is of the first millisecond log 50. exec answers a next state, under
conditions on the operands and the state alone, for each of: feWalkStep, adcWindow. -/
def Obligations.WalksAndWindows : Prop :=
  ∀ (n : Fin 192) (s : State), s.live = true → s.adcRuns n = true →
    let s' := if s.atFrame n then s.each (s.members n) fun s m => s.dueTake m (· < 91) else s
    (∀ g, (s.adch n).vgaWalk = some g → (s.adch n).ctleWalk = none → g ≤ 72 → s.r F.LANE_FE_STAT_VGA_CODE n ≤ 72 →
      ∃ t, exec (.feWalkStep n) s = .next t ∧
        (let v := s.r F.LANE_FE_STAT_VGA_CODE n
         let c := t.r F.LANE_FE_STAT_VGA_CODE n
         (v < g → s.on F.LANE_ADC_STAT_HOLD n = false → c = v + 1) ∧ (g < v → c + 1 = v) ∧ (v = g → c = v) ∧
         (v < g → s.on F.LANE_ADC_STAT_HOLD n = true → c = v) ∧
         (c = g → (t.adch n).vgaWalk = none ∧ t.awaited (.vgaWalk n) = false) ∧
         (c ≠ g → t.adch n = s.adch n ∧ t.jobs = s.jobs)) ∧
        (∀ m, m ≠ n.val → t.adch m = s.adch m) ∧
        t = { s with regs := t.regs, adc := t.adc, eq := t.eq, jobs := t.jobs, held := t.held, occ := t.occ } ∧
        onlyRegs [(F.LANE_FE_STAT_VGA_CODE, n), (F.LANE_EQ_LVL_L0, n), (F.LANE_EQ_LVL_L1, n), (F.LANE_EQ_LVL_L2, n),
          (F.LANE_EQ_LVL_L3, n), (F.LANE_EQ_EVT_TAP_LIMIT, n)] s t) ∧
    (∀ g, (s.adch n).ctleWalk = some g → (s.adch n).vgaWalk = none → g ≤ 36 → s.r F.LANE_FE_STAT_CTLE_CODE n ≤ 36 →
      ∃ t, exec (.feWalkStep n) s = .next t ∧
        (let v := s.r F.LANE_FE_STAT_CTLE_CODE n
         let c := t.r F.LANE_FE_STAT_CTLE_CODE n
         (s.on F.LANE_ADC_STAT_HOLD n = true → t = s) ∧
         (s.on F.LANE_ADC_STAT_HOLD n = false → (v < g → c = v + 1) ∧ (g < v → c + 1 = v) ∧ (v = g → c = v) ∧
           (c = g → (t.adch n).ctleWalk = none ∧ t.awaited (.ctleWalk n) = false))) ∧
        (∀ m, m ≠ n.val → t.adch m = s.adch m ∧ t.eqh m = s.eqh m) ∧
        t = { s with regs := t.regs, adc := t.adc, eq := t.eq, jobs := t.jobs } ∧
        onlyRegs [(F.LANE_FE_STAT_CTLE_CODE, n)] s t) ∧
    (∀ a b : List (BitVec 10), ∃ t, exec (.adcWindow n a) s = .next t ∧
      (t.adcRuns n = true → exec (.adcWindow n (a ++ b)) s = exec (.adcWindow n b) t) ∧
      t.hostMem = s.hostMem ∧ t.nvm = s.nvm ∧ t.now = s.now ∧ t.sys = s.sys) ∧
    (∀ d : BitVec 10, (s.adch n).cur = none → ∃ t, exec (.adcWindow n [d]) s = .next t ∧
      (t.adch n).k = (s.adch n).k + 1 ∧ (t.adch n).win = (s.adch n).win ∧
      t = { s with regs := s'.regs, adc := t.adc, cal := s'.cal } ∧ onlyBlocks laneBlock s t) ∧
    (∀ (d : BitVec 10) (c bw raw : Int), (s.adch n).cur = some (c, bw, raw) →
      ∃ t, exec (.adcWindow n [d]) s = .next t ∧
        (let h := s.adch n
         let x := State.outCode bw (h.lastX.getD c) c (s'.streamX n h.k d.toNat)
         let out := if h.seen.invert then -sat127 x else sat127 x
         let clip := decide (x > 127 ∨ x < -127)
         let w := h.win
         let clips := w.clips + clip.toNat
         (t.adch n).k = h.k + 1 ∧
         t.r F.LANE_ADC_CLIP_COUNT n =
           (if clip then satAdd F.LANE_ADC_CLIP_COUNT.width (s.r F.LANE_ADC_CLIP_COUNT n) 1 else s.r F.LANE_ADC_CLIP_COUNT n) ∧
         ((h.k - 1) % 512 = 511 → ∃ u, (t.adch n).units = u :: h.units.take 1 ∧ u.no = (h.k - 1) / 512 ∧
           u.out = h.tap.out.reverse ++ [uint 8 out] ∧ u.raw = h.tap.raw.reverse ++ [uint 8 raw] ∧
           u.clip = (h.tap.clip || clip) ∧ (t.adch n).tap = {}) ∧
         ((h.k - 1) % 512 ≠ 511 → (t.adch n).units = h.units ∧ (t.adch n).tap.out = uint 8 out :: h.tap.out) ∧
         (w.n + 1 < windowN (s.laneMode n) →
           (t.adch n).win = { n := w.n + 1, clips := clips, sq := w.sq + (out * out).toNat, hi := max w.hi out,
                              lo := min w.lo out } ∧
           t = { s with regs := t.regs, adc := t.adc, cal := t.cal } ∧ onlyRegs [(F.LANE_ADC_CLIP_COUNT, n)] s' t) ∧
         (windowN (s.laneMode n) ≤ w.n + 1 → (t.adch n).win = {} ∧
           (clips < 65536 → t.r F.LANE_ADC_WIN_LAST_CLIPS n = clips) ∧
           (-127 ≤ w.lo → w.hi ≤ 127 → t.ri F.LANE_ADC_PEAK_PEAK_POS n = max w.hi out ∧
             t.ri F.LANE_ADC_PEAK_PEAK_NEG n = max (-127) (min w.lo out)) ∧
           (h.pass = true → t.r F.LANE_ADC_STAT_HOLD n = s.r F.LANE_ADC_STAT_HOLD n ∧
             (let u := s.calh n
              u.measured = false → 16000000 ≤ (s.now - u.fgAt) * s.r F.SYS_ISL_MARGIN_TS_PASS (State.controlIsland n) →
                (let act := freeSqrt 23 (256 * (u.actSq + (out * out).toNat)) (u.actN + 1)
                 t.r F.LANE_FE_STAT_VGA_CODE n = 24 ∧ (t.calh n).measured = true ∧
                 t.r F.LANE_CAL_ACT_ACT n = act % 2 ^ F.LANE_CAL_ACT_ACT.width ∧
                 t.r F.LANE_CAL_STAT_NOISY n = (decide (s.r F.LANE_CAL_ACT_CFG_ACT_THRESH n < act)).toNat))) ∧
           (h.pass = false → windowN (s.laneMode n) < 4096 * clips →
             t.on F.LANE_ADC_STAT_HOLD n = true ∧ t.r F.LANE_ADC_STAT_CLEAN_COUNT n = 0 ∧
             (s.on F.LANE_ADC_STAT_HOLD n = false → t.isHeld n 0x1101 = true ∧
               t.r F.LANE_ADC_HOLDS_COUNT n = satAdd F.LANE_ADC_HOLDS_COUNT.width (s.r F.LANE_ADC_HOLDS_COUNT n) 1)) ∧
           (h.pass = false → ¬windowN (s.laneMode n) < 4096 * clips → s.on F.LANE_ADC_STAT_HOLD n = true →
             (s.r F.LANE_ADC_STAT_CLEAN_COUNT n = 15 → t.r F.LANE_ADC_STAT_HOLD n = 0 ∧ t.isHeld n 0x1102 = true) ∧
             (s.r F.LANE_ADC_STAT_CLEAN_COUNT n < 15 →
               t.r F.LANE_ADC_STAT_CLEAN_COUNT n = s.r F.LANE_ADC_STAT_CLEAN_COUNT n + 1)))) ∧
        t.hostMem = s.hostMem ∧ t.now = s.now)

/-- MAP_CHANGE at a frame boundary brings a scheduled change of an ADC's maps into force and counts it, the oldest of the
group map (number 9) before the oldest of the sub-slice maps; one a boundary, and in overload hold only the one due next.
While the converter stands it waits (log 101). TX_CELL_SWAP at a DAC word boundary changes the transmit cell that is out of
service; off their boundaries the two change nothing. RAMP_STEP moves every running ramp of a lane one tick, unless the lane
is in overload hold; the last tick of a ramp ends it, the ramps of other lanes stand, and the new values come into force as
a set at the next frame or DAC word boundary (R102, R105, R108, R131, R136, R137, R218). exec answers a next state, under
conditions on the operands and the state alone, for each of: mapChange, txCellSwap, rampStep. -/
def Obligations.MapsAndRamps : Prop :=
  ∀ (n : Fin 192) (s : State), s.live = true →
    (s.mapMay n = false → exec (.mapChange n) s = .next s) ∧
    (s.dacWord n = false → exec (.txCellSwap n) s = .next s) ∧
    (s.on F.LANE_TX_STAT_DRV_ON n = false → exec (.txCellSwap n) s = .next s) ∧
    (s.on F.LANE_ADC_STAT_HOLD (s.lead n) = true → exec (.rampStep n) s = .next s) ∧
    (∀ g j early rest, s.mapMay n = true → (s.adch n).maps = early ++ (g, j) :: rest → (∀ c ∈ early, c.1 ≠ 9) →
      (g = 9 ∨ (early = [] ∧ ∀ c ∈ rest, c.1 ≠ 9)) → g ≤ 9 → j ≤ 8 →
      ∃ t, exec (.mapChange n) s = .next t ∧ (t.adch n).maps = early ++ rest ∧ (t.adch n).mapK = some (s.streamK n) ∧
        t.r F.LANE_ADC_MAPCHG_COUNT n = satAdd F.LANE_ADC_MAPCHG_COUNT.width (s.r F.LANE_ADC_MAPCHG_COUNT n) 1 ∧
        (g < 9 → (∀ p, p < 8 → State.mapAt (t.r F.LANE_ADC_SMAP_P (9 * n + g)) p = if p < j then p else p + 1) ∧
          t.r F.LANE_ADC_GMAP_P n = s.r F.LANE_ADC_GMAP_P n) ∧
        (g = 9 → (∀ p, p < 8 → State.mapAt (t.r F.LANE_ADC_GMAP_P n) p = if p < j then p else p + 1) ∧
          t.r F.LANE_ADC_STAT_SPARE_GROUP n = j) ∧
        (∀ m, m ≠ n.val → t.adch m = s.adch m) ∧
        t = { s with regs := t.regs, adc := t.adc, cal := t.cal, ramps := t.ramps, jobs := t.jobs } ∧
        onlyBlocks laneBlock s t) ∧
    (∀ c rest, s.on F.LANE_TX_STAT_DRV_ON n = true → s.dacWord n = true → (s.txh n).pendCell = c :: rest → c < 16 → ∃ t, exec (.txCellSwap n) s = .next t ∧
      (t.txh n).pendCell = rest ∧ t.r F.LANE_TX_STAT_SPARE_CELL n = c ∧ t.r F.LANE_CAL_TX_SPARE (16 * n + c) = 1 ∧
      (s.r F.LANE_TX_STAT_SPARE_CELL n ≠ c → t.r F.LANE_CAL_TX_SPARE (16 * n + s.r F.LANE_TX_STAT_SPARE_CELL n) = 0) ∧
      (∀ m, m ≠ n.val → t.txh m = s.txh m) ∧
      t = { s with regs := t.regs, tx := t.tx, cal := t.cal, ramps := t.ramps, jobs := t.jobs } ∧
      onlyBlocks laneBlock s t) ∧
    (s.on F.LANE_ADC_STAT_HOLD (s.lead n) = false → ∃ t, exec (.rampStep n) s = .next t ∧
      t.ramps = s.ramps.filterMap (fun r =>
        if r.lane = n.val then (if r.t + 1 < r.n then some { r with t := r.t + 1 } else none) else some r) ∧
      (t.rampsOf n = [] → t.awaited (.restored n) = false) ∧ (t.rampsOf n ≠ [] → t.jobs = s.jobs) ∧
      (∀ m, m ≠ n.val → t.calh m = s.calh m) ∧
      t = { s with regs := t.regs, cal := t.cal, ramps := t.ramps, jobs := t.jobs } ∧
      onlyFields ((s.rampsOf n).flatMap fun r => State.elemFields r.elem ++ State.selFields r.elem) s t ∧
      (∀ r, s.rampsOf n = [r] →
        (let now := r.vals.map fun v => v.2.1 + Int.tdiv ((v.2.2 - v.2.1) * ((r.t + 1 : Nat) : Int)) (r.n : Int)
         let last := r.vals.map fun v => v.2.2
         (r.t + 1 < r.n → s.atBoundary n r.elem = true → t.regs = (s.setElem n r.elem now).regs) ∧
         (r.n ≤ r.t + 1 → s.atBoundary n r.elem = true →
           t.regs = ((s.setElem n r.elem last).setSel n r.elem r.sel).regs) ∧
         (r.t + 1 < r.n → s.atBoundary n r.elem = false → t.regs = s.regs ∧ (r.elem, now, []) ∈ (t.calh n).due) ∧
         (r.n ≤ r.t + 1 → s.atBoundary n r.elem = false → t.regs = s.regs ∧ (r.elem, last, r.sel) ∈ (t.calh n).due))))

/-- ADAPTATION_STEP counts itself and, while nothing freezes adaptation, brings the steps of R161 to those of taps, h1 and
levels whose adaptation is on; a frozen quantity keeps its value, and while the levels adapt the main tap holds 1.0.
TIMING_UPDATE takes the mean of the timing detector into the frequency integrator, within F_MAX, outside overload hold and
while there is a signal, and the phase moves by it; digital near loopback bypasses it (R154, R155, R161, R162, R165-R167,
R170, R177, R249). That step A2 adapts nothing is log 47. exec answers a next state, under conditions on the operands and
the state alone, for each of: adaptationStep, timingUpdate. -/
def Obligations.EqualiserLoops : Prop :=
  ∀ (n : Fin 192) (pa : Fin 4) (xs : List (BitVec 8)) (s : State), s.live = true → s.dspRuns n = true →
    (∀ k, ∃ t, exec (.adaptationStep n pa k xs) s = .next t ∧
      t.r F.LANE_EQ_STEPS_COUNT n = (s.r F.LANE_EQ_STEPS_COUNT n + 1) % 2 ^ F.LANE_EQ_STEPS_COUNT.width ∧
      ((s.frozenEq n = true ∨ s.r F.LANE_EQ_STAT_ACQ_STEP n = 2) → t.taps n = s.taps n ∧
        t.r F.LANE_EQ_H1_H1 n = s.r F.LANE_EQ_H1_H1 n ∧ t.levels n = s.levels n ∧ t.held = s.held) ∧
      (4 ≤ s.r F.LANE_EQ_STAT_ACQ_STEP n → s.frozenEq n = false → s.symBlock n pa (s.rxIn n xs) ≠ [] →
        (let ys := s.symBlock n pa (s.rxIn n xs)
         let lv := s.on F.LANE_EQ_CFG_ADAPT_LVL n
         t.r F.LANE_EQ_H1_H1 n =
           (if s.on F.LANE_EQ_CFG_ADAPT_H1 n then uint 16 (s.newH1 n ys) else s.r F.LANE_EQ_H1_H1 n) ∧
         t.levels n = (if lv then (List.range 4).map (s.newLevel n ys) else s.levels n) ∧
         (∀ i, i < 48 → t.ri F.LANE_EQ_FFE_COEF (48 * n + i) =
           if lv && i == s.cursor n then 4096
           else if s.on F.LANE_EQ_CFG_ADAPT_FFE n && !s.tapHeld n i then s.newTap n (s.rxIn n xs).toArray ys i
           else s.ri F.LANE_EQ_FFE_COEF (48 * n + i)))) ∧
      (∀ m, m ≠ n.val → t.eqh m = s.eqh m) ∧
      t = { s with regs := t.regs, eq := t.eq, held := t.held, occ := t.occ } ∧
      onlyFields [F.LANE_EQ_STEPS_COUNT, F.LANE_EQ_FFE_COEF, F.LANE_EQ_FFE_LIMIT, F.LANE_EQ_H1_H1, F.LANE_EQ_H1_LIMIT,
        F.LANE_EQ_LVL_L0, F.LANE_EQ_LVL_L1, F.LANE_EQ_LVL_L2, F.LANE_EQ_LVL_L3, F.LANE_EQ_EVT_TAP_LIMIT] s t) ∧
    (s.r F.LANE_STAT_LOOPBACK n = 3 → exec (.timingUpdate n pa xs) s = .next s) ∧
    (s.r F.LANE_STAT_LOOPBACK n ≠ 3 → ∃ t, exec (.timingUpdate n pa xs) s = .next t ∧
      (let tau := s.tauMean n pa (codes xs)
       let fz := s.frzSignal n
       let held := s.on F.LANE_ADC_STAT_HOLD n
       let lol := s.on F.LANE_EQ_STAT_FRZ_LOL n
       let u := t.eqh n
       ((fz = true ∨ held = true) → u.freqI = (s.eqh n).freqI) ∧
       (fz = false → held = false → lol = false →
         u.freqI = Frac.clamp (State.fMax (s.laneMode n)) ((s.eqh n).freqI.add (tau.shr (s.ki n))) ∧
         u.phase = (s.eqh n).phase.add ((tau.shr (s.kp n)).add u.freqI).neg) ∧
       (fz = true → u.phase = (s.eqh n).phase.add u.freqI.neg) ∧
       (t.r F.LANE_TR_STAT_FREQ_LIMIT n = 1 ↔ u.freqI = State.fMax (s.laneMode n) ∨ u.freqI = (State.fMax (s.laneMode n)).neg) ∧
       (t.r F.LANE_TR_STAT_FREQ_LIMIT n = 1 → s.on F.LANE_TR_STAT_FREQ_LIMIT n = false → t.isHeld n 0x1205 = true)) ∧
      (∀ m, m ≠ n.val → t.eqh m = s.eqh m) ∧
      t = { s with regs := t.regs, eq := t.eq, held := t.held, occ := t.occ } ∧
      onlyRegs [(F.LANE_TR_STAT_FREQ, n), (F.LANE_TR_STAT_PHASE, n), (F.LANE_TR_STAT_FREQ_LIMIT, n),
        (F.LANE_EQ_EVT_FREQ_LIMIT, n)] s t)

/-- ACQ_STEP_END takes an acquisition from step to step: A1 waits for a signal, a cold one sets start values at A2, selects
the CTLE code in A3 where it is automatic, which an overload hold keeps from starting, and goes through A4 to A7; a warm one
goes 1, 2, 4, 6, 7. CTLE_TRY_END goes on to the next code of a trial, and after the last fine one takes the best.
ACQ_TIMEOUT and PAYLOAD_LOCK_TIMEOUT record the failure and its cause; NO_SIGNAL restarts uncounted, the others count, and
the count of LANE_CFG.ACQ_RETRY sends the lane to CAL (R170-R173, R233). What PAYLOAD_LOCK_TIMEOUT records and posts is log
48. exec answers a next state, under conditions on the operands and the state alone, for each of: acqStepEnd, ctleTryEnd,
acqTimeout, payloadLockTimeout. -/
def Obligations.Acquisition : Prop :=
  ∀ (n : Fin 192) (s : State), s.live = true → s.laneState n = 3 → s.fusedOdd n = false →
    (s.adcRuns n = true → ∃ t, exec (.acqStepEnd n) s = .next t ∧
      (let a := s.r F.LANE_EQ_STAT_ACQ_STEP n
       let b := t.r F.LANE_EQ_STAT_ACQ_STEP n
       let warm := s.on F.LANE_EQ_STAT_WARM n
       (a = 1 → s.sigOk n = false → t = s) ∧ (a = 1 → s.sigOk n = true → b = 2) ∧
       (a = 2 → b = if warm then 4 else if (s.adch n).ctleAuto then (if s.on F.LANE_ADC_STAT_HOLD n then 2 else 3) else 4) ∧
       (a = 2 → b = 3 → t.r F.LANE_FE_STAT_CTLE_CODE n = 0) ∧
       (a = 3 → b = if (s.eqh n).toTry = [] then 4 else 3) ∧ (a = 4 → b = if warm then 6 else 5) ∧
       (a = 5 → b = 6) ∧ (a = 6 → b = 7) ∧ (a = 7 → b = 7) ∧
       ((a = 1 ∧ s.sigOk n = true ∨ a = 2 ∧ b ≠ 2) → warm = false → s.cursor n < 48 →
         (∀ i, i < 48 → t.r F.LANE_EQ_FFE_COEF (48 * n + i) = if i = s.cursor n then 4096 else 0) ∧
         t.r F.LANE_EQ_H1_H1 n = 0 ∧ (a = 1 → t.r F.LANE_EQ_STAT_DET_MLSE n = 0)) ∧
       (a = 4 → b = 5 → t.r F.LANE_EQ_STAT_DET_MLSE n = (decide (s.r F.LANE_EQ_CFG_DET n = 2 ∨
         s.r F.LANE_EQ_CFG_DET n = 0 ∧ 16 * s.r F.LANE_EQ_CFG_MLSE_THRESH n ≤ (s.ri F.LANE_EQ_H1_H1 n).natAbs)).toNat)) ∧
      t = { s with regs := t.regs, eq := t.eq, adc := t.adc, jobs := t.jobs, held := t.held, occ := t.occ } ∧
      onlyFields [F.LANE_EQ_EVT_TAP_LIMIT, F.LANE_EQ_STAT_ACQ_STEP, F.LANE_EQ_STAT_DET_MLSE, F.LANE_FE_STAT_CTLE_CODE, F.LANE_EQ_FFE_COEF,
        F.LANE_EQ_FFE_LIMIT, F.LANE_EQ_H1_H1, F.LANE_EQ_H1_LIMIT, F.LANE_EQ_LVL_L0, F.LANE_EQ_LVL_L1, F.LANE_EQ_LVL_L2,
        F.LANE_EQ_LVL_L3] s t) ∧
    (∀ (pa : Fin 4) (xs : List (BitVec 8)) (c : Nat) (rest : List Nat), s.adcRuns n = true →
      s.r F.LANE_EQ_STAT_ACQ_STEP n = 3 → s.on F.LANE_ADC_STAT_HOLD n = false → (s.eqh n).toTry = c :: rest →
      (∀ x ∈ rest, x ≤ 36) → ∃ t, exec (.ctleTryEnd n pa xs) s = .next t ∧
        ((t.eqh n).tried.map (·.1) = (s.eqh n).tried.map (·.1) ++ [c]) ∧
        (∀ d r, rest = d :: r → t.r F.LANE_FE_STAT_CTLE_CODE n = d ∧ (t.eqh n).toTry = rest) ∧
        (rest = [] → (s.eqh n).fine = true → t.r F.LANE_FE_STAT_CTLE_CODE n = State.bestTry (t.eqh n).tried % 64 ∧
          (t.eqh n).toTry = []) ∧
        (rest = [] → (s.eqh n).fine = false → ∀ x, x ∈ (t.eqh n).toTry ↔
          x ≤ 36 ∧ (x + 2 = State.bestTry (t.eqh n).tried ∨ x + 1 = State.bestTry (t.eqh n).tried ∨
            x = State.bestTry (t.eqh n).tried + 1 ∨ x = State.bestTry (t.eqh n).tried + 2)) ∧
        t = { s with regs := t.regs, eq := t.eq, held := t.held, occ := t.occ } ∧
        onlyFields [F.LANE_EQ_EVT_TAP_LIMIT, F.LANE_FE_STAT_CTLE_CODE, F.LANE_EQ_FFE_COEF, F.LANE_EQ_FFE_LIMIT, F.LANE_EQ_H1_H1,
          F.LANE_EQ_H1_LIMIT, F.LANE_EQ_LVL_L0, F.LANE_EQ_LVL_L1, F.LANE_EQ_LVL_L2, F.LANE_EQ_LVL_L3] s t) ∧
    (1 ≤ s.r F.LANE_EQ_STAT_ACQ_STEP n → s.r F.LANE_EQ_STAT_ACQ_STEP n ≤ 7 → ∃ t, exec (.acqTimeout n) s = .next t ∧
      t.r F.LANE_EQ_STAT_ACQ_FAIL n = (if s.sigOk n = false then 1 else if (s.eqh n).freqHeld then 3
        else if (s.eqh n).misordered then 4 else 2) ∧
      t.r F.LANE_EQ_EVT_ACQ_FAIL n = 1 ∧ t.isHeld n 0x1203 = true ∧
      (s.sigOk n = false → t.laneState n = 3 ∧ t.r F.LANE_STAT_ACQ_FAILS n = s.r F.LANE_STAT_ACQ_FAILS n ∧
        t.r F.LANE_EQ_STAT_ACQ_STEP n = 1) ∧
      (s.sigOk n = true → satAdd F.LANE_STAT_ACQ_FAILS.width (s.r F.LANE_STAT_ACQ_FAILS n) 1 ≠ s.r F.LANE_CFG_ACQ_RETRY n →
        t.laneState n = 3 ∧ t.r F.LANE_EQ_STAT_ACQ_STEP n = 1 ∧ t.r F.LANE_EQ_STAT_WARM n = 0 ∧
        t.r F.LANE_STAT_ACQ_FAILS n = satAdd F.LANE_STAT_ACQ_FAILS.width (s.r F.LANE_STAT_ACQ_FAILS n) 1) ∧
      (s.sigOk n = true → satAdd F.LANE_STAT_ACQ_FAILS.width (s.r F.LANE_STAT_ACQ_FAILS n) 1 = s.r F.LANE_CFG_ACQ_RETRY n →
        t.laneState n = 1 ∧ t.r F.LANE_STAT_ACQ_FAILS n = 0 ∧ (t.calh n).want = true ∧ t.isHeld n 0x1001 = true) ∧
      sameBytes s t ∧ onlyBlocks laneBlock s t) ∧
    (s.on F.LANE_EQ_STAT_LOCKED n = true → s.payloadLocked n = false → ∃ t, exec (.payloadLockTimeout n) s = .next t ∧
      t.r F.LANE_EQ_STAT_ACQ_FAIL n = 2 ∧
      (let k := satAdd F.LANE_STAT_ACQ_FAILS.width (s.r F.LANE_STAT_ACQ_FAILS n) 1
       (k ≠ s.r F.LANE_CFG_ACQ_RETRY n → t.laneState n = 3 ∧ t.r F.LANE_EQ_STAT_ACQ_STEP n = 1 ∧
         t.r F.LANE_EQ_STAT_LOCKED n = 0 ∧ t.r F.LANE_STAT_ACQ_FAILS n = k) ∧
       (k = s.r F.LANE_CFG_ACQ_RETRY n → t.laneState n = 1 ∧ t.r F.LANE_STAT_ACQ_FAILS n = 0)) ∧
      sameBytes s t ∧ onlyBlocks laneBlock s t)

/-- EQ_WINDOW records the SNR of a lane's window, from A1 on, with or without a signal. In step A7 the 64th window in a row
that meets the lock criteria gives lock, with its event, and a window that fails them begins the count anew; in service the
eighth window in a row below the unlock threshold loses the lock, with its event, and the lane re-acquires. Without a signal
the loss is not judged (R172, R182, R165). exec answers a next state, under conditions on the operands and the state alone,
for each of: eqWindow. -/
def Obligations.EqualiserLock : Prop :=
  ∀ (n : Fin 192) (pa : Fin 4) (xs : List (BitVec 8)) (s : State), s.live = true → s.adcRuns n = true →
    s.on F.LANE_EQ_STAT_ACQ_STEP n = true → s.symBlock n pa (s.rxIn n xs) ≠ [] → ∃ t, exec (.eqWindow n pa xs) s = .next t ∧
      (let ys := s.symBlock n pa (s.rxIn n xs)
       let snr := State.snrOf (s.levels n) (sumI (ys.map fun y => y.e ^ 2)).toNat ys.length
       let lk := s.r F.LANE_EQ_LOCK_CFG_LOCK_SNR n
       let ok := lk ≤ snr ∧ State.ordered (s.levels n) = true ∧ State.spaced (s.levels n) = true ∧
         s.on F.LANE_TR_STAT_FREQ_LIMIT n = false ∧ s.sigOk n = true
       let low := snr + 16 * s.r F.LANE_EQ_LOCK_CFG_UNLOCK_MARGIN n < lk
       t.r F.LANE_EQ_SNR_SNR n = snr % 65536 ∧
       (s.on F.LANE_EQ_STAT_LOCKED n = false → s.r F.LANE_EQ_STAT_ACQ_STEP n = 7 →
         (¬ok → (t.eqh n).good = 0 ∧ t.r F.LANE_EQ_STAT_LOCKED n = 0) ∧
         (ok → (s.eqh n).good < 63 → (t.eqh n).good = (s.eqh n).good + 1 ∧ t.r F.LANE_EQ_STAT_LOCKED n = 0) ∧
         (ok → 63 ≤ (s.eqh n).good → t.r F.LANE_EQ_STAT_LOCKED n = 1 ∧ t.r F.LANE_EQ_STAT_ACQ_STEP n = 8 ∧
           t.r F.LANE_EQ_EVT_LOCKED n = 1 ∧ t.isHeld n 0x1201 = true)) ∧
       (s.on F.LANE_EQ_STAT_LOCKED n = true → s.sigOk n = true → low → 7 ≤ (s.eqh n).badSnr → s.held? n = false →
         t.r F.LANE_EQ_STAT_LOCKED n = 0 ∧ t.r F.LANE_EQ_STAT_ACQ_STEP n = 1 ∧ t.r F.LANE_EQ_EVT_LOCK_LOST n = 1 ∧
         t.laneState n = 3 ∧ t.isHeld n 0x1202 = true ∧
         t.r F.LANE_EQ_LOL_COUNT n = satAdd F.LANE_EQ_LOL_COUNT.width (s.r F.LANE_EQ_LOL_COUNT n) 1) ∧
       (s.on F.LANE_EQ_STAT_LOCKED n = true → s.sigOk n = true → ¬low → s.on F.LANE_TR_STAT_FREQ_LIMIT n = false →
         State.ordered (s.levels n) = true → t.r F.LANE_EQ_STAT_LOCKED n = s.r F.LANE_EQ_STAT_LOCKED n ∧ (t.eqh n).badSnr = 0 ∧
         t.held = s.held) ∧
       (s.on F.LANE_EQ_STAT_LOCKED n = true → s.sigOk n = false →
         t.r F.LANE_EQ_STAT_LOCKED n = s.r F.LANE_EQ_STAT_LOCKED n ∧ t.held = s.held)) ∧
      (s.r F.LANE_EQ_STAT_ACQ_STEP n < 7 → s.on F.LANE_EQ_STAT_LOCKED n = false →
        t = { s with regs := t.regs, eq := t.eq } ∧ onlyRegs [(F.LANE_EQ_SNR_SNR, n), (F.LANE_EQ_SNR_SNR_AVG, n)] s t) ∧
      t.hostMem = s.hostMem ∧ t.nvm = s.nvm ∧ t.now = s.now ∧ onlyBlocks laneBlock s t

/-- EQ_PARAM with bytes that break R180 completes with BAD_PARAM, with a group that the lane's state does not allow, or a
restart in SAFE, with NOT_ALLOWED, both without effect. Else every selected group is in its registers afterwards, and the
job ends with OK or waits, for the walks it starts or the next AGC period (R180, R181). exec answers a next state, under
conditions on the operands and the state alone, for each of: eqParam. -/
def Obligations.EqParam : Prop :=
  ∀ (q : Fin 32768) (i : Fin 65536) (s : State) (j : Job), s.started? 0x18 q i = some j → s.bistHolds j = false →
    (State.eqParamOk j = false → ∃ t, exec (.eqParam q i) s = .next t ∧ t.due q i .badParam 0 0 ∧
      t = { s with jobs := t.jobs }) ∧
    (State.eqParamOk j = true → (State.eqGrp j 7 = true ∧ s.dev = .safe) ∨ j.items.all (s.eqAllowed j) = false →
      ∃ t, exec (.eqParam q i) s = .next t ∧ t.due q i .notAllowed 0 0 ∧ t = { s with jobs := t.jobs }) ∧
    (State.eqParamOk j = true → State.eqGrp j 7 = false → j.items.all (s.eqAllowed j) = true →
      ∃ t, exec (.eqParam q i) s = .next t ∧
        (t.due q i .ok 0 0 ∨ ∃ ws, ws ≠ [] ∧ t.waits q i ws) ∧
        (∀ n ∈ j.items,
          (State.eqGrp j 0 = true → t.r F.LANE_FE_CFG_CTLE_CODE n = j.p 8 1 ∧ t.r F.LANE_FE_CFG_VGA_CODE n = j.p 9 1 ∧
            t.r F.LANE_FE_CFG_CTLE_AUTO n = (bitAt (j.p 6 1) 1).toNat ∧
            t.r F.LANE_FE_CFG_VGA_AUTO n = (bitAt (j.p 6 1) 2).toNat ∧
            t.r F.LANE_FE_CFG_INVERT n = (bitAt (j.p 6 1) 3).toNat) ∧
          (State.eqGrp j 1 = true → t.r F.LANE_AGC_CFG_PERIOD n = j.p 10 1 ∧ t.r F.LANE_AGC_CFG_TARGET_RMS n = j.p 11 1 ∧
            t.r F.LANE_SIGDET_CFG_THRESH_RMS n = j.p 12 1) ∧
          (State.eqGrp j 2 = true → t.r F.LANE_EQ_CFG_DET n = j.p 7 1 ∧ t.r F.LANE_EQ_CFG_CURSOR n = j.p 13 1 ∧
            t.r F.LANE_EQ_CFG_CURSOR_F n = j.p 14 1 ∧ t.r F.LANE_EQ_CFG_MLSE_THRESH n = j.p 15 1 ∧
            t.r F.LANE_EQ_CFG_RX_PRECODE n = (bitAt (j.p 6 1) 4).toNat) ∧
          (State.eqGrp j 3 = true → t.r F.LANE_EQ_MU_ACQ_FFE n = j.p 16 1 ∧ t.r F.LANE_EQ_MU_TRK_FFE n = j.p 17 1 ∧
            t.r F.LANE_EQ_MU_H1 n = j.p 18 1 ∧ t.r F.LANE_EQ_MU_LVL n = j.p 19 1 ∧
            t.r F.LANE_EQ_CFG_ADAPT_FFE n = (bitAt (j.p 6 1) 5).toNat ∧
            t.r F.LANE_EQ_CFG_ADAPT_H1 n = (bitAt (j.p 6 1) 6).toNat ∧
            t.r F.LANE_EQ_CFG_ADAPT_LVL n = (bitAt (j.p 6 1) 7).toNat) ∧
          (State.eqGrp j 4 = true → t.r F.LANE_TR_CFG_KP_ACQ n = j.p 20 1 ∧ t.r F.LANE_TR_CFG_KI_ACQ n = j.p 21 1 ∧
            t.r F.LANE_TR_CFG_KP_TRK n = j.p 22 1 ∧ t.r F.LANE_TR_CFG_KI_TRK n = j.p 23 1) ∧
          (State.eqGrp j 5 = true → t.r F.LANE_EQ_LOCK_CFG_LOCK_SNR n = j.p 24 2 ∧
            t.r F.LANE_EQ_LOCK_CFG_UNLOCK_MARGIN n = j.p 26 1 ∧ t.r F.LANE_EQ_LOCK_CFG_ACQ_TIMEOUT n = j.p 27 1) ∧
          (State.eqGrp j 6 = true → s.fusedOdd n = false → (t.eqh n).hostFreeze = bitAt (j.p 6 1) 0)) ∧
        onlyFields [F.LANE_FE_CFG_CTLE_CODE, F.LANE_FE_CFG_VGA_CODE, F.LANE_FE_CFG_CTLE_AUTO, F.LANE_FE_CFG_VGA_AUTO,
          F.LANE_FE_CFG_INVERT, F.LANE_AGC_CFG_PERIOD, F.LANE_AGC_CFG_TARGET_RMS, F.LANE_SIGDET_CFG_THRESH_RMS,
          F.LANE_EQ_CFG_DET, F.LANE_EQ_CFG_CURSOR, F.LANE_EQ_CFG_CURSOR_F, F.LANE_EQ_CFG_MLSE_THRESH,
          F.LANE_EQ_CFG_RX_PRECODE, F.LANE_EQ_MU_ACQ_FFE, F.LANE_EQ_MU_TRK_FFE, F.LANE_EQ_MU_H1, F.LANE_EQ_MU_LVL,
          F.LANE_EQ_CFG_ADAPT_FFE, F.LANE_EQ_CFG_ADAPT_H1, F.LANE_EQ_CFG_ADAPT_LVL, F.LANE_TR_CFG_KP_ACQ,
          F.LANE_TR_CFG_KI_ACQ, F.LANE_TR_CFG_KP_TRK, F.LANE_TR_CFG_KI_TRK, F.LANE_EQ_LOCK_CFG_LOCK_SNR,
          F.LANE_EQ_LOCK_CFG_UNLOCK_MARGIN, F.LANE_EQ_LOCK_CFG_ACQ_TIMEOUT] s t ∧
        t = { s with regs := t.regs, jobs := t.jobs, eq := t.eq, adc := t.adc }) ∧
    (∀ n, State.eqParamOk j = true → j.p 4 2 = 128 → s.dev ≠ .safe → s.eqAllowed j n = true → s.fusedOdd n = false →
      s.held? n = false → j.items = [n] → ∃ t, exec (.eqParam q i) s = .next t ∧ t.laneState n = 3 ∧
        t.r F.LANE_EQ_STAT_ACQ_STEP n = 1 ∧ t.r F.LANE_EQ_STAT_LOCKED n = 0 ∧ t.r F.LANE_EQ_STAT_WARM n = 0 ∧
        sameBytes s t ∧ onlyBlocks laneBlock s t)

/-- INNER_HUNT_TEST judges a test of 64 codewords by Z, the number with a zero syndrome: while hunting, a test below
LOCK_ZMIN moves the candidate offset on and the fourth good one in a row gives inner lock, with its event; under lock the
fourth bad one in a row loses it, with its count, its event and the hunt back at the last locked offset (R189). RS_CODEWORD
takes the next codeword of the decoded stream, found at the candidate boundary (logs 48 and 85 for the hunt); in L100 the
decided symbols come into that stream first, precoding decoded and Gray demapped (R160): three decodable ones lock, sixteen
undecodable ones lose it; under lock in MONITOR and CORRECT the counters of R201 move, CORRECT replaces a correctable one,
and while payload flows the bits go on, without outer lock unaltered, to the host lane whose turn it is; a mode that waited
for a codeword boundary comes into force (R198-R201, R244). A row that its state rules out is log 3. exec answers a next
state, under conditions on the operands and the state alone, for each of: innerHuntTest, rsCodeword. -/
def Obligations.Hunts : Prop :=
  ∀ (n : Fin 192) (s : State), s.live = true →
    (∀ (pa : RxSym) (xs : List RxSym), s.innerRuns n = true → ∃ t, exec (.innerHuntTest n pa xs) s = .next t ∧
      (let z := s.cleanCount n pa xs
       let ok := s.r F.LANE_FEC_CFG_LOCK_ZMIN n ≤ z
       let h := s.fech n
       (t.fech n).lastZ = z ∧
       (s.on F.LANE_FEC_STAT_INNER_LOCKED n = false →
         (¬ok → (t.fech n).offset = (h.offset + 1) % 288 ∧ (t.fech n).pass = 0 ∧ t = { s with fec := t.fec }) ∧
         (ok → h.pass < 3 → (t.fech n).pass = h.pass + 1 ∧ t = { s with fec := t.fec }) ∧
         (ok → 3 ≤ h.pass → t.r F.LANE_FEC_STAT_INNER_LOCKED n = 1 ∧ (t.fech n).lastOffset = h.offset ∧
           t.isHeld n 0x3001 = true)) ∧
       (s.on F.LANE_FEC_STAT_INNER_LOCKED n = true →
         (ok → (t.fech n).fail = 0 ∧ t = { s with fec := t.fec }) ∧
         (¬ok → h.fail < 3 → (t.fech n).fail = h.fail + 1 ∧ t = { s with fec := t.fec }) ∧
         (¬ok → 3 ≤ h.fail → t.r F.LANE_FEC_STAT_INNER_LOCKED n = 0 ∧ t.r F.LANE_FEC_STAT_OUTER_LOCKED n = 0 ∧
           (t.fech n).offset = h.lastOffset ∧ t.isHeld n 0x3002 = true ∧
           t.r F.LANE_FEC_LOL_INNER n = satAdd F.LANE_FEC_LOL_INNER.width (s.r F.LANE_FEC_LOL_INNER n) 1))) ∧
      (∀ m, m ≠ n.val → t.fech m = s.fech m) ∧ sameBytes s t ∧ onlyBlocks laneBlock s t) ∧
    (∀ word : Levels, s.outerRuns n = true → (s.fech n).pendMode = none →
      (let l100 := decide (s.laneMode n = 3)
       let ps := demapRun (s.on F.LANE_EQ_CFG_RX_PRECODE n) word.prev 0 0 (word.run.map fun a => { a := a, relM := 0, relL := 0 })
       let h := { s.fech n with
         stream := (s.fech n).stream ++ if l100 then ps.flatMap fun p => [p.m, p.l] else [] }
       let k := (h.cand + s.outerCands n - h.blk) % s.outerCands n * if l100 then 2 else 544
       let skip := h.stream.take k
       let bs := (h.stream.drop k).take 5440
       let dec := rsDecode (symbolsOf 544 bs)
       let md := s.r F.LANE_FEC_STAT_OUTER_MODE n
       let lk := s.on F.LANE_FEC_STAT_OUTER_LOCKED n
       let m := if (s.laneh n).nextB && decide (s.laneMode n ≤ 1) then s.r F.XBAR_MAP_B n else s.r F.XBAR_MAP_A n
       (h.stream.length < k + 5440 → ∃ t, exec (.rsCodeword n word) s = .next t ∧ t.fech n = h ∧
         (∀ m, m ≠ n.val → t.fech m = s.fech m) ∧ t = { s with fec := t.fec }) ∧
       (k + 5440 ≤ h.stream.length → ∃ t, exec (.rsCodeword n word) s = .next t ∧
         (t.fech n).stream = h.stream.drop (k + 5440) ∧
         (lk = false → dec = none → (t.fech n).cand = (h.cand + 1) % s.outerCands n ∧ (t.fech n).oPass = 0 ∧
           t = { s with fec := t.fec, host := t.host, lane := t.lane, tx := t.tx }) ∧
         (lk = false → dec ≠ none → h.oPass < 2 → (t.fech n).oPass = h.oPass + 1 ∧
           t = { s with fec := t.fec, host := t.host, lane := t.lane, tx := t.tx }) ∧
         (lk = false → dec ≠ none → 2 ≤ h.oPass → t.r F.LANE_FEC_STAT_OUTER_LOCKED n = 1 ∧ t.isHeld n 0x3003 = true) ∧
         (lk = true → md = 0 → t.r F.LANE_FEC_RS_CW_COUNT n = s.r F.LANE_FEC_RS_CW_COUNT n ∧
           t.r F.LANE_FEC_RS_UNCORR_COUNT n = s.r F.LANE_FEC_RS_UNCORR_COUNT n) ∧
         (lk = true → md ≠ 0 → t.r F.LANE_FEC_RS_CW_COUNT n =
           satAdd F.LANE_FEC_RS_CW_COUNT.width (s.r F.LANE_FEC_RS_CW_COUNT n) 1) ∧
         (lk = true → md ≠ 0 → ∀ v c, dec = some (v, c) →
           t.r F.LANE_FEC_RS_SYM_COUNT n = satAdd F.LANE_FEC_RS_SYM_COUNT.width (s.r F.LANE_FEC_RS_SYM_COUNT n) c ∧
           t.r F.LANE_FEC_RS_HIST_COUNT (17 * n + c) =
             satAdd F.LANE_FEC_RS_HIST_COUNT.width (s.r F.LANE_FEC_RS_HIST_COUNT (17 * n + c)) 1) ∧
         (lk = true → md ≠ 0 → dec = none → t.r F.LANE_FEC_EVT_RS_UNCORR n = 1 ∧ t.isHeld n 0x3005 = true ∧
           t.r F.LANE_FEC_RS_UNCORR_COUNT n =
             satAdd F.LANE_FEC_RS_UNCORR_COUNT.width (s.r F.LANE_FEC_RS_UNCORR_COUNT n) 1) ∧
         (lk = true → dec ≠ none → (t.fech n).oFail = 0 ∧
           t.r F.LANE_FEC_STAT_OUTER_LOCKED n = s.r F.LANE_FEC_STAT_OUTER_LOCKED n) ∧
         (lk = true → dec = none → 15 ≤ h.oFail → t.r F.LANE_FEC_STAT_OUTER_LOCKED n = 0 ∧
           t.r F.LANE_FEC_LOL_OUTER n = satAdd F.LANE_FEC_LOL_OUTER.width (s.r F.LANE_FEC_LOL_OUTER n) 1 ∧
           t.isHeld n 0x3004 = true) ∧
         (s.on F.LANE_STAT_PAYLOAD n = true → s.r F.LANE_STAT_LOOPBACK n ≠ 1 → s.on F.HSL_CFG_PRBS_GEN m = false →
           (lk = false → (t.hosth m).sent = skip ++ bs) ∧
           (lk = true → (md ≠ 2 ∨ dec = none) → (t.hosth m).sent = bs) ∧
           (lk = true → md = 2 → ∀ v c, dec = some (v, c) → (t.hosth m).sent = bitsOfSymbols v)) ∧
         (s.on F.LANE_STAT_PAYLOAD n = false ∨ s.on F.HSL_CFG_PRBS_GEN m = true → t.host = s.host) ∧
         (s.r F.LANE_STAT_LOOPBACK n = 2 → lk = false → (t.txh n).buf = (s.txh n).buf ++ (skip ++ bs)) ∧
         (s.r F.LANE_STAT_LOOPBACK n ≠ 2 → t.tx = s.tx) ∧
         sameBytes s t ∧ t.jobs = s.jobs ∧ onlyBlocks laneBlock s t))) ∧
    (∀ (word : Levels) (m : Nat), s.outerRuns n = true → (s.fech n).pendMode = some m → m ≤ 2 →
      (if s.laneMode n = 3 then 5440 + 2719 * 2 ≤ (s.fech n).stream.length + 2 * word.run.length
        else 5440 + 9 * 544 ≤ (s.fech n).stream.length) →
      ∃ t, exec (.rsCodeword n word) s = .next t ∧ t.r F.LANE_FEC_STAT_OUTER_MODE n = m ∧
        t.awaited (.fecMode n) = false ∧ sameBytes s t ∧ onlyBlocks laneBlock s t)

/-- POOL_EPOCH decides an epoch of a die's decoder pool: every request is granted full effort, reduced effort or none, the
grants keep within 7,680 codewords and 15,360 units of which a full one takes four, a demand that fits is granted in full,
the epoch waits for its delivery, and SOFT_EN and the reservations as configured come into force. DECODE_DELIVER moves the
counters of the oldest epoch and its bits go on. POOL_WINDOW takes the level of the window into LEVEL, with its event where
the level rises, and the 64th quiet window ends an episode (R194-R197, R201, R204-R206). exec answers a next state, under
conditions on the operands and the state alone, for each of: poolEpoch, decodeDeliver, poolWindow. -/
def Obligations.DecoderPool : Prop :=
  ∀ (d : Fin 2) (s : State), s.live = true →
    (∀ ins : List EpochIn, (ins.map fun x => (s.poolh d).res.get x.lane 0).foldl (· + ·) 0 ≤ 3840 →
      ∃ t e, exec (.poolEpoch d ins) s = .next t ∧ (t.poolh d).due = (s.poolh d).due ++ [e] ∧
        e.lanes.map (·.lane) = ins.map (·.lane.val) ∧ e.full + e.reduced + e.starved = e.demand ∧
        e.full + e.reduced ≤ 7680 ∧ 4 * e.full + e.reduced ≤ 15360 ∧ (4 * e.demand ≤ 15360 → e.full = e.demand) ∧
        (∀ l, l < 96 → (t.poolh d).res.get l 0 = s.r F.LANE_POOL_CFG_RES (96 * d + l) ∧
          (s.softTakes (96 * d + l) = true → t.r F.LANE_FEC_STAT_SOFT_EN (96 * d + l) =
            s.r F.LANE_FEC_CFG_SOFT_EN (96 * d + l) % 2) ∧
          (s.softTakes (96 * d + l) = false → t.r F.LANE_FEC_STAT_SOFT_EN (96 * d + l) =
            s.r F.LANE_FEC_STAT_SOFT_EN (96 * d + l))) ∧
        t.awaited (.poolEpoch d) = false ∧
        t = { s with regs := t.regs, fec := t.fec, pool := t.pool, jobs := t.jobs } ∧
        onlyFields [F.POOL_STAT_PTR, F.LANE_FEC_STAT_SOFT_EN] s t) ∧
    (∀ e rest, (s.poolh d).due = e :: rest → (e.lanes.map (·.lane)).Nodup → ∃ t, exec (.decodeDeliver d) s = .next t ∧
      (t.poolh d).due = rest ∧
      (∀ a ∈ e.lanes, t.r F.LANE_FEC_CW_COUNT (96 * d + a.lane) =
          satAdd F.LANE_FEC_CW_COUNT.width (s.r F.LANE_FEC_CW_COUNT (96 * d + a.lane)) a.cw ∧
        t.r F.LANE_FEC_UNCORR_COUNT (96 * d + a.lane) =
          satAdd F.LANE_FEC_UNCORR_COUNT.width (s.r F.LANE_FEC_UNCORR_COUNT (96 * d + a.lane)) a.uncorr ∧
        (s.on F.LANE_FEC_STAT_INNER_LOCKED (96 * d + a.lane) = true →
          (t.fech (96 * d + a.lane)).stream = (s.fech (96 * d + a.lane)).stream ++ a.info)) ∧
      t.r F.POOL_DEMAND_COUNT d = satAdd F.POOL_DEMAND_COUNT.width (s.r F.POOL_DEMAND_COUNT d) e.demand ∧
      t.r F.POOL_FULL_COUNT d = satAdd F.POOL_FULL_COUNT.width (s.r F.POOL_FULL_COUNT d) e.full ∧
      t.r F.POOL_REDUCED_COUNT d = satAdd F.POOL_REDUCED_COUNT.width (s.r F.POOL_REDUCED_COUNT d) e.reduced ∧
      t.r F.POOL_STARVED_COUNT d = satAdd F.POOL_STARVED_COUNT.width (s.r F.POOL_STARVED_COUNT d) e.starved ∧
      t.r F.POOL_HARD_EPOCHS_COUNT d = satAdd F.POOL_HARD_EPOCHS_COUNT.width (s.r F.POOL_HARD_EPOCHS_COUNT d)
        (if 0 < e.starved then 1 else 0) ∧
      t.r F.POOL_RED_EPOCHS_COUNT d = satAdd F.POOL_RED_EPOCHS_COUNT.width (s.r F.POOL_RED_EPOCHS_COUNT d)
        (if e.starved = 0 ∧ 0 < e.reduced then 1 else 0) ∧
      t = { s with regs := t.regs, pool := t.pool, fec := t.fec } ∧
      onlyFields [F.LANE_FEC_CW_COUNT, F.LANE_FEC_CLEAN_COUNT, F.LANE_FEC_FULL_COUNT, F.LANE_FEC_REDUCED_COUNT,
        F.LANE_FEC_HARD_COUNT, F.LANE_FEC_UNCORR_COUNT, F.LANE_FEC_BITS_COUNT, F.LANE_FEC_RESERVED_COUNT,
        F.POOL_DEMAND_COUNT, F.POOL_FULL_COUNT, F.POOL_REDUCED_COUNT, F.POOL_STARVED_COUNT, F.POOL_RED_EPOCHS_COUNT,
        F.POOL_HARD_EPOCHS_COUNT, F.POOL_PEAK_PEAK] s t) ∧
    ((s.poolh d).level ≤ 2 → ∃ t, exec (.poolWindow d) s = .next t ∧
      (let h := s.poolh d
       t.r F.POOL_STAT_LEVEL d = h.level ∧ (t.poolh d).level = 0 ∧
       (s.r F.POOL_STAT_LEVEL d < h.level → (h.level = 1 → t.r F.POOL_EVT_REDUCED d = 1 ∧ t.isHeld (600 + d) 0x3101 = true) ∧
         (h.level = 2 → t.r F.POOL_EVT_HARD d = 1 ∧ t.isHeld (600 + d) 0x3102 = true)) ∧
       (0 < h.level → (t.poolh d).episodeAt ≠ none ∧ (t.poolh d).quiet = 0) ∧
       (h.level = 0 → h.episodeAt ≠ none → 63 ≤ h.quiet → (t.poolh d).episodeAt = none ∧ t.isHeld (600 + d) 0x3103 = true) ∧
       (h.level = 0 → h.episodeAt ≠ none → h.quiet < 63 → (t.poolh d).quiet = h.quiet + 1 ∧ t.held = s.held)) ∧
      t = { s with regs := t.regs, pool := t.pool, held := t.held, occ := t.occ } ∧
      onlyRegs [(F.POOL_STAT_LEVEL, d), (F.POOL_EVT_REDUCED, d), (F.POOL_EVT_HARD, d)] s t)

/-- FEC_CONFIG with bytes that break R204 completes with BAD_PARAM, a change into or out of CORRECT in service with
NOT_ALLOWED; else the selected fields of every named lane are in its registers. A new outer mode is in force at once without
outer lock and waited for with it, SOFT_EN comes with the next epoch, for which the job waits, and in DRAIN both are only
stored. POOL_CONFIG sets the reservation of every named lane and waits for the next epoch of their dies; a die whose
reservations would sum to more than 3,840 makes it EXHAUSTED, without effect (R194, R200, R204, R205). exec answers a next
state, under conditions on the operands and the state alone, for each of: fecConfig, poolConfig. -/
def Obligations.FecCommands : Prop :=
  ∀ (q : Fin 32768) (i : Fin 65536) (s : State) (j : Job), s.bistHolds j = false →
    (s.started? 0x1C q i = some j → State.fecConfigOk j = false → ∃ t, exec (.fecConfig q i) s = .next t ∧
      t.due q i .badParam 0 0 ∧ t = { s with jobs := t.jobs }) ∧
    (s.started? 0x1C q i = some j → State.fecConfigOk j = true → j.items.all (s.fecAllowed j) = false →
      ∃ t, exec (.fecConfig q i) s = .next t ∧ t.due q i .notAllowed 0 0 ∧ t = { s with jobs := t.jobs }) ∧
    (s.started? 0x1C q i = some j → State.fecConfigOk j = true → j.items.all (s.fecAllowed j) = true →
      ∃ t, exec (.fecConfig q i) s = .next t ∧
        (∀ n ∈ j.items,
          t.r F.LANE_FEC_CFG_OUTER_MODE n = (if bitAt (j.p 4 1) 0 then j.p 5 1 else s.r F.LANE_FEC_CFG_OUTER_MODE n) ∧
          t.r F.LANE_FEC_CFG_SOFT_EN n = (if bitAt (j.p 4 1) 1 then j.p 6 1 else s.r F.LANE_FEC_CFG_SOFT_EN n) ∧
          t.r F.LANE_FEC_CFG_LOCK_ZMIN n = (if bitAt (j.p 4 1) 2 then j.p 7 1 else s.r F.LANE_FEC_CFG_LOCK_ZMIN n) ∧
          (bitAt (j.p 4 1) 0 = true → s.fusedOdd n = false → s.laneState n ≠ 6 →
            (s.on F.LANE_FEC_STAT_OUTER_LOCKED n = false → t.r F.LANE_FEC_STAT_OUTER_MODE n = j.p 5 1) ∧
            (s.on F.LANE_FEC_STAT_OUTER_LOCKED n = true → (t.fech n).pendMode = some (j.p 5 1) ∧
              t.r F.LANE_FEC_STAT_OUTER_MODE n = s.r F.LANE_FEC_STAT_OUTER_MODE n)) ∧
          (s.fusedOdd n = true ∨ s.laneState n = 6 ∨ bitAt (j.p 4 1) 0 = false →
            t.r F.LANE_FEC_STAT_OUTER_MODE n = s.r F.LANE_FEC_STAT_OUTER_MODE n)) ∧
        (∀ n, j.items = [n] → s.fusedOdd n = false → (s.fech n).pendMode = none →
          (let ws := (if bitAt (j.p 4 1) 0 && s.on F.LANE_FEC_STAT_OUTER_LOCKED n && s.laneState n != 6
              then [Wait.fecMode n] else []) ++ (if bitAt (j.p 4 1) 1 && s.softTakes n then [Wait.poolEpoch (n / 96)] else [])
           (ws = [] → t.due q i .ok 0 0) ∧ (ws ≠ [] → t.waits q i ws))) ∧
        t = { s with regs := t.regs, fec := t.fec, jobs := t.jobs } ∧
        onlyFields [F.LANE_FEC_CFG_OUTER_MODE, F.LANE_FEC_STAT_OUTER_MODE, F.LANE_FEC_CFG_SOFT_EN,
          F.LANE_FEC_CFG_LOCK_ZMIN] s t) ∧
    (s.started? 0x1D q i = some j →
      (j.spanOk 192 = true ∧ j.p 4 1 ≤ 100 ∧ j.pz 5 27 = true →
        (let u := s.each j.items fun s n => s.w F.LANE_POOL_CFG_RES n (j.p 4 1)
         (u.resSum 0 ≤ 3840 → u.resSum 1 ≤ 3840 → ∃ t, exec (.poolConfig q i) s = .next t ∧
           t.waits q i ((whichBelow 2 fun d => j.items.any fun n => n / 96 == d).map Wait.poolEpoch) ∧
           (∀ m ∈ j.items, t.r F.LANE_POOL_CFG_RES m = j.p 4 1) ∧ t = { s with regs := t.regs, jobs := t.jobs } ∧
           onlyRegs (j.items.map fun m => (F.LANE_POOL_CFG_RES, m)) s t) ∧
         ((3840 < u.resSum 0 ∨ 3840 < u.resSum 1) → ∃ t, exec (.poolConfig q i) s = .next t ∧ t.due q i .exhausted 0 0 ∧
           t = { s with jobs := t.jobs }))) ∧
      (¬(j.spanOk 192 = true ∧ j.p 4 1 ≤ 100 ∧ j.pz 5 27 = true) → ∃ t, exec (.poolConfig q i) s = .next t ∧
        t.due q i .badParam 0 0 ∧ t = { s with jobs := t.jobs }))

/-- FOREGROUND_PASS_START gives the lowest waiting lane of a die its pass when its places are free: the isolation switch
opens, CTLE code 0, VGA code 72. FG_DONE, once the residual activity is measured, counts every attempt that disagreed,
closes the switch and restores the front end; after a noisy pass with a disagreement the lane is in CAL_WAIT with
CAL_REJECTED for its commands, and any other is a pass: counted, the lane in ACQUIRE, the commands told. CAL_WAIT_RETRY asks
for a new pass in RUN (R120, R126-R130); that a noisy retry ends as a noisy pass does is log 77. exec answers a next state,
under conditions on the operands and the state alone, for each of: foregroundPassStart, fgDone, calWaitRetry. -/
def Obligations.ForegroundPasses : Prop :=
  ∀ s : State, s.live = true →
    (∀ (d : Fin 2) (n : Nat), n < 192 → n / 96 = d → s.fgWaits n = true → (∀ k, k < n → k / 96 = d → s.fgWaits k = false) →
      (24 < s.placesUsed d + (s.members n).length → exec (.foregroundPassStart d) s = .next s) ∧
      (s.placesUsed d + (s.members n).length ≤ 24 → ∃ t, exec (.foregroundPassStart d) s = .next t ∧
        t.calh n = { s.calh n with want := false, running := true, fgAt := s.now, actSq := 0, actN := 0, measured := false } ∧
        (t.adch n).pass = true ∧ t.r F.LANE_FE_STAT_ISO_OPEN n = 1 ∧
        t.r F.LANE_FE_STAT_CTLE_CODE n = 0 ∧ t.r F.LANE_FE_STAT_VGA_CODE n = 72 ∧
        (∀ m, m ≠ n → t.calh m = s.calh m ∧ t.adch m = s.adch m) ∧
        t = { s with regs := t.regs, cal := t.cal, adc := t.adc } ∧
        onlyRegs [(F.LANE_FE_STAT_ISO_OPEN, n), (F.LANE_FE_STAT_CTLE_CODE, n), (F.LANE_FE_STAT_VGA_CODE, n)] s t)) ∧
    (∀ (n : Fin 192) (rx tx : List Meas), (s.calh n).running = true → (s.calh n).measured = true → s.lead n = n →
      s.laneState n = 1 ∨ s.laneState n = 2 →
      (let bad := ((rx ++ tx).filter (s.measures n true false false)).any fun x => (State.measDisagree x).2
       let iso := (decide (s.r F.LANE_STAT_LOOPBACK n = 4)).toNat
       (s.on F.LANE_CAL_STAT_NOISY n = false ∨ bad = false → s.held? n = false →
         ∃ t, exec (.fgDone n rx tx) s = .next t ∧
         t.laneState n = 3 ∧ (t.calh n).running = false ∧ t.r F.LANE_FE_STAT_ISO_OPEN n = iso ∧
         (t.adch n).pass = false ∧ t.r F.LANE_EQ_STAT_ACQ_STEP n = 1 ∧
         t.r F.LANE_CAL_COUNT_COUNT n = satAdd F.LANE_CAL_COUNT_COUNT.width (s.r F.LANE_CAL_COUNT_COUNT n) 1 ∧
         t.isHeld n 0x2001 = true ∧ t.awaited (.foreground n) = false ∧ sameBytes s t ∧ onlyBlocks laneBlock s t) ∧
       (s.on F.LANE_CAL_STAT_NOISY n = true → bad = true → s.on F.LANE_CAL_CFG_ACCEPT_STORED n = false →
         ∃ t, exec (.fgDone n rx tx) s = .next t ∧ t.laneState n = 2 ∧ (t.calh n).running = false ∧
         t.r F.LANE_FE_STAT_ISO_OPEN n = iso ∧ (t.adch n).pass = false ∧ t.r F.LANE_CAL_EVT_CAL_WAIT n = 1 ∧
         t.r F.LANE_CAL_COUNT_COUNT n = s.r F.LANE_CAL_COUNT_COUNT n ∧ t.isHeld n 0x2002 = true ∧
         (s.laneState n = 1 → t.r F.LANE_CAL_ACT_WAIT_RETRIES n = 0) ∧
         (s.laneState n = 2 → t.r F.LANE_CAL_ACT_WAIT_RETRIES n =
           satAdd F.LANE_CAL_ACT_WAIT_RETRIES.width (s.r F.LANE_CAL_ACT_WAIT_RETRIES n) 1) ∧
         t.awaited (.foreground n) = false ∧ sameBytes s t ∧ onlyBlocks laneBlock s t))) ∧
    (∀ n : Fin 192, s.laneState n = 2 → s.fusedOdd n = false → s.dev = .run → (s.calh n).running = false →
      ∃ t, exec (.calWaitRetry n) s = .next t ∧ t.calh n = { s.calh n with want := true } ∧
        (∀ m, m ≠ n.val → t.calh m = s.calh m) ∧ t = { s with cal := t.cal })

/-- CARDING_SLOT ends a slot that was open, with its count and what it measured, and opens the next; the sixteenth slot of a
full pass completes it. LANE_TEMP_REPORT schedules a full pass when the zone lies 4 · TEMP_STEP or more from the last pass.
CAL_RUN starts or schedules what its mode asks and waits for it; CAL_POLICY writes the selected fields (R132-R135, R146,
R147). exec answers a next state, under conditions on the operands and the state alone, for each of: cardingSlot,
laneTempReport, calRun, calPolicy. -/
def Obligations.CardingAndPolicy : Prop :=
  (∀ (n : Fin 192) (ms : List Meas) (s : State), s.live = true → s.lead n = n → s.cardRuns n = true →
    ∃ t, exec (.cardingSlot n ms) s = .next t ∧ (t.calh n).slotOpen = true ∧
      ((s.calh n).slotOpen = true → t.r F.LANE_CAL_CARD_SLOTS n =
        satAdd F.LANE_CAL_CARD_SLOTS.width (s.r F.LANE_CAL_CARD_SLOTS n) 1) ∧
      ((s.calh n).slotOpen = false → t.r F.LANE_CAL_CARD_SLOTS n = s.r F.LANE_CAL_CARD_SLOTS n ∧ t.held = s.held) ∧
      ((s.calh n).slotOpen = true → (s.calh n).pending = false → ∀ k, (s.calh n).full = some k →
        (k < 15 → (t.calh n).full = some (k + 1)) ∧
        (15 ≤ k → (t.calh n).full = none ∧ t.isHeld n 0x2007 = true ∧ t.awaited (.fullPass n) = false)) ∧
      sameBytes s t ∧ onlyBlocks laneBlock s t) ∧
  (∀ (n : Fin 192) (s : State), s.live = true → s.serviced = true → s.fusedOdd n = false →
    (let due := s.tracking n = true ∧ (s.calh n).full = none ∧ (s.calh n).pending = false ∧
       4 * s.r F.LANE_CAL_CFG_TEMP_STEP n ≤ (sint 16 (s.laneTemp n) - s.ri F.LANE_CAL_TEMP_TEMP n).natAbs
     (due → ∃ t, exec (.laneTempReport n) s = .next t ∧ (t.calh n).pending = true ∧ t.isHeld n 0x2008 = true ∧
       t = { s with cal := t.cal, held := t.held, occ := t.occ }) ∧
     (¬due → ∃ t, exec (.laneTempReport n) s = .next t ∧ t = s))) ∧
  (∀ (q : Fin 32768) (i : Fin 65536) (s : State) (j : Job), s.started? 0x20 q i = some j → s.bistHolds j = false →
    (let ok := j.spanOk 192 = true ∧ j.p 4 1 ≤ 2 ∧ j.p 5 1 ≤ 1 ∧ j.pz 6 26 = true
     let ns := s.leads j.items
     let may := (j.p 4 1 ≠ 0 ∨ s.dev ≠ .safe) ∧ j.items.all (s.calAllowed j) = true
     (¬ok → ∃ t, exec (.calRun q i) s = .next t ∧ t.due q i .badParam 0 0 ∧ t = { s with jobs := t.jobs }) ∧
     (ok → ¬may → ∃ t, exec (.calRun q i) s = .next t ∧ t.due q i .notAllowed 0 0 ∧ t = { s with jobs := t.jobs }) ∧
     (ok → may → ∃ t, exec (.calRun q i) s = .next t ∧
       t.waits q i (ns.map (State.calWait j)) ∧ sameBytes s t ∧ onlyBlocks laneBlock s t ∧
       (j.p 4 1 = 0 → ∀ n ∈ ns,
         (s.laneState n = 1 → t.laneState n = 1 ∧ t.calh n = s.calh n) ∧
         (s.laneState n = 2 → t.laneState n = 2 ∧ ((t.calh n).want = true ∨ (t.calh n).running = true)) ∧
         (3 ≤ s.laneState n → t.laneState n = 1 ∧ (t.calh n).want = true ∧ t.isHeld n 0x1001 = true)) ∧
       (j.p 4 1 = 0 → (∀ n ∈ ns, s.laneState n ≤ 2) → t = { s with cal := t.cal, jobs := t.jobs }) ∧
       (j.p 4 1 = 1 → (∀ n ∈ ns, (t.calh n).pending = true ∨ (t.calh n).full ≠ none) ∧
         t = { s with cal := t.cal, jobs := t.jobs }) ∧
       (j.p 4 1 = 2 → (∀ n ∈ ns, (t.calh n).cells ≠ none) ∧ t = { s with cal := t.cal, jobs := t.jobs })))) ∧
  (∀ (q : Fin 32768) (i : Fin 65536) (s : State) (j : Job), s.started? 0x21 q i = some j → s.bistHolds j = false →
    (State.calPolicyOk j = false → ∃ t, exec (.calPolicy q i) s = .next t ∧ t.due q i .badParam 0 0 ∧
      t = { s with jobs := t.jobs }) ∧
    (State.calPolicyOk j = true → ∃ t, exec (.calPolicy q i) s = .next t ∧ t.due q i .ok 0 0 ∧
      (∀ n ∈ j.items,
        t.r F.LANE_CAL_CFG_RAMP_US n = (if bitAt (j.p 4 1) 0 then j.p 6 2 else s.r F.LANE_CAL_CFG_RAMP_US n) ∧
        t.r F.LANE_CAL_CFG_TEMP_STEP n = (if bitAt (j.p 4 1) 1 then j.p 8 1 else s.r F.LANE_CAL_CFG_TEMP_STEP n) ∧
        t.r F.LANE_CAL_CFG_CARD_EN n =
          (if bitAt (j.p 4 1) 2 then (bitAt (j.p 5 1) 0).toNat else s.r F.LANE_CAL_CFG_CARD_EN n) ∧
        t.r F.LANE_CAL_CFG_ACCEPT_STORED n =
          (if bitAt (j.p 4 1) 2 then (bitAt (j.p 5 1) 1).toNat else s.r F.LANE_CAL_CFG_ACCEPT_STORED n) ∧
        t.r F.LANE_CAL_ACT_CFG_ACT_THRESH n =
          (if bitAt (j.p 4 1) 3 then j.p 10 2 else s.r F.LANE_CAL_ACT_CFG_ACT_THRESH n)) ∧
      t = { s with regs := t.regs, jobs := t.jobs } ∧
      onlyRegs (j.items.flatMap fun n => [(F.LANE_CAL_CFG_RAMP_US, n), (F.LANE_CAL_CFG_TEMP_STEP, n),
        (F.LANE_CAL_CFG_CARD_EN, n), (F.LANE_CAL_CFG_ACCEPT_STORED, n), (F.LANE_CAL_ACT_CFG_ACT_THRESH, n)]) s t))

/-- CAL_COMMIT queues an explicit commit and waits for it; SCHEDULED_COMMIT queues one of its own when its conditions hold.
NVM_COMMIT_START in RUN or SAFE gives the port to the waiting commit that has it next, explicit before scheduled: beyond the
rate limit it ends EXHAUSTED, outside the temperatures it is deferred, else its program is counted in the log and the target
is erased or programmed. NVM_COMMIT_RESUME takes a waiting commit up again where the device state allows it, but ends one
past its deadline with THERMAL_INHIBIT, as NVM_COMMIT_TIMEOUT does; one whose target is erased already goes on to its
program (log 103) (R43, R86, R142-R144, R148). That a program counts when it starts is log 52; a row that its state rules
out is log 3. exec answers a next state, under conditions on the operands and the state alone, for each of: calCommit,
scheduledCommit, nvmCommitStart, nvmCommitResume, nvmCommitTimeout. -/
def Obligations.Commits : Prop :=
  (∀ (q : Fin 32768) (i : Fin 65536) (s : State) (j : Job), s.started? 0x22 q i = some j → s.bistHolds j = false →
    (j.pz 0 32 = true → ∃ t, exec (.calCommit q i) s = .next t ∧ t.waits q i [.commit] ∧
      t.nvm.queue = s.nvm.queue ++ [({ explicit := true, ring := q, idx := i } : Commit)] ∧
      t = { s with jobs := t.jobs, nvm := { s.nvm with queue := t.nvm.queue } }) ∧
    (j.pz 0 32 = false → ∃ t, exec (.calCommit q i) s = .next t ∧ t.due q i .badParam 0 0 ∧
      t = { s with jobs := t.jobs })) ∧
  (∀ s : State, s.live = true →
    (s.scheduledReady = true → ∃ t, exec .scheduledCommit s = .next t ∧
      t = { s with nvm := { s.nvm with queue := s.nvm.queue ++ [{ explicit := false }] } }) ∧
    (s.scheduledReady = false → exec .scheduledCommit s = .next s) ∧
    (s.dev = .setup ∨ s.bistRunning = true → exec .nvmCommitStart s = .next s) ∧
    (∀ c d : Commit, c ∈ s.nvm.queue → c.explicit = true → s.nextCommit = some d → d.explicit = true) ∧
    (∀ c : Commit, s.dev = .run ∨ s.dev = .safe → s.bistRunning = false → s.nvm.running = none → s.nextCommit = some c →
      (s.rateRefuses c.explicit = true → ∃ t, exec .nvmCommitStart s = .next t ∧ t.nvm.running = none ∧
        t.nvm.queue = s.nvm.queue.erase c ∧ t.r F.CAL_NVM_STAT_COMMIT_BUSY = 0 ∧ t.r F.CAL_EVT_COMMIT_FAIL = 1 ∧
        t.isHeld 758 0x2013 = true ∧
        (c.explicit = true → ∀ j, s.job? c.ring c.idx = some j → t.due c.ring c.idx .exhausted 0 0) ∧
        t = { s with regs := t.regs, nvm := t.nvm, jobs := t.jobs, held := t.held, occ := t.occ }) ∧
      (s.rateRefuses c.explicit = false → s.nvmTempBad = true → ∃ t r, exec .nvmCommitStart s = .next t ∧
        t.nvm.running = some r ∧ r.commit = c ∧ r.phase = .waitTemp ∧ t.r F.CAL_NVM_STAT_COMMIT_BUSY = 1 ∧
        t.r F.CAL_NVM_STAT_DEFERRED = 1 ∧ t.isHeld 758 0x2012 = true ∧
        t = { s with regs := t.regs, nvm := t.nvm, held := t.held, occ := t.occ }) ∧
      (s.rateRefuses c.explicit = false → s.nvmTempBad = false → s.activeValid = true ∨ s.nvm.logDirty 1 = false →
        s.nvm.nextSlot s.logBank < logSlots → ∃ t r, exec .nvmCommitStart s = .next t ∧
          t.nvm.running = some r ∧ r.commit = c ∧ r.target = s.targetBank ∧ r.programs = 1 ∧
          (r.phase = .programming ∨ r.phase = .erasing) ∧ t.r F.CAL_NVM_STAT_COMMIT_BUSY = 1 ∧
          t.r F.CAL_NVM_STAT_DEFERRED = 0 ∧
          t.nvm.slot s.logBank (s.nvm.nextSlot s.logBank) =
            leBytes 4 s.poweredS ++ [s.targetBank + 2 * c.explicit.toNat, 0, 0, 0x5A] ∧
          t = { s with regs := t.regs, nvm := t.nvm } ∧
          t.r F.CAL_NVM_CYC_CYCLES s.targetBank =
            satAdd F.CAL_NVM_CYC_CYCLES.width (s.r F.CAL_NVM_CYC_CYCLES s.targetBank) 1 ∧
          onlyRegs [(F.CAL_NVM_STAT_COMMIT_BUSY, 0), (F.CAL_NVM_STAT_DEFERRED, 0), (F.CAL_NVM_CYC_CYCLES, s.targetBank)] s t)) ∧
    (∀ r : Running, s.nvm.running = some r → r.phase = .held → s.nvmTempBad = false →
      s.dev = .run ∨ (s.dev = .safe ∧ r.commit.explicit = true) → ∃ t, exec .nvmCommitResume s = .next t ∧
        t = { s with nvm := { s.nvm with running := some { r with phase := .programming } } }) ∧
    (∀ r : Running, s.nvm.running = some r → r.phase = .waitTemp →
      (s.nvmTempBad = true ∨ s.dev = .setup ∨ (r.commit.explicit = false ∧ s.dev ≠ .run) →
        exec .nvmCommitResume s = .next s) ∧
      (s.nvmTempBad = false → s.dev = .run ∨ (s.dev = .safe ∧ r.commit.explicit = true) →
        s.rateRefuses r.commit.explicit = false → r.deadline ≤ s.now → ∃ t, exec .nvmCommitResume s = .next t ∧
          t.nvm = { s.nvm with running := none } ∧ t.r F.CAL_EVT_COMMIT_FAIL = 1 ∧ t.r F.CAL_EVT_INHIBIT = 1 ∧
          t.isHeld 758 0x2013 = true ∧ t = { s with regs := t.regs, nvm := t.nvm, jobs := t.jobs, held := t.held, occ := t.occ } ∧
          onlyRegs [(F.CAL_NVM_STAT_COMMIT_BUSY, 0), (F.CAL_NVM_STAT_DEFERRED, 0), (F.CAL_EVT_COMMIT_FAIL, 0),
            (F.CAL_EVT_INHIBIT, 0)] s t) ∧
      (s.nvmTempBad = false → s.dev = .run ∨ (s.dev = .safe ∧ r.commit.explicit = true) →
        s.rateRefuses r.commit.explicit = false → s.now < r.deadline → s.activeValid = true ∨ s.nvm.logDirty 1 = false →
        s.nvm.nextSlot s.logBank < logSlots → ∃ t u, exec .nvmCommitResume s = .next t ∧ t.nvm.running = some u ∧
          u.commit = r.commit ∧ (u.phase = .programming ∨ u.phase = .erasing) ∧ u.programs = r.programs + 1 ∧
          t.r F.CAL_NVM_STAT_DEFERRED = 0 ∧ t = { s with regs := t.regs, nvm := t.nvm } ∧
          onlyRegs [(F.CAL_NVM_STAT_DEFERRED, 0), (F.CAL_NVM_CYC_CYCLES, s.targetBank)] s t) ∧
      (∃ t, exec .nvmCommitTimeout s = .next t ∧ t.nvm.running = none ∧ t.r F.CAL_NVM_STAT_COMMIT_BUSY = 0 ∧
        t.r F.CAL_NVM_STAT_DEFERRED = 0 ∧ t.r F.CAL_EVT_COMMIT_FAIL = 1 ∧ t.r F.CAL_EVT_INHIBIT = 1 ∧
        t.isHeld 758 0x2013 = true ∧
        (r.commit.explicit = true → ∀ j, s.job? r.commit.ring r.commit.idx = some j →
          t.due r.commit.ring r.commit.idx .thermalInhibit 0 0) ∧
        t = { s with regs := t.regs, nvm := { s.nvm with running := none }, jobs := t.jobs, held := t.held, occ := t.occ } ∧
        onlyRegs [(F.CAL_NVM_STAT_COMMIT_BUSY, 0), (F.CAL_NVM_STAT_DEFERRED, 0), (F.CAL_EVT_COMMIT_FAIL, 0),
          (F.CAL_EVT_INHIBIT, 0)] s t)))

/-- NVM_PROGRAM_DONE verifies the target bank against the staged record: equal, the bank is active, with its sequence number
and event, and the commit ends; unequal for the second time, the bank is bad and the commit ends INTERNAL. NVM_ERASE_DONE
leaves the erased bank blank; the commit's program follows, or waits where the device state holds it (log 103).
NVM_RECORD_LOAD takes the newer valid record at BOOT, or reports an empty memory. CAL_RESTORE brings the stored coefficients
of OFF lanes back, each element's as a set at its boundary, which is now where its chain does not run (R105, R142, R145,
R149, R151). exec answers a next state, under conditions on the operands and the state alone, for each of: nvmProgramDone,
nvmEraseDone, nvmRecordLoad, calRestore. -/
def Obligations.NvmArray : Prop :=
  (∀ s : State, s.live = true →
    (∀ (r : Running) (bad : List (Nat × BitVec 8)), s.nvm.running = some r → r.phase = .programming →
      (let m := bad.foldl (fun m b => NvmH.write m (r.target * bankBytes + b.1 % recordLen) [b.2.toNat])
         (s.nvm.write (r.target * bankBytes) r.staging)
       (m.read (r.target * bankBytes) recordLen = r.staging → r.target < 2 → ∃ t, exec (.nvmProgramDone bad) s = .next t ∧
         t.nvm.bytes = m.bytes ∧ t.nvm.running = none ∧ t.r F.CAL_NVM_STAT_ACTIVE_BANK = r.target ∧
         t.r F.CAL_NVM_STAT_ACTIVE_VALID = 1 ∧ t.r F.CAL_NVM_STAT_COMMIT_BUSY = 0 ∧ t.isHeld 758 0x2011 = true ∧
         (r.commit.explicit = true → ∀ j, s.job? r.commit.ring r.commit.idx = some j →
           t.due r.commit.ring r.commit.idx .ok (t.r F.CAL_NVM_SEQ_SEQ) 0) ∧
         t = { s with regs := t.regs, nvm := t.nvm, jobs := t.jobs, held := t.held, occ := t.occ }) ∧
       (m.read (r.target * bankBytes) recordLen ≠ r.staging → 1 ≤ r.fails → ∃ t, exec (.nvmProgramDone bad) s = .next t ∧
         t.nvm.bytes = m.bytes ∧ t.nvm.running = none ∧ t.r F.CAL_EVT_BANK_BAD = 1 ∧ t.r F.CAL_EVT_COMMIT_FAIL = 1 ∧
         t.isHeld 758 0x2016 = true ∧ t.isHeld 758 0x2013 = true ∧
         t.r F.CAL_NVM_STAT_ACTIVE_BANK = s.r F.CAL_NVM_STAT_ACTIVE_BANK ∧
         t.r F.CAL_NVM_STAT_ACTIVE_VALID = s.r F.CAL_NVM_STAT_ACTIVE_VALID ∧
         t = { s with regs := t.regs, nvm := t.nvm, jobs := t.jobs, held := t.held, occ := t.occ }))) ∧
    (∀ r : Running, s.nvm.running = some r → r.phase = .erasing → ∃ t, exec .nvmEraseDone s = .next t ∧
      t.nvm.isBlank r.target = true ∧ (∀ a, a / bankBytes ≠ r.target → t.nvm.byte a = s.nvm.byte a) ∧
      (∃ u, t.nvm.running = some u ∧ u.commit = r.commit ∧
        u.phase = if s.dev = .run ∨ (s.dev = .safe ∧ r.commit.explicit = true) then .programming else .held) ∧
      t = { s with regs := t.regs, nvm := t.nvm } ∧
      onlyRegs [(F.CAL_NVM_STAT_ERASE_PENDING, 0), (F.CAL_NVM_STAT_OTHER, 0)] s t) ∧
    (s.nvm.running = none → s.nvm.eraseNow = true → s.nvmTempBad = false → ∃ t, exec .nvmEraseDone s = .next t ∧
      t.nvm.isBlank (1 - s.activeBank) = true ∧ (∀ a, a / bankBytes ≠ 1 - s.activeBank → t.nvm.byte a = s.nvm.byte a) ∧
      t.nvm.eraseNow = false ∧ t.r F.CAL_NVM_STAT_ERASE_PENDING = 0 ∧ t.r F.CAL_NVM_STAT_OTHER = 0 ∧
      t = { s with regs := t.regs, nvm := t.nvm } ∧
      onlyRegs [(F.CAL_NVM_STAT_ERASE_PENDING, 0), (F.CAL_NVM_STAT_OTHER, 0)] s t)) ∧
  (∀ s : State, s.dev = .boot → s.nvm.loaded = false →
    (s.nvm.valid 0 = false → s.nvm.valid 1 = false → ∃ t, exec .nvmRecordLoad s = .next t ∧
      t.r F.CAL_NVM_STAT_EMPTY = 1 ∧ t.r F.CAL_EVT_NVM_EMPTY = 1 ∧ t.nvm.loaded = true ∧ t.isHeld 758 0x2015 = true ∧
      (∀ n, n < 192 → t.r F.LANE_CAL_COUNT_COUNT n = 0) ∧ t.nvm.bytes = s.nvm.bytes ∧ sameBytes s t) ∧
    (∀ b, b < 2 → s.nvm.valid b = true → (s.nvm.valid (1 - b) = true →
        leVal (s.nvm.read ((1 - b) * bankBytes + 0xC) 4) < leVal (s.nvm.read (b * bankBytes + 0xC) 4)) →
      ∃ t, exec .nvmRecordLoad s = .next t ∧
        t.r F.CAL_NVM_STAT_ACTIVE_BANK = b ∧ t.r F.CAL_NVM_STAT_ACTIVE_VALID = 1 ∧ t.nvm.loaded = true ∧
        t.isHeld 758 0x2014 = true ∧
        (∀ n, n < 192 → t.r F.LANE_CAL_COUNT_COUNT n =
          leAt (s.nvm.read (b * bankBytes + 0x100 + n * 0xA00) 0xA00) 4 4) ∧
        t.nvm.bytes = s.nvm.bytes ∧ sameBytes s t)) ∧
  (∀ (q : Fin 32768) (i : Fin 65536) (s : State) (j : Job), s.started? 0x23 q i = some j → s.bistHolds j = false →
    (let ok := j.spanOk 192 = true ∧ j.pz 4 28 = true
     let calibrating := ∃ n ∈ j.items, s.laneState n = 1 ∨ s.laneState n = 2
     let stored := s.activeValid = true ∧ ∀ n ∈ j.items, bitAt (leAt (s.activeSection n) 2 1) 0 = true
     (¬ok → ∃ t, exec (.calRestore q i) s = .next t ∧ t.due q i .badParam 0 0 ∧ t = { s with jobs := t.jobs }) ∧
     (ok → calibrating → ∃ t, exec (.calRestore q i) s = .next t ∧ t.due q i .notAllowed 0 0 ∧
       t = { s with jobs := t.jobs }) ∧
     (ok → ¬calibrating → ¬stored → ∃ t, exec (.calRestore q i) s = .next t ∧ t.due q i .calRejected 0 0 ∧
       t = { s with jobs := t.jobs }) ∧
     (ok → ¬calibrating → stored → (∀ n ∈ j.items, s.laneState n = 0 ∧ s.rampsOf n = []) →
       ∃ t, exec (.calRestore q i) s = .next t ∧ t.due q i .ok 0 0 ∧
       (∀ n ∈ j.items, (t.calh n).targets = (s.calh n).targets.filter (fun x => 108 ≤ x.1) ∧ ∀ e, e < 108 →
         (81 ≤ e ∨ (s.r F.LANE_CAL_SS_COMP_RET (State.elemIdx n e) = 0 ∧ s.r F.LANE_CAL_SS_CAP (State.elemIdx n e) = 0) →
           (s.atBoundary n e = true → t.elemVals n e = State.elemStored (s.activeSection n) e) ∧
           (s.atBoundary n e = false → ∃ d ∈ (t.calh n).due, d.1 = e ∧ d.2.1 = State.elemStored (s.activeSection n) e)) ∧
         (e < 81 → t.r F.LANE_CAL_SS_COMP_RET (State.elemIdx n e) = s.r F.LANE_CAL_SS_COMP_RET (State.elemIdx n e) ∧
           t.r F.LANE_CAL_SS_RETIRED (State.elemIdx n e) = s.r F.LANE_CAL_SS_RETIRED (State.elemIdx n e))) ∧
       t = { s with regs := t.regs, jobs := t.jobs, cal := t.cal } ∧ onlyBlocks laneBlock s t)))

/-- SLOT_FLT_N_CHANGE notes the pin's level. SLOT_FAULT takes a judged low pulse as a fault of the slot: its filtered bit,
its count and its event, every lane of the slot marked and squelched, and those in ACQUIRE, TRACK or DEGRADED held in
ACQUIRE before A1. SLOT_FAULT_CLEAR, once the pin is high, undoes the marks and starts the held lanes on a cold acquisition
(R222, R239). The filter and the level at reset are log 69. exec answers a next state, under conditions on the operands and
the state alone, for each of: slotFltNChange, slotFault, slotFaultClear. -/
def Obligations.SlotFaults : Prop :=
  ∀ (k : Fin 24) (s : State),
    (∀ high, ∃ t, exec (.slotFltNChange k high) s = .next t ∧ (t.sloth k).low = !high ∧
      (t.sloth k).pulse = ((s.sloth k).pulse || (!high && !(s.sloth k).low)) ∧ t = { s with slots := t.slots }) ∧
    (s.powered = true → s.frozen = false → (s.sloth k).pulse = true → s.slotFaulted k = true →
      ∃ t, exec (.slotFault k) s = .next t ∧ (t.sloth k).pulse = false ∧ t = { s with slots := t.slots }) ∧
    (s.powered = true → s.frozen = false → (s.sloth k).pulse = true → s.slotFaulted k = false →
      ∃ t, exec (.slotFault k) s = .next t ∧ t.slotFaulted k = true ∧ bitAt (t.r F.SLOT_EVT_FLT) k = true ∧
        (∀ m : Nat, m < 24 → m ≠ k.val → t.slotFaulted m = s.slotFaulted m) ∧
        t.r F.SLOT_FLT_CNT_COUNT k = satAdd F.SLOT_FLT_CNT_COUNT.width (s.r F.SLOT_FLT_CNT_COUNT k) 1 ∧
        t.isHeld (576 + k) 0x1401 = true ∧
        (∀ n : Nat, n / 8 = k.val → t.r F.LANE_STAT_SLOT_FAULT n = 1 ∧ t.r F.LANE_EVT_SLOT_FAULT n = 1 ∧
          t.r F.LANE_TX_STAT_SQ_SLOT n = 1 ∧ t.r F.LANE_TX_STAT_SQUELCHED n = 1 ∧
          (s.fusedOdd n = false → s.laneState n = 3 ∨ s.laneState n = 4 ∨ s.laneState n = 5 →
            t.laneState n = 3 ∧ t.r F.LANE_EQ_STAT_ACQ_STEP n = 0 ∧ t.r F.LANE_EQ_STAT_LOCKED n = 0) ∧
          (s.fusedOdd n = false → s.laneState n < 3 ∨ s.laneState n = 6 → t.laneState n = s.laneState n)) ∧
        sameBytes s t ∧ t.nvm = s.nvm ∧ t.jobs = s.jobs) ∧
    (s.powered = true → s.frozen = false → s.slotFaulted k = true → (s.sloth k).low = false →
      ∃ t, exec (.slotFaultClear k) s = .next t ∧ t.slotFaulted k = false ∧
        (∀ m : Nat, m < 24 → m ≠ k.val → t.slotFaulted m = s.slotFaulted m) ∧ t.isHeld (576 + k) 0x1402 = true ∧
        (∀ n : Nat, n / 8 = k.val → t.r F.LANE_STAT_SLOT_FAULT n = 0 ∧ t.r F.LANE_TX_STAT_SQ_SLOT n = 0 ∧
          t.laneState n = s.laneState n ∧
          (s.fusedOdd n = false → s.laneState n = 3 → t.r F.LANE_EQ_STAT_ACQ_STEP n = 1 ∧ t.r F.LANE_EQ_STAT_WARM n = 0)) ∧
        sameBytes s t ∧ t.nvm = s.nvm)

/-- CAPTURE_ARM: BAD_PARAM, NOT_ALLOWED and EXHAUSTED without effect; else the batt is ARMED with its lane, type, class and
pages, and a reserved one holds its rate from the budget. CAPTURE_ABORT ends an armed or written batt with cause 3 and frees
it where it is asked to. CAPTURE_READ of a DONE batt copies the image from an offset on; CAPTURE_READ_DONE puts those bytes,
and no others, into host memory once the link is its, until which the copy waits (R43, R267, R303, R308, R313-R315). exec
answers a next state, under conditions on the operands and the state alone, for each of: captureArm, captureAbort,
captureRead, captureReadDone. -/
def Obligations.CaptureCommands : Prop :=
  (∀ (q : Fin 32768) (i : Fin 65536) (s : State) (j : Job), s.bistHolds j = false →
    (s.started? 0x30 q i = some j →
      (let b := j.p 0 1
       let pages := battPages (j.p 4 1) (j.p 8 4) (j.p 12 4)
       let armed (t : State) (r0 : Nat) : Prop := t.due q i .ok r0 pages ∧ t.battState b = 1 ∧ t.battLane b = j.p 2 2 ∧
         t.battType b = j.p 4 1 ∧ t.r F.CAP_BATT_STAT_CLASS b = j.p 1 1 ∧ t.r F.CAP_BATT_STAT_PAGES b = pages ∧
         t.r F.CAP_STAT_FREE_PAGES + pages = s.r F.CAP_STAT_FREE_PAGES ∧
         (t.batt b).pre = j.p 8 4 ∧ (t.batt b).post = j.p 12 4 ∧ (t.batt b).trig = j.p 6 1 ∧ (t.batt b).recs = [] ∧
         (∀ c, c ≠ b → t.batt c = s.batt c) ∧
         t = { s with regs := t.regs, cap := { s.cap with batts := t.cap.batts }, jobs := t.jobs } ∧
         onlyRegs [(F.CAP_STAT_FREE_PAGES, 0), (F.CAP_RES_RATE_RATE, 0), (F.CAP_BATT_STAT_STATE, b),
           (F.CAP_BATT_STAT_CLASS, b), (F.CAP_BATT_STAT_LOG2_D, b), (F.CAP_BATT_STAT_PAGES, b), (F.CAP_BATT_INFO_TYPE, b),
           (F.CAP_BATT_INFO_MODE, b), (F.CAP_BATT_INFO_LANE, b), (F.CAP_BATT_INFO_ARM_RING, b)] s t
       (State.armOk j = false → ∃ t, exec (.captureArm q i) s = .next t ∧ t.due q i .badParam 0 0 ∧
         t = { s with jobs := t.jobs }) ∧
       (State.armOk j = true → s.armAllowed j = false → ∃ t, exec (.captureArm q i) s = .next t ∧ t.due q i .notAllowed 0 0 ∧
         t = { s with jobs := t.jobs }) ∧
       (State.armOk j = true → s.armAllowed j = true → s.r F.CAP_STAT_FREE_PAGES < 2 ^ 14 →
         (s.r F.CAP_STAT_FREE_PAGES < pages ∨ (j.p 1 1 = 0 ∧ s.admission j = none) → ∃ t, exec (.captureArm q i) s = .next t ∧
           t.due q i .exhausted 0 0 ∧ t = { s with jobs := t.jobs }) ∧
         (pages ≤ s.r F.CAP_STAT_FREE_PAGES → j.p 1 1 = 1 → ∃ t, exec (.captureArm q i) s = .next t ∧ armed t 0 ∧
           t.resRate = s.resRate) ∧
         (pages ≤ s.r F.CAP_STAT_FREE_PAGES → j.p 1 1 = 0 → ∀ k, s.admission j = some k → s.budget < 2 ^ 32 →
           (let rate := rateAt (j.p 4 1) (s.laneMode (j.p 2 2)) k
            ∃ t, exec (.captureArm q i) s = .next t ∧ armed t (k + rate * 2 ^ 32) ∧
              t.resRate = s.resRate + rate ∧ t.resRate ≤ s.budget ∧ t.r F.CAP_BATT_STAT_LOG2_D b = k))))) ∧
    (s.started? 0x31 q i = some j →
      (let b := j.p 0 1
       let ok := j.p 1 1 ≤ 1 ∧ j.pz 2 30 = true
       (¬ok → ∃ t, exec (.captureAbort q i) s = .next t ∧ t.due q i .badParam 0 0 ∧ t = { s with jobs := t.jobs }) ∧
       (ok → s.battState b = 0 ∨ s.battState b = 4 → ∃ t, exec (.captureAbort q i) s = .next t ∧
         t.due q i .notAllowed 0 0 ∧ t = { s with jobs := t.jobs }) ∧
       (ok → s.battState b = 1 ∨ s.battState b = 2 → j.p 1 1 = 0 → ∃ t, exec (.captureAbort q i) s = .next t ∧
         t.due q i .ok 0 0 ∧ t.battState b = 3 ∧ t.r F.CAP_BATT_STAT_END_CAUSE b = 3 ∧ t.isHeld capSrc 0x4002 = true ∧
         t = { s with regs := t.regs, cap := t.cap, held := t.held, occ := t.occ, jobs := t.jobs } ∧
         onlyRegs [(F.CAP_RES_RATE_RATE, 0), (F.CAP_OPP_RATE_RATE, 0), (F.CAP_BATT_STAT_STATE, b),
           (F.CAP_BATT_STAT_END_CAUSE, b)] s t) ∧
       (ok → s.battState b = 3 → j.p 1 1 = 1 → s.battReads b = false → ∃ t, exec (.captureAbort q i) s = .next t ∧
         t.due q i .ok 0 0 ∧ t.battState b = 0 ∧ t.batt b = {} ∧
         t = { s with regs := t.regs, cap := t.cap, jobs := t.jobs }) ∧
       (ok → s.battState b = 3 → j.p 1 1 = 1 → s.battReads b = true → ∃ t, exec (.captureAbort q i) s = .next t ∧
         t.waits q i [.battFree b] ∧ t.battState b = 4 ∧ t.r F.CAP_BATT_STAT_END_CAUSE b = 0 ∧
         t = { s with regs := t.regs, jobs := t.jobs } ∧
         onlyRegs [(F.CAP_BATT_STAT_STATE, b), (F.CAP_BATT_STAT_END_CAUSE, b)] s t))) ∧
    (s.started? 0x32 q i = some j →
      (let b := j.p 0 1
       let ok := j.pz 1 7 = true ∧ j.pz 24 8 = true ∧ 1 ≤ j.p 16 8 ∧ j.p 16 8 ≤ j.len1
       (ok → s.battState b ≠ 3 → ∃ t, exec (.captureRead q i) s = .next t ∧ t.due q i .notAllowed 0 0 ∧
         t = { s with jobs := t.jobs }) ∧
       (¬ok ∨ (s.battState b = 3 ∧ s.imageSize b ≤ j.p 8 8) → ∃ t, exec (.captureRead q i) s = .next t ∧
         t.due q i .badParam 0 0 ∧ t = { s with jobs := t.jobs }) ∧
       (ok → s.battState b = 3 → j.p 8 8 < s.imageSize b → ∃ t, exec (.captureRead q i) s = .next t ∧
         t.waits q i [.capRead q i] ∧
         t.cap.reads = s.cap.reads ++
           [{ ring := q, idx := i, batt := b, offset := j.p 8 8, count := min (j.p 16 8) (s.imageSize b - j.p 8 8),
              addr := j.addr1, lost := j.lost }] ∧
         t = { s with jobs := t.jobs, cap := { s.cap with reads := t.cap.reads } })))) ∧
  (∀ (k : Fin 4096) (s : State) (r : CapRead), s.live = true → s.bistTests 1 = false →
    s.cap.reads[k.val]? = some r → r.lost = false →
    (s.canIssue = false → exec (.captureReadDone k) s = .next s) ∧
    (s.canIssue = true → s.outTurn r.ring r.idx = false → ∃ t, exec (.captureReadDone k) s = .next t ∧
      t = { s with cap := { s.cap with reads := s.cap.reads.set k { r with ready := true } } }) ∧
    (s.canIssue = true → s.outTurn r.ring r.idx = true → ∃ t, exec (.captureReadDone k) s = .next t ∧ t.cap.reads = s.cap.reads.eraseIdx k ∧
      t.hostMem = s.hostMem.writeBytes r.addr (((s.battImage r.batt).drop r.offset).take r.count) ∧
      onlyBytes r.addr r.count s t ∧ t.awaited (.capRead r.ring r.idx) = false ∧
      (s.battState r.batt = 3 → t.regs = s.regs) ∧
      t.arb = s.arb.set 3 (r.ring + 1) 0 ∧
      t = { s with regs := t.regs, cap := t.cap, jobs := t.jobs, hostMem := t.hostMem, arb := t.arb }))

/-- TRIGGER_TICK starts the writing of the one batt whose trigger occurred, with CAPTURE_TRIGGERED: a reserved one at once,
an opportunistic one at the first decimation whose rate is free, or it is missed with its count and event.
CAPTURE_UNIT_WRITE records the newest unit of a writing batt's tap, with its converter's samples, or loses it with its
counts and event when the FIFO is full, fixes T with the first unit where it is open (log 35), and the last position,
counted cyclically, ends the batt COMPLETE; an armed batt without PRE holds its units back without record or loss; a unit
that is no batt's changes nothing. CAPTURE_TIMEOUT ends an armed batt. A third hot reading of DRAM_TEMP_READ halves nothing
but the budget to 900,000 MB/s, a third cool one restores it (R113, R114, R304-R307, R309-R312). exec answers a next state,
under conditions on the operands and the state alone, for each of: triggerTick, captureUnitWrite, captureTimeout,
dramTempRead. -/
def Obligations.CaptureStore : Prop :=
  ∀ s : State, s.live = true →
    (∀ b tm : Nat, b < 256 →
      (State.allBatts.filterMap fun c => (s.trigger? 256 c).map fun t => (c, t)) = [(b, tm)] →
      s.battState b = 1 → (2 ≤ (s.batt b).trig ∨ s.tapOffers (s.battLane b) (s.battType b) = true) →
      (s.battOpp b = false → (s.batt b).recs = [] → ∃ t, exec .triggerTick s = .next t ∧ t.battState b = 2 ∧
        t.r F.CAP_BATT_STAT_TRIGGERED b = 1 ∧ t.r F.CAP_BATT_INFO_TRIG_TIME b = tm % 2 ^ 64 ∧
        t.occ.map (fun o => (o.1, o.2.1)) = [(capSrc, 0x4001)] ∧ t.isHeld capSrc 0x4001 = true ∧
        t = { s with regs := t.regs, cap := t.cap, held := t.held, occ := t.occ } ∧
        onlyRegs [(F.CAP_BATT_STAT_STATE, b), (F.CAP_BATT_STAT_TRIGGERED, b), (F.CAP_BATT_INFO_TRIG_TIME, b)] s t) ∧
      (s.battOpp b = true → s.budget < 2 ^ 32 →
        (let free := s.budget - s.resRate - s.oppRate
         let mode := s.laneMode (s.battLane b)
         (∀ k, fitFrom (s.battType b) mode free (s.batt b).maxD 0 = some k → k < 8 →
           ∃ t, exec .triggerTick s = .next t ∧ t.battState b = 2 ∧ t.r F.CAP_BATT_STAT_TRIGGERED b = 1 ∧
             t.r F.CAP_BATT_STAT_LOG2_D b = k ∧ t.oppRate = s.oppRate + rateAt (s.battType b) mode k ∧
             t.isHeld capSrc 0x4001 = true ∧ t = { s with regs := t.regs, cap := t.cap, held := t.held, occ := t.occ }) ∧
         (fitFrom (s.battType b) mode free (s.batt b).maxD 0 = none → ∃ t, exec .triggerTick s = .next t ∧
           t.battState b = 3 ∧ t.r F.CAP_BATT_STAT_END_CAUSE b = 4 ∧ t.r F.CAP_EVT_MISSED = 1 ∧
           t.r F.CAP_MISSED_COUNT = satAdd F.CAP_MISSED_COUNT.width (s.r F.CAP_MISSED_COUNT) 1 ∧
           t.isHeld capSrc 0x4003 = true ∧
           t = { s with regs := t.regs, cap := t.cap, occ := t.occ, held := t.held })))) ∧
    (∀ (b : Fin 256) (pa : Fin 4) (bef own after : List (BitVec 8)) (full : Bool),
      s.unitRec b pa (s.rxIn (s.battLane b) (bef ++ own ++ after)) = none → exec (.captureUnitWrite b pa bef own after full) s = .next s) ∧
    (∀ (b : Fin 256) (pa : Fin 4) (bef own after : List (BitVec 8)) (full : Bool) (r : Rec),
      s.unitRec b pa (s.rxIn (s.battLane b) (bef ++ own ++ after)) = some r →
      (∀ u us, (s.adch (s.battLane b)).units = u :: us → s.battType b ≤ 2 → r.time = u.seen.time ∧ r.unit = u.no % 2 ^ 48 ∧
        r.data = (if s.battType b = 2 then u.raw else u.out) ∧
        r.flags = u.clip.toNat + 2 * u.seen.hold.toNat + 4 * u.mapchg.toNat + 8 * u.iso.toNat) ∧
      (s.unitFor b r.unit = false → exec (.captureUnitWrite b pa bef own after full) s = .next s) ∧
      (s.unitFor b r.unit = true → s.battState b = 1 → (s.batt b).pre = 0 → ∃ t,
        exec (.captureUnitWrite b pa bef own after full) s = .next t ∧
        (t.batt b).recs = (s.batt b).recs ++ [{ r with lost := full }] ∧ (∀ c, c ≠ b.val → t.batt c = s.batt c) ∧
        t = { s with cap := t.cap }) ∧
      (s.unitFor b r.unit = true → s.battState b = 2 → s.battOpp b = true ∨ s.resRate ≤ s.budget →
        (∀ x, (s.batt b).unit = some x → State.unitDiff (s.battType b) x r.unit ≤ s.postSpan b) →
        s.r F.CAP_BATT_INFO_RECORDS b < 2 ^ 30 →
        ∃ t, exec (.captureUnitWrite b pa bef own after full) s = .next t ∧
        (full = false → (s.batt b).unit ≠ none → s.on F.CAP_BATT_STAT_TRIGGERED b = true →
          (t.batt b).recs = (s.batt b).recs ++ [r] ∧ t.r F.CAP_BATT_INFO_LOST b = s.r F.CAP_BATT_INFO_LOST b) ∧
        (full = true → (s.batt b).unit ≠ none ∨ (s.batt b).recs = [] →
          t.r F.CAP_BATT_INFO_LOST b = satAdd F.CAP_BATT_INFO_LOST.width (s.r F.CAP_BATT_INFO_LOST b) 1 ∧
          t.r F.CAP_LOST_COUNT = satAdd F.CAP_LOST_COUNT.width (s.r F.CAP_LOST_COUNT) 1 ∧ t.r F.CAP_EVT_GAP = 1 ∧
          t.isHeld capSrc 0x4004 = true) ∧
        ((s.batt b).unit = none → t.r F.CAP_BATT_INFO_TRIG_UNIT b = r.unit % 2 ^ 48 ∧ (t.batt b).unit = some r.unit) ∧
        (∀ x, (s.batt b).unit = some x → State.unitDiff (s.battType b) x r.unit = s.postSpan b →
          t.battState b = 3 ∧ t.r F.CAP_BATT_STAT_END_CAUSE b = 1 ∧ t.isHeld capSrc 0x4002 = true) ∧
        (∀ x, (s.batt b).unit = some x → State.unitDiff (s.battType b) x r.unit < s.postSpan b →
          t.battState b = 2) ∧
        t = { s with regs := t.regs, cap := t.cap, held := t.held, occ := t.occ })) ∧
    (∀ b : Fin 256, s.battState b = 1 → (s.batt b).timeout ≠ 0 → ∃ t, exec (.captureTimeout b) s = .next t ∧
      t.battState b = 3 ∧ t.r F.CAP_BATT_STAT_END_CAUSE b = 2 ∧ t.isHeld capSrc 0x4002 = true ∧
      t = { s with regs := t.regs, cap := t.cap, held := t.held, occ := t.occ } ∧
      onlyRegs [(F.CAP_RES_RATE_RATE, 0), (F.CAP_OPP_RATE_RATE, 0), (F.CAP_BATT_STAT_STATE, b),
        (F.CAP_BATT_STAT_END_CAUSE, b)] s t) ∧
    (∀ temp : BitVec 16, ∃ t, exec (.dramTempRead temp) s = .next t ∧ t.r F.CAP_DRAM_TEMP_TEMP = temp.toNat ∧
      (let x := sint 16 temp.toNat
       (1360 ≤ x → 2 ≤ s.cap.hot → s.on F.CAP_STAT_EXT_REFRESH = false → t.r F.CAP_STAT_EXT_REFRESH = 1 ∧
         t.budget = 900000 ∧ t.r F.CAP_EVT_EXT_REFRESH = 1 ∧ t.isHeld capSrc 0x4005 = true) ∧
       (x < 1312 → 2 ≤ s.cap.cool → s.on F.CAP_STAT_EXT_REFRESH = true → t.r F.CAP_STAT_EXT_REFRESH = 0 ∧
         t.budget = 1000000 ∧ t.isHeld capSrc 0x4006 = true) ∧
       (1312 ≤ x → x < 1360 → t.cap.hot = 0 ∧ t.cap.cool = 0 ∧ t.held = s.held ∧
         onlyRegs [(F.CAP_DRAM_TEMP_TEMP, 0)] s t)) ∧
      t = { s with regs := t.regs, cap := t.cap, held := t.held, occ := t.occ })

/-- PLANK_COMPRESS and PLANK_DECOMPRESS with bytes that keep their rules wait for an engine, or end INTERNAL with none in
service; any end counts the job. PLANK_JOB_START gives the first waiting job of the round robin the lowest free engine.
PLANK_JOB_END, once host memory may be reached and the link is its, until which the job waits, writes the frames, or the
bytes the frames hold, to buffer 1 and counts them; what does not fit ends OUT_FULL, bad data ends DATA_ERROR, and no byte
outside buffer 1 changes. PLANK_ENGINE_FAULT takes the engine out of service, with its job INTERNAL (R43, R267, R317,
R321-R325, R327). exec answers a next state, under conditions on the operands and the state alone, for each of:
plankCompress, plankDecompress, plankJobStart, plankJobEnd, plankEngineFault. -/
def Obligations.Plank : Prop :=
  (∀ (q : Fin 32768) (i : Fin 65536) (s : State) (j : Job), s.bistHolds j = false →
    (let queued (t : State) : Prop := t.waits q i [.plank] ∧
       t.plank.waiting = s.plank.waiting ++ [({ job := j, lost := j.lost } : PlankJob)] ∧
       t = { s with jobs := t.jobs, plank := { s.plank with waiting := t.plank.waiting } }
     let ended (st : Status) (t : State) : Prop := t.due q i st 0 0 ∧
       t.r F.PLK_JOBS_COUNT = satAdd F.PLK_JOBS_COUNT.width (s.r F.PLK_JOBS_COUNT) 1 ∧
       t = { s with jobs := t.jobs, regs := t.regs } ∧ onlyRegs [(F.PLK_JOBS_COUNT, 0)] s t
     (s.started? 0x38 q i = some j →
       (let b := j.p 6 1
        let batt := j.p 0 1 = 1
        let fits := s.battState b = 3 ∧ j.p 8 8 + j.p 16 8 ≤ s.imageSize b
        (State.compressOk j = false ∨ (batt ∧ s.battState b = 3 ∧ ¬fits) → ∃ t, exec (.plankCompress q i) s = .next t ∧
          ended .badParam t) ∧
        (State.compressOk j = true → batt → s.battState b ≠ 3 → ∃ t, exec (.plankCompress q i) s = .next t ∧
          ended .notAllowed t) ∧
        (State.compressOk j = true → (j.p 0 1 = 0 ∨ fits) →
          (s.engineLeft = true → ∃ t, exec (.plankCompress q i) s = .next t ∧ queued t) ∧
          (s.engineLeft = false → ∃ t, exec (.plankCompress q i) s = .next t ∧ ended .internal t)))) ∧
     (s.started? 0x39 q i = some j →
       (State.decompressOk j = false → ∃ t, exec (.plankDecompress q i) s = .next t ∧
         ended .badParam t) ∧
       (State.decompressOk j = true → s.engineLeft = true → ∃ t, exec (.plankDecompress q i) s = .next t ∧ queued t) ∧
       (State.decompressOk j = true → s.engineLeft = false → ∃ t, exec (.plankDecompress q i) s = .next t ∧ ended .internal t)))) ∧
  (∀ s : State, s.live = true →
    (∀ x xs e, s.plank.waiting = x :: xs → s.freeEngine = some e → s.bistTests 1 = false →
      ∃ t, exec .plankJobStart s = .next t ∧
        (let p := xs.foldl s.plankFirst x
         t.engineJob e = some p ∧ t.plank.waiting = s.plank.waiting.erase p ∧ t.r F.PLK_ENG_STAT_BUSY e = 1 ∧
         t.r F.PLK_ENG_STAT_DECOMP e = byteAt p.job.desc 0 % 2 ∧ t.plank.ptr = p.job.ring + 1) ∧
        t = { s with regs := t.regs, plank := t.plank } ∧
        onlyRegs [(F.PLK_ENG_STAT_BUSY, e), (F.PLK_ENG_STAT_DECOMP, e), (F.PLK_ENG_STAT_RING, e)] s t) ∧
    (∀ (e : Fin 8) (p : PlankJob) (j : Job), s.engineJob e = some p → p.lost = false →
      s.job? p.job.ring p.job.idx = some j →
      (s.canIssue = false → exec (.plankJobEnd e) s = .next s) ∧
      (s.canIssue = true → s.outTurn p.job.ring p.job.idx = false → ∃ t, exec (.plankJobEnd e) s = .next t ∧
        t = { s with plank := { s.plank with engines := s.plank.engines.set e [{ p with ready := true }] [] } }) ∧
      (s.canIssue = true → s.outTurn p.job.ring p.job.idx = true →
      ∃ t, exec (.plankJobEnd e) s = .next t ∧ t.engineJob e = none ∧ t.r F.PLK_ENG_STAT_BUSY e = 0 ∧
        t.plank.waiting = s.plank.waiting ∧ onlyBytes p.job.addr1 p.job.len1 s t ∧
        t = { s with regs := t.regs, plank := t.plank, hostMem := t.hostMem, jobs := t.jobs, fresh := t.fresh,
                     cap := t.cap, arb := t.arb } ∧
        (let bs := s.plankInput p.job
         let done (st : Status) (r0 r1 : Nat) : Prop := ∃ k, t.job? p.job.ring p.job.idx = some k ∧ k.phase = .due ∧
           k.status = st ∧ k.r0 = r0 ∧ k.r1 = r1
         t.r F.PLK_JOBS_COUNT = satAdd F.PLK_JOBS_COUNT.width (s.r F.PLK_JOBS_COUNT) 1 ∧
         (byteAt p.job.desc 0 = 0x38 →
           (let f := framesFrom p.job (bs.length / 65536 + 1) 0 bs
            (f.2.length ≤ p.job.len1 → t.hostMem = s.hostMem.writeBytes p.job.addr1 f.2 ∧
              done .ok f.2.length (f.1 + crc32 bs * 2 ^ 32) ∧
              t.r F.PLK_IN_COUNT = satAdd F.PLK_IN_COUNT.width (s.r F.PLK_IN_COUNT) bs.length ∧
              t.r F.PLK_OUT_COUNT = satAdd F.PLK_OUT_COUNT.width (s.r F.PLK_OUT_COUNT) f.2.length) ∧
            (p.job.len1 < f.2.length → done .outFull 0 0 ∧
              t.r F.PLK_OUT_FULL_COUNT = satAdd F.PLK_OUT_FULL_COUNT.width (s.r F.PLK_OUT_FULL_COUNT) 1))) ∧
         (byteAt p.job.desc 0 ≠ 0x38 →
           (let u := inflateFrames p.job (bs.length + 1) 0 0 p.job.len1 bs
            (u.err = 0 → t.hostMem = s.hostMem.writeBytes p.job.addr1 u.out ∧
              done .ok u.out.length (u.frames + crc32 u.out * 2 ^ 32)) ∧
            (u.err ≠ 0 → u.err ≠ 0xFF → done .dataError u.out.length (u.frames + u.offset * 2 ^ 32)) ∧
            (u.err = 0xFF → done .outFull 0 0)))))) ∧
    (∀ e : Fin 8, s.on F.PLK_ENG_STAT_OUT_OF_SERVICE e = false → ∃ t, exec (.plankEngineFault e) s = .next t ∧
      t.r F.PLK_ENG_STAT_OUT_OF_SERVICE e = 1 ∧ t.r F.PLK_EVT_ENGINE_FAULT = 1 ∧ t.isHeld (646 + e) 0x4101 = true ∧
      t.engineJob e = none ∧ (t.engineLeft = false → t.plank.waiting = []) ∧
      (∀ p j, s.engineJob e = some p → p.lost = false → s.job? p.job.ring p.job.idx = some j →
        t.due p.job.ring p.job.idx .internal 0 0) ∧ sameBytes s t))

/-- HB_TIMER_TRIGGER and HB_PWM_TRIGGER begin a scan cycle of an idle RUNNING converter with the visit of its first point,
or count a missed trigger. HB_BUS_GRANT gives the free expansion bus to a waiting visit. HB_CONVERSION discards, checks or
keeps a conversion, and the last kept one ends the visit with its entry; on a STOPPING converter what is left of the visit
is discarded. HB_SELFCAL_STEP stores a measured factor or repeats the step, and keeps the old one after the fourth
disagreement. HB_STOPPED ends a stop. HB_EXC_CHECK judges an excitation and answers the commands that wait for it, after 100
µs in any case. HB_Q_READ takes the oldest entry of a queue (R331, R332, R334, R344-R351, R354, R355). exec answers a next
state, under conditions on the operands and the state alone, for each of: hbTimerTrigger, hbPwmTrigger, hbBusGrant,
hbConversion, hbSelfcalStep, hbStopped, hbExcCheck, hbQRead. -/
def Obligations.HatbandEvents : Prop :=
  (∀ (c : Fin 2) (s : State), s.live = true →
    (let begun (t : State) : Prop := (t.convh c).cycle = true ∧ t.r F.HB_CONV_STAT_STEP c = 0 ∧
       (∃ v, (t.convh c).visit = some v ∧ v.point = s.listPoint c 0 ∧ v.kept = 0 ∧ v.urgent = none) ∧
       t = { s with regs := t.regs, hb := t.hb } ∧
       onlyRegs [(F.HB_CONV_STAT_STEP, c), (F.HB_CONV_STAT_URGENT, c)] s t
     let missed (t : State) : Prop :=
       t.r F.HB_TRIG_MISS_COUNT c = satAdd F.HB_TRIG_MISS_COUNT.width (s.r F.HB_TRIG_MISS_COUNT c) 1 ∧
       t.r F.HB_EVT_TRIG_MISS = 1 ∧ t.isHeld (convSrc c) 0x5002 = true ∧
       t = { s with regs := t.regs, hb := t.hb, held := t.held, occ := t.occ } ∧
       onlyRegs [(F.HB_TRIG_MISS_COUNT, c), (F.HB_EVT_TRIG_MISS, 0)] s t
     let idle := s.cycleBusy c = false ∧ (s.convh c).visit = none ∧ (s.convh c).urgents = []
     (s.convState c = 1 → s.hbMode = 0 → s.r F.HB_SCAN_CFG_TRIG c = 1 →
       (idle → ∃ t, exec (.hbTimerTrigger c) s = .next t ∧ begun t) ∧
       (s.cycleBusy c = true → ∃ t, exec (.hbTimerTrigger c) s = .next t ∧ missed t)) ∧
     (s.r F.HB_SCAN_CFG_TRIG c ≠ 1 → ∃ t, exec (.hbTimerTrigger c) s = .next t ∧ t = s) ∧
     (s.convState c = 1 → s.hbMode = 0 → (s.convh c).delay = true →
       (idle → ∃ t, exec (.hbPwmTrigger c) s = .next t ∧ begun t ∧ (t.convh c).delay = false) ∧
       (s.cycleBusy c = true → ∃ t, exec (.hbPwmTrigger c) s = .next t ∧ missed t ∧ (t.convh c).delay = false)) ∧
     ((s.convh c).delay = false → ∃ t, exec (.hbPwmTrigger c) s = .next t ∧ t = s))) ∧
  (∀ (c : Fin 2) (v : Visit) (s : State), s.live = true → (s.convh c).visit = some v →
    (s.hbBus = 0 → v.waitBus = true → (∀ d u, d ≠ c.val → (s.convh d).visit = some u → u.waitBus = false) →
      ∃ t, exec .hbBusGrant s = .next t ∧ t.hbBus = c + 1 ∧ (t.convh c).visit = some { v with waitBus := false } ∧
        (v.discard = true → t.hb.mxEn = true ∧ t.hb.mxAddr = v.point - 64) ∧
        t = { s with regs := t.regs, hb := t.hb } ∧ onlyRegs [(F.HB_STAT_BUS, 0)] s t) ∧
    (∀ raw : BitVec 20,
      (let x := s.hbCode c v.range v.cfg (sint 20 raw.toNat)
       (s.busWaits c v = true → ∃ t, exec (.hbConversion c raw) s = .next t ∧ t = s) ∧
       (s.busWaits c v = false → s.convState c = 2 → ∃ t, exec (.hbConversion c raw) s = .next t ∧
         (t.convh c).visit = none) ∧
       (s.busWaits c v = false → s.convState c ≠ 2 → v.discard = true → ∃ t, exec (.hbConversion c raw) s = .next t ∧
         (t.convh c).visit = some { v with discard := false } ∧ t = { s with hb := t.hb }) ∧
       (s.busWaits c v = false → s.convState c ≠ 2 → v.discard = false → v.check = true → x.2.2 = false →
         ∃ t, exec (.hbConversion c raw) s = .next t ∧ (t.convh c).visit = some { v with check := false } ∧
           t = { s with hb := t.hb }) ∧
       (s.busWaits c v = false → s.convState c ≠ 2 → v.discard = false → v.check = false → v.kept + 1 < ptN v.cfg →
         ∃ t w, exec (.hbConversion c raw) s = .next t ∧ (t.convh c).visit = some w ∧ w.kept = v.kept + 1 ∧
           w.sum = v.sum + x.1 ∧ w.ovr = (v.ovr || x.2.1) ∧ w.point = v.point ∧
           t.r F.HB_PT_STAT_SETTLE v.point = (s.r F.HB_PT_STAT_SETTLE v.point - 1) % 2 ^ F.HB_PT_STAT_SETTLE.width ∧
           t = { s with regs := t.regs, hb := t.hb } ∧
           onlyRegs [(F.HB_PT_STAT_SETTLE, v.point), (F.HB_PT_STAT_HOLD, v.point)] s t) ∧
       (s.busWaits c v = false → v.discard = false → v.check = false → ptN v.cfg ≤ v.kept + 1 → ptExcUse v.cfg = false →
         s.on F.HB_PT_STAT_SETTLE v.point = false → v.settling = false →
         (let e := hbEntry v.point v.range (v.ovr || x.2.1) false v.nbr (v.burn || (ptBo v.cfg == 1 && x.2.2))
            v.urgent.isSome c (s.convh (s.queueOf c)).seq ((v.sum + x.1) / (2 ^ ptShift v.cfg : Nat))
          ∃ t, exec (.hbConversion c raw) s = .next t ∧ t.r F.HB_LAST_ENTRY c = e % 2 ^ 64 ∧
            (v.urgent = none → (s.convh (s.queueOf c)).queue.length < 2048 →
              (t.convh (s.queueOf c)).queue = (s.convh (s.queueOf c)).queue ++ [e]) ∧
            (∀ u j, v.urgent = some u → u.lost = false → s.job? u.ring u.idx = some j → t.due u.ring u.idx .ok e 0) ∧
            sameBytes s t ∧ onlyBlocks (blockAt 3) s t))))) ∧
  (∀ (c : Fin 2) (k : SelfCal) (m1 m2 : Int) (s : State), s.live = true → (s.convh c).cal = some k → k.runs = true →
    k.step < 15 → (s.convh c).visit = none → (s.convh c).urgents = [] → s.convState c ≠ 2 →
    (let f := State.calFactor c k.step
     (∀ a b, s.calOne c k.step m1 = some a → s.calOne c k.step m2 = some b → State.calAgree k.step m1 m2 = true →
       -32768 ≤ min a b → max a b < 32767 → ∃ t n, exec (.hbSelfcalStep c m1 m2) s = .next t ∧
         min a b ≤ t.ri f.1 f.2 ∧ t.ri f.1 f.2 ≤ max a b + 1 ∧
         bitAt (t.r (State.calKeptFld k.step) c) (k.step % 8) = false ∧
         (t.convh c).cal = some n ∧ n.step = k.step + 1 ∧ n.attempt = 1 ∧
         t = { s with regs := t.regs, hb := t.hb, fresh := s.fresh + 1 } ∧
         onlyRegs [f, (State.calKeptFld k.step, c.val)] s t) ∧
     (State.calAgree k.step m1 m2 = false → k.attempt < 4 → ∃ t n, exec (.hbSelfcalStep c m1 m2) s = .next t ∧
       (t.convh c).cal = some n ∧ n.step = k.step ∧ n.attempt = k.attempt + 1 ∧
       t = { s with hb := t.hb, fresh := s.fresh + 1 }) ∧
     (State.calAgree k.step m1 m2 = false → 4 ≤ k.attempt → ∃ t n, exec (.hbSelfcalStep c m1 m2) s = .next t ∧
       (t.convh c).cal = some n ∧ n.step = k.step + 1 ∧ n.kept = k.kept + 2 ^ State.calKeptBit k.step ∧
       bitAt (t.r (State.calKeptFld k.step) c) (k.step % 8) = true ∧ t.r F.HB_EVT_CAL_KEPT = 1 ∧
       t = { s with regs := t.regs, hb := t.hb, fresh := s.fresh + 1 } ∧
       onlyRegs [(State.calKeptFld k.step, c.val), (F.HB_EVT_CAL_KEPT, 0)] s t))) ∧
  (∀ (c : Fin 2) (s : State), s.live = true → s.convState c = 2 → ∃ t, exec (.hbStopped c) s = .next t ∧
    t.convState c = (if s.on F.HB_CONV_STAT_ENABLE_PENDING c then 1 else 0) ∧
    t.r F.HB_CONV_STAT_ENABLE_PENDING c = 0 ∧ t.isHeld (convSrc c) 0x5006 = true ∧ t.awaited (.conv c) = false ∧
    sameBytes s t ∧ onlyBlocks (blockAt 3) s t) ∧
  (∀ (k : Fin 8) (mv : BitVec 16) (limit : Bool) (s : State), s.live = true →
    ∃ t, exec (.hbExcCheck k mv limit) s = .next t ∧
      (let v := s.r F.HB_EXC_CFG_MV k
       let ok := s.on F.HB_EXC_CFG_EN k = true ∧ 50 * ((mv.toNat : Int) - v).natAbs ≤ v ∧ limit = false
       (t.excOk k = true ↔ ok) ∧ bitAt (t.r F.HB_EXC_STAT_LIMIT) k = limit ∧
       (∀ m : Nat, m < 8 → m ≠ k.val → t.excOk m = s.excOk m) ∧
       (s.excOk k = true → ¬ok → t.isHeld 654 0x5101 = true) ∧
       (∀ a, ok ∨ s.on F.HB_EXC_CFG_EN k = false ∨ a + 100000 ≤ s.now → t.awaited (.excite k a) = false)) ∧
      t = { s with regs := t.regs, hb := t.hb, held := t.held, occ := t.occ, jobs := t.jobs } ∧
      onlyRegs [(F.HB_EXC_STAT_LIMIT, 0), (F.HB_EXC_STAT_IN_RANGE, 0), (F.HB_EVT_EXC_FAULT, 0)] s t) ∧
  (∀ (m : Master) (c : Fin 2) (s : State), s.live = true →
    (∀ e es, (s.convh c).queue = e :: es → ∃ t, exec (.hbQRead m c) s = .next t ∧ t.readData = [e % 2 ^ 32] ∧
      (t.convh c).queue = es ∧ keyed t.latches (m.code, F.HB_Q_ENTRY.id, c.val) = some e ∧
      t = { s with hb := t.hb, latches := t.latches, readData := t.readData }) ∧
    ((s.convh c).queue = [] → ∃ t, exec (.hbQRead m c) s = .next t ∧ t.readData = [0] ∧
      keyed t.latches (m.code, F.HB_Q_ENTRY.id, c.val) = some 0xFFFFFFFF00000000 ∧
      t = { s with latches := t.latches, readData := t.readData }))

/-- HB_SCAN_SET writes the word of points, a list, a converter's trigger settings or the mode, or ends BAD_PARAM or
NOT_ALLOWED without effect; its list waits while host memory may not be read; HB_START takes stopped converters to RUNNING
and notes the start of stopping ones, HB_STOP takes running ones to STOPPING, where the conversion in progress still ends,
and waits for them; HB_URGENT gives an idle converter an urgent visit; HB_SELFCAL starts the calibration of the named
converters; HB_EXCITE sets the named excitations. Bytes that break their rules complete with BAD_PARAM without effect (R267,
R347, R351, R353, R354, R358-R363). exec answers a next state, under conditions on the operands and the state alone, for
each of: hbScanSet, hbStart, hbStop, hbUrgent, hbSelfcal, hbExcite. -/
def Obligations.HatbandCommands : Prop :=
  ∀ (q : Fin 32768) (i : Fin 65536) (s : State) (j : Job), s.bistHolds j = false →
    (s.started? 0x40 q i = some j →
      (let sel := j.p 0 1
       let c := j.p 1 1
       let none0 := j.len0 = 0 ∧ j.addr0 = 0
       let list (k : Nat) := s.hostMem.readLE (j.addr0 + 2 * k) 2
       let moved := s.each (span (j.p 2 2) (j.p 4 2)) fun s p => s.setPoint (j.p 8 4) p
       let ok0 := none0 ∧ j.pz 1 1 = true ∧ j.pz 6 2 = true ∧ j.pz 12 20 = true ∧ 1 ≤ j.p 4 2 ∧
         j.p 2 2 + j.p 4 2 ≤ 1024 ∧ ptOk (j.p 8 4) = true
       let ok1 := c ≤ 1 ∧ 1 ≤ j.p 2 2 ∧ j.p 2 2 ≤ 256 ∧ j.pz 4 28 = true ∧ j.len0 = 2 * j.p 2 2 ∧ j.addr0 % 2 = 0 ∧
         ∀ k, k < j.p 2 2 → list k < 1024 ∧ reaches c (list k) = true
       let ok2 := none0 ∧ c ≤ 1 ∧ j.p 2 1 ≤ 3 ∧ j.p 3 1 < 8 ∧ 2 ≤ j.p 3 1 ∧ j.p 4 1 ≤ 23 ∧ 1 ≤ j.p 5 1 ∧ j.pz 6 2 = true ∧
         1 ≤ j.p 8 4 ∧ j.p 8 4 ≤ 1000000 ∧ j.pz 14 18 = true
       let ok3 := none0 ∧ c ≤ 2 ∧ j.pz 2 30 = true
       let bad := ∃ t, exec (.hbScanSet q i) s = .next t ∧ t.due q i .badParam 0 0 ∧ t = { s with jobs := t.jobs }
       let denied := ∃ t, exec (.hbScanSet q i) s = .next t ∧ t.due q i .notAllowed 0 0 ∧ t = { s with jobs := t.jobs }
       (sel = 1 → s.canIssue = false → exec (.hbScanSet q i) s = .next s) ∧
       ((sel = 0 ∧ ¬ok0) ∨ (sel = 1 ∧ s.canIssue = true ∧ ¬ok1) ∨ (sel = 2 ∧ ¬ok2) ∨ (sel = 3 ∧ ¬ok3) ∨ 4 ≤ sel → bad) ∧
       ((sel = 0 ∧ ok0 ∧ s.hbRuns = true ∧ moved.modeOk s.hbMode = false) ∨
         (sel = 1 ∧ s.canIssue = true ∧ ok1 ∧ s.convState c ≠ 0) ∨ (sel = 2 ∧ ok2 ∧ s.convState c ≠ 0) ∨
         (sel = 3 ∧ ok3 ∧ s.hbRuns = true) → denied) ∧
       (sel = 0 → ok0 → s.hbRuns = false ∨ moved.modeOk s.hbMode = true → ∃ t, exec (.hbScanSet q i) s = .next t ∧
         t.due q i .ok 0 0 ∧ (∀ p, j.p 2 2 ≤ p → p < j.p 2 2 + j.p 4 2 → t.ptCfg p = j.p 8 4) ∧
         (∀ p, p < j.p 2 2 ∨ j.p 2 2 + j.p 4 2 ≤ p → t.ptCfg p = s.ptCfg p) ∧
         t = { s with regs := t.regs, hb := t.hb, jobs := t.jobs, held := t.held, occ := t.occ } ∧
         onlyBlocks (blockAt 3) s t) ∧
       (sel = 1 → s.canIssue = true → ok1 → s.convState c = 0 → ∃ t, exec (.hbScanSet q i) s = .next t ∧
         t.due q i .ok 0 0 ∧ t.r F.HB_SCAN_CFG_LEN c = j.p 2 2 ∧ (∀ k, k < j.p 2 2 → t.listPoint c k = list k) ∧
         t = { s with regs := t.regs, jobs := t.jobs } ∧
         onlyFields [F.HB_SCAN_LIST_STEP_LO, F.HB_SCAN_LIST_STEP_HI, F.HB_SCAN_CFG_LEN] s t) ∧
       (sel = 2 → ok2 → s.convState c = 0 → ∃ t, exec (.hbScanSet q i) s = .next t ∧ t.due q i .ok 0 0 ∧
         t.r F.HB_SCAN_CFG_TRIG c = j.p 2 1 ∧ t.r F.HB_SCAN_CFG_SUPPRESS c = j.p 3 1 % 2 ∧
         t.r F.HB_SCAN_CFG_EDGE c = j.p 3 1 / 2 ∧ t.r F.HB_SCAN_CFG_PWM c = j.p 4 1 ∧
         t.r F.HB_SCAN_CFG_BO_EVERY c = j.p 5 1 ∧ t.r F.HB_SCAN_CFG_PERIOD c = j.p 8 4 ∧
         t.r F.HB_SCAN_CFG_DELAY c = j.p 12 2 ∧ t = { s with regs := t.regs, jobs := t.jobs } ∧
         onlyRegs [(F.HB_SCAN_CFG_TRIG, c), (F.HB_SCAN_CFG_SUPPRESS, c), (F.HB_SCAN_CFG_EDGE, c), (F.HB_SCAN_CFG_PWM, c),
           (F.HB_SCAN_CFG_BO_EVERY, c), (F.HB_SCAN_CFG_PERIOD, c), (F.HB_SCAN_CFG_DELAY, c)] s t) ∧
       (sel = 3 → ok3 → s.hbRuns = false → ∃ t, exec (.hbScanSet q i) s = .next t ∧ t.due q i .ok 0 0 ∧
         t.r F.HB_CFG_MODE = c ∧ t.r F.HB_STAT_MODE = c ∧ t = { s with regs := t.regs, jobs := t.jobs } ∧
         onlyRegs [(F.HB_CFG_MODE, 0), (F.HB_STAT_MODE, 0)] s t))) ∧
    (s.started? 0x41 q i = some j →
      (let m := j.p 0 1
       let cs := State.maskConvs m
       let fresh := s.convState 0 = 0 ∧ s.convState 1 = 0
       let mode := if fresh then s.r F.HB_CFG_MODE else s.hbMode
       let ok := 1 ≤ m ∧ m ≤ 3 ∧ j.p 1 1 ≤ 1 ∧ j.pz 2 30 = true ∧ cs.all (s.listOk mode) = true ∧ s.modeOk mode = true ∧
         (mode ≠ 0 → m = 3)
       (¬ok → ∃ t, exec (.hbStart q i) s = .next t ∧ t.due q i .badParam 0 0 ∧ t = { s with jobs := t.jobs }) ∧
       (ok → ∃ t, exec (.hbStart q i) s = .next t ∧ t.r F.HB_STAT_MODE = mode % 2 ^ F.HB_STAT_MODE.width ∧
         ((∀ c ∈ cs, s.convState c ≠ 2) → t.due q i .ok 0 0) ∧
         (∀ c ∈ cs, (s.convState c = 0 → t.convState c = 1) ∧ (s.convState c = 1 → t.convState c = 1) ∧
           (s.convState c = 2 → t.convState c = 2 ∧ t.r F.HB_CONV_STAT_ENABLE_PENDING c = 1)) ∧
         (∀ c, c < 2 → c ∉ cs → t.convState c = s.convState c) ∧ sameBytes s t ∧ onlyBlocks (blockAt 3) s t) ∧
       (∀ c, c < 2 → m = 2 ^ c → ok → mode = 0 → s.convState c = 2 → ∃ t, exec (.hbStart q i) s = .next t ∧
         t.waits q i [.conv (c + 2)] ∧ (t.convh c).flush = (j.p 1 1 == 1 || (s.convh c).flush) ∧
         t = { s with regs := t.regs, hb := t.hb, jobs := t.jobs }) ∧
       (∀ c, c < 2 → m = 2 ^ c → ok → mode = 0 → s.convState c = 0 →
         s.r F.HB_SCAN_CFG_TRIG c = 2 ∨ s.r F.HB_SCAN_CFG_TRIG c = 3 → ∃ t, exec (.hbStart q i) s = .next t ∧
         (t.convh c).cycle = false ∧ (t.convh c).seq = 0 ∧ (j.p 1 1 = 1 → (t.convh c).queue = []) ∧
         (j.p 1 1 = 0 → (t.convh c).queue = (s.convh c).queue) ∧
         t = { s with regs := t.regs, hb := t.hb, jobs := t.jobs }))) ∧
    (s.started? 0x42 q i = some j →
      (let m := j.p 0 1
       let ok := 1 ≤ m ∧ m ≤ 3 ∧ j.pz 1 31 = true
       let cs := State.maskConvs (if s.hbMode = 0 then m else 3)
       (¬ok → ∃ t, exec (.hbStop q i) s = .next t ∧ t.due q i .badParam 0 0 ∧ t = { s with jobs := t.jobs }) ∧
       (ok → ∃ t, exec (.hbStop q i) s = .next t ∧
         (let ws := (cs.filter fun c => s.convState c != 0).map Wait.conv
          (ws = [] → t.due q i .ok 0 0) ∧ (ws ≠ [] → t.waits q i ws)) ∧
         (∀ c ∈ cs, (s.convState c = 0 → t.convState c = 0) ∧
           (s.convState c = 1 → t.convState c = 2 ∧ (t.convh c).cycle = false ∧
             (t.convh c).visit = (s.convh c).visit.filter fun v => !s.busWaits c v) ∧
           (s.convState c = 2 → t.convState c = 2 ∧ t.on F.HB_CONV_STAT_ENABLE_PENDING c = false)) ∧
         (∀ c, c < 2 → c ∉ cs → t.convState c = s.convState c) ∧ sameBytes s t ∧ onlyBlocks (blockAt 3) s t))) ∧
    (s.started? 0x43 q i = some j → ¬(j.p 0 2 < 1024 ∧ j.p 2 1 ≤ 1 ∧ j.p 3 1 ≤ 1 ∧ j.pz 4 28 = true ∧
        reaches (j.p 2 1) (j.p 0 2) = true) → ∃ t, exec (.hbUrgent q i) s = .next t ∧ t.due q i .badParam 0 0 ∧
      t = { s with jobs := t.jobs }) ∧
    (s.started? 0x43 q i = some j → j.p 0 2 < 1024 → j.p 2 1 ≤ 1 → j.p 3 1 ≤ 1 → j.pz 4 28 = true →
      reaches (j.p 2 1) (j.p 0 2) = true →
      (let c := j.p 2 1
       let h := s.convh c
       (h.visit = none → h.cal = none → h.urgents = [] → s.convState c ≠ 2 → s.meetsVisit c = false →
         ∃ t v, exec (.hbUrgent q i) s = .next t ∧ t.waits q i [.urgent] ∧ (t.convh c).visit = some v ∧
           v.point = j.p 0 2 ∧ v.urgent = some (Urgent.mk q i (j.p 0 2) (j.p 3 1 == 1) j.lost) ∧ v.kept = 0 ∧ t.r F.HB_CONV_STAT_URGENT c = 1 ∧
           t = { s with regs := t.regs, hb := t.hb, jobs := t.jobs } ∧ onlyRegs [(F.HB_CONV_STAT_URGENT, c)] s t) ∧
       (s.dev = .run → h.cal = none → s.convState c ≠ 2 → h.visit ≠ none → ∃ t, exec (.hbUrgent q i) s = .next t ∧
         t.due q i .dropped 0 0 ∧ t.isHeld (convSrc c) 0x5003 = true ∧ t.r F.HB_EVT_URGENT_DROPPED = 1 ∧
         t.r F.HB_URGENT_DROPPED_COUNT c = satAdd F.HB_URGENT_DROPPED_COUNT.width (s.r F.HB_URGENT_DROPPED_COUNT c) 1 ∧
         t = { s with regs := t.regs, jobs := t.jobs, held := t.held, occ := t.occ }))) ∧
    (s.started? 0x44 q i = some j → (1 ≤ j.p 0 1 → j.p 0 1 ≤ 3 → j.pz 1 31 = true →
        ∃ t, exec (.hbSelfcal q i) s = .next t ∧ t.waits q i ((State.maskConvs (j.p 0 1)).map Wait.selfcal) ∧
          (∀ c ∈ State.maskConvs (j.p 0 1), (t.convh c).cal ≠ none ∧ ((s.convh c).cal = none →
            t.r F.HB_CONV_STAT_SELFCAL c = 1)) ∧ sameBytes s t ∧ onlyBlocks (blockAt 3) s t) ∧
      (j.p 0 1 = 0 ∨ 3 < j.p 0 1 ∨ j.pz 1 31 = false → ∃ t, exec (.hbSelfcal q i) s = .next t ∧
        t.due q i .badParam 0 0 ∧ t = { s with jobs := t.jobs })) ∧
    (s.started? 0x45 q i = some j →
      (State.exciteOk j = false → ∃ t, exec (.hbExcite q i) s = .next t ∧ t.due q i .badParam 0 0 ∧
        t = { s with jobs := t.jobs }) ∧
      (State.exciteOk j = true → ∃ t, exec (.hbExcite q i) s = .next t ∧
        t.waits q i ((whichBelow 8 fun k => bitAt (j.p 0 1) k).map fun k => Wait.excite k s.now) ∧
        (∀ k, k < 8 → bitAt (j.p 0 1) k = true →
          (bitAt (j.p 1 1) 0 = true → t.r F.HB_EXC_CFG_EN k = j.p 2 1 ∧ bitAt (t.r F.HB_EXC_STAT_ON) k = (j.p 2 1 == 1)) ∧
          (bitAt (j.p 1 1) 1 = true → t.r F.HB_EXC_CFG_MV k = j.p 4 2) ∧
          (bitAt (j.p 1 1) 2 = true → t.r F.HB_EXC_CFG_SETTLE k = j.p 6 1)) ∧
        t = { s with regs := t.regs, hb := t.hb, jobs := t.jobs } ∧
        onlyFields [F.HB_EXC_CFG_EN, F.HB_EXC_CFG_MV, F.HB_EXC_CFG_SETTLE, F.HB_EXC_STAT_ON, F.HB_PT_STAT_SETTLE,
          F.HB_EVT_EXC_FAULT] s t))

/-- DAC_SLEW_TICK takes a slewing output one step towards its target. RANGE_CLAMP_END brings the new range into force with
code 0, or the clear code where the channel is forced or held. HK_CLEAR_PIN forces every channel to its clear code, and
HK_CLEAR_PIN_END ends that force. PWM_PERIOD_START brings the stored timing of a running channel into force and its output
to the active level, and ends a stop; PWM_ACTIVE_END takes the output to the inactive level (R366-R370, R373-R375). A row
that its state rules out is log 3; what a force leaves of holds, codes and clear codes is log 57. exec answers a next state,
under conditions on the operands and the state alone, for each of: dacSlewTick, rangeClampEnd, hkClearPin, hkClearPinEnd,
pwmPeriodStart, pwmActiveEnd. -/
def Obligations.OutputEvents : Prop :=
  (∀ (c : Fin 48) (s : State), s.live = true →
    (s.on F.HK_DAC_STAT_SLEWING c = false → ∃ t, exec (.dacSlewTick c) s = .next t ∧ t = s) ∧
    (s.on F.HK_DAC_STAT_SLEWING c = true → s.r F.HK_DAC_STAT_OUT c < 65536 →
      s.r F.HK_DAC_TARGET_TARGET c < 65536 → ∃ t, exec (.dacSlewTick c) s = .next t ∧
        (let v (x : Nat) : Int := if s.r F.HK_DAC_STAT_RANGE c = 2 ∧ 32768 ≤ x then (x : Int) - 65536 else x
         let o := v (s.r F.HK_DAC_STAT_OUT c)
         let g := v (s.r F.HK_DAC_TARGET_TARGET c)
         let d : Int := s.r F.HK_DAC_CFG_STEP c
         v (t.r F.HK_DAC_STAT_OUT c) = (if o < g then min (o + d) g else if g < o then max (o - d) g else g) ∧
         t.r F.HK_DAC_STAT_OUT c < 65536 ∧
         (t.r F.HK_DAC_STAT_OUT c = s.r F.HK_DAC_TARGET_TARGET c → t.r F.HK_DAC_STAT_SLEWING c = 0)) ∧
        t = { s with regs := t.regs } ∧ onlyRegs [(F.HK_DAC_STAT_OUT, c), (F.HK_DAC_STAT_SLEWING, c)] s t) ∧
    (s.dacClamped c = false → ∃ t, exec (.rangeClampEnd c) s = .next t ∧ t = s) ∧
    (s.dacClamped c = true → (s.dach c).clampTo < 4 → ∃ t, exec (.rangeClampEnd c) s = .next t ∧ t.dacClamped c = false ∧
      t.r F.HK_DAC_STAT_RANGE c = (s.dach c).clampTo ∧ t.awaited (.dacRange c) = false ∧
      (s.dacForced c = false → s.dacHeld c = false → t.r F.HK_DAC_STAT_OUT c = 0) ∧
      (s.dacForced c = true ∨ s.dacHeld c = true → t.r F.HK_DAC_STAT_OUT c = s.r F.HK_DAC_CFG_CLEAR c % 65536) ∧
      t = { s with regs := t.regs, jobs := t.jobs } ∧
      onlyRegs [(F.HK_DAC_STAT_CLAMP, c), (F.HK_DAC_STAT_RANGE, c), (F.HK_DAC_STAT_OUT, c), (F.HK_DAC_STAT_SLEWING, c)] s t)) ∧
  (∀ s : State, s.live = true →
    (s.on F.HK_STAT_CLR_PIN = true → ∃ t, exec .hkClearPin s = .next t ∧
      t = { s with hk := { s.hk with clrLow := true } }) ∧
    (s.on F.HK_STAT_CLR_PIN = false → ∃ t, exec .hkClearPinEnd s = .next t ∧
      t = { s with hk := { s.hk with clrLow := false } }) ∧
    (s.on F.HK_STAT_CLR_PIN = false → ∃ t, exec .hkClearPin s = .next t ∧ t.r F.HK_STAT_CLR_PIN = 1 ∧
      t.r F.HK_EVT_CLEAR_PIN = 1 ∧ t.isHeld 656 0x6003 = true ∧
      (∀ c, c < 48 → t.r F.HK_DAC_STAT_FORCE_CLR c = 1 ∧
        (s.dacForced c = false → t.r F.HK_DAC_STAT_OUT c = s.r F.HK_DAC_CFG_CLEAR c % 65536 ∧
          t.r F.HK_DAC_STAT_SLEWING c = 0)) ∧ sameBytes s t ∧ onlyBlocks (blockAt 4) s t) ∧
    (s.on F.HK_STAT_CLR_PIN = true → ∃ t, exec .hkClearPinEnd s = .next t ∧ t.r F.HK_STAT_CLR_PIN = 0 ∧
      t.isHeld 656 0x6004 = true ∧ (∀ c, c < 48 → t.r F.HK_DAC_STAT_FORCE_CLR c = 0) ∧ sameBytes s t ∧
      onlyBlocks (blockAt 4) s t)) ∧
  (∀ (p : Fin 24) (s : State), s.live = true →
    (s.r F.HK_PWM_STAT_STATE p = 0 ∨ s.r F.HK_PWM_STAT_STATE p = 1 ∧ s.pwmForced p = true →
      ∃ t, exec (.pwmPeriodStart p) s = .next t ∧ t = s) ∧
    (s.r F.HK_PWM_STAT_STATE p = 1 → s.pwmForced p = false → ∃ t, exec (.pwmPeriodStart p) s = .next t ∧
      (t.pwmh p).period = s.r F.HK_PWM_CFG_PERIOD p ∧ (t.pwmh p).high = s.r F.HK_PWM_CFG_HIGH p ∧
      (t.pwmh p).presc = s.r F.HK_PWM_CFG_PRESC p ∧ t.awaited (.pwm (p + 48)) = false ∧
      t.r F.HK_PWM_STAT_PIN p = (decide (0 < s.r F.HK_PWM_CFG_HIGH p) != s.on F.HK_PWM_CFG_POL p).toNat ∧
      sameBytes s t ∧ onlyBlocks (fun b => blockAt 3 b || blockAt 4 b) s t) ∧
    (s.r F.HK_PWM_STAT_STATE p = 2 → ∃ t, exec (.pwmPeriodStart p) s = .next t ∧ t.r F.HK_PWM_STAT_PIN p = 0 ∧
      t.r F.HK_PWM_STAT_STATE p = (if s.on F.HK_PWM_STAT_ENABLE_PENDING p then 1 else 0) ∧ t.awaited (.pwm p) = false ∧
      t = { s with regs := t.regs, hk := t.hk, jobs := t.jobs } ∧
      onlyRegs [(F.HK_PWM_STAT_STATE, p), (F.HK_PWM_STAT_PIN, p), (F.HK_PWM_STAT_ENABLE_PENDING, p)] s t) ∧
    ((s.r F.HK_PWM_STAT_STATE p = 0 ∨ s.pwmForced p = true ∨ (s.pwmh p).high = 0 ∨ (s.pwmh p).period ≤ (s.pwmh p).high) → ∃ t, exec (.pwmActiveEnd p) s = .next t ∧ t = s) ∧
    (s.r F.HK_PWM_STAT_STATE p ≠ 0 → s.pwmForced p = false → 0 < (s.pwmh p).high → (s.pwmh p).high < (s.pwmh p).period →
      ∃ t, exec (.pwmActiveEnd p) s = .next t ∧ (s.r F.HK_PWM_STAT_PIN p ≤ 1 → s.r F.HK_PWM_CFG_POL p ≤ 1 →
        t.r F.HK_PWM_STAT_PIN p = s.r F.HK_PWM_CFG_POL p) ∧ sameBytes s t ∧
      onlyBlocks (fun b => blockAt 3 b || blockAt 4 b) s t))

/-- HK_DAC_SET stores the selected values of every named channel, HK_DAC_RANGE starts the clamp towards a new range or
leaves it pending while a force acts, and HK_PWM_SET stores timing and options and starts or stops channels; each completes
with BAD_PARAM without effect where its bytes break its rules (R366, R367, R369, R370, R373, R374, R379-R381); the timing of
a STOPPED channel and the codes of a forced one are log 57. exec answers a next state, under conditions on the operands and
the state alone, for each of: hkDacSet, hkDacRange, hkPwmSet. -/
def Obligations.OutputCommands : Prop :=
  ∀ (q : Fin 32768) (i : Fin 65536) (s : State) (j : Job), s.bistHolds j = false →
    (s.started? 0x48 q i = some j →
      (State.dacSetOk j = false → ∃ t, exec (.hkDacSet q i) s = .next t ∧ t.due q i .badParam 0 0 ∧
        t = { s with jobs := t.jobs } ∧ onlyJob q i s t) ∧
      (State.dacSetOk j = true → ∃ t, exec (.hkDacSet q i) s = .next t ∧
        t.due q i .ok (State.maskOf (j.items.filter fun c => t.dacForced c || (t.dacHeld c && !bitAt (j.p 4 1) 0))) 0 ∧
        (∀ c ∈ j.items,
          (bitAt (j.p 4 1) 0 = true → t.r F.HK_DAC_TARGET_TARGET c =
            if bitAt (j.p 5 1) 3 then j.p 16 2 else j.p (16 + 2 * (c - j.p 0 2)) 2) ∧
          (bitAt (j.p 4 1) 1 = true → t.r F.HK_DAC_CFG_STEP c = j.p 6 2 ∧ t.r F.HK_DAC_CFG_PERIOD c = j.p 8 2) ∧
          (bitAt (j.p 4 1) 2 = true → t.r F.HK_DAC_CFG_CLEAR c = j.p 10 2) ∧
          (bitAt (j.p 4 1) 3 = true → t.r F.HK_DAC_CFG_RELEASE c = (bitAt (j.p 5 1) 0).toNat ∧
            t.r F.HK_DAC_CFG_FORCE_FLT c = (bitAt (j.p 5 1) 1).toNat ∧
            t.r F.HK_DAC_CFG_FORCE_SHED c = (bitAt (j.p 5 1) 2).toNat) ∧
          (bitAt (j.p 4 1) 3 = false → bitAt (j.p 4 1) 2 = false → t.r F.HK_DAC_STAT_OUT c = s.r F.HK_DAC_STAT_OUT c)) ∧
        sameBytes s t ∧ onlyBlocks (blockAt 4) s t)) ∧
    (s.started? 0x49 q i = some j →
      (let ok := j.spanOk 48 = true ∧ j.p 4 1 ≤ 2 ∧ j.p 5 1 ≤ 1 ∧ j.pz 8 24 = true
       (¬ok → ∃ t, exec (.hkDacRange q i) s = .next t ∧ t.due q i .badParam 0 0 ∧ t = { s with jobs := t.jobs } ∧
         onlyJob q i s t) ∧
       (ok → ∃ t, exec (.hkDacRange q i) s = .next t ∧
         (∀ c ∈ j.items, t.r F.HK_DAC_CFG_RANGE c = j.p 4 1 ∧
           t.r F.HK_DAC_TARGET_TARGET c = (if j.p 5 1 = 1 then j.p 6 2 else s.r F.HK_DAC_TARGET_TARGET c) ∧
           t.r F.HK_DAC_STAT_RANGE c = s.r F.HK_DAC_STAT_RANGE c ∧
           (s.dacForced c = true → t.r F.HK_DAC_STAT_CLAMP c = s.r F.HK_DAC_STAT_CLAMP c ∧ (t.dach c).pendTo = j.p 4 1 ∧
             t.r F.HK_DAC_STAT_RANGE_PENDING c = (decide (j.p 4 1 ≠ s.r F.HK_DAC_STAT_RANGE c)).toNat) ∧
           (s.dacForced c = false → s.dacClamped c = true ∨ s.r F.HK_DAC_STAT_RANGE c ≠ j.p 4 1 →
             t.dacClamped c = true ∧ (t.dach c).clampTo = j.p 4 1 ∧ t.r F.HK_DAC_STAT_RANGE_PENDING c = 0 ∧
             t.r F.HK_DAC_STAT_SLEWING c = 0) ∧
           (s.dacForced c = false → s.dacClamped c = false → s.r F.HK_DAC_STAT_RANGE c = j.p 4 1 →
             t.dacClamped c = false)) ∧
         (let held := j.items.filter t.dacClamped
          (held = [] → t.due q i .ok (State.maskOf (j.items.filter fun c => t.on F.HK_DAC_STAT_RANGE_PENDING c)) 0) ∧
          (held ≠ [] → t.waits q i (held.map Wait.dacRange))) ∧
         t = { s with regs := t.regs, hk := t.hk, jobs := t.jobs } ∧ onlyBlocks (blockAt 4) s t) ∧
       (ok → ∀ c, j.items = [c] →
         (s.dacForced c = true → ∃ t, exec (.hkDacRange q i) s = .next t ∧
           t.r F.HK_DAC_STAT_RANGE_PENDING c = (decide (j.p 4 1 ≠ s.r F.HK_DAC_STAT_RANGE c)).toNat ∧
           t.r F.HK_DAC_STAT_RANGE c = s.r F.HK_DAC_STAT_RANGE c ∧ (t.dach c).pendTo = j.p 4 1 ∧
           t.r F.HK_DAC_CFG_RANGE c = j.p 4 1 ∧ sameBytes s t ∧ onlyBlocks (blockAt 4) s t) ∧
         (s.dacForced c = false → s.dacClamped c = false → s.r F.HK_DAC_STAT_RANGE c = j.p 4 1 →
           s.on F.HK_DAC_STAT_RANGE_PENDING c = false →
           ∃ t, exec (.hkDacRange q i) s = .next t ∧ t.due q i .ok 0 0 ∧ t.dacClamped c = false ∧
             t = { s with regs := t.regs, jobs := t.jobs } ∧
             onlyRegs [(F.HK_DAC_TARGET_TARGET, c), (F.HK_DAC_CFG_RANGE, c), (F.HK_DAC_TARGET_RANGE, c),
               (F.HK_DAC_STAT_SLEWING, c)] s t) ∧
         (s.dacForced c = false → s.dacClamped c = false → s.r F.HK_DAC_STAT_RANGE c ≠ j.p 4 1 →
           ∃ t, exec (.hkDacRange q i) s = .next t ∧ t.waits q i [.dacRange c] ∧ t.dacClamped c = true ∧
             (t.dach c).clampTo = j.p 4 1 ∧ t.r F.HK_DAC_STAT_SLEWING c = 0 ∧
             t = { s with regs := t.regs, hk := t.hk, jobs := t.jobs } ∧
             onlyRegs [(F.HK_DAC_TARGET_TARGET, c), (F.HK_DAC_CFG_RANGE, c), (F.HK_DAC_TARGET_RANGE, c),
               (F.HK_DAC_STAT_SLEWING, c), (F.HK_DAC_STAT_CLAMP, c), (F.HK_DAC_STAT_RANGE_PENDING, c)] s t)))) ∧
    (s.started? 0x4A q i = some j →
      (State.pwmSetOk j = false → ∃ t, exec (.hkPwmSet q i) s = .next t ∧ t.due q i .badParam 0 0 ∧
        t = { s with jobs := t.jobs } ∧ onlyJob q i s t) ∧
      (State.pwmSetOk j = true → j.items.any (s.polClash j) = true → ∃ t, exec (.hkPwmSet q i) s = .next t ∧
        t.due q i .notAllowed 0 0 ∧ t = { s with jobs := t.jobs } ∧ onlyJob q i s t) ∧
      (State.pwmSetOk j = true → j.items.any (s.polClash j) = false → ∃ t, exec (.hkPwmSet q i) s = .next t ∧
        (let v (k : Nat) : Bool := bitAt (j.p 4 1) k
         let run : Bool := bitAt (j.p 5 1) 0
         (∀ p ∈ j.items,
           (v 0 = true → t.r F.HK_PWM_CFG_PERIOD p = j.p 8 2 ∧ t.r F.HK_PWM_CFG_HIGH p = j.p 10 2 ∧
             t.r F.HK_PWM_CFG_PRESC p = j.p 6 1) ∧
           (v 1 = true → t.r F.HK_PWM_CFG_POL p = (bitAt (j.p 5 1) 1).toNat) ∧
           (v 2 = true → t.r F.HK_PWM_CFG_FORCE_FLT p = (bitAt (j.p 5 1) 2).toNat ∧
             t.r F.HK_PWM_CFG_FORCE_SHED p = (bitAt (j.p 5 1) 3).toNat) ∧
           t.r F.HK_PWM_STAT_STATE p = (match s.r F.HK_PWM_STAT_STATE p, v 3, run with
             | 0, true, true => 1
             | 1, true, false => 2
             | st, _, _ => st) ∧
           (s.r F.HK_PWM_STAT_STATE p = 2 → v 3 = true → t.r F.HK_PWM_STAT_ENABLE_PENDING p = run.toNat)) ∧
         (let ws := j.items.flatMap fun p =>
            (if v 0 && s.r F.HK_PWM_STAT_STATE p != 0 then [Wait.pwm (p + 48)] else []) ++
            (if v 3 && run && t.on F.HK_PWM_STAT_ENABLE_PENDING p then [Wait.pwm (p + 24)] else []) ++
            (if v 3 && !run && t.r F.HK_PWM_STAT_STATE p == 2 then [Wait.pwm p] else [])
          (ws = [] → t.due q i .ok 0 0) ∧ (ws ≠ [] → t.waits q i ws))) ∧
        t = { s with regs := t.regs, hk := t.hk, jobs := t.jobs, held := t.held, occ := t.occ } ∧
        onlyBlocks (blockAt 4) s t) ∧
      (State.pwmSetOk j = true → ∀ p, j.items = [p] → s.polClash j p = false → bitAt (j.p 4 1) 2 = false →
        (s.r F.HK_PWM_STAT_STATE p = 0 → ∃ t, exec (.hkPwmSet q i) s = .next t ∧
          (s.on F.HK_PWM_STAT_ENABLE_PENDING p = false → t.due q i .ok 0 0) ∧
          t.r F.HK_PWM_STAT_STATE p = (if bitAt (j.p 4 1) 3 && bitAt (j.p 5 1) 0 then 1 else 0) ∧
          (bitAt (j.p 4 1) 0 = true → t.r F.HK_PWM_CFG_PERIOD p = j.p 8 2 ∧ t.r F.HK_PWM_CFG_HIGH p = j.p 10 2 ∧
            t.r F.HK_PWM_CFG_PRESC p = j.p 6 1 ∧ (t.pwmh p).period = j.p 8 2 ∧ (t.pwmh p).high = j.p 10 2) ∧
          (bitAt (j.p 4 1) 1 = true → t.r F.HK_PWM_CFG_POL p = (bitAt (j.p 5 1) 1).toNat) ∧
          sameBytes s t ∧ onlyBlocks (blockAt 4) s t) ∧
        (s.r F.HK_PWM_STAT_STATE p = 1 → bitAt (j.p 4 1) 0 = false → bitAt (j.p 4 1) 3 = true → bitAt (j.p 5 1) 0 = false →
          ∃ t, exec (.hkPwmSet q i) s = .next t ∧ t.waits q i [.pwm p] ∧ t.r F.HK_PWM_STAT_STATE p = 2 ∧
            t = { s with regs := t.regs, jobs := t.jobs } ∧ onlyRegs [(F.HK_PWM_STAT_STATE, p), (F.HK_PWM_CFG_POL, p)] s t)))

/-- THERMAL_TICK shows every reading, fails a sensor whose reading leaves the range or whose conversion did not complete
four times, forms each zone's temperature from its valid sensors and its level from its flags, and moves the throttle step;
a zone that enters SHUTDOWN is recorded and takes the chip to RESET (R383-R388, R390-R392). What breaks a row of
disagreements, and what a wait for a reading means for it, is log 61. exec answers a next state, under conditions on the
operands and the state alone, for each of: thermalTick. -/
def Obligations.ThermalTick : Prop :=
  ∀ (rs : List (Option Reading)) (s : State),
    (s.powered = false → ∃ t, exec (.thermalTick rs) s = .next t ∧ t = s) ∧
    (s.powered = true → (s.thermalSense rs).shutZones s = [] → ∃ t, exec (.thermalTick rs) s = .next t ∧
      (∀ k, k < 128 → ∀ r, rs.getD k none = some r → t.r F.THM_SENSOR_TEMP k = r.temp.toNat ∧
        (s.sensorFailed k = false → r.temp.toInt < -880 ∨ 2400 < r.temp.toInt →
          (s.sensorh k).first = true ∨ (s.sensorh k).same < 63 → t.sensorFailed k = true ∧ t.r F.THM_SENSOR_CAUSE k = 2)) ∧
      (∀ k, k < 128 → rs.getD k none = none → s.sensorFailed k = false →
        (3 ≤ (s.sensorh k).noConv → t.sensorFailed k = true ∧ t.r F.THM_SENSOR_CAUSE k = 1)) ∧
      (∀ k, k < 128 → s.sensorFailed k = true → t.sensorFailed k = true) ∧
      (∀ z, z < 30 → t.r F.THM_ZONE_LEVEL z = t.zoneLevel z ∧
        ((t.zoneh z).subst = [] → t.zoneReadings z ≠ [] → (∀ p ∈ t.zoneReadings z, -32768 ≤ p.2 ∧ p.2 ≤ 32767) →
          (∀ p ∈ t.zoneReadings z, p.2 ≤ t.ri F.THM_ZONE_TEMP z) ∧
          ∃ p ∈ t.zoneReadings z, t.ri F.THM_ZONE_TEMP z = p.2)) ∧
      (s.dev = .reset → t.r F.THM_STAT_STEP = s.r F.THM_STAT_STEP ∧ onlyBlocks (blockAt 1) s t) ∧
      (s.dev ≠ .reset →
        (t.hotZones ≠ [] → s.r F.THM_STAT_STEP < 6 → s.r F.THM_TIMING_LO_STEP_MS ≤ s.thm.since + 1 →
          t.r F.THM_STAT_STEP = s.r F.THM_STAT_STEP + 1 ∧ t.thm.since = 0 ∧ t.thm.calm = 0 ∧
          ∀ k ∈ [15, 16, 19, 20, 39], t.r F.SYS_ISL_MARGIN_TS_PASS k = State.tsPass (s.r F.THM_STAT_STEP + 1) k) ∧
        (t.hotZones ≠ [] → s.r F.THM_STAT_STEP < 6 → s.thm.since + 1 < s.r F.THM_TIMING_LO_STEP_MS →
          t.r F.THM_STAT_STEP = s.r F.THM_STAT_STEP ∧ t.thm.since = s.thm.since + 1) ∧
        (t.hotZones = [] → t.thm.calm < s.r F.THM_TIMING_HI_RETREAT_MS → t.r F.THM_STAT_STEP = s.r F.THM_STAT_STEP) ∧
        (t.hotZones = [] → t.thm.calm = s.thm.calm + 1 ∧
          (s.r F.THM_STAT_STEP ≤ t.r F.THM_STAT_FLOOR → t.r F.THM_STAT_STEP = s.r F.THM_STAT_STEP))) ∧
      sameBytes s t ∧ t.now = s.now ∧ t.pending = s.pending ∧ t.rings = s.rings ∧ t.tap = s.tap ∧ t.readData = s.readData ∧
      onlyBlocks (fun b => blockAt 0 b || blockAt 1 b || blockAt 2 b || blockAt 3 b || blockAt 4 b || laneBlock b ||
        hostBlock b) s t) ∧
    (s.powered = true → (s.thermalSense rs).shutZones s ≠ [] → ∃ t, exec (.thermalTick rs) s = .next t ∧ t.dev = .reset ∧
      t.sys.thermalHold = true ∧ t.r F.SYS_RST_CAUSE_THERMAL = 1 ∧ sameBytes s t ∧
      (s.sys.thermalHold = false → t.r F.THM_SHUT_INFO_VALID = 1 ∧
        t.r F.THM_SHUT_INFO_ZONE ∈ (s.thermalSense rs).shutZones s ∧
        t.r F.THM_SHUT_INFO_TEMP = (s.thermalSense rs).r F.THM_ZONE_TEMP (t.r F.THM_SHUT_INFO_ZONE) % 65536 ∧
        ∀ z ∈ (s.thermalSense rs).shutZones s, (s.thermalSense rs).ri F.THM_ZONE_TEMP z ≤
          (s.thermalSense rs).ri F.THM_ZONE_TEMP (t.r F.THM_SHUT_INFO_ZONE)))

/-- THERM_LIMITS writes the named fields of every named zone, the cold limits and the timing, and completes with BAD_PARAM
and changes nothing where its bytes break its rules (R397). exec answers a next state, under conditions on the operands and
the state alone, for each of: thermLimits. -/
def Obligations.ThermLimits : Prop :=
  ∀ (q : Fin 32768) (i : Fin 65536) (s : State) (j : Job), s.bistHolds j = false →
    (s.started? 0x50 q i = some j →
      (s.limitsOk j = false → ∃ t, exec (.thermLimits q i) s = .next t ∧ t.due q i .badParam 0 0 ∧
        t = { s with jobs := t.jobs } ∧ onlyJob q i s t) ∧
      (s.limitsOk j = true → ∃ t, exec (.thermLimits q i) s = .next t ∧ t.due q i .ok 0 0 ∧
        (∀ z, z < 30 → bitAt (j.p 0 4) z = true →
          (bitAt (j.p 4 1) 0 = true → t.r F.THM_ZONE_LIM_WARN z = j.p 8 2) ∧
          (bitAt (j.p 4 1) 1 = true → t.r F.THM_ZONE_LIM_THROTTLE z = j.p 10 2) ∧
          (bitAt (j.p 4 1) 2 = true → t.r F.THM_ZONE_LIM_SHUTDOWN z = j.p 12 2) ∧
          (bitAt (j.p 4 1) 3 = true → t.r F.THM_ZONE_LIM_HYST z = j.p 5 1) ∧
          (bitAt (j.p 4 1) 4 = true → t.r F.THM_ZONE_LIM_OFFSET z = j.p 6 1) ∧
          960 ≤ t.ri F.THM_ZONE_LIM_WARN z ∧ t.ri F.THM_ZONE_LIM_WARN z ≤ t.ri F.THM_ZONE_LIM_THROTTLE z ∧
          t.ri F.THM_ZONE_LIM_THROTTLE z < t.ri F.THM_ZONE_LIM_SHUTDOWN z ∧ t.ri F.THM_ZONE_LIM_SHUTDOWN z ≤ 1840) ∧
        (∀ f ∈ [F.THM_ZONE_LIM_WARN, F.THM_ZONE_LIM_THROTTLE, F.THM_ZONE_LIM_SHUTDOWN, F.THM_ZONE_LIM_HYST,
          F.THM_ZONE_LIM_OFFSET], ∀ z, bitAt (j.p 0 4) z = false → t.r f z = s.r f z) ∧
        (bitAt (j.p 4 1) 5 = true → t.r F.THM_COLD_LIM_WARN = j.p 14 2 ∧ t.r F.THM_COLD_LIM_INHIBIT = j.p 16 2) ∧
        (bitAt (j.p 4 1) 6 = true → t.r F.THM_TIMING_LO_STEP_MS = j.p 18 2 ∧ t.r F.THM_TIMING_LO_SHED_MS = j.p 20 2 ∧
          t.r F.THM_TIMING_HI_RETREAT_MS = j.p 22 2) ∧
        t = { s with regs := t.regs, jobs := t.jobs } ∧ onlyJob q i s t ∧
        onlyFields [F.THM_ZONE_LIM_WARN, F.THM_ZONE_LIM_THROTTLE, F.THM_ZONE_LIM_SHUTDOWN, F.THM_ZONE_LIM_HYST,
          F.THM_ZONE_LIM_OFFSET, F.THM_COLD_LIM_WARN, F.THM_COLD_LIM_INHIBIT, F.THM_TIMING_LO_STEP_MS,
          F.THM_TIMING_LO_SHED_MS, F.THM_TIMING_HI_RETREAT_MS] s t))

/-- THERM_SHED_ORDER acts in SETUP, RUN and SAFE: it stores COUNT and the order, which the next shed follows, and leaves the
slots already shed as they are; a slot above 23, a slot named twice or a non-zero reserved byte completes with BAD_PARAM and
changes nothing (R398). exec answers a next state, under conditions on the operands and the state alone, for each of:
thermShedOrder. -/
def Obligations.ShedOrder : Prop :=
  (∀ s : State, (State.opInfo 0x51).any s.opState = true ↔ s.dev = .setup ∨ s.dev = .run ∨ s.dev = .safe) ∧
  ∀ (q : Fin 32768) (i : Fin 65536) (s : State) (j : Job), s.started? 0x51 q i = some j → s.bistHolds j = false →
    let slots := (List.range (j.p 0 1)).map fun k => j.p (8 + k) 1
    let ok := j.p 0 1 ≤ 24 ∧ j.pz 1 7 = true ∧ j.pz (8 + j.p 0 1) (24 - j.p 0 1) = true ∧ (∀ k ∈ slots, k ≤ 23) ∧ slots.Nodup
    (¬ok → ∃ t, exec (.thermShedOrder q i) s = .next t ∧ t.due q i .badParam 0 0 ∧ t = { s with jobs := t.jobs } ∧
      onlyJob q i s t) ∧
    (ok → ∃ t, exec (.thermShedOrder q i) s = .next t ∧ t.due q i .ok 0 0 ∧ t.r F.THM_SHED_COUNT_COUNT = j.p 0 1 ∧
      (∀ k, k < j.p 0 1 → t.shedEntry k = j.p (8 + k) 1) ∧
      (∀ z, s.hottest s.hotZones = some z →
        t.shedCandidate = slots.find? fun k => State.shedSide z k && !bitAt (s.r F.THM_SHED_SLOT) k) ∧
      t = { s with regs := t.regs, jobs := t.jobs } ∧ onlyJob q i s t ∧
      onlyFields [F.THM_SHED_COUNT_COUNT, F.THM_SHED_ORDER_E0, F.THM_SHED_ORDER_E1, F.THM_SHED_ORDER_E2,
        F.THM_SHED_ORDER_E3] s t)

/-- MSPM_FRAME runs the firmware's frame, in BOOT a read alone, else the oldest line fill, else the next transfer, counts it
and records what it sends, with the exit frame of continuous mode before a frame to XIP_TGT that is no fill; no strobe in a
DDR read raises DQS_TIMEOUT. XIP_READ is served by a valid line or waits for its fill, which serves it; MSP_XFER asks for
frames, MSP_POLL_WAIT for the next of a poll, and MSP_POLL_TIMEOUT ends a poll with TIMEOUT (R402, R403, R407, R409-R413).
That a frame is one command with its data is log 14; what a change of EN or CONT_EN does to continuous mode is log 62. exec
answers a next state, under conditions on the operands and the state alone, for each of: mspmFrame, xipRead, mspPollWait,
mspPollTimeout, mspXfer. -/
def Obligations.SerialMaster : Prop :=
  (∀ (f : FwFrame) (d : List (BitVec 8)) (b : Bool) (s : State), s.live = true →
    (targetOk f.tgt.val = false ∨ s.dev = .boot ∧ f.read = false →
      ∃ t, exec (.mspmFrame (some f) d b) s = .next t ∧ t = s) ∧
    (targetOk f.tgt.val = true → (s.dev = .boot → f.read = true) →
      ∃ t, exec (.mspmFrame (some f) d b) s = .next t ∧ t.r F.MSPM_STAT_TGT = f.tgt.val ∧
      (let toXip : Prop := f.tgt.val = s.r F.MSPM_XIP_CFG0_XIP_TGT
       let own (x : Frame) : Prop := x.cls = 1 ∧ x.tgt = f.tgt.val ∧ x.cmd = f.cmd.map BitVec.toNat ∧
         x.addr = f.addr.map BitVec.toNat ∧ x.dummy = f.dummy.val ∧ x.mode = none ∧ x.read = f.read ∧
         x.data = (if f.read then d else f.data).map BitVec.toNat ∧ x.phCmd = f.phCmd.val ∧ x.phAddr = f.phAddr.val ∧
         x.phData = f.phData.val
       (¬toXip ∨ s.msp.cont = false → t.r F.MSPM_FRAMES_COUNT = satAdd 32 (s.r F.MSPM_FRAMES_COUNT) 1 ∧
         (∃ x, t.msp.sent = [x] ∧ own x) ∧ t.msp.cont = s.msp.cont ∧
         t.r F.MSPM_STAT_CONT_ACTIVE = s.r F.MSPM_STAT_CONT_ACTIVE) ∧
       (toXip → s.msp.cont = true → t.r F.MSPM_STAT_CONT_ACTIVE = 0 ∧ t.msp.cont = false ∧
         t.r F.MSPM_FRAMES_COUNT = satAdd 32 (satAdd 32 (s.r F.MSPM_FRAMES_COUNT) 1) 1 ∧
         ∃ e x, t.msp.sent = [e, x] ∧ own x ∧ e.cls = 1 ∧ e.tgt = f.tgt.val ∧ e.cmd = [] ∧
           e.addr = List.replicate (s.r F.MSPM_XIP_CFG0_ADDR_LEN) 0 ∧ e.mode = some (s.r F.MSPM_XIP_CFG1_EXIT_BYTE) ∧
           e.data = []) ∧
       t.msp = { s.msp with lines := if toXip ∧ f.read = false then [] else s.msp.lines, sent := t.msp.sent,
                            cont := t.msp.cont, sel := if 16 ≤ f.tgt.val then f.tgt.val - 16 else s.msp.sel }) ∧
      (f.read = true → f.ddr = true → b = false → t.r F.MSPM_EVT_DQS_TIMEOUT = 1 ∧ t.isHeld 759 0x9001 = true) ∧
      (f.read = false ∨ f.ddr = false ∨ b = true → t.held = s.held ∧ t.occ = s.occ ∧
        t.r F.MSPM_EVT_DQS_TIMEOUT = s.r F.MSPM_EVT_DQS_TIMEOUT) ∧
      t = { s with regs := t.regs, msp := t.msp, held := t.held, occ := t.occ } ∧
      onlyFields [F.MSPM_STAT_TGT, F.MSPM_FRAMES_COUNT, F.MSPM_STAT_CONT_ACTIVE, F.MSPM_EVT_DQS_TIMEOUT] s t)) ∧
  (∀ (d : List (BitVec 8)) (b : Bool) (s : State), s.live = true →
    (s.msp.fills = [] → s.msp.xfers = [] → ∃ t, exec (.mspmFrame none d b) s = .next t ∧ t = s) ∧
    (∀ g l, s.msp.fills = g :: l → ∃ t, exec (.mspmFrame none d b) s = .next t ∧
        (bitAt (s.r F.MSPM_XIP_CFG0_PH_DATA) 2 = false ∨ b = true →
          t.msp.lines = ((g.line, (List.range 64).map fun k => byteAt (d.map BitVec.toNat) k) ::
            s.msp.lines.filter fun x => x.1 != g.line).take 4 ∧
          (g.prefetch = true → t.msp.fills = l) ∧
          (g.prefetch = false → t.msp.fills = l ∨ t.msp.fills = l ++ [{ line := g.line + 1, prefetch := true }]) ∧
          (g.reader = true → t.msp.window = (List.range 64).map fun k => byteAt (d.map BitVec.toNat) k) ∧
          (g.reader = false → t.msp.window = s.msp.window) ∧
          t.held = s.held ∧ t.occ = s.occ ∧ t.r F.MSPM_EVT_DQS_TIMEOUT = s.r F.MSPM_EVT_DQS_TIMEOUT) ∧
        (bitAt (s.r F.MSPM_XIP_CFG0_PH_DATA) 2 = true → b = false → t.msp.lines = s.msp.lines ∧ t.msp.fills = l ∧
          t.msp.window = s.msp.window ∧
          t.r F.MSPM_EVT_DQS_TIMEOUT = 1 ∧ t.isHeld 759 0x9001 = true) ∧
        t.r F.MSPM_FRAMES_COUNT = satAdd 32 (s.r F.MSPM_FRAMES_COUNT) 1 ∧
        t.r F.MSPM_STAT_TGT = s.r F.MSPM_XIP_CFG0_XIP_TGT % 32 ∧
        t.r F.MSPM_STAT_CONT_ACTIVE = (s.on F.MSPM_XIP_CFG0_CONT_EN).toNat ∧ t.msp.cont = s.on F.MSPM_XIP_CFG0_CONT_EN ∧
        t.msp.sent.length = 1 ∧ (∀ x ∈ t.msp.sent, x.cls = 2 ∧ x.tgt = s.r F.MSPM_XIP_CFG0_XIP_TGT ∧ x.read = true ∧
          x.addr = (leBytes (s.r F.MSPM_XIP_CFG0_ADDR_LEN) (64 * g.line)).reverse ∧
          (s.msp.cont = true → x.cmd = []) ∧
          (s.msp.cont = false → x.cmd =
            [s.r F.MSPM_XIP_CFG1_CMD0, s.r F.MSPM_XIP_CFG1_CMD1].take (s.r F.MSPM_XIP_CFG0_CMD_LEN)) ∧
          (s.on F.MSPM_XIP_CFG0_CONT_EN = true → x.mode = some (s.r F.MSPM_XIP_CFG1_MODE_BYTE))) ∧
        t.msp = { s.msp with lines := t.msp.lines, fills := t.msp.fills, sent := t.msp.sent, sel := t.msp.sel,
                             window := t.msp.window, cont := t.msp.cont } ∧
        t = { s with regs := t.regs, msp := t.msp, held := t.held, occ := t.occ } ∧
        onlyFields [F.MSPM_STAT_TGT, F.MSPM_FRAMES_COUNT, F.MSPM_STAT_CONT_ACTIVE, F.MSPM_EVT_DQS_TIMEOUT] s t) ∧
    (∀ x, s.msp.fills = [] → s.xferNext = some x → s.serviced = true →
      (let j := x.job
       let moves := State.Job.xRead j = true ∧ State.Job.xLen j ≠ 0
       let silent := moves ∧ bitAt (j.p 7 1) 2 = true ∧ b = false
       let dueJob (t : State) (st : Status) (r0 r1 : Nat) : Prop :=
         ∀ k, s.job? j.ring j.idx = some k → t.due j.ring j.idx st r0 r1
       let ended (t : State) : Prop := t.msp.xfers = s.msp.xfers.filter fun y => !State.Xfer.isOf j.ring j.idx y
       (State.Job.xNvw j = true → x.frames = 0 → s.nvmTempBad = true → ∃ t, exec (.mspmFrame none d b) s = .next t ∧
         dueJob t .thermalInhibit 0 0 ∧ ended t ∧ t.msp.ptr = (j.ring + 1) % 32768 ∧
         t = { s with jobs := t.jobs, msp := t.msp } ∧ onlyJob j.ring j.idx s t) ∧
       (State.Job.xNvw j = false ∨ x.frames ≠ 0 ∨ s.nvmTempBad = false → ∃ t, exec (.mspmFrame none d b) s = .next t ∧
         (silent → dueJob t .timeout 0 0 ∧ ended t ∧ t.r F.MSPM_EVT_DQS_TIMEOUT = 1 ∧ t.isHeld 759 0x9001 = true ∧
           t.hostMem = s.hostMem) ∧
         (¬silent → State.Job.xPoll j = false → dueJob t .ok (State.Job.xLen j) 0 ∧ ended t) ∧
         (¬silent → State.Job.xPoll j = true →
           let v := byteAt (d.map BitVec.toNat) 0
           (v &&& j.p 20 1 = j.p 21 1 → ended t ∧ dueJob t .ok v (x.frames + 1)) ∧
           (v &&& j.p 20 1 ≠ j.p 21 1 → t.jobs = s.jobs ∧
             t.msp.xfers = s.msp.xfers.map fun y => if State.Xfer.isOf j.ring j.idx y then
               { x with frames := x.frames + 1, last := v, waits := true } else y)) ∧
         (¬silent → State.Job.xRead j = true → j.lost = false → ∀ k, k < State.Job.xLen j →
           t.hostMem.read (j.addr1 + k) = byteAt (d.map BitVec.toNat) k) ∧
         (State.Job.xRead j = false ∨ j.lost = true → t.hostMem = s.hostMem) ∧
         onlyBytes j.addr1 (State.Job.xLen j) s t ∧ t.r F.MSPM_STAT_TGT = j.p 0 1 % 32 ∧
         t.msp.ptr = (j.ring + 1) % 32768 ∧ t.msp.fills = s.msp.fills ∧
         t.msp.lines = (if j.p 0 1 = s.r F.MSPM_XIP_CFG0_XIP_TGT ∧ ¬moves then [] else s.msp.lines) ∧
         t = { s with regs := t.regs, msp := t.msp, jobs := t.jobs, hostMem := t.hostMem, held := t.held, occ := t.occ } ∧
         onlyJob j.ring j.idx s t ∧
         onlyFields [F.MSPM_STAT_TGT, F.MSPM_FRAMES_COUNT, F.MSPM_STAT_CONT_ACTIVE, F.MSPM_EVT_DQS_TIMEOUT] s t)))) ∧
  (∀ (l : Fin 1048576) (s : State), s.live = true →
    (s.on F.MSPM_XIP_CFG0_EN = false → ∃ t, exec (.xipRead l) s = .next t ∧ t = s) ∧
    (s.on F.MSPM_XIP_CFG0_EN = true → s.xipValid l = false → s.xipAsked l = true →
      (let asked := s.msp.fills.map fun f => if f.line = l.val then { f with reader := true } else f
       ∃ t, exec (.xipRead l) s = .next t ∧ t = { s with msp := { s.msp with fills := asked } })) ∧
    (s.on F.MSPM_XIP_CFG0_EN = true → s.xipValid l = true → ∃ t, exec (.xipRead l) s = .next t ∧
      (∃ data, t.msp.lines.head? = some (l.val, data) ∧ t.msp.window = data ∧ (l.val, data) ∈ s.msp.lines) ∧
      t.msp = { s.msp with lines := t.msp.lines, window := t.msp.window } ∧
      (t.msp.lines.filter fun x => x.1 != l.val) = (s.msp.lines.filter fun x => x.1 != l.val) ∧
      t.r F.MSPM_XIP_HIT_COUNT = satAdd 32 (s.r F.MSPM_XIP_HIT_COUNT) 1 ∧
      t = { s with regs := t.regs, msp := t.msp } ∧ onlyFields [F.MSPM_XIP_HIT_COUNT] s t) ∧
    (s.on F.MSPM_XIP_CFG0_EN = true → s.xipValid l = false → s.xipAsked l = false → ∃ t, exec (.xipRead l) s = .next t ∧
      t.msp = { s.msp with fills := s.msp.fills ++ [{ line := l, prefetch := false }] } ∧
      t.r F.MSPM_XIP_MISS_COUNT = satAdd 32 (s.r F.MSPM_XIP_MISS_COUNT) 1 ∧
      t = { s with regs := t.regs, msp := t.msp } ∧ onlyFields [F.MSPM_XIP_MISS_COUNT] s t)) ∧
  (∀ (q : Fin 32768) (i : Fin 65536) (s : State),
    (s.serviced = true →
      (s.pollOf q i = none → (∃ t, exec (.mspPollWait q i) s = .next t ∧ t = s) ∧
        ∃ t, exec (.mspPollTimeout q i) s = .next t ∧ t = s) ∧
      (∀ x, s.pollOf q i = some x →
        (let asked := s.msp.xfers.map fun y =>
           if State.Xfer.isOf x.job.ring x.job.idx y then { x with waits := false } else y
         ∃ t, exec (.mspPollWait q i) s = .next t ∧ t = { s with msp := { s.msp with xfers := asked } }) ∧
        (x.frames = 0 → ∃ t, exec (.mspPollTimeout q i) s = .next t ∧ t = s) ∧
        (x.frames ≠ 0 → ∃ t, exec (.mspPollTimeout q i) s = .next t ∧
          t.msp = { s.msp with xfers := s.msp.xfers.filter fun y => !State.Xfer.isOf x.job.ring x.job.idx y } ∧
          (∀ k, s.job? x.job.ring x.job.idx = some k → t.due x.job.ring x.job.idx .timeout x.last x.frames) ∧
          t.r F.MSPM_EVT_POLL_TIMEOUT = 1 ∧ t.isHeld 759 0x9002 = true ∧
          t = { s with regs := t.regs, msp := t.msp, jobs := t.jobs, held := t.held, occ := t.occ } ∧
          onlyJob x.job.ring x.job.idx s t ∧ onlyRegs [(F.MSPM_EVT_POLL_TIMEOUT, 0)] s t)) ∧
      (∀ x ∈ s.msp.xfers, x.job.ring = q → x.job.idx = i → State.Job.xPoll x.job = true →
        ∃ y ∈ s.msp.xfers, s.pollOf q i = some y ∧ y.job.ring % 32768 = q ∧ y.job.idx = i ∧ State.Job.xPoll y.job = true)) ∧
    (∀ j, s.started? 0x58 q i = some j → s.bistHolds j = false →
      (State.xferOk j = false → ∃ t, exec (.mspXfer q i) s = .next t ∧ t.due q i .badParam 0 0 ∧
        t = { s with jobs := t.jobs } ∧ onlyJob q i s t) ∧
      (State.xferOk j = true → ∃ t, exec (.mspXfer q i) s = .next t ∧ t.waits q i [.xfer] ∧
        t = { s with jobs := t.jobs, msp := { s.msp with xfers := s.msp.xfers ++ [{ job := j }] } } ∧ onlyJob q i s t)))

/-- Frames of the addressed mode. Outside that mode they change nothing. A READ answers the words at its address, a slow
word starting a fetch and answering 0xB5B5B5B5, a WRITE writes them, STATUS answers MSPS_STAT and MSPS_EVT, FETCH the words
that the fetch read and SLAVE_FETCH_DONE reads them; a frame in error sets FRAME_ERR, counts and posts MSPS_FRAME_ERROR with
its cause (R414-R420). A write that FAULT or DUMP ignores sets WR_IGNORED, whether or not its address is mapped. That a
frame is one command that the pins spell is log 63; what a part under BIST answers is log 64. CHAIN_RELEASE: a frame whose
length is no multiple of 64 clocks, or whose word is not valid, sets CHAIN_ERR and counts; a NOP answers STATUS 4, a READ of
a fast word its value with STATUS 0, of a slow word STATUS 2, of an unmapped one STATUS 5, a WRITE writes and answers STATUS
1, of an unmapped word STATUS 5, of one that FAULT or DUMP ignores STATUS 6; every response carries 0b10 and the address.
The frame shifts out the response held before it and then what came in before the last 64 bits, which are the word (R421,
R422). What leaves while a frame comes in is log 98; when the held response is loaded, and that a frame is one command, is
log 63. exec answers a next state, under conditions on the operands and the state alone, for each of: slaveWrite, slaveRead,
slaveStatus, slaveFetch, slaveFetchDone, slaveUndefinedCommand, chainRelease. -/
def Obligations.SlavePort : Prop :=
  (
  ∀ (sh : Bool) (s : State),
    let inError (t : State) (cause cmd : Nat) : Prop :=
      t.r F.MSPS_EVT_FRAME_ERR = 1 ∧ t.r F.MSPS_ERRS_COUNT = satAdd 32 (s.r F.MSPS_ERRS_COUNT) 1 ∧
      t.r F.MSPS_STAT_SHAPE = sh.toNat ∧ t.isHeld 760 0x9101 = true ∧
      (s.isHeld 760 0x9101 = false → ∃ l e, t.held = l ++ [e] ∧ e.data = State.pack [(1, cause), (1, cmd)]) ∧
      onlyRegs [(F.MSPS_EVT_FRAME_ERR, 0), (F.MSPS_ERRS_COUNT, 0), (F.MSPS_STAT_SHAPE, 0)] s t
    let quiet (t : State) : Prop := t = { s with regs := t.regs, msp := t.msp, readData := t.readData } ∧
      t.r F.MSPS_STAT_SHAPE = sh.toNat
    let accErrs : List (Fld × Nat) := [(F.MSPS_STAT_SHAPE, 0), (F.MSPS_EVT_END_OF_MAP, 0), (F.SYS_ACC_ERR_UNMAPPED, 0),
      (F.SYS_ACC_ERR_MASTER, 0), (F.SYS_ACC_ERR_ADDR_IN_BAR2, 0), (F.SYS_ACC_ERR_ADDR_ADDR, 0), (F.SYS_ACC_ERR_OVERRUN, 0)]
    let ignored : List (Fld × Nat) := (F.MSPS_EVT_WR_IGNORED, 0) :: (F.SYS_ACC_ERR_BAD_VALUE, 0) :: accErrs
    ((s.live = false ∧ s.frozen = false) ∨ s.r F.MSPS_STAT_MODE ≠ 0 →
      ∀ (a : BitVec 32) (whole : Bool) (n : Nat) (vs : List (BitVec 32)) (cut : Bool) (b : Option (BitVec 8)),
      ∀ c ∈ [Instr.slaveRead sh a whole n, .slaveWrite sh a whole vs cut, .slaveStatus sh n, .slaveFetch sh n,
        .slaveFetchDone, .slaveUndefinedCommand sh b], ∃ t, exec c s = .next t ∧ t = s) ∧
    (s.frozen = true → s.r F.MSPS_STAT_MODE = 0 → ∀ a v : BitVec 32, frameAddrOk a.toNat = true →
      a.toNat ≠ F.SYS_SWRST_KEY.base ∨ v ≠ 0xD192 →
      ∃ t, exec (.slaveWrite sh a true [v] false) s = .next t ∧ t.r F.MSPS_EVT_WR_IGNORED = 1 ∧
        (locate a.toNat = none → t.r F.MSPS_EVT_END_OF_MAP = 1 ∧ t.r F.SYS_ACC_ERR_UNMAPPED = 1 ∧
          t.r F.SYS_ACC_ERR_BAD_VALUE = s.r F.SYS_ACC_ERR_BAD_VALUE) ∧
        ((locate a.toNat).isSome = true → t.r F.SYS_ACC_ERR_BAD_VALUE = 1 ∧
          t.r F.MSPS_EVT_END_OF_MAP = s.r F.MSPS_EVT_END_OF_MAP ∧ t.r F.SYS_ACC_ERR_UNMAPPED = s.r F.SYS_ACC_ERR_UNMAPPED) ∧
        t = { s with regs := t.regs, held := t.held, occ := t.occ } ∧ onlyRegs ignored s t) ∧
    (s.live = true → s.r F.MSPS_STAT_MODE = 0 →
      (∀ (a : BitVec 32) (n : Nat) (vs : List (BitVec 32)) (cut : Bool),
        (∃ t, exec (.slaveRead sh a false n) s = .next t ∧ inError t 3 0xA1 ∧
          t = { s with regs := t.regs, held := t.held, occ := t.occ }) ∧
        (∃ t, exec (.slaveWrite sh a false vs cut) s = .next t ∧ inError t 3 0xA2 ∧
          t = { s with regs := t.regs, held := t.held, occ := t.occ }) ∧
        (frameAddrOk a.toNat = false →
          (∃ t, exec (.slaveRead sh a true n) s = .next t ∧ inError t 2 0xA1 ∧ t.readData = List.replicate n 0 ∧
            t = { s with regs := t.regs, held := t.held, occ := t.occ, readData := t.readData }) ∧
          (∃ t, exec (.slaveWrite sh a true vs cut) s = .next t ∧ inError t 2 0xA2 ∧
            t = { s with regs := t.regs, held := t.held, occ := t.occ })) ∧
        (frameAddrOk a.toNat = true → locate a.toNat = none →
          ∃ t, exec (.slaveRead sh a true 1) s = .next t ∧ t.readData = [0] ∧ t.r F.MSPS_EVT_END_OF_MAP = 1 ∧
            t.r F.SYS_ACC_ERR_UNMAPPED = 1 ∧
            t = { s with regs := t.regs, held := t.held, occ := t.occ, readData := t.readData } ∧ onlyRegs accErrs s t) ∧
        (frameAddrOk a.toNat = true → a.toNat + 4 * n ≤ 2 ^ 26 →
          ((List.range n).all fun k => match locate (a.toNat + 4 * k) with
            | some (sp, i, w) => fastClass (a.toNat + 4 * k) && !s.bistTested sp i &&
                (sp.word w).all fun f => !f.multi && f.acc != .rc && f.id != F.MSPS_STAT_SHAPE.id
            | none => false) = true →
          ∃ t, exec (.slaveRead sh a true n) s = .next t ∧ quiet t ∧ t.msp = s.msp ∧
            t.readData = ((List.range n).map fun k => match locate (a.toNat + 4 * k) with
              | some (sp, i, w) => (sp.word w).foldl (fun x f => x + s.readField f i * 2 ^ (f.lo % 32)) 0
              | none => 0) ∧
            onlyRegs [(F.MSPS_STAT_SHAPE, 0)] s t) ∧
        (frameAddrOk a.toNat = true → ∀ sp i k, locate a.toNat = some (sp, i, k) → fastClass a.toNat = true →
          s.bistTested sp i = false → (sp.word k).all (fun f => !f.multi && f.id != F.MSPS_STAT_SHAPE.id) = true →
          ∃ t, exec (.slaveRead sh a true 1) s = .next t ∧ quiet t ∧ t.msp = s.msp ∧
            t.readData = [(sp.word k).foldl (fun x f => x + s.readField f i * 2 ^ (f.lo % 32)) 0] ∧
            (∀ f ∈ sp.word k, f.acc = .rc → t.r f i = 0) ∧
            onlyRegs ((F.MSPS_STAT_SHAPE, 0) :: ((sp.word k).filter fun f => f.acc == .rc).map (·, i)) s t) ∧
        (frameAddrOk a.toNat = true → 0 < n → n ≤ 16 → a.toNat + 4 * n ≤ 2 ^ 26 → (locate a.toNat).isSome = true →
          fastClass a.toNat = false →
          (s.r F.MSPS_STAT_FETCH = 0 → ∃ t, exec (.slaveRead sh a true n) s = .next t ∧ quiet t ∧
            t.readData = List.replicate n 0xB5B5B5B5 ∧ t.r F.MSPS_STAT_FETCH = 1 ∧ t.r F.MSPS_FETCH_ADDR_ADDR = a.toNat ∧
            t.msp = { s.msp with fetch := (List.range n).map fun k => a.toNat + 4 * k } ∧
            onlyRegs [(F.MSPS_STAT_SHAPE, 0), (F.MSPS_STAT_FETCH, 0), (F.MSPS_FETCH_ADDR_ADDR, 0)] s t) ∧
          (s.r F.MSPS_STAT_FETCH ≠ 0 → ∃ t, exec (.slaveRead sh a true n) s = .next t ∧
            t.readData = List.replicate n 0xB5B5B5B5 ∧ t.r F.MSPS_EVT_FETCH_FULL = 1 ∧ t.isHeld 760 0x9103 = true ∧
            t.msp = s.msp ∧ t = { s with regs := t.regs, held := t.held, occ := t.occ, readData := t.readData } ∧ onlyRegs [(F.MSPS_STAT_SHAPE, 0), (F.MSPS_EVT_FETCH_FULL, 0)] s t))) ∧
      (∀ a : BitVec 32, frameAddrOk a.toNat = true → ∃ t, exec (.slaveWrite sh a true [] true) s = .next t ∧
        inError t 3 0xA2 ∧ t = { s with regs := t.regs, held := t.held, occ := t.occ }) ∧
      (∀ (a v : BitVec 32), frameAddrOk a.toNat = true → locate a.toNat = none →
        ∃ t, exec (.slaveWrite sh a true [v] false) s = .next t ∧ t.r F.MSPS_EVT_END_OF_MAP = 1 ∧
          t.r F.SYS_ACC_ERR_UNMAPPED = 1 ∧ t = { s with regs := t.regs, held := t.held, occ := t.occ } ∧
          onlyRegs accErrs s t) ∧
      (∀ (a v : BitVec 32) (sp : RegSpec) (i k : Nat), s.dev = .setup → frameAddrOk a.toNat = true →
        locate a.toNat = some (sp, i, k) → plainRegister sp = true → s.writeIgnored sp i = false →
        (sp.word k).all (fun f => !f.multi) = true →
        s.encAccepted i (s.newValues .serial sp i k v.toNat none) = s.newValues .serial sp i k v.toNat none →
        ∃ t, exec (.slaveWrite sh a true [v] false) s = .next t ∧
          (∀ f ∈ sp.word k, (f.acc = .rw ∨ f.acc = .lk) → t.r f i = bits v.toNat (f.lo % 32) f.width) ∧
          t = { s with regs := t.regs } ∧ onlyRegs ((F.MSPS_STAT_SHAPE, 0) :: (sp.word k).map (·, i)) s t) ∧
      (∀ n : Nat, (∃ t, exec (.slaveStatus sh n) s = .next t ∧ quiet t ∧ t.msp = s.msp ∧
          t.readData.length = n ∧ (∀ v ∈ t.readData, v = t.slaveStatus ∧ v < 2 ^ 21) ∧
          onlyRegs [(F.MSPS_STAT_SHAPE, 0)] s t) ∧
        (∃ t, exec (.slaveFetch sh n) s = .next t ∧ quiet t ∧ t.readData.length = n ∧
          (s.r F.MSPS_STAT_FETCH = 0 → t.readData = List.replicate n 0 ∧ t.msp = s.msp) ∧
          (s.r F.MSPS_STAT_FETCH = 1 → t.readData = List.replicate n 0xB5B5B5B5 ∧ t.msp = s.msp) ∧
          (s.r F.MSPS_STAT_FETCH = 2 → t.msp = { s.msp with fetched := s.msp.fetched.drop n } ∧
            (∀ k, k < n → t.readData.getD k 0 = s.msp.fetched.getD k 0) ∧
            (s.msp.fetched.length ≤ n → t.r F.MSPS_STAT_FETCH = 0) ∧
            (n < s.msp.fetched.length → t.r F.MSPS_STAT_FETCH = 2)) ∧
          onlyRegs [(F.MSPS_STAT_SHAPE, 0), (F.MSPS_STAT_FETCH, 0), (F.MSPS_STAT_WORDS, 0)] s t)) ∧
      (s.r F.MSPS_STAT_FETCH ≠ 1 → ∃ t, exec .slaveFetchDone s = .next t ∧ t = s) ∧
      (s.r F.MSPS_STAT_FETCH = 1 → s.msp.fetch.length ≤ 16 → ∃ t, exec .slaveFetchDone s = .next t ∧
        t.r F.MSPS_STAT_FETCH = 2 ∧ t.r F.MSPS_STAT_WORDS = s.msp.fetch.length ∧
        t.msp.fetched.length = s.msp.fetch.length ∧ t.msp.fetch = [] ∧
        (∀ a sp i k f, s.msp.fetch = [a] → locate a = some (sp, i, k) → sp.word k = [f] → f.multi = false →
          s.bistTested sp i = false → f.base / 0x10000 ≠ 5 → t.msp.fetched = [s.readField f i * 2 ^ (f.lo % 32)]) ∧
        t.jobs = s.jobs ∧ sameBytes s t) ∧
      (∃ t, exec (.slaveUndefinedCommand sh none) s = .next t ∧ t.r F.MSPS_EVT_FRAME_ERR = 1 ∧ t.fresh = s.fresh + 1 ∧
        t = { s with regs := t.regs, held := t.held, occ := t.occ, fresh := t.fresh } ∧ t.isHeld 760 0x9101 = true ∧
        onlyRegs [(F.MSPS_EVT_FRAME_ERR, 0), (F.MSPS_ERRS_COUNT, 0), (F.MSPS_STAT_SHAPE, 0)] s t) ∧
      (∀ c : BitVec 8, c ≠ 0xA1 → c ≠ 0xA2 → c ≠ 0xA5 → c ≠ 0xA6 →
        ∃ t, exec (.slaveUndefinedCommand sh (some c)) s = .next t ∧ inError t 1 c.toNat ∧
          t = { s with regs := t.regs, held := t.held, occ := t.occ }))) ∧
  (
  ∀ (sh : Bool) (n : Nat) (w : BitVec 512) (s : State),
    let a := bits w.toNat 32 26
    let reply (t : State) (st v : Nat) : Prop := t.msp.chain = st * 2 ^ 60 + 2 * 2 ^ 58 + a * 2 ^ 32 + v
    let accErrs : List (Fld × Nat) := [(F.MSPS_STAT_SHAPE, 0), (F.MSPS_EVT_END_OF_MAP, 0), (F.SYS_ACC_ERR_UNMAPPED, 0),
      (F.SYS_ACC_ERR_MASTER, 0), (F.SYS_ACC_ERR_ADDR_IN_BAR2, 0), (F.SYS_ACC_ERR_ADDR_ADDR, 0), (F.SYS_ACC_ERR_OVERRUN, 0)]
    let out (t : State) : Prop := t.readData.length = n / 32 ∧ (∀ v ∈ t.readData, v < 2 ^ 32) ∧
      t.readData.foldl (fun x v => x * 2 ^ 32 + v) 0 = (s.msp.chain * 2 ^ n + w.toNat % 2 ^ n) / 2 ^ 64 % 2 ^ n ∧
      (s.msp.chain < 2 ^ 64 → t.readData.take 2 = [s.msp.chain / 2 ^ 32, s.msp.chain % 2 ^ 32])
    (s.r F.MSPS_STAT_MODE ≠ 1 ∨ s.live = false ∧ s.frozen = false → ∃ t, exec (.chainRelease sh n w) s = .next t ∧ t = s) ∧
    (s.live = true → s.r F.MSPS_STAT_MODE = 1 →
      (n = 0 ∨ n % 64 ≠ 0 → ∃ t, exec (.chainRelease sh n w) s = .next t ∧ t.r F.MSPS_EVT_CHAIN_ERR = 1 ∧
        t.r F.MSPS_ERRS_COUNT = satAdd 32 (s.r F.MSPS_ERRS_COUNT) 1 ∧ t.isHeld 760 0x9102 = true ∧
        t = { s with regs := t.regs, held := t.held, occ := t.occ } ∧
        onlyRegs [(F.MSPS_EVT_CHAIN_ERR, 0), (F.MSPS_ERRS_COUNT, 0), (F.MSPS_STAT_SHAPE, 0)] s t) ∧
      (0 < n → n % 64 = 0 →
        (bits w.toNat 58 2 ≠ 2 ∨ 3 ≤ bits w.toNat 60 3 ∨ a % 4 ≠ 0 → ∃ t, exec (.chainRelease sh n w) s = .next t ∧
          t.r F.MSPS_EVT_CHAIN_ERR = 1 ∧ t.isHeld 760 0x9102 = true ∧ t.msp = { s.msp with chain := 0x38 * 2 ^ 56 } ∧ out t ∧
          t = { s with regs := t.regs, held := t.held, occ := t.occ, msp := t.msp, readData := t.readData } ∧
          onlyRegs [(F.MSPS_EVT_CHAIN_ERR, 0), (F.MSPS_ERRS_COUNT, 0), (F.MSPS_STAT_SHAPE, 0)] s t) ∧
        (bits w.toNat 58 2 = 2 → a % 4 = 0 → bitAt w.toNat 63 = true → bits w.toNat 60 3 = 0 →
          ∃ t, exec (.chainRelease sh n w) s = .next t ∧ reply t 4 0 ∧ out t ∧ t.jobs = s.jobs ∧ sameBytes s t ∧
            onlyBlocks (fun b => blockAt 0 b || blockAt 3 b || blockAt 5 b) s t) ∧
        (bits w.toNat 58 2 = 2 → a % 4 = 0 → bitAt w.toNat 63 = false →
          (bits w.toNat 60 3 = 0 → ∃ t, exec (.chainRelease sh n w) s = .next t ∧ reply t 4 0 ∧ out t ∧
            t = { s with regs := t.regs, msp := t.msp, readData := t.readData } ∧ onlyRegs [(F.MSPS_STAT_SHAPE, 0)] s t) ∧
          (bits w.toNat 60 3 = 1 →
            (locate a = none → ∃ t, exec (.chainRelease sh n w) s = .next t ∧ reply t 5 0 ∧
              out t ∧ t.r F.MSPS_EVT_END_OF_MAP = 1 ∧ t.r F.SYS_ACC_ERR_UNMAPPED = 1 ∧
              t = { s with regs := t.regs, held := t.held, occ := t.occ, msp := t.msp, readData := t.readData } ∧
              onlyRegs accErrs s t) ∧
            (∀ sp i k, locate a = some (sp, i, k) → fastClass a = false → ∃ t, exec (.chainRelease sh n w) s = .next t ∧
              reply t 2 0 ∧ out t ∧ t = { s with regs := t.regs, msp := t.msp, readData := t.readData } ∧ onlyRegs [(F.MSPS_STAT_SHAPE, 0)] s t) ∧
            (∀ sp i k f, locate a = some (sp, i, k) → fastClass a = true → sp.word k = [f] → f.multi = false →
              s.bistTested sp i = false → f.id ≠ F.MSPS_STAT_SHAPE.id → ∃ t, exec (.chainRelease sh n w) s = .next t ∧
              reply t 0 (s.readField f i * 2 ^ (f.lo % 32) % 2 ^ 32) ∧ (f.acc = .rc → t.r f i = 0) ∧ out t ∧
              t = { s with regs := t.regs, msp := t.msp, readData := t.readData } ∧ onlyRegs [(F.MSPS_STAT_SHAPE, 0), (f, i)] s t)) ∧
          (bits w.toNat 60 3 = 2 → locate a = none → ∃ t, exec (.chainRelease sh n w) s = .next t ∧ reply t 5 0 ∧ out t ∧
            t.r F.MSPS_EVT_END_OF_MAP = 1 ∧ t.r F.SYS_ACC_ERR_UNMAPPED = 1 ∧
            t = { s with regs := t.regs, held := t.held, occ := t.occ, msp := t.msp, readData := t.readData } ∧
            onlyRegs accErrs s t) ∧
          (bits w.toNat 60 3 = 2 → ∀ sp i k f, s.dev = .setup → locate a = some (sp, i, k) → plainRegister sp = true →
            s.writeIgnored sp i = false → sp.word k = [f] → f.multi = false → (f.acc = .rw ∨ f.acc = .lk) →
            s.encAccepted i (s.newValues .serial sp i k (bits w.toNat 0 32) none) =
              s.newValues .serial sp i k (bits w.toNat 0 32) none →
            ∃ t, exec (.chainRelease sh n w) s = .next t ∧ reply t 1 0 ∧
              out t ∧ t.r f i = bits w.toNat (f.lo % 32) f.width ∧
              t = { s with regs := t.regs, msp := t.msp, readData := t.readData } ∧
              onlyRegs [(F.MSPS_STAT_SHAPE, 0), (f, i)] s t)))) ∧
    (s.frozen = true → s.r F.MSPS_STAT_MODE = 1 → 0 < n → n % 64 = 0 → bits w.toNat 58 2 = 2 → a % 4 = 0 →
      bits w.toNat 60 3 = 2 → a ≠ F.SYS_SWRST_KEY.base ∨ bits w.toNat 0 32 ≠ 0xD192 →
      ∃ t, exec (.chainRelease sh n w) s = .next t ∧ ((locate a).isSome = true → reply t 6 0) ∧
        (locate a = none → reply t 5 0 ∧ t.r F.MSPS_EVT_END_OF_MAP = 1 ∧ t.r F.SYS_ACC_ERR_UNMAPPED = 1) ∧ out t ∧
        t.r F.MSPS_EVT_WR_IGNORED = 1 ∧
        t = { s with regs := t.regs, held := t.held, occ := t.occ, msp := t.msp, readData := t.readData } ∧
        onlyRegs ((F.MSPS_EVT_WR_IGNORED, 0) :: (F.SYS_ACC_ERR_BAD_VALUE, 0) :: accErrs) s t))

/-- The fatal conditions take the chip to FAULT: cause, detail, the state before and the time are recorded, outputs go to
their safe values, converters, captures, Plank, transfers and telemetry stop, and the registers are kept for the dump. A
transition under way ends first. Of several conditions of one instant the one with the lowest code is recorded; in FAULT,
DUMP, RESET and OFF they change nothing else (R88, R437, R438). That a transition lasts until the next nanosecond is log 31,
that the registers kept are those after the stop actions log 65. exec answers a next state, under conditions on the operands
and the state alone, for each of: pllLockTimeout. -/
def Obligations.FaultEntry : Prop :=
  (∀ s : State, s.live = true →
    let faulted (t : State) (cause detail : Nat) : Prop :=
      t.dev = .fault ∧ t.r F.SYS_FAULT_CAUSE_VALID = 1 ∧ t.r F.SYS_FAULT_CAUSE_CAUSE = cause ∧
      t.r F.SYS_FAULT_CAUSE_DETAIL = detail ∧ t.r F.SYS_FAULT_CAUSE_PREV_STATE = s.dev.code ∧
      t.r F.SYS_FAULT_TIME_TIME = s.sysTime % 2 ^ 64 ∧
      (∀ c, c < 48 → t.r F.HK_DAC_STAT_OUT c = s.r F.HK_DAC_CFG_CLEAR c % 65536 ∧ t.r F.HK_DAC_STAT_SLEWING c = 0) ∧
      (∀ p, p < 24 → t.r F.HK_PWM_STAT_PIN p = 0 ∧ t.r F.HK_PWM_STAT_STATE p = 0) ∧
      (∀ c, c < 2 → t.r F.HB_CONV_STAT_STATE c = 0) ∧ t.r F.HB_EXC_STAT_ON = 0 ∧
      (∀ k, k < 64 → t.r F.SYS_TLM_STAT_STATE k = 0) ∧ t.plank.engines = [] ∧ t.plank.waiting = [] ∧ t.msp.xfers = [] ∧
      t.nvm.running = none ∧ t.sys.snap = t.regs ∧ t.sys.tag = 0 ∧ t.sys.dump = none ∧ t.sys.dumped = false ∧
      (State.allBatts.any s.battActive = false → t.held = s.held ∧ t.hostMem = s.hostMem ∧ t.occ = s.occ) ∧
      t.sys.snapNs = s.poweredNs ∧ t.now = s.now ∧ t.pending = s.pending ∧ t.rings = s.rings ∧ t.pcie = s.pcie ∧
      t.lane = s.lane ∧ t.host = s.host ∧ t.tx = s.tx ∧ t.adc = s.adc ∧ t.eq = s.eq ∧ t.fec = s.fec ∧ t.pool = s.pool ∧ t.cal = s.cal ∧ t.tap = s.tap ∧
      onlyBlocks (fun b => !(laneBlock b) && !(hostBlock b)) s t
    let comes (c : Instr) (cause detail : Nat) : Prop :=
      ∃ t, exec c s = .next t ∧ t.dev = .fault ∧ t.r F.SYS_FAULT_CAUSE_VALID = 1 ∧ t.r F.SYS_FAULT_CAUSE_CAUSE = cause ∧
        t.r F.SYS_FAULT_CAUSE_DETAIL = detail ∧ t.r F.SYS_FAULT_TIME_TIME = s.sysTime % 2 ^ 64 ∧ t.sys.dumped = false ∧
        (s.sys.trans = [] → faulted t cause detail)
    (∀ e : Bool, comes (.bridgeTimeout e) 4 (if e then 2 else 0)) ∧
    comes .fwMemoryError 3 1 ∧
    (∀ c : BitVec 8, comes (.fwCheckFail c) 6 c.toNat) ∧
    (∃ t, exec (.pllLockTimeout 0) s = .next t ∧ t = s) ∧
    (∀ m : Fin 16, m ≠ 0 → comes (.pllLockTimeout m) 5
      ((if bitAt m 0 then 0 else if bitAt m 1 then 1 else if bitAt m 2 then 2 else 3) + 4 * s.sys.lrefAbsent.toNat))) ∧
  (∀ (e : Bool) (c : BitVec 8) (m : Fin 16) (s : State), s.live = false → m ≠ 0 →
    ∀ x ∈ [(Instr.bridgeTimeout e, 4, if e then 2 else 0), (.fwMemoryError, 3, 1), (.fwCheckFail c, 6, c.toNat),
      (.pllLockTimeout m, 5, (if bitAt m 0 then 0 else if bitAt m 1 then 1 else if bitAt m 2 then 2 else 3) +
        4 * s.sys.lrefAbsent.toNat)], ∃ t, exec x.1 s = .next t ∧
      (let first : Prop := s.dev = .fault ∧ s.r F.SYS_FAULT_TIME_TIME = s.sysTime ∧ s.sys.dumped = false ∧
         x.2.1 < s.r F.SYS_FAULT_CAUSE_CAUSE
       (first → t.r F.SYS_FAULT_CAUSE_CAUSE = x.2.1 ∧ t.r F.SYS_FAULT_CAUSE_DETAIL = x.2.2 ∧
         t = { s with regs := t.regs, sys := { s.sys with snap := t.sys.snap } } ∧
         onlyRegs [(F.SYS_FAULT_CAUSE_CAUSE, 0), (F.SYS_FAULT_CAUSE_DETAIL, 0)] s t) ∧
       (¬first → t = s)))

/-- DUMP_REQUEST acts in SAFE: with its key and its other bytes 0 it takes the chip to FAULT with cause HOST_REQUEST and its
HOST_TAG, and it never completes; a wrong key or a non-zero byte elsewhere completes with BAD_PARAM (R445). That a
transition under way, which ends first, lasts until the next nanosecond is log 31. exec answers a next state, under
conditions on the operands and the state alone, for each of: dumpRequest. -/
def Obligations.DumpRequest : Prop :=
  (∀ s : State, (State.opInfo 0x71).any s.opState = true ↔ s.dev = .safe) ∧
  ∀ (q : Fin 32768) (i : Fin 65536) (s : State) (j : Job), s.started? 0x71 q i = some j → s.bistHolds j = false →
    let ok := j.p 0 4 = 0xD192 ∧ j.pz 4 4 = true ∧ j.pz 16 16 = true
    (ok → ∃ t, exec (.dumpRequest q i) s = .next t ∧ t.dev = .fault ∧ t.r F.SYS_FAULT_CAUSE_CAUSE = 7 ∧
      t.sys.tag = j.p 8 8 ∧ t.r F.SYS_FAULT_CAUSE_DETAIL = 0 ∧ t.r F.SYS_FAULT_TIME_TIME = s.sysTime % 2 ^ 64 ∧
      (s.sys.trans = [] → t.r F.SYS_FAULT_CAUSE_PREV_STATE = s.dev.code ∧ t.rings = s.rings ∧
        onlyBlocks (fun b => !(laneBlock b) && !(hostBlock b)) s t) ∧
      (∀ p, exec (.completionWrite p) t = .next t)) ∧
    (¬ok → ∃ t, exec (.dumpRequest q i) s = .next t ∧ t.due q i .badParam 0 0 ∧ t = { s with jobs := t.jobs } ∧
      onlyJob q i s t)

/-- DUMP_ENTRY takes a chip in FAULT to DUMP and chooses the host buffer where memory requests are allowed, else the flash
summary unless the temperature forbids it; a lost link moves a host dump to the flash; DUMP_COMPLETE writes the dump with
the magic, the powered time at FAULT entry and the tag in its header, and DUMP_FLASH_TIMEOUT ends a summary: both return to
FAULT (R87, R436, R440-R444). What a lost link has let through is log 12; that an open host dump waits for memory requests
is log 65. exec answers a next state, under conditions on the operands and the state alone, for each of: dumpEntry,
hostDumpLinkLost, dumpFlashTimeout, dumpComplete. -/
def Obligations.Dump : Prop :=
  (∀ s : State, (s.dev ≠ .fault ∨ s.sys.dumped = true → ∃ t, exec .dumpEntry s = .next t ∧ t = s) ∧
    (s.dev = .fault → s.sys.dumped = false → ∃ t, exec .dumpEntry s = .next t ∧ t.dev = .dump ∧
      t.r F.SYS_DUMP_BYTES_BYTES = 0 ∧ t.r F.SYS_DUMP_STAT_HOST = 0 ∧
      t.r F.SYS_STATE_PREV_STATE = 6 ∧
      t.sys = { s.sys with dump := t.sys.dump, summary := t.sys.summary } ∧
      (s.r F.SYS_DUMP_BUF_SIZE_SIZE ≠ 0 → s.canIssue = true → t.sys.dump = some .host ∧ t.r F.SYS_DUMP_STAT_FLASH = 0) ∧
      (s.r F.SYS_DUMP_BUF_SIZE_SIZE = 0 ∨ s.canIssue = false →
        (s.nvmTempBad = true → t.sys.dump = some .ended ∧ t.r F.SYS_DUMP_STAT_FLASH = 2 ∧ t.sys.summary = s.sys.summary) ∧
        (s.nvmTempBad = false → t.sys.dump = some .flash ∧ t.r F.SYS_DUMP_STAT_FLASH = 0 ∧ t.sys.summary = [])) ∧
      t = { s with regs := t.regs, sys := t.sys } ∧
      onlyFields [F.SYS_STATE_STATE, F.SYS_STATE_PREV_STATE, F.SYS_DUMP_BYTES_BYTES, F.SYS_DUMP_STAT_HOST, F.SYS_DUMP_STAT_FLASH] s t)) ∧
  (∀ (s : State) (fw : List (BitVec 8)), s.dev ≠ .dump ∨ s.sys.dump = none →
    ∀ c ∈ [Instr.hostDumpLinkLost, .dumpFlashTimeout, .dumpComplete fw], ∃ t, exec c s = .next t ∧ t = s) ∧
  (∀ s : State, s.dev = .dump →
    (s.sys.dump ≠ some .host → ∃ t, exec .hostDumpLinkLost s = .next t ∧ t = s) ∧
    (s.sys.dump ≠ some .flash → ∃ t, exec .dumpFlashTimeout s = .next t ∧ t = s) ∧
    (s.sys.dump = some .host → ∃ t, exec .hostDumpLinkLost s = .next t ∧ t.r F.SYS_DUMP_STAT_HOST = 3 ∧
      t.r F.SYS_DUMP_BYTES_BYTES ≤ s.r F.SYS_DUMP_BUF_SIZE_SIZE ∧
      (s.nvmTempBad = false → t.sys = { s.sys with dump := some .flash, summary := [] } ∧
        t.r F.SYS_DUMP_STAT_FLASH = s.r F.SYS_DUMP_STAT_FLASH) ∧
      (s.nvmTempBad = true → t.sys = { s.sys with dump := some .ended } ∧ t.r F.SYS_DUMP_STAT_FLASH = 2) ∧
      onlyBytes (s.r F.SYS_DUMP_BUF_ADDR) (s.r F.SYS_DUMP_BUF_SIZE_SIZE) s t ∧
      (t.held.map fun e => (e.src, e.code, e.data)) = (s.held.map fun e => (e.src, e.code, e.data)) ∧
      t = { s with regs := t.regs, hostMem := t.hostMem, held := t.held, fresh := s.fresh + 1, sys := t.sys,
                   pcie := { s.pcie with linkL0 := false } } ∧
      onlyFields [F.SYS_DUMP_BYTES_BYTES, F.SYS_DUMP_STAT_HOST, F.SYS_DUMP_STAT_FLASH] s t) ∧
    (s.sys.dump = some .flash → ∃ t, exec .dumpFlashTimeout s = .next t ∧ t.dev = .fault ∧ t.sys.dump = none ∧
      t.sys.dumped = true ∧ t.r F.SYS_DUMP_STAT_FLASH = 3 ∧ t.r F.SYS_STATE_PREV_STATE = 7 ∧
      t = { s with regs := t.regs, sys := { s.sys with dump := none, dumped := true } } ∧
      onlyFields [F.SYS_STATE_STATE, F.SYS_STATE_PREV_STATE, F.SYS_DUMP_STAT_FLASH] s t) ∧
    (∀ fw : List (BitVec 8),
      (s.sys.dump = some .host → s.canIssue = false → ∃ t, exec (.dumpComplete fw) s = .next t ∧ t = s) ∧
      (s.sys.dump = some .host → s.canIssue = true → ∃ t, exec (.dumpComplete fw) s = .next t ∧ t.dev = .fault ∧
        t.sys.dumped = true ∧ (t.r F.SYS_DUMP_STAT_HOST = 1 ∨ t.r F.SYS_DUMP_STAT_HOST = 2) ∧
        t.hostMem.readLE (s.r F.SYS_DUMP_BUF_ADDR) 4 = 0x504D4452 ∧
        t.hostMem.readLE (s.r F.SYS_DUMP_BUF_ADDR + 8) 8 % 2 ^ 32 = t.r F.SYS_DUMP_BYTES_BYTES ∧
        t.hostMem.readLE (s.r F.SYS_DUMP_BUF_ADDR + 0x20) 8 = (s.nvm.baseS + s.sys.snapNs / 1000000000) % 2 ^ 64 ∧
        t.r F.SYS_DUMP_STAT_FLASH = s.r F.SYS_DUMP_STAT_FLASH ∧ t.r F.SYS_STATE_PREV_STATE = 7 ∧
        t.r F.SYS_DUMP_BYTES_BYTES ≤ max 0x1000 (s.r F.SYS_DUMP_BUF_SIZE_SIZE) ∧
        onlyBytes (s.r F.SYS_DUMP_BUF_ADDR) (max 0x1000 (s.r F.SYS_DUMP_BUF_SIZE_SIZE)) s t ∧
        t = { s with regs := t.regs, hostMem := t.hostMem, fresh := s.fresh + 1,
                     sys := { s.sys with dump := none, dumped := true } } ∧
        onlyFields [F.SYS_STATE_STATE, F.SYS_STATE_PREV_STATE, F.SYS_DUMP_BYTES_BYTES, F.SYS_DUMP_STAT_HOST] s t) ∧
      (s.sys.dump = some .flash → s.nvmTempBad = true → ∃ t, exec (.dumpComplete fw) s = .next t ∧ t.dev = .fault ∧
        t.r F.SYS_DUMP_STAT_FLASH = 2 ∧
        t = { s with regs := t.regs, sys := { s.sys with dump := none, dumped := true } } ∧
        onlyFields [F.SYS_STATE_STATE, F.SYS_STATE_PREV_STATE, F.SYS_DUMP_STAT_FLASH] s t) ∧
      (s.sys.dump = some .flash → s.nvmTempBad = false → ∃ t, exec (.dumpComplete fw) s = .next t ∧ t.dev = .fault ∧
        t.sys.dumped = true ∧ t.r F.SYS_DUMP_STAT_FLASH = 1 ∧ leAt t.sys.summary 0 4 = 0x504D4452 ∧
        leAt t.sys.summary 0x20 8 = (s.nvm.baseS + s.sys.snapNs / 1000000000) % 2 ^ 64 ∧
        leAt t.sys.summary 0x30 8 = s.sys.tag % 2 ^ 64 ∧
        (∀ f ∈ t.msp.sent, f.cls = 1 ∧ f.tgt = 0) ∧ 192 ≤ t.msp.sent.length ∧
        t = { s with regs := t.regs, fresh := s.fresh + 1, msp := { s.msp with sent := t.msp.sent },
                     sys := { s.sys with dump := none, dumped := true, summary := t.sys.summary } } ∧
        onlyFields [F.SYS_STATE_STATE, F.SYS_STATE_PREV_STATE, F.SYS_DUMP_STAT_FLASH] s t) ∧
      (s.sys.dump = some .ended → ∃ t, exec (.dumpComplete fw) s = .next t ∧ t.dev = .fault ∧ t.sys.dumped = true ∧
        t = { s with regs := t.regs, sys := { s.sys with dump := none, dumped := true } } ∧
        onlyFields [F.SYS_STATE_STATE, F.SYS_STATE_PREV_STATE] s t)))

/-- BOOT_HEADERS_READ judges both headers and orders the slots, BOOT_IMAGE_LOADED starts firmware or turns to the next slot,
SYS_HBOOT_GO and HOST_IMAGE_LOADED boot an image of the host, and BOOT_COMPLETE starts the transition to SETUP, whose entry
posts BOOT_DONE; in the instant of a FAULT entered from BOOT for another condition the lack of an image is judged with it
(R352, R430-R434, R437, R454). That headers and bodies are read by one command each is log 66, and that a transition lasts
until the next nanosecond log 31. exec answers a next state, under conditions on the operands and the state alone, for each
of: bootHeadersRead, bootImageLoaded, sysHbootGo, hostImageLoaded, bootComplete. -/
def Obligations.Boot : Prop :=
  (∀ (a b : List (BitVec 8)) (s : State), s.bootPhase 0 = false → s.bootPhase 1 = false → s.dev ≠ .fault →
    ∃ t, exec (.bootHeadersRead a b) s = .next t ∧ t = s) ∧
  (∀ (a b body : List (BitVec 8)) (init : FwInit) (s : State), s.dev = .fault →
    let together : Prop := s.r F.SYS_FAULT_CAUSE_PREV_STATE = DevState.boot.code ∧ s.r F.SYS_BOOT_STAT_STRAP ≠ 3 ∧
      s.r F.SYS_FAULT_TIME_TIME = s.sysTime ∧ s.sys.dumped = false ∧ 2 < s.r F.SYS_FAULT_CAUSE_CAUSE
    let judged (c : Instr) (open_ : Prop) (detail : Nat) : Prop := ∃ t, exec c s = .next t ∧
      (¬(together ∧ open_) → t = s) ∧
      (together → open_ → t.r F.SYS_FAULT_CAUSE_CAUSE = 2 ∧ t.r F.SYS_FAULT_CAUSE_DETAIL = detail ∧
        t = { s with regs := t.regs, sys := { s.sys with snap := t.sys.snap } } ∧
        onlyRegs [(F.SYS_FAULT_CAUSE_CAUSE, 0), (F.SYS_FAULT_CAUSE_DETAIL, 0)] s t)
    judged (.bootHeadersRead a b) (s.r F.SYS_BOOT_STAT_PHASE ≤ 1 ∧
      ∀ x ∈ [a, b], s.hdrValid (exactly (x.map BitVec.toNat) 256) = false) 1 ∧
    ∀ k ks, s.sys.order = k :: ks → judged (.bootImageLoaded body init) (s.r F.SYS_BOOT_STAT_PHASE = 2 ∧ ks = [] ∧
      crc32c (exactly (body.map BitVec.toNat) (hdrLen (s.slotHeader k))) ≠ hdrCrc (s.slotHeader k)) 2) ∧
  (∀ (a b : List (BitVec 8)) (s : State), s.bootPhase 0 = true ∨ s.bootPhase 1 = true →
    let ha := exactly (a.map BitVec.toNat) 256
    let hb := exactly (b.map BitVec.toNat) 256
    let va := hdrOk (s.r F.SYS_ID_SILICON) ha && hdrReadOk ha
    let vb := hdrOk (s.r F.SYS_ID_SILICON) hb && hdrReadOk hb
    ∃ t, exec (.bootHeadersRead a b) s = .next t ∧ t.r F.SYS_BOOT_STAT_VALID_A = va.toNat ∧
      t.r F.SYS_BOOT_STAT_VALID_B = vb.toNat ∧
      (t.msp.sent.map fun f => (f.cls, f.tgt, f.cmd, f.addr, f.read, f.data)) =
        [(1, 0, [3], [0, 0, 0], true, ha), (1, 0, [3], [0x40, 0, 0], true, hb)] ∧
      (va = true ∨ vb = true → t.r F.SYS_BOOT_STAT_PHASE = 2 ∧ t.sys.headers = [ha, hb] ∧
        t = { s with regs := t.regs, msp := { s.msp with sent := t.msp.sent },
                     sys := { s.sys with headers := [ha, hb], order := t.sys.order } } ∧
        onlyFields [F.SYS_BOOT_STAT_VALID_A, F.SYS_BOOT_STAT_VALID_B, F.SYS_BOOT_STAT_FALLBACK, F.SYS_BOOT_STAT_PHASE] s t) ∧
      (va = true → vb = false → t.sys.order = [1]) ∧ (va = false → vb = true → t.sys.order = [2]) ∧
      (va = true → vb = true →
        let first := if hdrSeq ha < hdrSeq hb then 2 else 1
        (s.r F.SYS_BOOT_STAT_LAST_FAIL = first → t.sys.order = [3 - first, first] ∧ t.r F.SYS_BOOT_STAT_FALLBACK = 1) ∧
        (s.r F.SYS_BOOT_STAT_LAST_FAIL ≠ first → t.sys.order = [first, 3 - first])) ∧
      (va = false → vb = false → t.r F.SYS_BOOT_STAT_ERROR = 1 ∧
        (s.r F.SYS_BOOT_STAT_STRAP = 3 → t.r F.SYS_BOOT_STAT_PHASE = 4 ∧ t.dev = .boot) ∧
        (s.r F.SYS_BOOT_STAT_STRAP ≠ 3 → t.dev = .fault ∧ t.r F.SYS_FAULT_CAUSE_CAUSE = 2))) ∧
  (∀ (body : List (BitVec 8)) (init : FwInit) (s : State),
    s.bootPhase 2 = false ∧ s.dev ≠ .fault ∨ s.sys.order = [] → ∃ t, exec (.bootImageLoaded body init) s = .next t ∧ t = s) ∧
  (∀ (body : List (BitVec 8)) (init : FwInit) (s : State) (k : Nat) (ks : List Nat), s.bootPhase 2 = true →
    s.sys.order = k :: ks → 1 ≤ k → k ≤ 2 →
    let h := s.slotHeader k
    (crc32c (exactly (body.map BitVec.toNat) (hdrLen h)) = hdrCrc h →
      ∃ t, exec (.bootImageLoaded body init) s = .next t ∧ t.r F.SYS_BOOT_STAT_SLOT = k ∧ t.r F.SYS_BOOT_STAT_PHASE = 6 ∧
        t.r F.SYS_FW_VER_VALUE = hdrVer h % 2 ^ 32 ∧ t.r F.SYS_FW_SEQ_VALUE = hdrSeq h % 2 ^ 32 ∧ t.dev = .boot ∧
        (∀ c, c < 2 → (t.convh c).cal.isSome = true) ∧ t.sys = { s.sys with fwHdr := h } ∧ sameBytes s t ∧ t.jobs = s.jobs ∧
        t.msp.sent.flatMap (·.data) = exactly (body.map BitVec.toNat) (hdrLen h) ∧
        (∀ f ∈ t.msp.sent, f.cls = 1 ∧ f.tgt = 0 ∧ f.read = true ∧ f.data.length ≤ 65536) ∧
        onlyBlocks (fun b => blockAt 0 b || blockAt 3 b || blockAt 5 b) s t) ∧
    (crc32c (exactly (body.map BitVec.toNat) (hdrLen h)) ≠ hdrCrc h →
      ∃ t, exec (.bootImageLoaded body init) s = .next t ∧ t.r F.SYS_BOOT_STAT_ERROR = 2 ∧
        t.r F.SYS_BOOT_STAT_FALLBACK = 1 ∧ t.sys.order = ks ∧
        (ks ≠ [] → t = { s with regs := t.regs, msp := { s.msp with sent := t.msp.sent }, sys := { s.sys with order := ks } } ∧
          onlyFields [F.SYS_BOOT_STAT_ERROR, F.SYS_BOOT_STAT_FALLBACK] s t) ∧
        (ks = [] → s.r F.SYS_BOOT_STAT_STRAP = 3 → t.r F.SYS_BOOT_STAT_PHASE = 4) ∧
        (ks = [] → s.r F.SYS_BOOT_STAT_STRAP ≠ 3 → t.dev = .fault ∧ t.r F.SYS_FAULT_CAUSE_CAUSE = 2 ∧
          t.r F.SYS_FAULT_CAUSE_DETAIL = 2))) ∧
  (∀ (m : Master) (s : State), s.live = true →
    (s.bootPhase 4 = true → s.on F.SYS_BIST_STAT_RUNNING = false → ∃ t, exec (.sysHbootGo m) s = .next t ∧
      t.r F.SYS_BOOT_STAT_PHASE = 5 ∧ t = { s with regs := t.regs } ∧ onlyRegs [(F.SYS_BOOT_STAT_PHASE, 0)] s t) ∧
    (s.bootPhase 4 = false → s.accErrLow = 0 → ∃ t, exec (.sysHbootGo m) s = .next t ∧ t.r F.SYS_ACC_ERR_BAD_VALUE = 1 ∧
      t.r F.SYS_BOOT_STAT_PHASE = s.r F.SYS_BOOT_STAT_PHASE ∧
      t = { s with regs := t.regs, held := t.held, occ := t.occ })) ∧
  (∀ (ok : Bool) (init : FwInit) (s : State), s.bootPhase 5 = false →
    ∃ t, exec (.hostImageLoaded ok init) s = .next t ∧ t = s) ∧
  (∀ (ok : Bool) (init : FwInit) (s : State), s.bootPhase 5 = true →
    (256 ≤ s.r F.SYS_HBOOT_LEN_VALUE → s.canIssue = false → ∃ t, exec (.hostImageLoaded ok init) s = .next t ∧ t = s) ∧
    let failed (e : Nat) : Prop := ∃ t, exec (.hostImageLoaded ok init) s = .next t ∧ t.r F.SYS_BOOT_STAT_ERROR = e ∧
      t.r F.SYS_BOOT_STAT_PHASE = 4 ∧ t = { s with regs := t.regs } ∧
      onlyRegs [(F.SYS_BOOT_STAT_ERROR, 0), (F.SYS_BOOT_STAT_PHASE, 0)] s t
    (s.r F.SYS_HBOOT_LEN_VALUE < 256 → failed 3) ∧
    (256 ≤ s.r F.SYS_HBOOT_LEN_VALUE → s.canIssue = true →
      (ok = false → failed 4) ∧
      (ok = true → s.hostImageOk = false → failed 3) ∧
      (ok = true → s.hostImageOk = true → ∃ t, exec (.hostImageLoaded ok init) s = .next t ∧
        t.r F.SYS_BOOT_STAT_SLOT = 3 ∧ t.r F.SYS_BOOT_STAT_PHASE = 6 ∧ t.r F.SYS_FW_SEQ_VALUE = 0 ∧ sameBytes s t ∧
        t.r F.SYS_FW_VER_VALUE = hdrVer (s.hostMem.readN (s.r F.SYS_HBOOT_ADDR_VALUE) 256) % 2 ^ 32 ∧
        t.sys = { s.sys with fwHdr := s.hostMem.readN (s.r F.SYS_HBOOT_ADDR_VALUE) 256 } ∧ t.dev = .boot ∧ t.jobs = s.jobs ∧ onlyBlocks (fun b => blockAt 0 b || blockAt 3 b || blockAt 5 b) s t ∧
        (∀ c, c < 2 → (t.convh c).cal.isSome = true)))) ∧
  (∀ s : State, (s.bootDone = false → ∃ t, exec .bootComplete s = .next t ∧ t = s) ∧
    (s.bootDone = true → ∃ t, exec .bootComplete s = .next t ∧ t.r F.SYS_BOOT_STAT_PHASE = 7 ∧ t.inTransition = true ∧
      t = { s with regs := t.regs, sys := { s.sys with trans := s.sys.trans ++ [⟨.setup, s.now, none⟩] } } ∧
      onlyFields [F.SYS_BOOT_STAT_PHASE] s t) ∧
    (∀ x : Trans, s.pending = [] → s.dev = .boot → s.sys.trans = [x] → x.dest = .setup → s.sys.lrefAbsent = false →
      (∀ p ∈ s.subs, p.2.waiting = none) → ∃ t, step s = .next t ∧ t.dev = .setup ∧ t.inTransition = false ∧
      t.r F.SYS_BOOT_STAT_LAST_FAIL = 0 ∧ t.isHeld 761 0xA001 = true ∧ t.isHeld 761 0xA006 = true ∧
      (s.on F.SYS_BOOT_STAT_FALLBACK = true → t.isHeld 761 0xA007 = true) ∧
      (s.sys.shutPost = true → t.isHeld 762 0x7004 = true) ∧ t.r F.SYS_STATE_PREV_STATE = s.dev.code ∧
      t.r F.SYS_BOOT_TIME_VALUE = min ((s.now + 1 - s.sys.bootAt) / 1000) (2 ^ 32 - 1) ∧
      t = { s with now := s.now + 1, poweredNs := s.poweredNs + 1, regs := t.regs,
                   sys := { s.sys with shutPost := false, trans := [] }, held := t.held, occ := t.occ } ∧
      onlyFields [F.SYS_STATE_STATE, F.SYS_STATE_PREV_STATE, F.SYS_BOOT_TIME_VALUE, F.SYS_BOOT_STAT_LAST_FAIL,
        F.SYS_TIME_TIME] s t))

/-- BIST_RUN starts a run where every lane is OFF and no batt is active; BIST_DONE records its results, posts BIST_DONE and
completes the waiting job. TIME_SET loads or steps the timebase and completes with the time before and after;
HOST_READ_ERROR completes a job whose host buffer could not be read with DATA_ERROR (R281, R446-R448, R452). When a run of
BIST begins, and what it leaves alone, is log 64. exec answers a next state, under conditions on the operands and the state
alone, for each of: bistRun, bistDone, timeSet, hostReadError. -/
def Obligations.BistAndTime : Prop :=
  (∀ (q : Fin 32768) (i : Fin 65536) (s : State) (j : Job), s.started? 0x70 q i = some j → s.bistHolds j = false →
    let m := j.p 0 1
    let ok := m ≠ 0 ∧ m < 64 ∧ j.pz 1 31 = true
    let free := (∀ n, n < 192 → s.laneState n = 0) ∧ State.allBatts.any s.battActive = false
    (¬ok → ∃ t, exec (.bistRun q i) s = .next t ∧ t.due q i .badParam 0 0 ∧ t = { s with jobs := t.jobs } ∧
      onlyJob q i s t) ∧
    (ok → ¬free → ∃ t, exec (.bistRun q i) s = .next t ∧ t.due q i .notAllowed 0 0 ∧
      t = { s with jobs := t.jobs } ∧ onlyJob q i s t) ∧
    (ok → free → ∃ t, exec (.bistRun q i) s = .next t ∧ t.waits q i [.bist] ∧ t.r F.SYS_BIST_STAT_RUNNING = 1 ∧
      t.r F.SYS_BIST_STAT_LAST_MASK = m ∧ onlyJob q i s t ∧ sameBytes s t ∧
      t = { s with regs := t.regs, jobs := t.jobs, fab := t.fab, held := t.held, occ := t.occ } ∧
      onlyBlocks (fun b => marginBlock b || b == F.SYS_BIST_STAT_RUNNING.base) s t)) ∧
  (∀ (sigs : BitVec 64 × BitVec 64 × BitVec 64) (mems : BitVec 16 × BitVec 16 × BitVec 16) (s : State), s.live = true →
    let sig (d : Nat) : Nat := (if d = 0 then sigs.1 else if d = 1 then sigs.2.1 else sigs.2.2).toNat
    let mem (d : Nat) : Nat := (if d = 0 then mems.1 else if d = 1 then mems.2.1 else mems.2.2).toNat
    let m := s.r F.SYS_BIST_STAT_LAST_MASK
    let groups (d : Nat) : Nat := if bitAt m (3 + d) then mem d &&& (if d = 1 then 0x1FF else 0xFFFF) else 0
    (s.bistRaise true = none → ∃ t, exec (.bistDone sigs mems) s = .next t ∧ t = s) ∧
    (s.bistRaise true ≠ none → ∃ t, exec (.bistDone sigs mems) s = .next t ∧ t.r F.SYS_BIST_STAT_RUNNING = 0 ∧
      t.isHeld 761 0xA008 = true ∧
      (∀ d, d < 3 → t.r F.SYS_MBIST_FAIL_GROUP d = groups d ∧
        (bitAt m d = true → t.r F.SYS_BIST_SIG_MEASURED d = sig d) ∧
        bitAt (t.r F.SYS_BIST_STAT_FAIL) d = (bitAt m d && decide (s.r F.SYS_BIST_SIG_EXPECTED d ≠ sig d)) ∧
        bitAt (t.r F.SYS_BIST_STAT_FAIL) (3 + d) = decide (groups d ≠ 0)) ∧
      (∀ q i j, s.job? q i = some j → j.phase = .running → j.waits = [.bist] → groups 1 = 0 →
        t.due q i (if t.r F.SYS_BIST_STAT_FAIL = 0 then .ok else .internal) (t.r F.SYS_BIST_STAT_FAIL)
          (t.r F.SYS_MBIST_FAIL_GROUP 0 + 2 ^ 16 * t.r F.SYS_MBIST_FAIL_GROUP 1 +
            2 ^ 32 * t.r F.SYS_MBIST_FAIL_GROUP 2)) ∧
      (groups 1 = 0 → t = { s with regs := t.regs, jobs := t.jobs, fab := t.fab, held := t.held, occ := t.occ } ∧
        (∀ sp ∈ regTable, ∀ f ∈ sp.fields, ∀ i, s.bistTested sp i = true → t.r f i = s.sys.bist.get f i % 2 ^ f.width) ∧
        (∀ sp ∈ regTable, ∀ f ∈ sp.fields, ∀ i, blockAt 0 f.base = false → s.bistTested sp i = false →
          t.r f i = s.r f i)))) ∧
  (∀ (q : Fin 32768) (i : Fin 65536) (s : State) (j : Job), s.started? 0x72 q i = some j → s.bistHolds j = false →
    let ok := j.p 8 1 ≤ 1 ∧ j.pz 9 23 = true
    (¬ok → ∃ t, exec (.timeSet q i) s = .next t ∧ t.due q i .badParam 0 0 ∧ t = { s with jobs := t.jobs } ∧
      onlyJob q i s t) ∧
    (ok → ∃ t, exec (.timeSet q i) s = .next t ∧ t.isHeld 761 0xA00A = true ∧
      t.r F.SYS_TIME_TIME = (if j.p 8 1 = 0 then j.p 0 8 else (s.sysTime + j.p 0 8) % 2 ^ 64) ∧
      t.due q i .ok s.sysTime (t.r F.SYS_TIME_TIME) ∧ onlyJob q i s t ∧
      t = { s with regs := t.regs, jobs := t.jobs, held := t.held, occ := t.occ } ∧
      onlyRegs [(F.SYS_TIME_TIME, 0)] s t)) ∧
  (∀ (q : Fin 32768) (i : Fin 65536) (s : State),
    (s.job? q i = none ∨ s.serviced = false ∨ s.canIssue = false → ∃ t, exec (.hostReadError q i) s = .next t ∧ t = s) ∧
    (∀ j, s.job? q i = some j → s.serviced = true → s.canIssue = true → byteAt j.desc 0 = 0x58 →
      State.Job.xRead j = false → State.Job.xLen j ≠ 0 → s.msp.xfers.any (State.Xfer.isOf q i) = true →
      ∃ t, exec (.hostReadError q i) s = .next t ∧ t.due q i .dataError 0 0 ∧ t.r F.RNG_ENG_EVT_HOST_READ_ERR = 1 ∧
        t.msp = { s.msp with xfers := s.msp.xfers.filter fun x => !State.Xfer.isOf q i x } ∧
        t = { s with regs := t.regs, jobs := t.jobs, msp := t.msp } ∧ onlyJob q i s t ∧
        onlyRegs [(F.RNG_ENG_EVT_HOST_READ_ERR, 0)] s t) ∧
    (∀ j, s.job? q i = some j → s.serviced = true → s.canIssue = true → byteAt j.desc 0 = 0x38 ∨ byteAt j.desc 0 = 0x39 →
      j.len0 ≠ 0 → (List.range 8).any (fun e => (s.engineJob e).any fun p => p.job.ring == q.val && p.job.idx == i.val) = true →
      ∃ t, exec (.hostReadError q i) s = .next t ∧ t.due q i .dataError 0 0 ∧ t.r F.RNG_ENG_EVT_HOST_READ_ERR = 1 ∧
        onlyJob q i s t ∧ onlyBlocks (fun b => blockAt 6 b || b == F.RNG_ENG_EVT_HOST_READ_ERR.base) s t) ∧
    (∀ j, s.job? q i = some j → byteAt j.desc 0 = 0x40 ∧ j.p 0 1 = 1 ∨ byteAt j.desc 0 = 0x60 ∧ j.p 1 1 = 1 →
      j.phase = .started → s.serviced = true → s.canIssue = true → ∃ t, exec (.hostReadError q i) s = .next t ∧ t.due q i .dataError 0 0 ∧
        t.r F.RNG_ENG_EVT_HOST_READ_ERR = 1 ∧ t = { s with regs := t.regs, jobs := t.jobs } ∧ onlyJob q i s t ∧
        onlyRegs [(F.RNG_ENG_EVT_HOST_READ_ERR, 0)] s t))

/-- TELEMETRY_SUBSCRIBE starts a register or a Hatband subscription, whose record size it completes with, or stops one;
TELEMETRY_PERIOD and TELEMETRY_QUEUE_RECORD write the next record at its place in the host buffer, its sequence number one
above the last where the link is granted to it, which a completion or an event may hold up, or count a period as missed
while a record waits (R40-R43, R449, R450). When a record that waits is written is logs 70 and 96, how TAIL_WB is log 62.
exec answers a next state, under conditions on the operands and the state alone, for each of: telemetryPeriod,
telemetryQueueRecord, telemetrySubscribe. -/
def Obligations.Telemetry : Prop :=
  (∀ (k : Fin 64) (s : State), s.serviced = true → (s.subh k).stopping = false →
    let h := s.subh k
    let at_ := h.base + h.seq % h.count * h.size
    let first : Prop := s.canIssue = true ∧ ∀ r ∈ s.upRequests, 2 < r.cls
    (s.r F.SYS_TLM_STAT_STATE k = 0 → (∃ t, exec (.telemetryPeriod k) s = .next t ∧ t = s) ∧
      ∀ b, ∃ t, exec (.telemetryQueueRecord k b) s = .next t ∧ t = s) ∧
    (s.r F.SYS_TLM_STAT_STATE k = 1 → h.waiting.isSome = true → ∃ t, exec (.telemetryPeriod k) s = .next t ∧
      t.r F.SYS_TLM_STAT_MISSED k = satAdd 16 (s.r F.SYS_TLM_STAT_MISSED k) 1 ∧
      t.subh k = { h with missed := h.missed + 1 } ∧
      t = { s with regs := t.regs, subs := t.subs } ∧ onlyRegs [(F.SYS_TLM_STAT_MISSED, k)] s t) ∧
    (s.r F.SYS_TLM_STAT_STATE k = 1 → h.waiting = none →
      s.canIssue = false ∨ (∃ r ∈ s.upRequests, r.cls = 1) → ∃ t, exec (.telemetryPeriod k) s = .next t ∧
      (t.subh k).seq = h.seq + 1 ∧ (t.subh k).missed = 0 ∧ (t.subh k).waiting.isSome = true ∧ sameBytes s t ∧
      t.jobs = s.jobs ∧ t.rings = s.rings) ∧
    (s.r F.SYS_TLM_STAT_STATE k = 1 → h.waiting = none → first → h.tail = 0 →
      32 + 4 * State.rangeWords h.ranges ≤ h.size → ∃ t, exec (.telemetryPeriod k) s = .next t ∧
        (t.subh k).seq = h.seq + 1 ∧ (t.subh k).missed = 0 ∧ (t.subh k).waiting = none ∧
        t.hostMem.readLE (at_ + 1) 1 = k ∧ t.hostMem.readLE (at_ + 2) 2 = State.rangeWords h.ranges % 2 ^ 16 ∧
        t.hostMem.readLE (at_ + 8) 8 = (h.seq + 1) % 2 ^ 64 ∧ t.hostMem.readLE (at_ + 24) 4 = min h.missed (2 ^ 32 - 1) ∧
        onlyBytes at_ h.size s t ∧ t.jobs = s.jobs ∧ t.rings = s.rings) ∧
    (s.r F.SYS_TLM_STAT_STATE k = 1 → h.waiting = none → first → h.tail ≠ 0 →
      32 + 4 * State.rangeWords h.ranges ≤ h.size → ∃ t, exec (.telemetryPeriod k) s = .next t ∧
        (t.subh k).seq = h.seq + 1 ∧ (t.subh k).missed = 0 ∧ (t.subh k).waiting = none ∧
        t.hostMem.readLE h.tail 4 = (h.seq + 1) % h.count * h.size % 2 ^ 32 ∧ t.jobs = s.jobs ∧ t.rings = s.rings) ∧
    (s.r F.SYS_TLM_STAT_STATE k = 2 → h.op = 2 → h.waiting = none → first → h.tail = 0 → h.size = 288 →
      let queue := (s.convh h.conv).queue
      let n := min 32 queue.length
      ∀ b, (n < 32 → b = true) → 0 < n → ∃ t, exec (.telemetryQueueRecord k b) s = .next t ∧
        (t.subh k).seq = h.seq + 1 ∧ (t.convh h.conv).queue = queue.drop n ∧ t.hostMem.readLE at_ 1 = 2 ∧
        t.hostMem.readLE (at_ + 2) 2 = n ∧ t.hostMem.readLE (at_ + 8) 8 = (h.seq + 1) % 2 ^ 64 ∧
        (∀ x, x < n → t.hostMem.readLE (at_ + 32 + 8 * x) 8 = queue.getD x 0 % 2 ^ 64) ∧ onlyBytes at_ 288 s t ∧
        t.jobs = s.jobs ∧ t.regs = s.regs ∧ t.ptrOf 2 = h.ring + 1 ∧
        t = { s with hb := t.hb, hostMem := t.hostMem, subs := t.subs, arb := t.arb }) ∧
    (s.r F.SYS_TLM_STAT_STATE k = 2 → h.waiting.isSome = true ∨ (s.convh h.conv).queue = [] → ∀ b,
      ∃ t, exec (.telemetryQueueRecord k b) s = .next t ∧ t = s)) ∧
  (∀ (q : Fin 32768) (i : Fin 65536) (s : State) (j : Job), s.started? 0x60 q i = some j → s.bistHolds j = false →
    let k := j.p 0 1
    let l := s.subRanges j
    let rs := State.recordSize (j.p 1 1) l
    (State.subParamsOk j = false → ∃ t, exec (.telemetrySubscribe q i) s = .next t ∧ t.due q i .badParam 0 0 ∧
      t = { s with jobs := t.jobs } ∧ onlyJob q i s t) ∧
    (State.subParamsOk j = true → j.p 1 1 = 0 →
      (s.r F.SYS_TLM_STAT_STATE k = 0 → ∃ t, exec (.telemetrySubscribe q i) s = .next t ∧ t.due q i .ok 0 0 ∧
        t = { s with jobs := t.jobs } ∧ onlyJob q i s t) ∧
      (s.r F.SYS_TLM_STAT_STATE k ≠ 0 → (s.subh k).waiting = none → ∃ t, exec (.telemetrySubscribe q i) s = .next t ∧
        t.due q i .ok (s.subh k).seq 0 ∧ t.r F.SYS_TLM_STAT_STATE k = 0 ∧ onlyJob q i s t ∧
        t = { s with regs := t.regs, jobs := t.jobs, subs := t.subs } ∧
        onlyRegs [(F.SYS_TLM_STAT_STATE, k), (F.SYS_TLM_STAT_CONV, k)] s t) ∧
      (s.r F.SYS_TLM_STAT_STATE k ≠ 0 → (s.subh k).waiting.isSome = true →
        ∃ t, exec (.telemetrySubscribe q i) s = .next t ∧ t.waits q i [.telemetry k] ∧ (t.subh k).stopping = true ∧
          t = { s with jobs := t.jobs, subs := t.subs } ∧ onlyJob q i s t)) ∧
    (State.subParamsOk j = true → j.p 1 1 = 1 → s.canIssue = false →
      ∃ t, exec (.telemetrySubscribe q i) s = .next t ∧ t = s) ∧
    (State.subParamsOk j = true → j.p 1 1 ≠ 0 → (j.p 1 1 = 1 → s.canIssue = true) →
      (State.rangesOk l = false ∨ State.subBufferOk j rs = false → ∃ t, exec (.telemetrySubscribe q i) s = .next t ∧
        t.due q i .badParam 0 0 ∧ t = { s with jobs := t.jobs } ∧ onlyJob q i s t) ∧
      (State.rangesOk l = true → State.subBufferOk j rs = true →
        (s.r F.SYS_TLM_STAT_STATE k ≠ 0 → ∃ t, exec (.telemetrySubscribe q i) s = .next t ∧ t.due q i .notAllowed 0 0 ∧
          t = { s with jobs := t.jobs } ∧ onlyJob q i s t) ∧
        (s.r F.SYS_TLM_STAT_STATE k = 0 → (j.p 1 1 = 2 → s.streamed (j.p 2 1) = false) →
          ∃ t, exec (.telemetrySubscribe q i) s = .next t ∧ t.due q i .ok rs 0 ∧ t.r F.SYS_TLM_STAT_STATE k = j.p 1 1 ∧
            t.r F.SYS_TLM_STAT_CONV k = j.p 2 1 ∧ (t.subh k).base = j.addr1 ∧ (t.subh k).seq = 0 ∧
            (t.subh k).count * rs = j.len1 ∧ onlyJob q i s t ∧
            t = { s with regs := t.regs, jobs := t.jobs, subs := t.subs } ∧
            onlyRegs [(F.SYS_TLM_STAT_STATE, k), (F.SYS_TLM_STAT_CONV, k)] s t))))
end

