-- ==== Sys2Proof/Laws/Fec.lean ====
section
/-! SUPPORT. Laws of the decoder on uniform data: what a run of equal symbols is to the inner code, and what leading zero
symbols are to the outer one (R160, R187, R198). -/

namespace Sys2Proof

open Sys2Proof.Machine

/-- What one symbol stands for without precoding. -/
def pairOf (x : RxSym) : BitPair := { m := (demap x.a).1, l := (demap x.a).2, rm := x.relM, rl := x.relL }

theorem demapRun_replicate (x : RxSym) (n : Nat) : ∀ pa pm pl : Nat,
    demapRun false pa pm pl (List.replicate n x) = List.replicate n (pairOf x) := by
  induction n with
  | zero => intros; rfl
  | succ n ih => intro pa pm pl; simp [List.replicate_succ, demapRun, ih, pairOf]

/-- The codeword that equal pairs spell. -/
def evenWord (p : BitPair) : List (Bool × Nat) :=
  (List.range 144).map fun i => if i % 2 = 0 then (p.m, p.rm) else (p.l, p.rl)

theorem codewordOf_replicate (p : BitPair) (w N : Nat) (h : w < 4) (hN : 288 ≤ N) :
    codewordOf (List.replicate N p).toArray w = evenWord p := by
  unfold codewordOf evenWord
  refine List.map_congr_left fun i hi => ?_
  have hi := List.mem_range.mp hi
  have h1 : 4 * (i / 2) + w < N := by omega
  have h2 : 4 * (i / 2) + (w + 2) % 4 < N := by omega
  simp [Array.getD, h1, h2]

/-- A block of equal pairs in front of a run. -/
theorem codewords_block (p : BitPair) (k N : Nat) (l : List BitPair) (h : N = 288) :
    codewords (k + 1) (List.replicate N p ++ l) = List.replicate 4 (evenWord p) ++ codewords k l := by
  have hl : ¬ (List.replicate N p ++ l).length < 288 := by rw [List.length_append, List.length_replicate]; omega
  have ht : (List.replicate N p ++ l).take 288 = List.replicate N p := List.take_left' (by rw [List.length_replicate, h])
  have hd : (List.replicate N p ++ l).drop 288 = l := List.drop_left' (by rw [List.length_replicate, h])
  have h4 : (List.range 4).map (codewordOf (List.replicate N p).toArray) = List.replicate 4 (evenWord p) := by
    rw [show List.range 4 = [0, 1, 2, 3] from rfl]
    have e (w : Nat) (hw : w < 4) := codewordOf_replicate p w N hw (Nat.le_of_eq h.symm)
    simp only [List.map_cons, List.map_nil, e 0 (by decide), e 1 (by decide), e 2 (by decide), e 3 (by decide)]
    rfl
  rw [codewords, if_neg hl, ht, hd, h4]

theorem codewords_replicate (p : BitPair) (k N : Nat) (h : N = 288) :
    codewords k (List.replicate (N * k) p) = List.replicate (4 * k) (evenWord p) := by
  induction k with
  | zero => rfl
  | succ k ih =>
    rw [show N * (k + 1) = N + N * k by rw [Nat.mul_succ]; omega, show 4 * (k + 1) = 4 + 4 * k by omega,
      ← List.replicate_append_replicate, codewords_block p k N _ h, ih, List.replicate_append_replicate]

theorem received_replicate (x : RxSym) (k : Nat) (pa : RxSym) :
    received false pa (List.replicate (288 * k) x) = List.replicate (4 * k) (evenWord (pairOf x)) := by
  unfold received
  rw [demapRun_replicate]
  show codewords _ _ = _
  rw [List.length_replicate, Nat.mul_div_cancel_left k (by decide), codewords_replicate _ _ _ rfl]

/-- A test on equal symbols: all of its codewords are clean or none is. -/
theorem cleanCount_replicate (s : State) (n k : Nat) (pa x : RxSym) (h : s.on F.LANE_EQ_CFG_RX_PRECODE n = false) :
    s.cleanCount n pa (List.replicate (288 * k) x) =
      if syndrome ((evenWord (pairOf x)).map (·.1)) = 0 then 4 * k else 0 := by
  unfold State.cleanCount
  rw [h, received_replicate, List.countP_replicate]
  simp

/-! ### Outer codewords -/

@[simp] theorem gf10mul_zero (a : Nat) : gf10mul 0 a = 0 := by
  have h : ∀ k b : Nat, gf10mul.go k 0 b = 0 := by
    intro k
    induction k with
    | zero => intro b; rfl
    | succ k ih => intro b; simp [gf10mul.go, gf10x, ih]
  exact h 10 a

/-- Leading zero symbols change no syndrome. -/
theorem rsSyndromes_zeros (n : Nat) (v : List Nat) : rsSyndromes (List.replicate n 0 ++ v) = rsSyndromes v := by
  unfold rsSyndromes
  refine List.map_congr_left fun j _ => ?_
  show List.foldl _ 0 _ = List.foldl _ 0 _
  rw [List.foldl_append]
  congr 1
  induction n with
  | zero => rfl
  | succ n ih => simp [List.replicate_succ] at ih ⊢; exact ih

/-- The word of zeros is a codeword. -/
theorem rsDecode_zeros (n : Nat) : rsDecode (List.replicate n 0) = some (List.replicate n 0, 0) := by
  have h := rsSyndromes_zeros n []
  rw [List.append_nil] at h
  unfold rsDecode
  rw [h, if_pos (by decide +kernel)]

/-- A word that starts with zeros and whose error locator is too long is beyond correction. -/
theorem rsDecode_none (n : Nat) (v : List Nat) (h0 : ((rsSyndromes v).all (· == 0)) = false)
    (h1 : 15 < ((List.range 30).foldl (masseyStep (rsSyndromes v)) {}).len) :
    rsDecode (List.replicate n 0 ++ v) = none := by
  unfold rsDecode
  rw [rsSyndromes_zeros, if_neg (by simp [h0])]
  have h2 : ¬ ((List.range 30).foldl (masseyStep (rsSyndromes v)) {}).len ≤ 15 := by omega
  simp [h2]

end Sys2Proof
end

