-- ==== Sys2Proof/Laws/State.lean ====
section
/-! SUPPORT. What the updates of the state leave alone: one law for each part of the state and each update. -/

namespace Sys2Proof.Machine

open Sys2Proof

namespace State

@[simp] theorem w_pending (s : State) (f : Fld) (i v : Nat) : (s.w f i v).pending = s.pending := rfl
@[simp] theorem w_now (s : State) (f : Fld) (i v : Nat) : (s.w f i v).now = s.now := rfl
@[simp] theorem w_hostMem (s : State) (f : Fld) (i v : Nat) : (s.w f i v).hostMem = s.hostMem := rfl
@[simp] theorem w_latches (s : State) (f : Fld) (i v : Nat) : (s.w f i v).latches = s.latches := rfl
@[simp] theorem w_staged (s : State) (f : Fld) (i v : Nat) : (s.w f i v).staged = s.staged := rfl
@[simp] theorem w_readData (s : State) (f : Fld) (i v : Nat) : (s.w f i v).readData = s.readData := rfl
@[simp] theorem w_pcie (s : State) (f : Fld) (i v : Nat) : (s.w f i v).pcie = s.pcie := rfl
@[simp] theorem w_held (s : State) (f : Fld) (i v : Nat) : (s.w f i v).held = s.held := rfl
@[simp] theorem w_occ (s : State) (f : Fld) (i v : Nat) : (s.w f i v).occ = s.occ := rfl
@[simp] theorem w_rings (s : State) (f : Fld) (i v : Nat) : (s.w f i v).rings = s.rings := rfl
@[simp] theorem w_jobs (s : State) (f : Fld) (i v : Nat) : (s.w f i v).jobs = s.jobs := rfl
@[simp] theorem w_msiSent (s : State) (f : Fld) (i v : Nat) : (s.w f i v).msiSent = s.msiSent := rfl
@[simp] theorem w_fresh (s : State) (f : Fld) (i v : Nat) : (s.w f i v).fresh = s.fresh := rfl
@[simp] theorem w_tx (s : State) (f : Fld) (i v : Nat) : (s.w f i v).tx = s.tx := rfl
@[simp] theorem w_adc (s : State) (f : Fld) (i v : Nat) : (s.w f i v).adc = s.adc := rfl
@[simp] theorem w_eq (s : State) (f : Fld) (i v : Nat) : (s.w f i v).eq = s.eq := rfl
@[simp] theorem w_fec (s : State) (f : Fld) (i v : Nat) : (s.w f i v).fec = s.fec := rfl
@[simp] theorem w_pool (s : State) (f : Fld) (i v : Nat) : (s.w f i v).pool = s.pool := rfl
@[simp] theorem w_cal (s : State) (f : Fld) (i v : Nat) : (s.w f i v).cal = s.cal := rfl
@[simp] theorem w_ramps (s : State) (f : Fld) (i v : Nat) : (s.w f i v).ramps = s.ramps := rfl
@[simp] theorem w_lane (s : State) (f : Fld) (i v : Nat) : (s.w f i v).lane = s.lane := rfl
@[simp] theorem w_host (s : State) (f : Fld) (i v : Nat) : (s.w f i v).host = s.host := rfl
@[simp] theorem w_nvm (s : State) (f : Fld) (i v : Nat) : (s.w f i v).nvm = s.nvm := rfl
@[simp] theorem w_poweredNs (s : State) (f : Fld) (i v : Nat) : (s.w f i v).poweredNs = s.poweredNs := rfl
@[simp] theorem w_fab (s : State) (f : Fld) (i v : Nat) : (s.w f i v).fab = s.fab := rfl
@[simp] theorem w_cap (s : State) (f : Fld) (i v : Nat) : (s.w f i v).cap = s.cap := rfl
@[simp] theorem w_plank (s : State) (f : Fld) (i v : Nat) : (s.w f i v).plank = s.plank := rfl
@[simp] theorem w_hb (s : State) (f : Fld) (i v : Nat) : (s.w f i v).hb = s.hb := rfl
@[simp] theorem w_hk (s : State) (f : Fld) (i v : Nat) : (s.w f i v).hk = s.hk := rfl
@[simp] theorem w_slots (s : State) (f : Fld) (i v : Nat) : (s.w f i v).slots = s.slots := rfl
@[simp] theorem w_thm (s : State) (f : Fld) (i v : Nat) : (s.w f i v).thm = s.thm := rfl
@[simp] theorem w_msp (s : State) (f : Fld) (i v : Nat) : (s.w f i v).msp = s.msp := rfl
@[simp] theorem w_subs (s : State) (f : Fld) (i v : Nat) : (s.w f i v).subs = s.subs := rfl
@[simp] theorem w_sys (s : State) (f : Fld) (i v : Nat) : (s.w f i v).sys = s.sys := rfl
@[simp] theorem w_orphans (s : State) (f : Fld) (i v : Nat) : (s.w f i v).orphans = s.orphans := rfl
@[simp] theorem w_arb (s : State) (f : Fld) (i v : Nat) : (s.w f i v).arb = s.arb := rfl
@[simp] theorem w_grants (s : State) (f : Fld) (i v : Nat) : (s.w f i v).grants = s.grants := rfl
@[simp] theorem w_tap (s : State) (f : Fld) (i v : Nat) : (s.w f i v).tap = s.tap := rfl

@[simp] theorem setRing_pending (s : State) (q : Nat) (h : RingH) : (s.setRing q h).pending = s.pending := rfl
@[simp] theorem setRing_now (s : State) (q : Nat) (h : RingH) : (s.setRing q h).now = s.now := rfl
@[simp] theorem setRing_regs (s : State) (q : Nat) (h : RingH) : (s.setRing q h).regs = s.regs := rfl
@[simp] theorem setRing_hostMem (s : State) (q : Nat) (h : RingH) : (s.setRing q h).hostMem = s.hostMem := rfl
@[simp] theorem setRing_latches (s : State) (q : Nat) (h : RingH) : (s.setRing q h).latches = s.latches := rfl
@[simp] theorem setRing_staged (s : State) (q : Nat) (h : RingH) : (s.setRing q h).staged = s.staged := rfl
@[simp] theorem setRing_readData (s : State) (q : Nat) (h : RingH) : (s.setRing q h).readData = s.readData := rfl
@[simp] theorem setRing_pcie (s : State) (q : Nat) (h : RingH) : (s.setRing q h).pcie = s.pcie := rfl
@[simp] theorem setRing_held (s : State) (q : Nat) (h : RingH) : (s.setRing q h).held = s.held := rfl
@[simp] theorem setRing_occ (s : State) (q : Nat) (h : RingH) : (s.setRing q h).occ = s.occ := rfl
@[simp] theorem setRing_jobs (s : State) (q : Nat) (h : RingH) : (s.setRing q h).jobs = s.jobs := rfl
@[simp] theorem setRing_msiSent (s : State) (q : Nat) (h : RingH) : (s.setRing q h).msiSent = s.msiSent := rfl
@[simp] theorem setRing_fresh (s : State) (q : Nat) (h : RingH) : (s.setRing q h).fresh = s.fresh := rfl
@[simp] theorem setRing_tx (s : State) (q : Nat) (h : RingH) : (s.setRing q h).tx = s.tx := rfl
@[simp] theorem setRing_adc (s : State) (q : Nat) (h : RingH) : (s.setRing q h).adc = s.adc := rfl
@[simp] theorem setRing_eq (s : State) (q : Nat) (h : RingH) : (s.setRing q h).eq = s.eq := rfl
@[simp] theorem setRing_fec (s : State) (q : Nat) (h : RingH) : (s.setRing q h).fec = s.fec := rfl
@[simp] theorem setRing_pool (s : State) (q : Nat) (h : RingH) : (s.setRing q h).pool = s.pool := rfl
@[simp] theorem setRing_cal (s : State) (q : Nat) (h : RingH) : (s.setRing q h).cal = s.cal := rfl
@[simp] theorem setRing_ramps (s : State) (q : Nat) (h : RingH) : (s.setRing q h).ramps = s.ramps := rfl
@[simp] theorem setRing_lane (s : State) (q : Nat) (h : RingH) : (s.setRing q h).lane = s.lane := rfl
@[simp] theorem setRing_host (s : State) (q : Nat) (h : RingH) : (s.setRing q h).host = s.host := rfl
@[simp] theorem setRing_nvm (s : State) (q : Nat) (h : RingH) : (s.setRing q h).nvm = s.nvm := rfl
@[simp] theorem setRing_poweredNs (s : State) (q : Nat) (h : RingH) : (s.setRing q h).poweredNs = s.poweredNs := rfl
@[simp] theorem setRing_fab (s : State) (q : Nat) (h : RingH) : (s.setRing q h).fab = s.fab := rfl
@[simp] theorem setRing_cap (s : State) (q : Nat) (h : RingH) : (s.setRing q h).cap = s.cap := rfl
@[simp] theorem setRing_plank (s : State) (q : Nat) (h : RingH) : (s.setRing q h).plank = s.plank := rfl
@[simp] theorem setRing_hb (s : State) (q : Nat) (h : RingH) : (s.setRing q h).hb = s.hb := rfl
@[simp] theorem setRing_hk (s : State) (q : Nat) (h : RingH) : (s.setRing q h).hk = s.hk := rfl
@[simp] theorem setRing_slots (s : State) (q : Nat) (h : RingH) : (s.setRing q h).slots = s.slots := rfl
@[simp] theorem setRing_thm (s : State) (q : Nat) (h : RingH) : (s.setRing q h).thm = s.thm := rfl
@[simp] theorem setRing_msp (s : State) (q : Nat) (h : RingH) : (s.setRing q h).msp = s.msp := rfl
@[simp] theorem setRing_subs (s : State) (q : Nat) (h : RingH) : (s.setRing q h).subs = s.subs := rfl
@[simp] theorem setRing_sys (s : State) (q : Nat) (h : RingH) : (s.setRing q h).sys = s.sys := rfl
@[simp] theorem setRing_orphans (s : State) (q : Nat) (h : RingH) : (s.setRing q h).orphans = s.orphans := rfl
@[simp] theorem setRing_arb (s : State) (q : Nat) (h : RingH) : (s.setRing q h).arb = s.arb := rfl
@[simp] theorem setRing_grants (s : State) (q : Nat) (h : RingH) : (s.setRing q h).grants = s.grants := rfl
@[simp] theorem setRing_tap (s : State) (q : Nat) (h : RingH) : (s.setRing q h).tap = s.tap := rfl

@[simp] theorem mapJob_pending (s : State) (q i : Nat) (g : Job → Job) : (s.mapJob q i g).pending = s.pending := rfl
@[simp] theorem mapJob_now (s : State) (q i : Nat) (g : Job → Job) : (s.mapJob q i g).now = s.now := rfl
@[simp] theorem mapJob_regs (s : State) (q i : Nat) (g : Job → Job) : (s.mapJob q i g).regs = s.regs := rfl
@[simp] theorem mapJob_hostMem (s : State) (q i : Nat) (g : Job → Job) : (s.mapJob q i g).hostMem = s.hostMem := rfl
@[simp] theorem mapJob_latches (s : State) (q i : Nat) (g : Job → Job) : (s.mapJob q i g).latches = s.latches := rfl
@[simp] theorem mapJob_staged (s : State) (q i : Nat) (g : Job → Job) : (s.mapJob q i g).staged = s.staged := rfl
@[simp] theorem mapJob_readData (s : State) (q i : Nat) (g : Job → Job) : (s.mapJob q i g).readData = s.readData := rfl
@[simp] theorem mapJob_pcie (s : State) (q i : Nat) (g : Job → Job) : (s.mapJob q i g).pcie = s.pcie := rfl
@[simp] theorem mapJob_held (s : State) (q i : Nat) (g : Job → Job) : (s.mapJob q i g).held = s.held := rfl
@[simp] theorem mapJob_occ (s : State) (q i : Nat) (g : Job → Job) : (s.mapJob q i g).occ = s.occ := rfl
@[simp] theorem mapJob_rings (s : State) (q i : Nat) (g : Job → Job) : (s.mapJob q i g).rings = s.rings := rfl
@[simp] theorem mapJob_msiSent (s : State) (q i : Nat) (g : Job → Job) : (s.mapJob q i g).msiSent = s.msiSent := rfl
@[simp] theorem mapJob_fresh (s : State) (q i : Nat) (g : Job → Job) : (s.mapJob q i g).fresh = s.fresh := rfl
@[simp] theorem mapJob_tx (s : State) (q i : Nat) (g : Job → Job) : (s.mapJob q i g).tx = s.tx := rfl
@[simp] theorem mapJob_adc (s : State) (q i : Nat) (g : Job → Job) : (s.mapJob q i g).adc = s.adc := rfl
@[simp] theorem mapJob_eq (s : State) (q i : Nat) (g : Job → Job) : (s.mapJob q i g).eq = s.eq := rfl
@[simp] theorem mapJob_fec (s : State) (q i : Nat) (g : Job → Job) : (s.mapJob q i g).fec = s.fec := rfl
@[simp] theorem mapJob_pool (s : State) (q i : Nat) (g : Job → Job) : (s.mapJob q i g).pool = s.pool := rfl
@[simp] theorem mapJob_cal (s : State) (q i : Nat) (g : Job → Job) : (s.mapJob q i g).cal = s.cal := rfl
@[simp] theorem mapJob_ramps (s : State) (q i : Nat) (g : Job → Job) : (s.mapJob q i g).ramps = s.ramps := rfl
@[simp] theorem mapJob_lane (s : State) (q i : Nat) (g : Job → Job) : (s.mapJob q i g).lane = s.lane := rfl
@[simp] theorem mapJob_host (s : State) (q i : Nat) (g : Job → Job) : (s.mapJob q i g).host = s.host := rfl
@[simp] theorem mapJob_nvm (s : State) (q i : Nat) (g : Job → Job) : (s.mapJob q i g).nvm = s.nvm := rfl
@[simp] theorem mapJob_poweredNs (s : State) (q i : Nat) (g : Job → Job) : (s.mapJob q i g).poweredNs = s.poweredNs := rfl
@[simp] theorem mapJob_fab (s : State) (q i : Nat) (g : Job → Job) : (s.mapJob q i g).fab = s.fab := rfl
@[simp] theorem mapJob_cap (s : State) (q i : Nat) (g : Job → Job) : (s.mapJob q i g).cap = s.cap := rfl
@[simp] theorem mapJob_plank (s : State) (q i : Nat) (g : Job → Job) : (s.mapJob q i g).plank = s.plank := rfl
@[simp] theorem mapJob_hb (s : State) (q i : Nat) (g : Job → Job) : (s.mapJob q i g).hb = s.hb := rfl
@[simp] theorem mapJob_hk (s : State) (q i : Nat) (g : Job → Job) : (s.mapJob q i g).hk = s.hk := rfl
@[simp] theorem mapJob_slots (s : State) (q i : Nat) (g : Job → Job) : (s.mapJob q i g).slots = s.slots := rfl
@[simp] theorem mapJob_thm (s : State) (q i : Nat) (g : Job → Job) : (s.mapJob q i g).thm = s.thm := rfl
@[simp] theorem mapJob_msp (s : State) (q i : Nat) (g : Job → Job) : (s.mapJob q i g).msp = s.msp := rfl
@[simp] theorem mapJob_subs (s : State) (q i : Nat) (g : Job → Job) : (s.mapJob q i g).subs = s.subs := rfl
@[simp] theorem mapJob_sys (s : State) (q i : Nat) (g : Job → Job) : (s.mapJob q i g).sys = s.sys := rfl
@[simp] theorem mapJob_orphans (s : State) (q i : Nat) (g : Job → Job) : (s.mapJob q i g).orphans = s.orphans := rfl
@[simp] theorem mapJob_arb (s : State) (q i : Nat) (g : Job → Job) : (s.mapJob q i g).arb = s.arb := rfl
@[simp] theorem mapJob_grants (s : State) (q i : Nat) (g : Job → Job) : (s.mapJob q i g).grants = s.grants := rfl
@[simp] theorem mapJob_tap (s : State) (q i : Nat) (g : Job → Job) : (s.mapJob q i g).tap = s.tap := rfl

@[simp] theorem finish_pending (s : State) (q i : Nat) (st : Status) (a b c : Nat) : (s.finish q i st a b c).pending = s.pending := rfl
@[simp] theorem finish_now (s : State) (q i : Nat) (st : Status) (a b c : Nat) : (s.finish q i st a b c).now = s.now := rfl
@[simp] theorem finish_regs (s : State) (q i : Nat) (st : Status) (a b c : Nat) : (s.finish q i st a b c).regs = s.regs := rfl
@[simp] theorem finish_hostMem (s : State) (q i : Nat) (st : Status) (a b c : Nat) : (s.finish q i st a b c).hostMem = s.hostMem := rfl
@[simp] theorem finish_latches (s : State) (q i : Nat) (st : Status) (a b c : Nat) : (s.finish q i st a b c).latches = s.latches := rfl
@[simp] theorem finish_staged (s : State) (q i : Nat) (st : Status) (a b c : Nat) : (s.finish q i st a b c).staged = s.staged := rfl
@[simp] theorem finish_readData (s : State) (q i : Nat) (st : Status) (a b c : Nat) : (s.finish q i st a b c).readData = s.readData := rfl
@[simp] theorem finish_pcie (s : State) (q i : Nat) (st : Status) (a b c : Nat) : (s.finish q i st a b c).pcie = s.pcie := rfl
@[simp] theorem finish_held (s : State) (q i : Nat) (st : Status) (a b c : Nat) : (s.finish q i st a b c).held = s.held := rfl
@[simp] theorem finish_occ (s : State) (q i : Nat) (st : Status) (a b c : Nat) : (s.finish q i st a b c).occ = s.occ := rfl
@[simp] theorem finish_rings (s : State) (q i : Nat) (st : Status) (a b c : Nat) : (s.finish q i st a b c).rings = s.rings := rfl
@[simp] theorem finish_msiSent (s : State) (q i : Nat) (st : Status) (a b c : Nat) : (s.finish q i st a b c).msiSent = s.msiSent := rfl
@[simp] theorem finish_fresh (s : State) (q i : Nat) (st : Status) (a b c : Nat) : (s.finish q i st a b c).fresh = s.fresh := rfl
@[simp] theorem finish_tx (s : State) (q i : Nat) (st : Status) (a b c : Nat) : (s.finish q i st a b c).tx = s.tx := rfl
@[simp] theorem finish_adc (s : State) (q i : Nat) (st : Status) (a b c : Nat) : (s.finish q i st a b c).adc = s.adc := rfl
@[simp] theorem finish_eq (s : State) (q i : Nat) (st : Status) (a b c : Nat) : (s.finish q i st a b c).eq = s.eq := rfl
@[simp] theorem finish_fec (s : State) (q i : Nat) (st : Status) (a b c : Nat) : (s.finish q i st a b c).fec = s.fec := rfl
@[simp] theorem finish_pool (s : State) (q i : Nat) (st : Status) (a b c : Nat) : (s.finish q i st a b c).pool = s.pool := rfl
@[simp] theorem finish_cal (s : State) (q i : Nat) (st : Status) (a b c : Nat) : (s.finish q i st a b c).cal = s.cal := rfl
@[simp] theorem finish_ramps (s : State) (q i : Nat) (st : Status) (a b c : Nat) : (s.finish q i st a b c).ramps = s.ramps := rfl
@[simp] theorem finish_lane (s : State) (q i : Nat) (st : Status) (a b c : Nat) : (s.finish q i st a b c).lane = s.lane := rfl
@[simp] theorem finish_host (s : State) (q i : Nat) (st : Status) (a b c : Nat) : (s.finish q i st a b c).host = s.host := rfl
@[simp] theorem finish_nvm (s : State) (q i : Nat) (st : Status) (a b c : Nat) : (s.finish q i st a b c).nvm = s.nvm := rfl
@[simp] theorem finish_poweredNs (s : State) (q i : Nat) (st : Status) (a b c : Nat) : (s.finish q i st a b c).poweredNs = s.poweredNs := rfl
@[simp] theorem finish_fab (s : State) (q i : Nat) (st : Status) (a b c : Nat) : (s.finish q i st a b c).fab = s.fab := rfl
@[simp] theorem finish_cap (s : State) (q i : Nat) (st : Status) (a b c : Nat) : (s.finish q i st a b c).cap = s.cap := rfl
@[simp] theorem finish_plank (s : State) (q i : Nat) (st : Status) (a b c : Nat) : (s.finish q i st a b c).plank = s.plank := rfl
@[simp] theorem finish_hb (s : State) (q i : Nat) (st : Status) (a b c : Nat) : (s.finish q i st a b c).hb = s.hb := rfl
@[simp] theorem finish_hk (s : State) (q i : Nat) (st : Status) (a b c : Nat) : (s.finish q i st a b c).hk = s.hk := rfl
@[simp] theorem finish_slots (s : State) (q i : Nat) (st : Status) (a b c : Nat) : (s.finish q i st a b c).slots = s.slots := rfl
@[simp] theorem finish_thm (s : State) (q i : Nat) (st : Status) (a b c : Nat) : (s.finish q i st a b c).thm = s.thm := rfl
@[simp] theorem finish_msp (s : State) (q i : Nat) (st : Status) (a b c : Nat) : (s.finish q i st a b c).msp = s.msp := rfl
@[simp] theorem finish_subs (s : State) (q i : Nat) (st : Status) (a b c : Nat) : (s.finish q i st a b c).subs = s.subs := rfl
@[simp] theorem finish_sys (s : State) (q i : Nat) (st : Status) (a b c : Nat) : (s.finish q i st a b c).sys = s.sys := rfl
@[simp] theorem finish_orphans (s : State) (q i : Nat) (st : Status) (a b c : Nat) : (s.finish q i st a b c).orphans = s.orphans := rfl
@[simp] theorem finish_arb (s : State) (q i : Nat) (st : Status) (a b c : Nat) : (s.finish q i st a b c).arb = s.arb := rfl
@[simp] theorem finish_grants (s : State) (q i : Nat) (st : Status) (a b c : Nat) : (s.finish q i st a b c).grants = s.grants := rfl
@[simp] theorem finish_tap (s : State) (q i : Nat) (st : Status) (a b c : Nat) : (s.finish q i st a b c).tap = s.tap := rfl

@[simp] theorem resolve_pending (s : State) (x : Wait) (st : Status) : (s.resolve x st).pending = s.pending := rfl
@[simp] theorem resolve_now (s : State) (x : Wait) (st : Status) : (s.resolve x st).now = s.now := rfl
@[simp] theorem resolve_regs (s : State) (x : Wait) (st : Status) : (s.resolve x st).regs = s.regs := rfl
@[simp] theorem resolve_hostMem (s : State) (x : Wait) (st : Status) : (s.resolve x st).hostMem = s.hostMem := rfl
@[simp] theorem resolve_latches (s : State) (x : Wait) (st : Status) : (s.resolve x st).latches = s.latches := rfl
@[simp] theorem resolve_staged (s : State) (x : Wait) (st : Status) : (s.resolve x st).staged = s.staged := rfl
@[simp] theorem resolve_readData (s : State) (x : Wait) (st : Status) : (s.resolve x st).readData = s.readData := rfl
@[simp] theorem resolve_pcie (s : State) (x : Wait) (st : Status) : (s.resolve x st).pcie = s.pcie := rfl
@[simp] theorem resolve_held (s : State) (x : Wait) (st : Status) : (s.resolve x st).held = s.held := rfl
@[simp] theorem resolve_occ (s : State) (x : Wait) (st : Status) : (s.resolve x st).occ = s.occ := rfl
@[simp] theorem resolve_rings (s : State) (x : Wait) (st : Status) : (s.resolve x st).rings = s.rings := rfl
@[simp] theorem resolve_msiSent (s : State) (x : Wait) (st : Status) : (s.resolve x st).msiSent = s.msiSent := rfl
@[simp] theorem resolve_fresh (s : State) (x : Wait) (st : Status) : (s.resolve x st).fresh = s.fresh := rfl
@[simp] theorem resolve_tx (s : State) (x : Wait) (st : Status) : (s.resolve x st).tx = s.tx := rfl
@[simp] theorem resolve_adc (s : State) (x : Wait) (st : Status) : (s.resolve x st).adc = s.adc := rfl
@[simp] theorem resolve_eq (s : State) (x : Wait) (st : Status) : (s.resolve x st).eq = s.eq := rfl
@[simp] theorem resolve_fec (s : State) (x : Wait) (st : Status) : (s.resolve x st).fec = s.fec := rfl
@[simp] theorem resolve_pool (s : State) (x : Wait) (st : Status) : (s.resolve x st).pool = s.pool := rfl
@[simp] theorem resolve_cal (s : State) (x : Wait) (st : Status) : (s.resolve x st).cal = s.cal := rfl
@[simp] theorem resolve_ramps (s : State) (x : Wait) (st : Status) : (s.resolve x st).ramps = s.ramps := rfl
@[simp] theorem resolve_lane (s : State) (x : Wait) (st : Status) : (s.resolve x st).lane = s.lane := rfl
@[simp] theorem resolve_host (s : State) (x : Wait) (st : Status) : (s.resolve x st).host = s.host := rfl
@[simp] theorem resolve_nvm (s : State) (x : Wait) (st : Status) : (s.resolve x st).nvm = s.nvm := rfl
@[simp] theorem resolve_poweredNs (s : State) (x : Wait) (st : Status) : (s.resolve x st).poweredNs = s.poweredNs := rfl
@[simp] theorem resolve_fab (s : State) (x : Wait) (st : Status) : (s.resolve x st).fab = s.fab := rfl
@[simp] theorem resolve_cap (s : State) (x : Wait) (st : Status) : (s.resolve x st).cap = s.cap := rfl
@[simp] theorem resolve_plank (s : State) (x : Wait) (st : Status) : (s.resolve x st).plank = s.plank := rfl
@[simp] theorem resolve_hb (s : State) (x : Wait) (st : Status) : (s.resolve x st).hb = s.hb := rfl
@[simp] theorem resolve_hk (s : State) (x : Wait) (st : Status) : (s.resolve x st).hk = s.hk := rfl
@[simp] theorem resolve_slots (s : State) (x : Wait) (st : Status) : (s.resolve x st).slots = s.slots := rfl
@[simp] theorem resolve_thm (s : State) (x : Wait) (st : Status) : (s.resolve x st).thm = s.thm := rfl
@[simp] theorem resolve_msp (s : State) (x : Wait) (st : Status) : (s.resolve x st).msp = s.msp := rfl
@[simp] theorem resolve_subs (s : State) (x : Wait) (st : Status) : (s.resolve x st).subs = s.subs := rfl
@[simp] theorem resolve_sys (s : State) (x : Wait) (st : Status) : (s.resolve x st).sys = s.sys := rfl
@[simp] theorem resolve_orphans (s : State) (x : Wait) (st : Status) : (s.resolve x st).orphans = s.orphans := rfl
@[simp] theorem resolve_arb (s : State) (x : Wait) (st : Status) : (s.resolve x st).arb = s.arb := rfl
@[simp] theorem resolve_grants (s : State) (x : Wait) (st : Status) : (s.resolve x st).grants = s.grants := rfl
@[simp] theorem resolve_tap (s : State) (x : Wait) (st : Status) : (s.resolve x st).tap = s.tap := rfl

@[simp] theorem setLaneh_pending (s : State) (n : Nat) (h : LaneH) : (s.setLaneh n h).pending = s.pending := rfl
@[simp] theorem setLaneh_now (s : State) (n : Nat) (h : LaneH) : (s.setLaneh n h).now = s.now := rfl
@[simp] theorem setLaneh_regs (s : State) (n : Nat) (h : LaneH) : (s.setLaneh n h).regs = s.regs := rfl
@[simp] theorem setLaneh_hostMem (s : State) (n : Nat) (h : LaneH) : (s.setLaneh n h).hostMem = s.hostMem := rfl
@[simp] theorem setLaneh_latches (s : State) (n : Nat) (h : LaneH) : (s.setLaneh n h).latches = s.latches := rfl
@[simp] theorem setLaneh_staged (s : State) (n : Nat) (h : LaneH) : (s.setLaneh n h).staged = s.staged := rfl
@[simp] theorem setLaneh_readData (s : State) (n : Nat) (h : LaneH) : (s.setLaneh n h).readData = s.readData := rfl
@[simp] theorem setLaneh_pcie (s : State) (n : Nat) (h : LaneH) : (s.setLaneh n h).pcie = s.pcie := rfl
@[simp] theorem setLaneh_held (s : State) (n : Nat) (h : LaneH) : (s.setLaneh n h).held = s.held := rfl
@[simp] theorem setLaneh_occ (s : State) (n : Nat) (h : LaneH) : (s.setLaneh n h).occ = s.occ := rfl
@[simp] theorem setLaneh_rings (s : State) (n : Nat) (h : LaneH) : (s.setLaneh n h).rings = s.rings := rfl
@[simp] theorem setLaneh_jobs (s : State) (n : Nat) (h : LaneH) : (s.setLaneh n h).jobs = s.jobs := rfl
@[simp] theorem setLaneh_msiSent (s : State) (n : Nat) (h : LaneH) : (s.setLaneh n h).msiSent = s.msiSent := rfl
@[simp] theorem setLaneh_fresh (s : State) (n : Nat) (h : LaneH) : (s.setLaneh n h).fresh = s.fresh := rfl
@[simp] theorem setLaneh_tx (s : State) (n : Nat) (h : LaneH) : (s.setLaneh n h).tx = s.tx := rfl
@[simp] theorem setLaneh_adc (s : State) (n : Nat) (h : LaneH) : (s.setLaneh n h).adc = s.adc := rfl
@[simp] theorem setLaneh_eq (s : State) (n : Nat) (h : LaneH) : (s.setLaneh n h).eq = s.eq := rfl
@[simp] theorem setLaneh_fec (s : State) (n : Nat) (h : LaneH) : (s.setLaneh n h).fec = s.fec := rfl
@[simp] theorem setLaneh_pool (s : State) (n : Nat) (h : LaneH) : (s.setLaneh n h).pool = s.pool := rfl
@[simp] theorem setLaneh_cal (s : State) (n : Nat) (h : LaneH) : (s.setLaneh n h).cal = s.cal := rfl
@[simp] theorem setLaneh_ramps (s : State) (n : Nat) (h : LaneH) : (s.setLaneh n h).ramps = s.ramps := rfl
@[simp] theorem setLaneh_host (s : State) (n : Nat) (h : LaneH) : (s.setLaneh n h).host = s.host := rfl
@[simp] theorem setLaneh_nvm (s : State) (n : Nat) (h : LaneH) : (s.setLaneh n h).nvm = s.nvm := rfl
@[simp] theorem setLaneh_poweredNs (s : State) (n : Nat) (h : LaneH) : (s.setLaneh n h).poweredNs = s.poweredNs := rfl
@[simp] theorem setLaneh_fab (s : State) (n : Nat) (h : LaneH) : (s.setLaneh n h).fab = s.fab := rfl
@[simp] theorem setLaneh_cap (s : State) (n : Nat) (h : LaneH) : (s.setLaneh n h).cap = s.cap := rfl
@[simp] theorem setLaneh_plank (s : State) (n : Nat) (h : LaneH) : (s.setLaneh n h).plank = s.plank := rfl
@[simp] theorem setLaneh_hb (s : State) (n : Nat) (h : LaneH) : (s.setLaneh n h).hb = s.hb := rfl
@[simp] theorem setLaneh_hk (s : State) (n : Nat) (h : LaneH) : (s.setLaneh n h).hk = s.hk := rfl
@[simp] theorem setLaneh_slots (s : State) (n : Nat) (h : LaneH) : (s.setLaneh n h).slots = s.slots := rfl
@[simp] theorem setLaneh_thm (s : State) (n : Nat) (h : LaneH) : (s.setLaneh n h).thm = s.thm := rfl
@[simp] theorem setLaneh_msp (s : State) (n : Nat) (h : LaneH) : (s.setLaneh n h).msp = s.msp := rfl
@[simp] theorem setLaneh_subs (s : State) (n : Nat) (h : LaneH) : (s.setLaneh n h).subs = s.subs := rfl
@[simp] theorem setLaneh_sys (s : State) (n : Nat) (h : LaneH) : (s.setLaneh n h).sys = s.sys := rfl
@[simp] theorem setLaneh_orphans (s : State) (n : Nat) (h : LaneH) : (s.setLaneh n h).orphans = s.orphans := rfl
@[simp] theorem setLaneh_arb (s : State) (n : Nat) (h : LaneH) : (s.setLaneh n h).arb = s.arb := rfl
@[simp] theorem setLaneh_grants (s : State) (n : Nat) (h : LaneH) : (s.setLaneh n h).grants = s.grants := rfl
@[simp] theorem setLaneh_tap (s : State) (n : Nat) (h : LaneH) : (s.setLaneh n h).tap = s.tap := rfl

@[simp] theorem setTx_pending (s : State) (n : Nat) (h : TxH) : (s.setTx n h).pending = s.pending := rfl
@[simp] theorem setTx_now (s : State) (n : Nat) (h : TxH) : (s.setTx n h).now = s.now := rfl
@[simp] theorem setTx_regs (s : State) (n : Nat) (h : TxH) : (s.setTx n h).regs = s.regs := rfl
@[simp] theorem setTx_hostMem (s : State) (n : Nat) (h : TxH) : (s.setTx n h).hostMem = s.hostMem := rfl
@[simp] theorem setTx_latches (s : State) (n : Nat) (h : TxH) : (s.setTx n h).latches = s.latches := rfl
@[simp] theorem setTx_staged (s : State) (n : Nat) (h : TxH) : (s.setTx n h).staged = s.staged := rfl
@[simp] theorem setTx_readData (s : State) (n : Nat) (h : TxH) : (s.setTx n h).readData = s.readData := rfl
@[simp] theorem setTx_pcie (s : State) (n : Nat) (h : TxH) : (s.setTx n h).pcie = s.pcie := rfl
@[simp] theorem setTx_held (s : State) (n : Nat) (h : TxH) : (s.setTx n h).held = s.held := rfl
@[simp] theorem setTx_occ (s : State) (n : Nat) (h : TxH) : (s.setTx n h).occ = s.occ := rfl
@[simp] theorem setTx_rings (s : State) (n : Nat) (h : TxH) : (s.setTx n h).rings = s.rings := rfl
@[simp] theorem setTx_jobs (s : State) (n : Nat) (h : TxH) : (s.setTx n h).jobs = s.jobs := rfl
@[simp] theorem setTx_msiSent (s : State) (n : Nat) (h : TxH) : (s.setTx n h).msiSent = s.msiSent := rfl
@[simp] theorem setTx_fresh (s : State) (n : Nat) (h : TxH) : (s.setTx n h).fresh = s.fresh := rfl
@[simp] theorem setTx_adc (s : State) (n : Nat) (h : TxH) : (s.setTx n h).adc = s.adc := rfl
@[simp] theorem setTx_eq (s : State) (n : Nat) (h : TxH) : (s.setTx n h).eq = s.eq := rfl
@[simp] theorem setTx_fec (s : State) (n : Nat) (h : TxH) : (s.setTx n h).fec = s.fec := rfl
@[simp] theorem setTx_pool (s : State) (n : Nat) (h : TxH) : (s.setTx n h).pool = s.pool := rfl
@[simp] theorem setTx_cal (s : State) (n : Nat) (h : TxH) : (s.setTx n h).cal = s.cal := rfl
@[simp] theorem setTx_ramps (s : State) (n : Nat) (h : TxH) : (s.setTx n h).ramps = s.ramps := rfl
@[simp] theorem setTx_lane (s : State) (n : Nat) (h : TxH) : (s.setTx n h).lane = s.lane := rfl
@[simp] theorem setTx_host (s : State) (n : Nat) (h : TxH) : (s.setTx n h).host = s.host := rfl
@[simp] theorem setTx_nvm (s : State) (n : Nat) (h : TxH) : (s.setTx n h).nvm = s.nvm := rfl
@[simp] theorem setTx_poweredNs (s : State) (n : Nat) (h : TxH) : (s.setTx n h).poweredNs = s.poweredNs := rfl
@[simp] theorem setTx_fab (s : State) (n : Nat) (h : TxH) : (s.setTx n h).fab = s.fab := rfl
@[simp] theorem setTx_cap (s : State) (n : Nat) (h : TxH) : (s.setTx n h).cap = s.cap := rfl
@[simp] theorem setTx_plank (s : State) (n : Nat) (h : TxH) : (s.setTx n h).plank = s.plank := rfl
@[simp] theorem setTx_hb (s : State) (n : Nat) (h : TxH) : (s.setTx n h).hb = s.hb := rfl
@[simp] theorem setTx_hk (s : State) (n : Nat) (h : TxH) : (s.setTx n h).hk = s.hk := rfl
@[simp] theorem setTx_slots (s : State) (n : Nat) (h : TxH) : (s.setTx n h).slots = s.slots := rfl
@[simp] theorem setTx_thm (s : State) (n : Nat) (h : TxH) : (s.setTx n h).thm = s.thm := rfl
@[simp] theorem setTx_msp (s : State) (n : Nat) (h : TxH) : (s.setTx n h).msp = s.msp := rfl
@[simp] theorem setTx_subs (s : State) (n : Nat) (h : TxH) : (s.setTx n h).subs = s.subs := rfl
@[simp] theorem setTx_sys (s : State) (n : Nat) (h : TxH) : (s.setTx n h).sys = s.sys := rfl
@[simp] theorem setTx_orphans (s : State) (n : Nat) (h : TxH) : (s.setTx n h).orphans = s.orphans := rfl
@[simp] theorem setTx_arb (s : State) (n : Nat) (h : TxH) : (s.setTx n h).arb = s.arb := rfl
@[simp] theorem setTx_grants (s : State) (n : Nat) (h : TxH) : (s.setTx n h).grants = s.grants := rfl
@[simp] theorem setTx_tap (s : State) (n : Nat) (h : TxH) : (s.setTx n h).tap = s.tap := rfl

@[simp] theorem setAdc_pending (s : State) (n : Nat) (h : AdcH) : (s.setAdc n h).pending = s.pending := rfl
@[simp] theorem setAdc_now (s : State) (n : Nat) (h : AdcH) : (s.setAdc n h).now = s.now := rfl
@[simp] theorem setAdc_regs (s : State) (n : Nat) (h : AdcH) : (s.setAdc n h).regs = s.regs := rfl
@[simp] theorem setAdc_hostMem (s : State) (n : Nat) (h : AdcH) : (s.setAdc n h).hostMem = s.hostMem := rfl
@[simp] theorem setAdc_latches (s : State) (n : Nat) (h : AdcH) : (s.setAdc n h).latches = s.latches := rfl
@[simp] theorem setAdc_staged (s : State) (n : Nat) (h : AdcH) : (s.setAdc n h).staged = s.staged := rfl
@[simp] theorem setAdc_readData (s : State) (n : Nat) (h : AdcH) : (s.setAdc n h).readData = s.readData := rfl
@[simp] theorem setAdc_pcie (s : State) (n : Nat) (h : AdcH) : (s.setAdc n h).pcie = s.pcie := rfl
@[simp] theorem setAdc_held (s : State) (n : Nat) (h : AdcH) : (s.setAdc n h).held = s.held := rfl
@[simp] theorem setAdc_occ (s : State) (n : Nat) (h : AdcH) : (s.setAdc n h).occ = s.occ := rfl
@[simp] theorem setAdc_rings (s : State) (n : Nat) (h : AdcH) : (s.setAdc n h).rings = s.rings := rfl
@[simp] theorem setAdc_jobs (s : State) (n : Nat) (h : AdcH) : (s.setAdc n h).jobs = s.jobs := rfl
@[simp] theorem setAdc_msiSent (s : State) (n : Nat) (h : AdcH) : (s.setAdc n h).msiSent = s.msiSent := rfl
@[simp] theorem setAdc_fresh (s : State) (n : Nat) (h : AdcH) : (s.setAdc n h).fresh = s.fresh := rfl
@[simp] theorem setAdc_tx (s : State) (n : Nat) (h : AdcH) : (s.setAdc n h).tx = s.tx := rfl
@[simp] theorem setAdc_eq (s : State) (n : Nat) (h : AdcH) : (s.setAdc n h).eq = s.eq := rfl
@[simp] theorem setAdc_fec (s : State) (n : Nat) (h : AdcH) : (s.setAdc n h).fec = s.fec := rfl
@[simp] theorem setAdc_pool (s : State) (n : Nat) (h : AdcH) : (s.setAdc n h).pool = s.pool := rfl
@[simp] theorem setAdc_cal (s : State) (n : Nat) (h : AdcH) : (s.setAdc n h).cal = s.cal := rfl
@[simp] theorem setAdc_ramps (s : State) (n : Nat) (h : AdcH) : (s.setAdc n h).ramps = s.ramps := rfl
@[simp] theorem setAdc_lane (s : State) (n : Nat) (h : AdcH) : (s.setAdc n h).lane = s.lane := rfl
@[simp] theorem setAdc_host (s : State) (n : Nat) (h : AdcH) : (s.setAdc n h).host = s.host := rfl
@[simp] theorem setAdc_nvm (s : State) (n : Nat) (h : AdcH) : (s.setAdc n h).nvm = s.nvm := rfl
@[simp] theorem setAdc_poweredNs (s : State) (n : Nat) (h : AdcH) : (s.setAdc n h).poweredNs = s.poweredNs := rfl
@[simp] theorem setAdc_fab (s : State) (n : Nat) (h : AdcH) : (s.setAdc n h).fab = s.fab := rfl
@[simp] theorem setAdc_cap (s : State) (n : Nat) (h : AdcH) : (s.setAdc n h).cap = s.cap := rfl
@[simp] theorem setAdc_plank (s : State) (n : Nat) (h : AdcH) : (s.setAdc n h).plank = s.plank := rfl
@[simp] theorem setAdc_hb (s : State) (n : Nat) (h : AdcH) : (s.setAdc n h).hb = s.hb := rfl
@[simp] theorem setAdc_hk (s : State) (n : Nat) (h : AdcH) : (s.setAdc n h).hk = s.hk := rfl
@[simp] theorem setAdc_slots (s : State) (n : Nat) (h : AdcH) : (s.setAdc n h).slots = s.slots := rfl
@[simp] theorem setAdc_thm (s : State) (n : Nat) (h : AdcH) : (s.setAdc n h).thm = s.thm := rfl
@[simp] theorem setAdc_msp (s : State) (n : Nat) (h : AdcH) : (s.setAdc n h).msp = s.msp := rfl
@[simp] theorem setAdc_subs (s : State) (n : Nat) (h : AdcH) : (s.setAdc n h).subs = s.subs := rfl
@[simp] theorem setAdc_sys (s : State) (n : Nat) (h : AdcH) : (s.setAdc n h).sys = s.sys := rfl
@[simp] theorem setAdc_orphans (s : State) (n : Nat) (h : AdcH) : (s.setAdc n h).orphans = s.orphans := rfl
@[simp] theorem setAdc_arb (s : State) (n : Nat) (h : AdcH) : (s.setAdc n h).arb = s.arb := rfl
@[simp] theorem setAdc_grants (s : State) (n : Nat) (h : AdcH) : (s.setAdc n h).grants = s.grants := rfl
@[simp] theorem setAdc_tap (s : State) (n : Nat) (h : AdcH) : (s.setAdc n h).tap = s.tap := rfl

@[simp] theorem setEq_pending (s : State) (n : Nat) (h : EqH) : (s.setEq n h).pending = s.pending := rfl
@[simp] theorem setEq_now (s : State) (n : Nat) (h : EqH) : (s.setEq n h).now = s.now := rfl
@[simp] theorem setEq_regs (s : State) (n : Nat) (h : EqH) : (s.setEq n h).regs = s.regs := rfl
@[simp] theorem setEq_hostMem (s : State) (n : Nat) (h : EqH) : (s.setEq n h).hostMem = s.hostMem := rfl
@[simp] theorem setEq_latches (s : State) (n : Nat) (h : EqH) : (s.setEq n h).latches = s.latches := rfl
@[simp] theorem setEq_staged (s : State) (n : Nat) (h : EqH) : (s.setEq n h).staged = s.staged := rfl
@[simp] theorem setEq_readData (s : State) (n : Nat) (h : EqH) : (s.setEq n h).readData = s.readData := rfl
@[simp] theorem setEq_pcie (s : State) (n : Nat) (h : EqH) : (s.setEq n h).pcie = s.pcie := rfl
@[simp] theorem setEq_held (s : State) (n : Nat) (h : EqH) : (s.setEq n h).held = s.held := rfl
@[simp] theorem setEq_occ (s : State) (n : Nat) (h : EqH) : (s.setEq n h).occ = s.occ := rfl
@[simp] theorem setEq_rings (s : State) (n : Nat) (h : EqH) : (s.setEq n h).rings = s.rings := rfl
@[simp] theorem setEq_jobs (s : State) (n : Nat) (h : EqH) : (s.setEq n h).jobs = s.jobs := rfl
@[simp] theorem setEq_msiSent (s : State) (n : Nat) (h : EqH) : (s.setEq n h).msiSent = s.msiSent := rfl
@[simp] theorem setEq_fresh (s : State) (n : Nat) (h : EqH) : (s.setEq n h).fresh = s.fresh := rfl
@[simp] theorem setEq_tx (s : State) (n : Nat) (h : EqH) : (s.setEq n h).tx = s.tx := rfl
@[simp] theorem setEq_adc (s : State) (n : Nat) (h : EqH) : (s.setEq n h).adc = s.adc := rfl
@[simp] theorem setEq_fec (s : State) (n : Nat) (h : EqH) : (s.setEq n h).fec = s.fec := rfl
@[simp] theorem setEq_pool (s : State) (n : Nat) (h : EqH) : (s.setEq n h).pool = s.pool := rfl
@[simp] theorem setEq_cal (s : State) (n : Nat) (h : EqH) : (s.setEq n h).cal = s.cal := rfl
@[simp] theorem setEq_ramps (s : State) (n : Nat) (h : EqH) : (s.setEq n h).ramps = s.ramps := rfl
@[simp] theorem setEq_lane (s : State) (n : Nat) (h : EqH) : (s.setEq n h).lane = s.lane := rfl
@[simp] theorem setEq_host (s : State) (n : Nat) (h : EqH) : (s.setEq n h).host = s.host := rfl
@[simp] theorem setEq_nvm (s : State) (n : Nat) (h : EqH) : (s.setEq n h).nvm = s.nvm := rfl
@[simp] theorem setEq_poweredNs (s : State) (n : Nat) (h : EqH) : (s.setEq n h).poweredNs = s.poweredNs := rfl
@[simp] theorem setEq_fab (s : State) (n : Nat) (h : EqH) : (s.setEq n h).fab = s.fab := rfl
@[simp] theorem setEq_cap (s : State) (n : Nat) (h : EqH) : (s.setEq n h).cap = s.cap := rfl
@[simp] theorem setEq_plank (s : State) (n : Nat) (h : EqH) : (s.setEq n h).plank = s.plank := rfl
@[simp] theorem setEq_hb (s : State) (n : Nat) (h : EqH) : (s.setEq n h).hb = s.hb := rfl
@[simp] theorem setEq_hk (s : State) (n : Nat) (h : EqH) : (s.setEq n h).hk = s.hk := rfl
@[simp] theorem setEq_slots (s : State) (n : Nat) (h : EqH) : (s.setEq n h).slots = s.slots := rfl
@[simp] theorem setEq_thm (s : State) (n : Nat) (h : EqH) : (s.setEq n h).thm = s.thm := rfl
@[simp] theorem setEq_msp (s : State) (n : Nat) (h : EqH) : (s.setEq n h).msp = s.msp := rfl
@[simp] theorem setEq_subs (s : State) (n : Nat) (h : EqH) : (s.setEq n h).subs = s.subs := rfl
@[simp] theorem setEq_sys (s : State) (n : Nat) (h : EqH) : (s.setEq n h).sys = s.sys := rfl
@[simp] theorem setEq_orphans (s : State) (n : Nat) (h : EqH) : (s.setEq n h).orphans = s.orphans := rfl
@[simp] theorem setEq_arb (s : State) (n : Nat) (h : EqH) : (s.setEq n h).arb = s.arb := rfl
@[simp] theorem setEq_grants (s : State) (n : Nat) (h : EqH) : (s.setEq n h).grants = s.grants := rfl
@[simp] theorem setEq_tap (s : State) (n : Nat) (h : EqH) : (s.setEq n h).tap = s.tap := rfl

@[simp] theorem setFec_pending (s : State) (n : Nat) (h : FecH) : (s.setFec n h).pending = s.pending := rfl
@[simp] theorem setFec_now (s : State) (n : Nat) (h : FecH) : (s.setFec n h).now = s.now := rfl
@[simp] theorem setFec_regs (s : State) (n : Nat) (h : FecH) : (s.setFec n h).regs = s.regs := rfl
@[simp] theorem setFec_hostMem (s : State) (n : Nat) (h : FecH) : (s.setFec n h).hostMem = s.hostMem := rfl
@[simp] theorem setFec_latches (s : State) (n : Nat) (h : FecH) : (s.setFec n h).latches = s.latches := rfl
@[simp] theorem setFec_staged (s : State) (n : Nat) (h : FecH) : (s.setFec n h).staged = s.staged := rfl
@[simp] theorem setFec_readData (s : State) (n : Nat) (h : FecH) : (s.setFec n h).readData = s.readData := rfl
@[simp] theorem setFec_pcie (s : State) (n : Nat) (h : FecH) : (s.setFec n h).pcie = s.pcie := rfl
@[simp] theorem setFec_held (s : State) (n : Nat) (h : FecH) : (s.setFec n h).held = s.held := rfl
@[simp] theorem setFec_occ (s : State) (n : Nat) (h : FecH) : (s.setFec n h).occ = s.occ := rfl
@[simp] theorem setFec_rings (s : State) (n : Nat) (h : FecH) : (s.setFec n h).rings = s.rings := rfl
@[simp] theorem setFec_jobs (s : State) (n : Nat) (h : FecH) : (s.setFec n h).jobs = s.jobs := rfl
@[simp] theorem setFec_msiSent (s : State) (n : Nat) (h : FecH) : (s.setFec n h).msiSent = s.msiSent := rfl
@[simp] theorem setFec_fresh (s : State) (n : Nat) (h : FecH) : (s.setFec n h).fresh = s.fresh := rfl
@[simp] theorem setFec_tx (s : State) (n : Nat) (h : FecH) : (s.setFec n h).tx = s.tx := rfl
@[simp] theorem setFec_adc (s : State) (n : Nat) (h : FecH) : (s.setFec n h).adc = s.adc := rfl
@[simp] theorem setFec_eq (s : State) (n : Nat) (h : FecH) : (s.setFec n h).eq = s.eq := rfl
@[simp] theorem setFec_pool (s : State) (n : Nat) (h : FecH) : (s.setFec n h).pool = s.pool := rfl
@[simp] theorem setFec_cal (s : State) (n : Nat) (h : FecH) : (s.setFec n h).cal = s.cal := rfl
@[simp] theorem setFec_ramps (s : State) (n : Nat) (h : FecH) : (s.setFec n h).ramps = s.ramps := rfl
@[simp] theorem setFec_lane (s : State) (n : Nat) (h : FecH) : (s.setFec n h).lane = s.lane := rfl
@[simp] theorem setFec_host (s : State) (n : Nat) (h : FecH) : (s.setFec n h).host = s.host := rfl
@[simp] theorem setFec_nvm (s : State) (n : Nat) (h : FecH) : (s.setFec n h).nvm = s.nvm := rfl
@[simp] theorem setFec_poweredNs (s : State) (n : Nat) (h : FecH) : (s.setFec n h).poweredNs = s.poweredNs := rfl
@[simp] theorem setFec_fab (s : State) (n : Nat) (h : FecH) : (s.setFec n h).fab = s.fab := rfl
@[simp] theorem setFec_cap (s : State) (n : Nat) (h : FecH) : (s.setFec n h).cap = s.cap := rfl
@[simp] theorem setFec_plank (s : State) (n : Nat) (h : FecH) : (s.setFec n h).plank = s.plank := rfl
@[simp] theorem setFec_hb (s : State) (n : Nat) (h : FecH) : (s.setFec n h).hb = s.hb := rfl
@[simp] theorem setFec_hk (s : State) (n : Nat) (h : FecH) : (s.setFec n h).hk = s.hk := rfl
@[simp] theorem setFec_slots (s : State) (n : Nat) (h : FecH) : (s.setFec n h).slots = s.slots := rfl
@[simp] theorem setFec_thm (s : State) (n : Nat) (h : FecH) : (s.setFec n h).thm = s.thm := rfl
@[simp] theorem setFec_msp (s : State) (n : Nat) (h : FecH) : (s.setFec n h).msp = s.msp := rfl
@[simp] theorem setFec_subs (s : State) (n : Nat) (h : FecH) : (s.setFec n h).subs = s.subs := rfl
@[simp] theorem setFec_sys (s : State) (n : Nat) (h : FecH) : (s.setFec n h).sys = s.sys := rfl
@[simp] theorem setFec_orphans (s : State) (n : Nat) (h : FecH) : (s.setFec n h).orphans = s.orphans := rfl
@[simp] theorem setFec_arb (s : State) (n : Nat) (h : FecH) : (s.setFec n h).arb = s.arb := rfl
@[simp] theorem setFec_grants (s : State) (n : Nat) (h : FecH) : (s.setFec n h).grants = s.grants := rfl
@[simp] theorem setFec_tap (s : State) (n : Nat) (h : FecH) : (s.setFec n h).tap = s.tap := rfl

@[simp] theorem setCal_pending (s : State) (n : Nat) (h : CalH) : (s.setCal n h).pending = s.pending := rfl
@[simp] theorem setCal_now (s : State) (n : Nat) (h : CalH) : (s.setCal n h).now = s.now := rfl
@[simp] theorem setCal_regs (s : State) (n : Nat) (h : CalH) : (s.setCal n h).regs = s.regs := rfl
@[simp] theorem setCal_hostMem (s : State) (n : Nat) (h : CalH) : (s.setCal n h).hostMem = s.hostMem := rfl
@[simp] theorem setCal_latches (s : State) (n : Nat) (h : CalH) : (s.setCal n h).latches = s.latches := rfl
@[simp] theorem setCal_staged (s : State) (n : Nat) (h : CalH) : (s.setCal n h).staged = s.staged := rfl
@[simp] theorem setCal_readData (s : State) (n : Nat) (h : CalH) : (s.setCal n h).readData = s.readData := rfl
@[simp] theorem setCal_pcie (s : State) (n : Nat) (h : CalH) : (s.setCal n h).pcie = s.pcie := rfl
@[simp] theorem setCal_held (s : State) (n : Nat) (h : CalH) : (s.setCal n h).held = s.held := rfl
@[simp] theorem setCal_occ (s : State) (n : Nat) (h : CalH) : (s.setCal n h).occ = s.occ := rfl
@[simp] theorem setCal_rings (s : State) (n : Nat) (h : CalH) : (s.setCal n h).rings = s.rings := rfl
@[simp] theorem setCal_jobs (s : State) (n : Nat) (h : CalH) : (s.setCal n h).jobs = s.jobs := rfl
@[simp] theorem setCal_msiSent (s : State) (n : Nat) (h : CalH) : (s.setCal n h).msiSent = s.msiSent := rfl
@[simp] theorem setCal_fresh (s : State) (n : Nat) (h : CalH) : (s.setCal n h).fresh = s.fresh := rfl
@[simp] theorem setCal_tx (s : State) (n : Nat) (h : CalH) : (s.setCal n h).tx = s.tx := rfl
@[simp] theorem setCal_adc (s : State) (n : Nat) (h : CalH) : (s.setCal n h).adc = s.adc := rfl
@[simp] theorem setCal_eq (s : State) (n : Nat) (h : CalH) : (s.setCal n h).eq = s.eq := rfl
@[simp] theorem setCal_fec (s : State) (n : Nat) (h : CalH) : (s.setCal n h).fec = s.fec := rfl
@[simp] theorem setCal_pool (s : State) (n : Nat) (h : CalH) : (s.setCal n h).pool = s.pool := rfl
@[simp] theorem setCal_ramps (s : State) (n : Nat) (h : CalH) : (s.setCal n h).ramps = s.ramps := rfl
@[simp] theorem setCal_lane (s : State) (n : Nat) (h : CalH) : (s.setCal n h).lane = s.lane := rfl
@[simp] theorem setCal_host (s : State) (n : Nat) (h : CalH) : (s.setCal n h).host = s.host := rfl
@[simp] theorem setCal_nvm (s : State) (n : Nat) (h : CalH) : (s.setCal n h).nvm = s.nvm := rfl
@[simp] theorem setCal_poweredNs (s : State) (n : Nat) (h : CalH) : (s.setCal n h).poweredNs = s.poweredNs := rfl
@[simp] theorem setCal_fab (s : State) (n : Nat) (h : CalH) : (s.setCal n h).fab = s.fab := rfl
@[simp] theorem setCal_cap (s : State) (n : Nat) (h : CalH) : (s.setCal n h).cap = s.cap := rfl
@[simp] theorem setCal_plank (s : State) (n : Nat) (h : CalH) : (s.setCal n h).plank = s.plank := rfl
@[simp] theorem setCal_hb (s : State) (n : Nat) (h : CalH) : (s.setCal n h).hb = s.hb := rfl
@[simp] theorem setCal_hk (s : State) (n : Nat) (h : CalH) : (s.setCal n h).hk = s.hk := rfl
@[simp] theorem setCal_slots (s : State) (n : Nat) (h : CalH) : (s.setCal n h).slots = s.slots := rfl
@[simp] theorem setCal_thm (s : State) (n : Nat) (h : CalH) : (s.setCal n h).thm = s.thm := rfl
@[simp] theorem setCal_msp (s : State) (n : Nat) (h : CalH) : (s.setCal n h).msp = s.msp := rfl
@[simp] theorem setCal_subs (s : State) (n : Nat) (h : CalH) : (s.setCal n h).subs = s.subs := rfl
@[simp] theorem setCal_sys (s : State) (n : Nat) (h : CalH) : (s.setCal n h).sys = s.sys := rfl
@[simp] theorem setCal_orphans (s : State) (n : Nat) (h : CalH) : (s.setCal n h).orphans = s.orphans := rfl
@[simp] theorem setCal_arb (s : State) (n : Nat) (h : CalH) : (s.setCal n h).arb = s.arb := rfl
@[simp] theorem setCal_grants (s : State) (n : Nat) (h : CalH) : (s.setCal n h).grants = s.grants := rfl
@[simp] theorem setCal_tap (s : State) (n : Nat) (h : CalH) : (s.setCal n h).tap = s.tap := rfl

@[simp] theorem setHost_pending (s : State) (n : Nat) (h : HostH) : (s.setHost n h).pending = s.pending := rfl
@[simp] theorem setHost_now (s : State) (n : Nat) (h : HostH) : (s.setHost n h).now = s.now := rfl
@[simp] theorem setHost_regs (s : State) (n : Nat) (h : HostH) : (s.setHost n h).regs = s.regs := rfl
@[simp] theorem setHost_hostMem (s : State) (n : Nat) (h : HostH) : (s.setHost n h).hostMem = s.hostMem := rfl
@[simp] theorem setHost_latches (s : State) (n : Nat) (h : HostH) : (s.setHost n h).latches = s.latches := rfl
@[simp] theorem setHost_staged (s : State) (n : Nat) (h : HostH) : (s.setHost n h).staged = s.staged := rfl
@[simp] theorem setHost_readData (s : State) (n : Nat) (h : HostH) : (s.setHost n h).readData = s.readData := rfl
@[simp] theorem setHost_pcie (s : State) (n : Nat) (h : HostH) : (s.setHost n h).pcie = s.pcie := rfl
@[simp] theorem setHost_held (s : State) (n : Nat) (h : HostH) : (s.setHost n h).held = s.held := rfl
@[simp] theorem setHost_occ (s : State) (n : Nat) (h : HostH) : (s.setHost n h).occ = s.occ := rfl
@[simp] theorem setHost_rings (s : State) (n : Nat) (h : HostH) : (s.setHost n h).rings = s.rings := rfl
@[simp] theorem setHost_jobs (s : State) (n : Nat) (h : HostH) : (s.setHost n h).jobs = s.jobs := rfl
@[simp] theorem setHost_msiSent (s : State) (n : Nat) (h : HostH) : (s.setHost n h).msiSent = s.msiSent := rfl
@[simp] theorem setHost_fresh (s : State) (n : Nat) (h : HostH) : (s.setHost n h).fresh = s.fresh := rfl
@[simp] theorem setHost_tx (s : State) (n : Nat) (h : HostH) : (s.setHost n h).tx = s.tx := rfl
@[simp] theorem setHost_adc (s : State) (n : Nat) (h : HostH) : (s.setHost n h).adc = s.adc := rfl
@[simp] theorem setHost_eq (s : State) (n : Nat) (h : HostH) : (s.setHost n h).eq = s.eq := rfl
@[simp] theorem setHost_fec (s : State) (n : Nat) (h : HostH) : (s.setHost n h).fec = s.fec := rfl
@[simp] theorem setHost_pool (s : State) (n : Nat) (h : HostH) : (s.setHost n h).pool = s.pool := rfl
@[simp] theorem setHost_cal (s : State) (n : Nat) (h : HostH) : (s.setHost n h).cal = s.cal := rfl
@[simp] theorem setHost_ramps (s : State) (n : Nat) (h : HostH) : (s.setHost n h).ramps = s.ramps := rfl
@[simp] theorem setHost_lane (s : State) (n : Nat) (h : HostH) : (s.setHost n h).lane = s.lane := rfl
@[simp] theorem setHost_nvm (s : State) (n : Nat) (h : HostH) : (s.setHost n h).nvm = s.nvm := rfl
@[simp] theorem setHost_poweredNs (s : State) (n : Nat) (h : HostH) : (s.setHost n h).poweredNs = s.poweredNs := rfl
@[simp] theorem setHost_fab (s : State) (n : Nat) (h : HostH) : (s.setHost n h).fab = s.fab := rfl
@[simp] theorem setHost_cap (s : State) (n : Nat) (h : HostH) : (s.setHost n h).cap = s.cap := rfl
@[simp] theorem setHost_plank (s : State) (n : Nat) (h : HostH) : (s.setHost n h).plank = s.plank := rfl
@[simp] theorem setHost_hb (s : State) (n : Nat) (h : HostH) : (s.setHost n h).hb = s.hb := rfl
@[simp] theorem setHost_hk (s : State) (n : Nat) (h : HostH) : (s.setHost n h).hk = s.hk := rfl
@[simp] theorem setHost_slots (s : State) (n : Nat) (h : HostH) : (s.setHost n h).slots = s.slots := rfl
@[simp] theorem setHost_thm (s : State) (n : Nat) (h : HostH) : (s.setHost n h).thm = s.thm := rfl
@[simp] theorem setHost_msp (s : State) (n : Nat) (h : HostH) : (s.setHost n h).msp = s.msp := rfl
@[simp] theorem setHost_subs (s : State) (n : Nat) (h : HostH) : (s.setHost n h).subs = s.subs := rfl
@[simp] theorem setHost_sys (s : State) (n : Nat) (h : HostH) : (s.setHost n h).sys = s.sys := rfl
@[simp] theorem setHost_orphans (s : State) (n : Nat) (h : HostH) : (s.setHost n h).orphans = s.orphans := rfl
@[simp] theorem setHost_arb (s : State) (n : Nat) (h : HostH) : (s.setHost n h).arb = s.arb := rfl
@[simp] theorem setHost_grants (s : State) (n : Nat) (h : HostH) : (s.setHost n h).grants = s.grants := rfl
@[simp] theorem setHost_tap (s : State) (n : Nat) (h : HostH) : (s.setHost n h).tap = s.tap := rfl

@[simp] theorem setPool_pending (s : State) (n : Nat) (h : PoolH) : (s.setPool n h).pending = s.pending := rfl
@[simp] theorem setPool_now (s : State) (n : Nat) (h : PoolH) : (s.setPool n h).now = s.now := rfl
@[simp] theorem setPool_regs (s : State) (n : Nat) (h : PoolH) : (s.setPool n h).regs = s.regs := rfl
@[simp] theorem setPool_hostMem (s : State) (n : Nat) (h : PoolH) : (s.setPool n h).hostMem = s.hostMem := rfl
@[simp] theorem setPool_latches (s : State) (n : Nat) (h : PoolH) : (s.setPool n h).latches = s.latches := rfl
@[simp] theorem setPool_staged (s : State) (n : Nat) (h : PoolH) : (s.setPool n h).staged = s.staged := rfl
@[simp] theorem setPool_readData (s : State) (n : Nat) (h : PoolH) : (s.setPool n h).readData = s.readData := rfl
@[simp] theorem setPool_pcie (s : State) (n : Nat) (h : PoolH) : (s.setPool n h).pcie = s.pcie := rfl
@[simp] theorem setPool_held (s : State) (n : Nat) (h : PoolH) : (s.setPool n h).held = s.held := rfl
@[simp] theorem setPool_occ (s : State) (n : Nat) (h : PoolH) : (s.setPool n h).occ = s.occ := rfl
@[simp] theorem setPool_rings (s : State) (n : Nat) (h : PoolH) : (s.setPool n h).rings = s.rings := rfl
@[simp] theorem setPool_jobs (s : State) (n : Nat) (h : PoolH) : (s.setPool n h).jobs = s.jobs := rfl
@[simp] theorem setPool_msiSent (s : State) (n : Nat) (h : PoolH) : (s.setPool n h).msiSent = s.msiSent := rfl
@[simp] theorem setPool_fresh (s : State) (n : Nat) (h : PoolH) : (s.setPool n h).fresh = s.fresh := rfl
@[simp] theorem setPool_tx (s : State) (n : Nat) (h : PoolH) : (s.setPool n h).tx = s.tx := rfl
@[simp] theorem setPool_adc (s : State) (n : Nat) (h : PoolH) : (s.setPool n h).adc = s.adc := rfl
@[simp] theorem setPool_eq (s : State) (n : Nat) (h : PoolH) : (s.setPool n h).eq = s.eq := rfl
@[simp] theorem setPool_fec (s : State) (n : Nat) (h : PoolH) : (s.setPool n h).fec = s.fec := rfl
@[simp] theorem setPool_cal (s : State) (n : Nat) (h : PoolH) : (s.setPool n h).cal = s.cal := rfl
@[simp] theorem setPool_ramps (s : State) (n : Nat) (h : PoolH) : (s.setPool n h).ramps = s.ramps := rfl
@[simp] theorem setPool_lane (s : State) (n : Nat) (h : PoolH) : (s.setPool n h).lane = s.lane := rfl
@[simp] theorem setPool_host (s : State) (n : Nat) (h : PoolH) : (s.setPool n h).host = s.host := rfl
@[simp] theorem setPool_nvm (s : State) (n : Nat) (h : PoolH) : (s.setPool n h).nvm = s.nvm := rfl
@[simp] theorem setPool_poweredNs (s : State) (n : Nat) (h : PoolH) : (s.setPool n h).poweredNs = s.poweredNs := rfl
@[simp] theorem setPool_fab (s : State) (n : Nat) (h : PoolH) : (s.setPool n h).fab = s.fab := rfl
@[simp] theorem setPool_cap (s : State) (n : Nat) (h : PoolH) : (s.setPool n h).cap = s.cap := rfl
@[simp] theorem setPool_plank (s : State) (n : Nat) (h : PoolH) : (s.setPool n h).plank = s.plank := rfl
@[simp] theorem setPool_hb (s : State) (n : Nat) (h : PoolH) : (s.setPool n h).hb = s.hb := rfl
@[simp] theorem setPool_hk (s : State) (n : Nat) (h : PoolH) : (s.setPool n h).hk = s.hk := rfl
@[simp] theorem setPool_slots (s : State) (n : Nat) (h : PoolH) : (s.setPool n h).slots = s.slots := rfl
@[simp] theorem setPool_thm (s : State) (n : Nat) (h : PoolH) : (s.setPool n h).thm = s.thm := rfl
@[simp] theorem setPool_msp (s : State) (n : Nat) (h : PoolH) : (s.setPool n h).msp = s.msp := rfl
@[simp] theorem setPool_subs (s : State) (n : Nat) (h : PoolH) : (s.setPool n h).subs = s.subs := rfl
@[simp] theorem setPool_sys (s : State) (n : Nat) (h : PoolH) : (s.setPool n h).sys = s.sys := rfl
@[simp] theorem setPool_orphans (s : State) (n : Nat) (h : PoolH) : (s.setPool n h).orphans = s.orphans := rfl
@[simp] theorem setPool_arb (s : State) (n : Nat) (h : PoolH) : (s.setPool n h).arb = s.arb := rfl
@[simp] theorem setPool_grants (s : State) (n : Nat) (h : PoolH) : (s.setPool n h).grants = s.grants := rfl
@[simp] theorem setPool_tap (s : State) (n : Nat) (h : PoolH) : (s.setPool n h).tap = s.tap := rfl

/-- A posted event changes the held events and the occurrences alone. -/
theorem post_parts (s : State) (src code : Nat) (l : List (Nat × Nat)) :
    s.post src code l = { s with held := (s.post src code l).held, occ := (s.post src code l).occ } := by
  unfold post
  split
  · rfl
  · dsimp only
    split <;> rfl

@[simp] theorem post_pending (s : State) (src code : Nat) (l : List (Nat × Nat)) : (s.post src code l).pending = s.pending := by
  rw [post_parts]
@[simp] theorem post_now (s : State) (src code : Nat) (l : List (Nat × Nat)) : (s.post src code l).now = s.now := by
  rw [post_parts]
@[simp] theorem post_regs (s : State) (src code : Nat) (l : List (Nat × Nat)) : (s.post src code l).regs = s.regs := by
  rw [post_parts]
@[simp] theorem post_hostMem (s : State) (src code : Nat) (l : List (Nat × Nat)) : (s.post src code l).hostMem = s.hostMem := by
  rw [post_parts]
@[simp] theorem post_latches (s : State) (src code : Nat) (l : List (Nat × Nat)) : (s.post src code l).latches = s.latches := by
  rw [post_parts]
@[simp] theorem post_staged (s : State) (src code : Nat) (l : List (Nat × Nat)) : (s.post src code l).staged = s.staged := by
  rw [post_parts]
@[simp] theorem post_readData (s : State) (src code : Nat) (l : List (Nat × Nat)) : (s.post src code l).readData = s.readData := by
  rw [post_parts]
@[simp] theorem post_pcie (s : State) (src code : Nat) (l : List (Nat × Nat)) : (s.post src code l).pcie = s.pcie := by
  rw [post_parts]
@[simp] theorem post_rings (s : State) (src code : Nat) (l : List (Nat × Nat)) : (s.post src code l).rings = s.rings := by
  rw [post_parts]
@[simp] theorem post_jobs (s : State) (src code : Nat) (l : List (Nat × Nat)) : (s.post src code l).jobs = s.jobs := by
  rw [post_parts]
@[simp] theorem post_msiSent (s : State) (src code : Nat) (l : List (Nat × Nat)) : (s.post src code l).msiSent = s.msiSent := by
  rw [post_parts]
@[simp] theorem post_fresh (s : State) (src code : Nat) (l : List (Nat × Nat)) : (s.post src code l).fresh = s.fresh := by
  rw [post_parts]
@[simp] theorem post_tx (s : State) (src code : Nat) (l : List (Nat × Nat)) : (s.post src code l).tx = s.tx := by
  rw [post_parts]
@[simp] theorem post_adc (s : State) (src code : Nat) (l : List (Nat × Nat)) : (s.post src code l).adc = s.adc := by
  rw [post_parts]
@[simp] theorem post_eq (s : State) (src code : Nat) (l : List (Nat × Nat)) : (s.post src code l).eq = s.eq := by
  rw [post_parts]
@[simp] theorem post_fec (s : State) (src code : Nat) (l : List (Nat × Nat)) : (s.post src code l).fec = s.fec := by
  rw [post_parts]
@[simp] theorem post_pool (s : State) (src code : Nat) (l : List (Nat × Nat)) : (s.post src code l).pool = s.pool := by
  rw [post_parts]
@[simp] theorem post_cal (s : State) (src code : Nat) (l : List (Nat × Nat)) : (s.post src code l).cal = s.cal := by
  rw [post_parts]
@[simp] theorem post_ramps (s : State) (src code : Nat) (l : List (Nat × Nat)) : (s.post src code l).ramps = s.ramps := by
  rw [post_parts]
@[simp] theorem post_lane (s : State) (src code : Nat) (l : List (Nat × Nat)) : (s.post src code l).lane = s.lane := by
  rw [post_parts]
@[simp] theorem post_host (s : State) (src code : Nat) (l : List (Nat × Nat)) : (s.post src code l).host = s.host := by
  rw [post_parts]
@[simp] theorem post_nvm (s : State) (src code : Nat) (l : List (Nat × Nat)) : (s.post src code l).nvm = s.nvm := by
  rw [post_parts]
@[simp] theorem post_poweredNs (s : State) (src code : Nat) (l : List (Nat × Nat)) : (s.post src code l).poweredNs = s.poweredNs := by
  rw [post_parts]
@[simp] theorem post_fab (s : State) (src code : Nat) (l : List (Nat × Nat)) : (s.post src code l).fab = s.fab := by
  rw [post_parts]
@[simp] theorem post_cap (s : State) (src code : Nat) (l : List (Nat × Nat)) : (s.post src code l).cap = s.cap := by
  rw [post_parts]
@[simp] theorem post_plank (s : State) (src code : Nat) (l : List (Nat × Nat)) : (s.post src code l).plank = s.plank := by
  rw [post_parts]
@[simp] theorem post_hb (s : State) (src code : Nat) (l : List (Nat × Nat)) : (s.post src code l).hb = s.hb := by
  rw [post_parts]
@[simp] theorem post_hk (s : State) (src code : Nat) (l : List (Nat × Nat)) : (s.post src code l).hk = s.hk := by
  rw [post_parts]
@[simp] theorem post_slots (s : State) (src code : Nat) (l : List (Nat × Nat)) : (s.post src code l).slots = s.slots := by
  rw [post_parts]
@[simp] theorem post_thm (s : State) (src code : Nat) (l : List (Nat × Nat)) : (s.post src code l).thm = s.thm := by
  rw [post_parts]
@[simp] theorem post_msp (s : State) (src code : Nat) (l : List (Nat × Nat)) : (s.post src code l).msp = s.msp := by
  rw [post_parts]
@[simp] theorem post_subs (s : State) (src code : Nat) (l : List (Nat × Nat)) : (s.post src code l).subs = s.subs := by
  rw [post_parts]
@[simp] theorem post_sys (s : State) (src code : Nat) (l : List (Nat × Nat)) : (s.post src code l).sys = s.sys := by
  rw [post_parts]
@[simp] theorem post_orphans (s : State) (src code : Nat) (l : List (Nat × Nat)) : (s.post src code l).orphans = s.orphans := by
  rw [post_parts]

end State

end Sys2Proof.Machine
end

