-- ==== Sys2Proof/Laws/Tab.lean ====
section
/-! SUPPORT. Laws of sparse tables and byte memory: read after write, and that every operation keeps the canonical
form. -/

namespace Sys2Proof

/-- What a put reads back. -/
theorem Tab.get_put {α : Type} (t : Tab α) (k j : Nat) (v d : α) :
    (t.put k v).get j d = if j = k then v else t.get j d := by
  induction t with
  | nil =>
    simp only [Tab.put, Tab.get]
    by_cases h : k = j
    · simp [h]
    · simp [h, Ne.symm h]
  | cons e t ih =>
    obtain ⟨i, w⟩ := e
    simp only [Tab.put]
    split
    · rename_i h
      simp only [Tab.get]
      by_cases hj : k = j
      · simp [hj]
      · simp [hj, Ne.symm hj]
    · split
      · rename_i h1 h2
        subst h2
        simp only [Tab.get]
        by_cases hj : i = j
        · simp [hj]
        · simp [hj, Ne.symm hj]
      · rename_i h1 h2
        simp only [Tab.get, ih]
        by_cases hj : i = j
        · subst hj
          simp [h2]
        · simp [hj]

/-- What a deletion reads back. -/
theorem Tab.get_del {α : Type} (t : Tab α) (k j : Nat) (d : α) :
    (t.del k).get j d = if j = k then d else t.get j d := by
  induction t with
  | nil => simp [Tab.del, Tab.get]
  | cons e t ih =>
    obtain ⟨i, w⟩ := e
    simp only [Tab.del]
    split
    · rename_i h
      subst h
      rw [ih]
      by_cases hj : j = i
      · simp [hj]
      · simp [hj, Tab.get, Ne.symm hj]
    · rename_i h
      simp only [Tab.get, ih]
      by_cases hj : i = j
      · subst hj
        simp [h]
      · simp [hj]

/-- What a table reads after a set. -/
theorem Tab.get_set {α : Type} [DecidableEq α] (t : Tab α) (k j : Nat) (v d : α) :
    (t.set k v d).get j d = if j = k then v else t.get j d := by
  unfold Tab.set
  split
  · rename_i h
    subst h
    exact Tab.get_del t k j v
  · exact Tab.get_put t k j v d

/-- Keys that rise from `lo` rise from anything `lo` is above. -/
theorem Tab.sorted_weaken {α : Type} {t : Tab α} {lo : Option Nat} (h : Tab.sortedFrom lo t = true) :
    Tab.sortedFrom none t = true := by
  cases t with
  | nil => rfl
  | cons e t =>
    simp only [Tab.sortedFrom, Bool.and_eq_true, Bool.true_and] at h ⊢
    exact h.2

/-- Keys that rise from above `lo` on: the first is above it and the others rise from it. -/
theorem Tab.sorted_cons {α : Type} {lo : Option Nat} {i : Nat} {w : α} {t : Tab α} :
    Tab.sortedFrom lo ((i, w) :: t) = true ↔ (∀ l, lo = some l → l < i) ∧ Tab.sortedFrom (some i) t = true := by
  cases lo with
  | none => simp [Tab.sortedFrom]
  | some l => simp [Tab.sortedFrom]

/-- A put keeps the order. -/
theorem Tab.sorted_put {α : Type} (k : Nat) (v : α) (t : Tab α) : ∀ (lo : Option Nat), (∀ l, lo = some l → l < k) →
    Tab.sortedFrom lo t = true → Tab.sortedFrom lo (t.put k v) = true := by
  induction t with
  | nil =>
    intro lo hk _
    exact Tab.sorted_cons.2 ⟨hk, rfl⟩
  | cons e t ih =>
    obtain ⟨i, w⟩ := e
    intro lo hk h
    have h' := Tab.sorted_cons.1 h
    simp only [Tab.put]
    split
    · rename_i hlt
      exact Tab.sorted_cons.2 ⟨hk, Tab.sorted_cons.2 ⟨fun l hl => by cases hl; exact hlt, h'.2⟩⟩
    · split
      · rename_i h1 h2
        subst h2
        exact Tab.sorted_cons.2 h'
      · rename_i h1 h2
        exact Tab.sorted_cons.2 ⟨h'.1, ih (some i) (fun l hl => by cases hl; omega) h'.2⟩

/-- What rises from `i` rises from what `i` rises from. -/
theorem Tab.sorted_trans {α : Type} {t : Tab α} {lo : Option Nat} {i : Nat} (hi : ∀ l, lo = some l → l < i)
    (h : Tab.sortedFrom (some i) t = true) : Tab.sortedFrom lo t = true := by
  cases t with
  | nil => rfl
  | cons e t =>
    simp only [Tab.sortedFrom, Bool.and_eq_true, decide_eq_true_eq] at h ⊢
    refine ⟨?_, h.2⟩
    cases lo with
    | none => rfl
    | some l => exact decide_eq_true (Nat.lt_trans (hi l rfl) h.1)

/-- A filter keeps the order. -/
theorem Tab.sorted_filter {α : Type} (p : Nat × α → Bool) :
    ∀ (t : Tab α) (lo : Option Nat), Tab.sortedFrom lo t = true → Tab.sortedFrom lo (t.filter p) = true
  | [], _, _ => rfl
  | (i, w) :: t, lo, h => by
    simp only [Tab.sortedFrom, Bool.and_eq_true] at h
    have ht := Tab.sorted_filter p t (some i) h.2
    simp only [List.filter]
    split
    · simp only [Tab.sortedFrom, Bool.and_eq_true]
      exact ⟨h.1, ht⟩
    · refine Tab.sorted_trans (fun l hl => ?_) ht
      subst hl
      simpa using h.1

/-- A deletion is a filter. -/
theorem Tab.del_eq {α : Type} (t : Tab α) (k : Nat) : t.del k = t.filter fun e => e.1 != k := by
  induction t with
  | nil => rfl
  | cons e t ih =>
    obtain ⟨i, w⟩ := e
    simp only [Tab.del, List.filter]
    by_cases h : i = k
    · simp [h, ih]
    · simp only [if_neg h, ih, bne_iff_ne.2 h]

/-- The entries of a put are the new one and old ones. -/
theorem Tab.mem_put {α : Type} {t : Tab α} {k : Nat} {v : α} {e : Nat × α} (h : e ∈ t.put k v) : e = (k, v) ∨ e ∈ t := by
  induction t with
  | nil => simpa [Tab.put] using h
  | cons x t ih =>
    obtain ⟨i, w⟩ := x
    simp only [Tab.put] at h
    split at h
    · simpa using h
    · split at h
      · rcases List.mem_cons.1 h with h | h
        · exact .inl h
        · exact .inr (List.mem_cons_of_mem _ h)
      · rcases List.mem_cons.1 h with h | h
        · exact .inr (h ▸ List.mem_cons_self)
        · rcases ih h with h | h
          · exact .inl h
          · exact .inr (List.mem_cons_of_mem _ h)

/-- A set keeps the order. -/
theorem Tab.sorted_set {α : Type} [DecidableEq α] {t : Tab α} (k : Nat) (v d : α) (h : Tab.sortedFrom none t = true) :
    Tab.sortedFrom none (t.set k v d) = true := by
  unfold Tab.set
  split
  · rw [Tab.del_eq]
    exact Tab.sorted_filter _ t none h
  · exact Tab.sorted_put k v t none (fun _ hl => nomatch hl) h

/-- The entries of a set satisfy what the old ones and the new one do. -/
theorem Tab.all_set {α : Type} [DecidableEq α] {t : Tab α} {k : Nat} {v d : α} {p : Nat × α → Bool}
    (h : t.all p = true) (hv : v ≠ d → p (k, v) = true) : (t.set k v d).all p = true := by
  unfold Tab.set
  split
  · rw [Tab.del_eq, List.all_eq_true]
    intro e he
    exact List.all_eq_true.1 h e (List.mem_filter.1 he).1
  · rename_i hne
    rw [List.all_eq_true]
    intro e he
    rcases Tab.mem_put he with he | he
    · exact he ▸ hv hne
    · exact List.all_eq_true.1 h e he

/-- A byte reads back what was written there, and every other byte what it held. -/
theorem Mem.read_write (m : Mem) (a b : Nat) (v : BitVec 8) : (m.write a v).read b = if b = a then v else m.read b :=
  Tab.get_set m a b v Mem.blank

/-- A write keeps the canonical form. -/
theorem Mem.write_wf {m : Mem} (a : Nat) (v : BitVec 8) (h : m.wf = true) : (m.write a v).wf = true := by
  simp only [Mem.wf, Bool.and_eq_true] at h ⊢
  exact ⟨Tab.sorted_set a v Mem.blank h.1, Tab.all_set h.2 fun hne => by simpa using hne⟩

/-- Writing bytes keeps the canonical form. -/
theorem Mem.writeBytes_wf (bs : List Nat) : ∀ (m : Mem) (a : Nat), m.wf = true → (m.writeBytes a bs).wf = true := by
  induction bs with
  | nil => intro m a h; exact h
  | cons b bs ih => intro m a h; exact ih _ _ (Mem.write_wf _ _ h)

/-- A byte outside the bytes written reads as before. -/
theorem Mem.read_writeBytes_of_lt (bs : List Nat) : ∀ (m : Mem) (a b : Nat), b < a ∨ a + bs.length ≤ b →
    (m.writeBytes a bs).read b = m.read b := by
  induction bs with
  | nil => intro m a b _; rfl
  | cons x bs ih =>
    intro m a b h
    simp only [List.length_cons] at h
    have hne : b ≠ a := by omega
    rw [Mem.writeBytes, ih _ _ _ (by omega), Mem.read_write, if_neg hne]

/-- A byte written reads as its value. -/
theorem Mem.read_writeBytes (bs : List Nat) : ∀ (m : Mem) (a k : Nat) (h : k < bs.length),
    (m.writeBytes a bs).read (a + k) = BitVec.ofNat 8 bs[k] := by
  induction bs with
  | nil => intro m a k h; exact absurd h (Nat.not_lt_zero k)
  | cons x bs ih =>
    intro m a k h
    cases k with
    | zero =>
      rw [Nat.add_zero, Mem.writeBytes, Mem.read_writeBytes_of_lt _ _ _ _ (.inl (by omega)), Mem.read_write,
        if_pos rfl]
      rfl
    | succ k =>
      rw [Mem.writeBytes, show a + (k + 1) = (a + 1) + k by omega, ih _ _ k (by simpa using h)]
      rfl

/-- Programming keeps the canonical form of the non-volatile memory. -/
theorem Machine.NvmH.write_wf (bs : List Nat) : ∀ (m : Machine.NvmH) (a : Nat), m.wf = true → (m.write a bs).wf = true := by
  induction bs with
  | nil => intro m a h; exact h
  | cons b bs ih =>
    intro m a h
    refine ih _ _ ?_
    simp only [Machine.NvmH.wf, Bool.and_eq_true] at h ⊢
    exact ⟨Tab.sorted_set a _ Machine.Nvm.blank h.1, Tab.all_set h.2 fun hne => by simpa using hne⟩

/-- So does an erase. -/
theorem Machine.NvmH.erase_wf {m : Machine.NvmH} (b : Nat) (h : m.wf = true) : (m.erase b).wf = true := by
  simp only [Machine.NvmH.wf, Bool.and_eq_true] at h ⊢
  refine ⟨Tab.sorted_filter _ _ none h.1, ?_⟩
  rw [List.all_eq_true]
  intro e he
  exact List.all_eq_true.1 h.2 e (List.mem_filter.1 he).1

end Sys2Proof
end

