-- ==== Sys2Proof/Laws/Regs.lean ====
section
/-! SUPPORT. Reading a register after a write of one. -/

namespace Sys2Proof

/-- A field keeps its value under a write of another field. -/
theorem Regs.get_set_ne {r : Regs} {f g : Fld} {i j v : Nat} (h : g.id ≠ f.id) : (r.set f i v).get g j = r.get g j := by
  unfold Regs.get Regs.set
  rw [Tab.get_set, if_neg h]

/-- A field keeps its value at the other indices. -/
theorem Regs.get_set_index {r : Regs} {f : Fld} {i j v : Nat} (h : j ≠ i) : (r.set f i v).get f j = r.get f j := by
  unfold Regs.get Regs.set
  rw [Tab.get_set, if_pos rfl]
  unfold Tab.set
  split
  · rw [Tab.get_del, if_neg h]
  · rw [Tab.get_put, if_neg h]

/-- A field holds what was written, cut to its width. -/
theorem Regs.get_set_same {r : Regs} {f : Fld} {i v : Nat} : (r.set f i v).get f i = v % 2 ^ f.width := by
  unfold Regs.get Regs.set
  rw [Tab.get_set, if_pos rfl, Tab.get_set, if_pos rfl]

namespace Machine.State

@[simp] theorem r_w_same (s : State) (f : Fld) (i v : Nat) : (s.w f i v).r f i = v % 2 ^ f.width := Regs.get_set_same

theorem r_w_index (s : State) {f : Fld} {i j : Nat} (v : Nat) (h : j ≠ i) : (s.w f i v).r f j = s.r f j :=
  Regs.get_set_index h

theorem r_w_ne (s : State) {f g : Fld} {i j : Nat} (v : Nat) (h : g.id ≠ f.id) : (s.w f i v).r g j = s.r g j :=
  Regs.get_set_ne h

/-- Reading depends on the register file alone. -/
theorem r_congr {s t : State} (h : s.regs = t.regs) (f : Fld) (i : Nat) : s.r f i = t.r f i := by
  unfold r; rw [h]

@[simp] theorem r_post (s : State) (src code : Nat) (l : List (Nat × Nat)) (f : Fld) (i : Nat) :
    (s.post src code l).r f i = s.r f i := r_congr (post_regs s src code l) f i

@[simp] theorem r_finish (s : State) (q i : Nat) (st : Status) (a b c : Nat) (f : Fld) (k : Nat) :
    (s.finish q i st a b c).r f k = s.r f k := rfl

@[simp] theorem r_mapJob (s : State) (q i : Nat) (g : Job → Job) (f : Fld) (k : Nat) :
    (s.mapJob q i g).r f k = s.r f k := rfl

@[simp] theorem r_resolve (s : State) (x : Wait) (st : Status) (f : Fld) (k : Nat) :
    (s.resolve x st).r f k = s.r f k := rfl

@[simp] theorem r_setRing (s : State) (q : Nat) (h : RingH) (f : Fld) (k : Nat) : (s.setRing q h).r f k = s.r f k := rfl

end Machine.State

end Sys2Proof
end

