-- ==== Sys2Proof/Laws/Frames.lean ====
section
/-! SUPPORT. Frames: how the register writes and the job updates add up, and what a started job is. -/

namespace Sys2Proof.Machine

open Sys2Proof

/-- A field read at another field or another index keeps its value. -/
theorem State.r_w_other (s : State) {f g : Fld} {i j : Nat} (v : Nat) (h : (g.id, j) ≠ (f.id, i)) :
    (s.w f i v).r g j = s.r g j := by
  by_cases hf : g.id = f.id
  · have hj : j ≠ i := fun e => h (by rw [hf, e])
    unfold State.r State.w Regs.get Regs.set
    rw [Tab.get_set, if_pos hf, hf]
    unfold Tab.set
    split
    · rw [Tab.get_del, if_neg hj]
    · rw [Tab.get_put, if_neg hj]
  · exact State.r_w_ne s v hf

theorem onlyRegs.refl (l : List (Fld × Nat)) (s : State) : onlyRegs l s s := fun _ _ _ => rfl

theorem onlyRegs.regs {l : List (Fld × Nat)} {s t u : State} (h : onlyRegs l s t) (e : u.regs = t.regs) :
    onlyRegs l s u := fun f i hf => (State.r_congr e f i).trans (h f i hf)

theorem onlyRegs.w {l : List (Fld × Nat)} {s t : State} (h : onlyRegs l s t) {f : Fld} {i : Nat} (v : Nat)
    (hm : (f, i) ∈ l) : onlyRegs l s (t.w f i v) := by
  intro g j hg
  have hne : (g.id, j) ≠ (f.id, i) := by
    intro e
    rw [e] at hg
    exact hg (List.mem_map.2 ⟨(f, i), hm, rfl⟩)
  exact (State.r_w_other t v hne).trans (h g j hg)

theorem onlyRegs.ite {l : List (Fld × Nat)} {s t u : State} {c : Prop} [Decidable c] (ht : onlyRegs l s t)
    (hu : onlyRegs l s u) : onlyRegs l s (if c then t else u) := by
  split
  · exact ht
  · exact hu

theorem onlyFields.refl (l : List Fld) (s : State) : onlyFields l s s := fun _ _ _ => rfl

theorem onlyFields.regs {l : List Fld} {s t u : State} (h : onlyFields l s t) (e : u.regs = t.regs) :
    onlyFields l s u := fun f i hf => (State.r_congr e f i).trans (h f i hf)

theorem onlyFields.w {l : List Fld} {s t : State} (h : onlyFields l s t) {f : Fld} (i v : Nat) (hm : f ∈ l) :
    onlyFields l s (t.w f i v) := by
  intro g j hg
  have hne : g.id ≠ f.id := by
    intro e
    rw [e] at hg
    exact hg (List.mem_map_of_mem hm)
  exact (State.r_w_ne t v hne).trans (h g j hg)

theorem sameBytes.of_eq {s t : State} (h : t.hostMem = s.hostMem) : sameBytes s t := fun x => by rw [h]

namespace State

/-! ### Jobs -/

/-- What a started job of an opcode is. -/
theorem started_job {s : State} {op q i : Nat} {j : Job} (h : s.started? op q i = some j) :
    s.job? q i = some j ∧ s.serviced = true ∧ j.phase = .started ∧ byteAt j.desc 0 = op := by
  unfold started? at h
  split at h
  · rename_i k hk
    split at h
    · rename_i hc
      simp only [Bool.and_eq_true, beq_iff_eq] at hc
      cases h
      exact ⟨hk, hc.1.1, hc.1.2, hc.2⟩
    · cases h
  · cases h

/-- A job stands at its own place. -/
theorem job_place {s : State} {q i : Nat} {j : Job} (h : s.job? q i = some j) : j.ring = q ∧ j.idx = i := by
  have := List.find?_some h
  simpa using this

/-- Of the jobs at a place the first is what `g` makes of it, if `g` keeps places. -/
theorem find_map_job (l : List Job) (g : Job → Job) (q i : Nat) (hg : ∀ j, (g j).ring = j.ring ∧ (g j).idx = j.idx) :
    (l.map g).find? (fun j => j.ring == q && j.idx == i) = (l.find? fun j => j.ring == q && j.idx == i).map g := by
  rw [List.find?_map]
  congr 2
  funext j
  simp [(hg j).1, (hg j).2]

/-- The job at a place after `mapJob`, if `g` keeps places. -/
theorem job_mapJob (s : State) (q i p k : Nat) (g : Job → Job) (hg : ∀ j, (g j).ring = j.ring ∧ (g j).idx = j.idx) :
    (s.mapJob q i g).job? p k = if p = q ∧ k = i then (s.job? p k).map g else s.job? p k := by
  unfold job? mapJob
  rw [find_map_job]
  · split
    · rename_i h
      obtain ⟨rfl, rfl⟩ := h
      cases hf : s.jobs.find? (fun j => j.ring == p && j.idx == k) with
      | none => rfl
      | some j =>
        have := List.find?_some hf
        simp only [Bool.and_eq_true, beq_iff_eq] at this
        simp [this.1, this.2]
    · rename_i h
      cases hf : s.jobs.find? (fun j => j.ring == p && j.idx == k) with
      | none => rfl
      | some j =>
        have := List.find?_some hf
        simp only [Bool.and_eq_true, beq_iff_eq] at this
        simp only [Option.map_some, this.1, this.2]
        rw [if_neg]
        simpa using h
  · intro j
    split
    · exact hg j
    · exact ⟨rfl, rfl⟩

theorem job_finish (s : State) (q i p k : Nat) (st : Status) (a b c : Nat) :
    (s.finish q i st a b c).job? p k = if p = q ∧ k = i then
      (s.job? p k).map (fun j => if j.phase == .due then j else Job.finished j st c a b s.now s.sysTime)
    else s.job? p k := by
  unfold finish
  rw [job_mapJob]
  intro j
  split <;> exact ⟨rfl, rfl⟩

/-- A job that is not due yet ends with the status and the results given. -/
theorem finish_due {s : State} {q i : Nat} {j : Job} (h : s.job? q i = some j) (hp : j.phase ≠ .due) (st : Status)
    (a b c : Nat) : (s.finish q i st a b c).due q i st (a % 2 ^ 64) (b % 2 ^ 64) := by
  refine ⟨Job.finished j st c a b s.now s.sysTime, ?_, rfl, rfl, rfl, rfl⟩
  rw [job_finish, if_pos ⟨rfl, rfl⟩, h, Option.map_some, if_neg (by simpa using hp)]

theorem finish_only (s : State) (q i : Nat) (st : Status) (a b c : Nat) : onlyJob q i s (s.finish q i st a b c) := by
  intro p k h
  rw [job_finish, if_neg]
  intro e
  exact h (by rw [e.1, e.2])

/-! ### Device states and events -/

theorem live_cases {s : State} (h : s.live = true) : s.dev = .boot ∨ s.dev = .setup ∨ s.dev = .run ∨ s.dev = .safe := by
  unfold live at h
  cases hd : s.dev <;> simp_all

theorem live_not_frozen {s : State} (h : s.live = true) : s.frozen = false := by
  unfold frozen
  rcases live_cases h with e | e | e | e <;> rw [e] <;> rfl

theorem live_powered {s : State} (h : s.live = true) : s.powered = true := by
  unfold powered
  rcases live_cases h with e | e | e | e <;> rw [e] <;> rfl

theorem serviced_live {s : State} (h : s.serviced = true) : s.live = true := by
  unfold serviced at h
  unfold live
  cases hd : s.dev <;> simp_all

/-- The device state depends on one register field. -/
theorem dev_congr {s t : State} (h : t.r F.SYS_STATE_STATE = s.r F.SYS_STATE_STATE) : t.dev = s.dev := by
  unfold dev
  rw [h]

theorem live_congr {s t : State} (h : t.r F.SYS_STATE_STATE = s.r F.SYS_STATE_STATE) : t.live = s.live := by
  unfold live
  rw [dev_congr h]

/-- A posted event is held, unless the device is frozen or without power. -/
theorem post_isHeld {s : State} (h : s.live = true) (src code : Nat) (l : List (Nat × Nat)) :
    (s.post src code l).isHeld src code = true := by
  have hp : (s.frozen || !s.powered) = false := by simp [live_not_frozen h, live_powered h]
  unfold post
  rw [if_neg (by simp [hp])]
  dsimp only
  by_cases hh : s.isHeld src code = true
  · have hh' : isHeld { s with occ := s.occ ++ [(src, code, s.dieTime (dieOf src))] } src code = true := hh
    rw [if_pos hh']
    unfold isHeld at hh ⊢
    rw [List.any_eq_true] at hh ⊢
    obtain ⟨e, he, hc⟩ := hh
    refine ⟨heldAgain e, List.mem_map.2 ⟨e, he, if_pos hc⟩, ?_⟩
    have : (heldAgain e).src = e.src ∧ (heldAgain e).code = e.code := by
      unfold heldAgain
      split <;> exact ⟨rfl, rfl⟩
    rw [this.1, this.2]
    exact hc
  · have hh' : ¬ isHeld { s with occ := s.occ ++ [(src, code, s.dieTime (dieOf src))] } src code = true := hh
    rw [if_neg hh']
    unfold isHeld
    simp

/-- Other events stay held. -/
theorem post_held {s : State} {src code src' code' : Nat} {l : List (Nat × Nat)} (h : s.isHeld src' code' = true) :
    (s.post src code l).isHeld src' code' = true := by
  unfold post
  split
  · exact h
  · dsimp only
    have hany : ∀ e : Held, (heldAgain e).src = e.src ∧ (heldAgain e).code = e.code := by
      intro e
      unfold heldAgain
      split <;> exact ⟨rfl, rfl⟩
    unfold isHeld at h ⊢
    split
    · rw [List.any_eq_true] at h ⊢
      obtain ⟨e, he, hc⟩ := h
      refine ⟨_, List.mem_map.2 ⟨e, he, rfl⟩, ?_⟩
      split
      · rw [(hany e).1, (hany e).2]
        exact hc
      · exact hc
    · rw [List.any_append, h]
      rfl

end State

/-- A started job acts. -/
theorem actJob_started {op : Nat} {q : Fin 32768} {i : Fin 65536} {s : State} {j : Job} {act : Job → State → State}
    (h : s.started? op q i = some j) (hb : s.bistHolds j = false) : actJob op q i s act = .next (act j s) := by
  unfold actJob
  rw [h]
  simp [hb]

end Sys2Proof.Machine
end

