-- ==== Sys2Proof/Laws/KeptBase.lean ====
section
/-! SUPPORT. What every operation keeps (`Kept`): the queue, the clock, the canonical memories and a legal chip state. -/

namespace Sys2Proof.Machine

open Sys2Proof

/-- `s` comes from `z` by operations that touch neither the queue nor the clock and keep both memories canonical and the
chip state legal. -/
structure Kept (z s : State) : Prop where
  queue : s.pending = z.pending
  clock : s.now = z.now
  mem : z.memOk → s.memOk
  legal : legalState z.regs → legalState s.regs

theorem Kept.refl (s : State) : Kept s s := ⟨rfl, rfl, id, id⟩

theorem ite_kept {z : State} {c : Prop} [Decidable c] {s t : State} (hs : Kept z s) (ht : Kept z t) :
    Kept z (if c then s else t) := by
  split
  · exact hs
  · exact ht

theorem kept_mk {z : State} (p n r hm l st rd pc he oc ri jo ms fr tx adc eq fec pool cal ramps lane host nv pw fab cap plank
    hb hk slots thm msp subs sys orphans arb grants tap) :
    Kept z ⟨p, n, r, hm, l, st, rd, pc, he, oc, ri, jo, ms, fr, tx, adc, eq, fec, pool, cal, ramps, lane, host, nv, pw, fab,
      cap, plank, hb, hk, slots, thm, msp, subs, sys, orphans, arb, grants, tap⟩ ↔
    (p = z.pending ∧ n = z.now ∧ (z.memOk → Mem.wf hm = true ∧ NvmH.wf nv = true) ∧ (legalState z.regs → legalState r)) :=
  ⟨fun h => ⟨h.1, h.2, h.3, h.4⟩, fun h => ⟨h.1, h.2.1, h.2.2.1, h.2.2.2⟩⟩

theorem upd_kept {z s : State} {hm : Mem} {nv : NvmH} {r : Regs} (h : Kept z s)
    (h1 : s.hostMem.wf = true → Mem.wf hm = true) (h2 : s.nvm.wf = true → NvmH.wf nv = true)
    (h3 : legalState s.regs → legalState r) :
    s.pending = z.pending ∧ s.now = z.now ∧ (z.memOk → Mem.wf hm = true ∧ NvmH.wf nv = true) ∧
      (legalState z.regs → legalState r) :=
  ⟨h.queue, h.clock, fun k => ⟨h1 (h.mem k).1, h2 (h.mem k).2⟩, fun k => h3 (h.legal k)⟩

theorem set_ok {r : Regs} {f : Fld} {i v : Nat} (hf : f.id ≠ F.SYS_STATE_STATE.id) (h : legalState r) :
    legalState (r.set f i v) := by
  unfold legalState Regs.get Regs.set
  rw [Tab.get_set, if_neg (Ne.symm hf)]
  exact h

theorem foldl_kept {z : State} {α : Type} {g : State → α → State} (hg : ∀ s a, Kept z s → Kept z (g s a)) (l : List α) :
    ∀ s : State, Kept z s → Kept z (l.foldl g s) := by
  induction l with
  | nil => intro s h; exact h
  | cons a l ih => intro s h; exact ih _ (hg _ _ h)

theorem each_kept {z s : State} {α : Type} {l : List α} {g : State → α → State} (h : Kept z s)
    (hg : ∀ s a, Kept z s → Kept z (g s a)) : Kept z (State.each s l g) := foldl_kept hg l s h

theorem foldl_kept1 {z : State} {α β : Type} {g : State × β → α → State × β} (hg : ∀ s a, Kept z s.1 → Kept z (g s a).1)
    (l : List α) : ∀ s, Kept z s.1 → Kept z (l.foldl g s).1 := by
  induction l with
  | nil => intro s h; exact h
  | cons a l ih => intro s h; exact ih _ (hg _ _ h)

theorem foldl_kept2 {z : State} {α β : Type} {g : β × State → α → β × State} (hg : ∀ s a, Kept z s.2 → Kept z (g s a).2)
    (l : List α) : ∀ s, Kept z s.2 → Kept z (l.foldl g s).2 := by
  induction l with
  | nil => intro s h; exact h
  | cons a l ih => intro s h; exact ih _ (hg _ _ h)


theorem writeBytes_ok {m m' : Mem} {a : Nat} {bs : List Nat} (h : m.wf = true → m'.wf = true) :
    m.wf = true → (m'.writeBytes a bs).wf = true := fun k => Mem.writeBytes_wf bs m' a (h k)

theorem nvmWrite_ok {m m' : NvmH} {a : Nat} {bs : List Nat} (h : m.wf = true → m'.wf = true) :
    m.wf = true → (m'.write a bs).wf = true := fun k => NvmH.write_wf bs m' a (h k)

theorem nvmErase_ok {m m' : NvmH} {b : Nat} (h : m.wf = true → m'.wf = true) :
    m.wf = true → (m'.erase b).wf = true := fun k => NvmH.erase_wf b (h k)

theorem writeSections_wf (l : List Section) : ∀ {m : Mem} (base : Nat), m.wf = true → (State.writeSections m base l).wf = true := by
  induction l with
  | nil => intro m base h; exact h
  | cons x l ih => intro m base h; exact ih _ (Mem.writeBytes_wf _ _ _ h)

theorem foldl_mem_kept {z : State} {α : Type} {g : State → α → State} (l : List α) :
    (∀ s, ∀ a ∈ l, Kept z s → Kept z (g s a)) → ∀ s : State, Kept z s → Kept z (l.foldl g s) := by
  induction l with
  | nil => intro _ s h; exact h
  | cons a l ih =>
    intro hg s h
    exact ih (fun s b hb => hg s b (List.mem_cons_of_mem _ hb)) _ (hg _ a List.mem_cons_self h)

theorem foldl_mem_kept2 {z : State} {α β : Type} {g : β × State → α → β × State} (l : List α) :
    (∀ s, ∀ a ∈ l, Kept z s.2 → Kept z (g s a).2) → ∀ s, Kept z s.2 → Kept z (l.foldl g s).2 := by
  induction l with
  | nil => intro _ s h; exact h
  | cons a l ih =>
    intro hg s h
    exact ih (fun s b hb => hg s b (List.mem_cons_of_mem _ hb)) _ (hg _ a List.mem_cons_self h)

theorem elemFields_ne (e : Nat) : ∀ f ∈ State.elemFields e, f.id ≠ F.SYS_STATE_STATE.id := by
  unfold State.elemFields
  repeat' split
  all_goals decide

theorem state_set_ok (r : Regs) {v : Nat} (h : v ≤ 7) : legalState (r.set F.SYS_STATE_STATE 0 v) := by
  unfold legalState Regs.get Regs.set
  rw [Tab.get_set, if_pos rfl, Tab.get_set, if_pos rfl]
  exact Nat.le_trans (Nat.mod_le _ _) h

theorem foldl_set_ok (l : List Fld) (r : Regs) : (∀ f ∈ l, f.id ≠ F.SYS_STATE_STATE.id) → ∀ q : Regs, legalState q →
    legalState (l.foldl (fun a f => Regs.set a f 0 (r.get f 0)) q) := by
  induction l with
  | nil => intro _ q h; exact h
  | cons a l ih =>
    intro hl q h
    exact ih (fun f hf => hl f (List.mem_cons_of_mem _ hf)) _ (set_ok (hl a List.mem_cons_self) h)

theorem resetRegs_ok (r : Regs) : legalState (resetRegs r) := foldl_set_ok keptFields r (by decide) [] (show _ ≤ 7 by decide)

theorem foldl_del_ok (l : List Fld) : (∀ f ∈ l, f.id ≠ F.SYS_STATE_STATE.id) → ∀ q : Regs, legalState q →
    legalState (l.foldl (fun (r : Regs) f => Tab.del r f.id) q) := by
  induction l with
  | nil => intro _ q h; exact h
  | cons a l ih =>
    intro hl q h
    refine ih (fun f hf => hl f (List.mem_cons_of_mem _ hf)) _ ?_
    have ha := hl a List.mem_cons_self
    unfold legalState Regs.get
    rw [Tab.get_del, if_neg (Ne.symm ha)]
    exact h

theorem locate_mem {off : Nat} {h : RegSpec × Nat × Nat} (hl : locate off = some h) : h.1 ∈ regTable := by
  obtain ⟨sp, hs, he⟩ := List.exists_of_findSome?_eq_some hl
  obtain ⟨x, _, rfl⟩ := Option.map_eq_some_iff.1 he
  exact hs

theorem table_ne : (regTable.all fun sp => sp.fields.all fun f => f.id != F.SYS_STATE_STATE.id || f.acc == .ro) = true := by
  decide

theorem ro_ne {sp : RegSpec} {f : Fld} (hp : sp ∈ regTable) (hf : f ∈ sp.fields) (ha : f.acc ≠ .ro) :
    f.id ≠ F.SYS_STATE_STATE.id := by
  have h := List.all_eq_true.1 (List.all_eq_true.1 table_ne sp hp) f hf
  intro he
  simp [he, ha] at h

theorem rc_ne {sp : RegSpec} {f : Fld} (hp : sp ∈ regTable) (hf : f ∈ sp.fields) (ha : f.acc = .rc) :
    f.id ≠ F.SYS_STATE_STATE.id := ro_ne hp hf (by rw [ha]; decide)

theorem failedF_ne (e : Nat) : (failedF e).id ≠ F.SYS_STATE_STATE.id := by
  unfold failedF
  repeat' split
  all_goals decide

theorem suspectF_ne (e : Nat) : (suspectF e).id ≠ F.SYS_STATE_STATE.id := by
  unfold suspectF
  repeat' split
  all_goals decide

theorem retiredF_ne {e : Nat} {f : Fld} (h : retiredF e = some f) : f.id ≠ F.SYS_STATE_STATE.id := by
  revert h
  unfold retiredF
  repeat' split
  all_goals
    intro h
    first
    | (cases h; decide)
    | cases h

theorem calFactor_ne (c k : Nat) : (State.calFactor c k).1.id ≠ F.SYS_STATE_STATE.id := by
  unfold State.calFactor
  repeat' split
  all_goals (dsimp only; decide)

theorem calKeptFld_ne (k : Nat) : (State.calKeptFld k).id ≠ F.SYS_STATE_STATE.id := by
  unfold State.calKeptFld
  repeat' split
  all_goals decide

end Sys2Proof.Machine
end

