-- ==== Sys2Proof/Laws/KeptCore.lean ====
section
/-! SUPPORT. Operations of Machine/Ops, Rings, Operands keep the queue, the clock, canonical memories and a
legal device state (`Kept`). -/

namespace Sys2Proof.Machine

open Sys2Proof

theorem w_kept {z0 : State} (s : State) (f : Fld) (i v : Nat) (hz : Kept z0 s) (hf : f.id ≠ F.SYS_STATE_STATE.id) :
    Kept z0 (State.w s f i v) := by
  exact ⟨hz.queue, hz.clock, hz.mem, fun k => set_ok hf (hz.legal k)⟩

theorem wb_kept {z0 : State} (s : State) (f : Fld) (i : Nat) (b : Bool) (hz : Kept z0 s) (hf : f.id ≠ F.SYS_STATE_STATE.id) :
    Kept z0 (State.wb s f i b) := by
  unfold State.wb
  repeat' (first | with_reducible assumption | decide | with_reducible apply w_kept | exact id | dsimp only)

theorem inc_kept {z0 : State} (s : State) (f : Fld) (i : Nat) (k : Nat) (hz : Kept z0 s) (hf : f.id ≠ F.SYS_STATE_STATE.id) :
    Kept z0 (State.inc s f i k) := by
  unfold State.inc
  repeat' (first | with_reducible assumption | decide | with_reducible apply w_kept | exact id | dsimp only)

theorem wi_kept {z0 : State} (s : State) (f : Fld) (i : Nat) (v : Int) (hz : Kept z0 s) (hf : f.id ≠ F.SYS_STATE_STATE.id) :
    Kept z0 (State.wi s f i v) := by
  unfold State.wi
  repeat' (first | with_reducible assumption | decide | with_reducible apply w_kept | exact id | dsimp only)

theorem loadWord_kept {z0 : State} (s : State) (base i k v : Nat) (hz : Kept z0 s) (hb : ∀ f ∈ State.fieldsOf base,
    f.id ≠ F.SYS_STATE_STATE.id) : Kept z0 (State.loadWord s base i k v) := by
  exact foldl_mem_kept _ (fun s f hm hs => w_kept _ _ _ _ hs (hb f (List.mem_filter.1 hm).1)) s hz

theorem granted_kept {z0 : State} (s : State) (a i : Nat) (hz : Kept z0 s) : Kept z0 (State.granted s a i) := by
  unfold State.granted
  repeat' (first | with_reducible assumption | decide | (simp only [kept_mk]; with_reducible apply upd_kept)
                 | exact id | dsimp only)

theorem sendMsi_kept {z0 : State} (s : State) (v : Nat) (hz : Kept z0 s) : Kept z0 (State.sendMsi s v) := by
  unfold State.sendMsi
  repeat' (first | with_reducible assumption | decide | with_reducible apply ite_kept
                 | (simp only [kept_mk]; with_reducible apply upd_kept) | split | exact id | dsimp only)

theorem setRing_kept {z0 : State} (s : State) (q : Nat) (h : RingH) (hz : Kept z0 s) :
    Kept z0 (State.setRing s q h) := by
  unfold State.setRing
  repeat' (first | with_reducible assumption | decide | (simp only [kept_mk]; with_reducible apply upd_kept)
                 | exact id | dsimp only)

theorem ringSend_kept {z0 : State} (s : State) (q : Nat) (hz : Kept z0 s) : Kept z0 (State.ringSend s q) := by
  unfold State.ringSend
  repeat' (first | with_reducible assumption | decide | with_reducible apply setRing_kept
                 | with_reducible apply sendMsi_kept | (simp only [kept_mk]; with_reducible apply upd_kept)
                 | exact id | dsimp only)

theorem ringCount_kept {z0 : State} (s : State) (q : Nat) (hz : Kept z0 s) :
    Kept z0 (State.ringCount s q) := by
  unfold State.ringCount
  repeat' (first | with_reducible assumption | decide | with_reducible apply ite_kept
                 | with_reducible apply setRing_kept | with_reducible apply ringSend_kept
                 | (simp only [kept_mk]; with_reducible apply upd_kept) | split | exact id | dsimp only)

theorem ringIrq_kept {z0 : State} (s : State) (q : Nat) (noIrq marker : Bool) (hz : Kept z0 s) :
    Kept z0 (State.ringIrq s q noIrq marker) := by
  unfold State.ringIrq
  repeat' (first | with_reducible assumption | decide | with_reducible apply ite_kept
                 | with_reducible apply ringSend_kept | with_reducible apply ringCount_kept
                 | (simp only [kept_mk]; with_reducible apply upd_kept) | split | exact id | dsimp only)

theorem ringWrite_kept {z0 : State} (s : State) (q : Nat) (entry : List Nat) (noIrq marker : Bool) (hz : Kept z0 s) :
    Kept z0 (State.ringWrite s q entry noIrq marker) := by
  unfold State.ringWrite
  repeat' (first | with_reducible assumption | decide | with_reducible apply ite_kept
                 | with_reducible apply w_kept | with_reducible apply setRing_kept
                 | with_reducible apply ringIrq_kept | (simp only [kept_mk]; with_reducible apply upd_kept)
                 | with_reducible apply writeBytes_ok | split | exact id | dsimp only)

theorem markDelayed_kept {z0 : State} (s : State) (hz : Kept z0 s) : Kept z0 (State.markDelayed s) := by
  unfold State.markDelayed
  repeat' (first | with_reducible assumption | decide | (simp only [kept_mk]; with_reducible apply upd_kept)
                 | exact id | dsimp only)

theorem post_kept {z0 : State} (s : State) (src code : Nat) (items : List (Nat × Nat)) (hz : Kept z0 s) :
    Kept z0 (State.post s src code items) := by
  unfold State.post
  repeat' (first | with_reducible assumption | decide | with_reducible apply ite_kept
                 | (simp only [kept_mk]; with_reducible apply upd_kept) | split | exact id | dsimp only)

theorem mapJob_kept {z0 : State} (s : State) (ring idx : Nat) (g : Job → Job) (hz : Kept z0 s) :
    Kept z0 (State.mapJob s ring idx g) := by
  unfold State.mapJob
  repeat' (first | with_reducible assumption | decide | with_reducible apply ite_kept
                 | (simp only [kept_mk]; with_reducible apply upd_kept) | split | exact id | dsimp only)

theorem finish_kept {z0 : State} (s : State) (ring idx : Nat) (st : Status) (r0 : Nat) (r1 : Nat) (sub : Nat) (hz : Kept z0 s) :
    Kept z0 (State.finish s ring idx st r0 r1 sub) := by
  unfold State.finish
  repeat' (first | with_reducible assumption | decide | with_reducible apply ite_kept
                 | with_reducible apply mapJob_kept | split | exact id | dsimp only)

theorem await_kept {z0 : State} (s : State) (ring idx : Nat) (ws : List Wait) (st : Status) (r0 : Nat) (r1 : Nat) (hz : Kept z0 s) :
    Kept z0 (State.await s ring idx ws st r0 r1) := by
  unfold State.await
  repeat' (first | with_reducible assumption | decide | with_reducible apply ite_kept
                 | with_reducible apply finish_kept | with_reducible apply mapJob_kept
                 | (simp only [kept_mk]; with_reducible apply upd_kept) | split | exact id | dsimp only)

theorem resolve_kept {z0 : State} (s : State) (x : Wait) (st : Status) (hz : Kept z0 s) :
    Kept z0 (State.resolve s x st) := by
  unfold State.resolve
  repeat' (first | with_reducible assumption | decide | (simp only [kept_mk]; with_reducible apply upd_kept)
                 | exact id | dsimp only)

theorem accErr_kept {z0 : State} (s : State) (e : State.ErrBits) (src addr : Nat) (bar2 : Bool) (hz : Kept z0 s) :
    Kept z0 (State.accErr s e src addr bar2) := by
  unfold State.accErr
  repeat' (first | with_reducible assumption | decide | with_reducible apply ite_kept
                 | with_reducible apply w_kept | with_reducible apply wb_kept | with_reducible apply post_kept
                 | split | exact id | dsimp only)

theorem ringError_kept {z0 : State} (s : State) (q err : Nat) (hz : Kept z0 s) :
    Kept z0 (State.ringError s q err) := by
  unfold State.ringError
  repeat' (first | with_reducible assumption | decide | with_reducible apply w_kept
                 | with_reducible apply markDelayed_kept | with_reducible apply post_kept
                 | (simp only [kept_mk]; with_reducible apply upd_kept) | split | exact id | dsimp only)

theorem ringLoad_kept {z0 : State} (s : State) (q : Nat) (ok : Bool) (hz : Kept z0 s) :
    Kept z0 (State.ringLoad s q ok) := by
  unfold State.ringLoad
  repeat' (first | with_reducible assumption | decide | with_reducible apply ite_kept
                 | with_reducible apply ringError_kept | with_reducible apply setRing_kept
                 | with_reducible apply w_kept | split | exact id | dsimp only)

theorem tableAwait_kept {z0 : State} (s : State) (q : Nat) (wait ok : Bool) (hz : Kept z0 s) :
    Kept z0 (State.tableAwait s q wait ok) := by
  unfold State.tableAwait
  repeat' (first | with_reducible assumption | decide | with_reducible apply ite_kept
                 | (simp only [kept_mk]; with_reducible apply upd_kept) | split | exact id | dsimp only)

theorem ringEnableNow_kept {z0 : State} (s : State) (q : Nat) (ok : Bool) (hz : Kept z0 s) :
    Kept z0 (State.ringEnableNow s q ok) := by
  unfold State.ringEnableNow
  repeat' (first | with_reducible assumption | decide | with_reducible apply ite_kept
                 | with_reducible apply ringLoad_kept | with_reducible apply tableAwait_kept | split | exact id
                 | dsimp only)

theorem ringEnable_kept {z0 : State} (s : State) (q : Nat) (ok : Bool) (hz : Kept z0 s) :
    Kept z0 (State.ringEnable s q ok) := by
  unfold State.ringEnable
  repeat' (first | with_reducible assumption | decide | with_reducible apply ite_kept
                 | with_reducible apply w_kept | with_reducible apply ringEnableNow_kept
                 | with_reducible apply tableAwait_kept | (simp only [kept_mk]; with_reducible apply upd_kept)
                 | split | exact id | dsimp only)

theorem ringDisabled_kept {z0 : State} (s : State) (q : Nat) (hz : Kept z0 s) : Kept z0 (State.ringDisabled s q) := by
  unfold State.ringDisabled
  repeat' (first | with_reducible assumption | decide | with_reducible apply ite_kept
                 | with_reducible apply w_kept | with_reducible apply tableAwait_kept
                 | with_reducible apply ringEnableNow_kept | split | exact id | dsimp only)

theorem ringDisable_kept {z0 : State} (s : State) (q : Nat) (hz : Kept z0 s) : Kept z0 (State.ringDisable s q) := by
  unfold State.ringDisable
  repeat' (first | with_reducible assumption | decide | with_reducible apply ite_kept
                 | with_reducible apply w_kept | with_reducible apply tableAwait_kept
                 | with_reducible apply ringDisabled_kept | with_reducible apply markDelayed_kept | split
                 | exact id | dsimp only)

theorem ringCtlDo_kept {z0 : State} (s : State) (q v : Nat) (ok : Bool) (hz : Kept z0 s) :
    Kept z0 (State.ringCtlDo s q v ok) := by
  unfold State.ringCtlDo
  repeat' (first | with_reducible assumption | decide | with_reducible apply ite_kept
                 | with_reducible apply ringEnable_kept | with_reducible apply ringDisable_kept | split
                 | exact id | dsimp only)

theorem ringCtlWrite_kept {z0 : State} (s : State) (m : Master) (q v : Nat) (ok : Bool) (hz : Kept z0 s) :
    Kept z0 (State.ringCtlWrite s m q v ok) := by
  unfold State.ringCtlWrite
  repeat' (first | with_reducible assumption | decide | with_reducible apply ite_kept
                 | with_reducible apply accErr_kept | with_reducible apply ringCtlDo_kept | split | exact id
                 | dsimp only)

theorem doorbellActive_kept {z0 : State} (s : State) (q v : Nat) (hz : Kept z0 s) :
    Kept z0 (State.doorbellActive s q v) := by
  unfold State.doorbellActive
  repeat' (first | with_reducible assumption | decide | with_reducible apply ite_kept
                 | with_reducible apply ringError_kept | with_reducible apply w_kept | split | exact id
                 | dsimp only)

theorem bar2Write_kept {z0 : State} (s : State) (off len : Nat) (allBytes : Bool) (v : Nat) (hz : Kept z0 s) :
    Kept z0 (State.bar2Write s off len allBytes v) := by
  unfold State.bar2Write
  repeat' (first | with_reducible assumption | decide | with_reducible apply ite_kept
                 | with_reducible apply accErr_kept | with_reducible apply doorbellActive_kept | split
                 | exact id | dsimp only)

theorem bar2Access_kept {z0 : State} (s : State) (off len : Nat) (allBytes : Bool) (v : Option Nat) (hz : Kept z0 s) :
    Kept z0 (State.bar2Access s off len allBytes v) := by
  unfold State.bar2Access
  repeat' (first | with_reducible assumption | decide | with_reducible apply ite_kept
                 | with_reducible apply bar2Write_kept | (simp only [kept_mk]; with_reducible apply upd_kept)
                 | split | exact id | dsimp only)

theorem flushIssue_kept {z0 : State} (s : State) (hz : Kept z0 s) : Kept z0 (State.flushIssue s) := by
  unfold State.flushIssue
  repeat' (first | with_reducible assumption | decide | intro _ _ _ | with_reducible apply ite_kept
                 | with_reducible apply each_kept | with_reducible apply ringLoad_kept
                 | (simp only [kept_mk]; with_reducible apply upd_kept) | split | exact id | dsimp only)

theorem headWrite_kept {z0 : State} (s : State) (q : Nat) (hz : Kept z0 s) : Kept z0 (State.headWrite s q) := by
  unfold State.headWrite
  repeat' (first | with_reducible assumption | decide | with_reducible apply ite_kept
                 | (simp only [kept_mk]; with_reducible apply upd_kept) | with_reducible apply writeBytes_ok
                 | split | exact id | dsimp only)

theorem slotGrant_kept {z0 : State} (s : State) (hz : Kept z0 s) :
    Kept z0 (State.slotGrant s) := by
  unfold State.slotGrant
  repeat' (first | with_reducible assumption | decide | intro _ _ _ | with_reducible apply ite_kept
                 | with_reducible apply granted_kept | (simp only [kept_mk]; with_reducible apply upd_kept) | split
                 | exact id | dsimp only)

theorem slotsDeal_kept {z0 : State} (s : State) (hz : Kept z0 s) :
    Kept z0 (State.slotsDeal s) := by
  unfold State.slotsDeal
  repeat' (first | with_reducible assumption | decide | intro _ _ _ | with_reducible apply each_kept
                 | with_reducible apply each_kept | with_reducible apply slotGrant_kept
                 | (simp only [kept_mk]; with_reducible apply upd_kept) | split | exact id | dsimp only)

theorem fetchRead_kept {z0 : State} (s : State) (q n : Nat) (ok : Bool) (hz : Kept z0 s) :
    Kept z0 (State.fetchRead s q n ok) := by
  unfold State.fetchRead
  repeat' (first | with_reducible assumption | decide | intro _ _ _ | with_reducible apply ite_kept
                 | with_reducible apply granted_kept | with_reducible apply ringError_kept
                 | with_reducible apply w_kept | with_reducible apply headWrite_kept
                 | (simp only [kept_mk]; with_reducible apply upd_kept) | split | exact id | dsimp only)

theorem fetch_kept {z0 : State} (s : State) (q : Nat) (ok : Bool) (hz : Kept z0 s) : Kept z0 (State.fetch s q ok) := by
  unfold State.fetch
  repeat' (first | with_reducible assumption | decide | with_reducible apply ite_kept
                 | with_reducible apply slotsDeal_kept | with_reducible apply fetchRead_kept
                 | (simp only [kept_mk]; with_reducible apply upd_kept) | split | exact id | dsimp only)

theorem jobRefused_kept {z0 : State} (s : State) (j : Job) (st : Status) (hz : Kept z0 s) :
    Kept z0 (State.jobRefused s j st) := by
  unfold State.jobRefused
  repeat' (first | with_reducible assumption | decide | with_reducible apply ite_kept
                 | with_reducible apply finish_kept | with_reducible apply inc_kept
                 | (simp only [kept_mk]; with_reducible apply upd_kept) | split | exact id | dsimp only)

theorem jobStart_kept {z0 : State} (s : State) (q i : Nat) (hz : Kept z0 s) : Kept z0 (State.jobStart s q i) := by
  unfold State.jobStart
  repeat' (first | with_reducible assumption | decide | intro _ _ _ | with_reducible apply ite_kept
                 | with_reducible apply jobRefused_kept | with_reducible apply mapJob_kept
                 | (simp only [kept_mk]; with_reducible apply upd_kept) | split | exact id | dsimp only)

theorem afterCompletion_kept {z0 : State} (s : State) (q : Nat) (hz : Kept z0 s) :
    Kept z0 (State.afterCompletion s q) := by
  unfold State.afterCompletion
  repeat' (first | with_reducible assumption | decide | with_reducible apply ite_kept
                 | with_reducible apply ringDisabled_kept | split | exact id | dsimp only)

theorem completeInto_kept {z0 : State} (s : State) (q : Nat) (j : Job) (hz : Kept z0 s) :
    Kept z0 (State.completeInto s q j) := by
  unfold State.completeInto
  repeat' (first | with_reducible assumption | decide | with_reducible apply ite_kept
                 | with_reducible apply ringWrite_kept | with_reducible apply setRing_kept
                 | with_reducible apply inc_kept | with_reducible apply afterCompletion_kept
                 | (simp only [kept_mk]; with_reducible apply upd_kept) | split | exact id | dsimp only)

theorem completionWrite_kept {z0 : State} (s : State) (q : Nat) (hz : Kept z0 s) :
    Kept z0 (State.completionWrite s q) := by
  unfold State.completionWrite
  repeat' (first | with_reducible assumption | decide | with_reducible apply ite_kept
                 | with_reducible apply setRing_kept | with_reducible apply inc_kept
                 | with_reducible apply completeInto_kept | with_reducible apply granted_kept
                 | (simp only [kept_mk]; with_reducible apply upd_kept) | split | exact id | dsimp only)

theorem writeMarker_kept {z0 : State} (s : State) (q : Nat) (hz : Kept z0 s) : Kept z0 (State.writeMarker s q) := by
  unfold State.writeMarker
  repeat' (first | with_reducible assumption | decide | with_reducible apply w_kept
                 | with_reducible apply inc_kept | with_reducible apply ringWrite_kept
                 | with_reducible apply granted_kept | with_reducible apply markDelayed_kept | exact id
                 | dsimp only)

theorem endEpisode_kept {z0 : State} (s : State) (q : Nat) (hz : Kept z0 s) : Kept z0 (State.endEpisode s q) := by
  unfold State.endEpisode
  repeat' (first | with_reducible assumption | decide | with_reducible apply ite_kept
                 | with_reducible apply w_kept | split | exact id | dsimp only)

theorem eventDeliver_kept {z0 : State} (s : State) (q : Nat) (hz : Kept z0 s) : Kept z0 (State.eventDeliver s q) := by
  unfold State.eventDeliver
  repeat' (first | with_reducible assumption | decide | with_reducible apply ite_kept
                 | with_reducible apply endEpisode_kept | with_reducible apply markDelayed_kept
                 | with_reducible apply ringWrite_kept | with_reducible apply granted_kept
                 | with_reducible apply writeMarker_kept | (simp only [kept_mk]; with_reducible apply upd_kept)
                 | split | exact id | dsimp only)

theorem ringEngineReset_kept {z0 : State} (s : State) (hz : Kept z0 s) : Kept z0 (State.ringEngineReset s) := by
  unfold State.ringEngineReset
  refine markDelayed_kept _ ((kept_mk ..).2 (upd_kept hz id id fun k => ?_))
  exact foldl_del_ok _ (by decide) _ k

theorem abortWaiters_kept {z0 : State} (s : State) (x : Wait) (st : Status) (hz : Kept z0 s) :
    Kept z0 (State.abortWaiters s x st) := by
  unfold State.abortWaiters
  repeat' (first | with_reducible assumption | decide | with_reducible apply ite_kept
                 | (simp only [kept_mk]; with_reducible apply upd_kept) | split | exact id | dsimp only)

end Sys2Proof.Machine
end

