-- ==== Sys2Proof/Laws/KeptLanes.lean ====
section
/-! SUPPORT. Operations of Machine/Transmit, LaneOps, Converters, Equaliser, Fec keep the queue, the clock, canonical memories and a
legal device state (`Kept`). -/

namespace Sys2Proof.Machine

open Sys2Proof

theorem setTx_kept {z0 : State} (s : State) (n : Nat) (h : TxH) (hz : Kept z0 s) : Kept z0 (State.setTx s n h) := by
  unfold State.setTx
  repeat' (first | with_reducible assumption | decide | (simp only [kept_mk]; with_reducible apply upd_kept)
                 | exact id | dsimp only)

theorem beginEpisode_kept {z0 : State} (s : State) (n : Nat) (hz : Kept z0 s) : Kept z0 (State.beginEpisode s n) := by
  unfold State.beginEpisode
  repeat' (first | with_reducible assumption | decide | with_reducible apply ite_kept
                 | with_reducible apply setTx_kept | with_reducible apply inc_kept
                 | with_reducible apply post_kept | (simp only [kept_mk]; with_reducible apply upd_kept) | split
                 | exact id | dsimp only)

theorem settleSquelch_kept {z0 : State} (s : State) (n : Nat) (hz : Kept z0 s) :
    Kept z0 (State.settleSquelch s n) := by
  unfold State.settleSquelch
  repeat' (first | with_reducible assumption | decide | with_reducible apply ite_kept
                 | with_reducible apply w_kept | with_reducible apply beginEpisode_kept
                 | with_reducible apply setTx_kept | (simp only [kept_mk]; with_reducible apply upd_kept)
                 | split | exact id | dsimp only)

theorem squelch_kept {z0 : State} (s : State) (f : Fld) (n : Nat) (b : Bool) (hz : Kept z0 s) (hf : f.id ≠ F.SYS_STATE_STATE.id) :
    Kept z0 (State.squelch s f n b) := by
  unfold State.squelch
  repeat' (first | with_reducible assumption | decide | with_reducible apply wb_kept
                 | with_reducible apply settleSquelch_kept | exact id | dsimp only)

theorem chainStart_kept {z0 : State} (s : State) (n : Nat) (hz : Kept z0 s) : Kept z0 (State.chainStart s n) := by
  unfold State.chainStart
  repeat' (first | with_reducible assumption | decide | with_reducible apply w_kept
                 | with_reducible apply setTx_kept | (simp only [kept_mk]; with_reducible apply upd_kept)
                 | exact id | dsimp only)

theorem cellWrite_kept {z0 : State} (s : State) (m c : Nat) (hz : Kept z0 s) : Kept z0 (State.cellWrite s m c) := by
  unfold State.cellWrite
  repeat' (first | with_reducible assumption | decide | with_reducible apply w_kept | exact id | dsimp only)

theorem setCal_kept {z0 : State} (s : State) (n : Nat) (h : CalH) (hz : Kept z0 s) : Kept z0 (State.setCal s n h) := by
  unfold State.setCal
  repeat' (first | with_reducible assumption | decide | (simp only [kept_mk]; with_reducible apply upd_kept)
                 | exact id | dsimp only)

theorem setElem_kept {z0 : State} (s : State) (n e : Nat) (vs : List Int) (hz : Kept z0 s) :
    Kept z0 (State.setElem s n e vs) := by
  refine foldl_mem_kept _ (fun s p hm hs => wi_kept _ _ _ _ hs ?_) s hz
  exact elemFields_ne e _ (List.of_mem_zip hm).1

theorem selFields_ne (e : Nat) : ∀ f ∈ State.selFields e, f.id ≠ F.SYS_STATE_STATE.id := by
  unfold State.selFields
  split
  all_goals decide

theorem setSel_kept {z0 : State} (s : State) (n e : Nat) (vs : List Nat) (hz : Kept z0 s) :
    Kept z0 (State.setSel s n e vs) := by
  refine foldl_mem_kept _ (fun s p hm hs => w_kept _ _ _ _ hs ?_) s hz
  exact selFields_ne e _ (List.of_mem_zip hm).1

theorem dueTake_kept {z0 : State} (s : State) (n : Nat) (p : Nat → Bool) (hz : Kept z0 s) :
    Kept z0 (State.dueTake s n p) := by
  unfold State.dueTake
  repeat' (first | with_reducible assumption | decide | intro _ _ _ | with_reducible apply ite_kept
                 | with_reducible apply each_kept | with_reducible apply setCal_kept | with_reducible apply each_kept
                 | with_reducible apply setElem_kept | with_reducible apply setSel_kept
                 | (simp only [kept_mk]; with_reducible apply upd_kept) | split | exact id | dsimp only)

theorem chainStop_kept {z0 : State} (s : State) (n : Nat) (hz : Kept z0 s) : Kept z0 (State.chainStop s n) := by
  unfold State.chainStop
  repeat' (first | with_reducible assumption | decide | with_reducible apply w_kept
                 | with_reducible apply dueTake_kept | with_reducible apply setTx_kept
                 | with_reducible apply abortWaiters_kept | with_reducible apply txApply_kept
                 | (simp only [kept_mk]; with_reducible apply upd_kept) | split | exact id | dsimp only)

theorem txWindowEnd_kept {z0 : State} (s : State) (n : Nat) (hz : Kept z0 s) : Kept z0 (State.txWindowEnd s n) := by
  unfold State.txWindowEnd
  repeat' (first | with_reducible assumption | decide | with_reducible apply ite_kept
                 | with_reducible apply setTx_kept | with_reducible apply w_kept
                 | with_reducible apply post_kept | (simp only [kept_mk]; with_reducible apply upd_kept) | split
                 | exact id | dsimp only)

theorem txSymbol_kept {z0 : State} (s : State) (n : Nat) (pair : Nat) (hz : Kept z0 s) :
    Kept z0 (State.txSymbol s n pair) := by
  unfold State.txSymbol
  repeat' (first | with_reducible assumption | decide | with_reducible apply ite_kept
                 | with_reducible apply setTx_kept | with_reducible apply dueTake_kept
                 | with_reducible apply dacCode_kept | with_reducible apply inc_kept
                 | with_reducible apply txWindowEnd_kept | (simp only [kept_mk]; with_reducible apply upd_kept)
                 | split | exact id | dsimp only)

theorem txRun_kept {z0 : State} (n k : Nat) : ∀ s : State, Kept z0 s → Kept z0 (State.txRun n k s) := by
  induction k with
  | zero => intro s hz; exact hz
  | succ k ih =>
    intro s hz
    unfold State.txRun
    split
    · exact hz
    · exact ih _ (txSymbol_kept _ _ _ (setTx_kept _ _ _ hz))

theorem hostLoop_kept {z0 : State} (s : State) (m : Nat) (bs : List Bool) (hz : Kept z0 s) :
    Kept z0 (State.hostLoop s m bs) := by
  unfold State.hostLoop
  repeat' (first | with_reducible assumption | decide | with_reducible apply ite_kept
                 | (simp only [kept_mk]; with_reducible apply upd_kept) | split | exact id | dsimp only)

theorem hostIn_kept {z0 : State} (s : State) (n : Nat) (a b : List Bool) (hz : Kept z0 s) :
    Kept z0 (State.hostIn s n a b) := by
  unfold State.hostIn
  repeat' (first | with_reducible assumption | decide | with_reducible apply ite_kept
                 | with_reducible apply hostLoop_kept | with_reducible apply setTx_kept
                 | (simp only [kept_mk]; with_reducible apply upd_kept) | split | exact id | dsimp only)

theorem loopBuffer_kept {z0 : State} (s : State) (n : Nat) (again : Bool) (hz : Kept z0 s) :
    Kept z0 (State.loopBuffer s n again) := by
  unfold State.loopBuffer
  repeat' (first | with_reducible assumption | decide | with_reducible apply ite_kept
                 | with_reducible apply setTx_kept | (simp only [kept_mk]; with_reducible apply upd_kept)
                 | split | exact id | dsimp only)

theorem writePd_kept {z0 : State} (s : State) (n : Nat) (tab : List Nat) (hz : Kept z0 s) :
    Kept z0 (State.writePd s n tab) := by
  unfold State.writePd
  repeat' (first | with_reducible assumption | decide | intro _ _ _ | with_reducible apply each_kept
                 | with_reducible apply w_kept | exact id | dsimp only)

theorem writeFir_kept {z0 : State} (s : State) (n : Nat) (taps : List Nat) (hz : Kept z0 s) :
    Kept z0 (State.writeFir s n taps) := by
  unfold State.writeFir
  repeat' (first | with_reducible assumption | decide | intro _ _ _ | with_reducible apply each_kept
                 | with_reducible apply w_kept | exact id | dsimp only)

theorem applyPdEn_kept {z0 : State} (s : State) (n : Nat) (b : Bool) (hz : Kept z0 s) :
    Kept z0 (State.applyPdEn s n b) := by
  unfold State.applyPdEn
  repeat' (first | with_reducible assumption | decide | with_reducible apply wb_kept | exact id | dsimp only)

theorem txApply_kept {z0 : State} (s : State) (n : Nat) (hz : Kept z0 s) : Kept z0 (State.txApply s n) := by
  unfold State.txApply
  repeat' (first | with_reducible assumption | decide | with_reducible apply ite_kept
                 | with_reducible apply writeFir_kept | with_reducible apply writePd_kept
                 | with_reducible apply applyPdEn_kept | with_reducible apply setTx_kept
                 | with_reducible apply resolve_kept | (simp only [kept_mk]; with_reducible apply upd_kept)
                 | split | exact id | dsimp only)

theorem setSwing_kept {z0 : State} (s : State) (n v : Nat) (hz : Kept z0 s) : Kept z0 (State.setSwing s n v) := by
  unfold State.setSwing
  repeat' (first | with_reducible assumption | decide | with_reducible apply ite_kept
                 | with_reducible apply w_kept | with_reducible apply abortWaiters_kept
                 | with_reducible apply setTx_kept | with_reducible apply wb_kept
                 | (simp only [kept_mk]; with_reducible apply upd_kept) | split | exact id | dsimp only)

theorem txSettings_kept {z0 : State} (s : State) (j : Job) (n : Nat) (hz : Kept z0 s) :
    Kept z0 (State.txSettings s j n) := by
  unfold State.txSettings
  repeat' (first | with_reducible assumption | decide | with_reducible apply ite_kept
                 | with_reducible apply w_kept | with_reducible apply wb_kept
                 | with_reducible apply squelch_kept | with_reducible apply applyPdEn_kept
                 | with_reducible apply setTx_kept | with_reducible apply setSwing_kept
                 | (simp only [kept_mk]; with_reducible apply upd_kept) | split | exact id | dsimp only)

theorem txTaps_kept {z0 : State} (s : State) (j : Job) (n : Nat) (hz : Kept z0 s) : Kept z0 (State.txTaps s j n) := by
  unfold State.txTaps
  repeat' (first | with_reducible assumption | decide | with_reducible apply ite_kept
                 | with_reducible apply writeFir_kept | with_reducible apply setTx_kept
                 | (simp only [kept_mk]; with_reducible apply upd_kept) | split | exact id | dsimp only)

theorem txPage_kept {z0 : State} (s : State) (j : Job) (n : Nat) (hz : Kept z0 s) : Kept z0 (State.txPage s j n) := by
  unfold State.txPage
  repeat' (first | with_reducible assumption | decide | with_reducible apply ite_kept
                 | with_reducible apply setTx_kept | (simp only [kept_mk]; with_reducible apply upd_kept)
                 | split | exact id | dsimp only)

theorem txApplyPd_kept {z0 : State} (s : State) (n : Nat) (hz : Kept z0 s) : Kept z0 (State.txApplyPd s n) := by
  unfold State.txApplyPd
  repeat' (first | with_reducible assumption | decide | with_reducible apply ite_kept
                 | with_reducible apply setTx_kept | with_reducible apply writePd_kept
                 | (simp only [kept_mk]; with_reducible apply upd_kept) | split | exact id | dsimp only)

theorem txParamLane_kept {z0 : State} (s : State) (j : Job) (n : Nat) (hz : Kept z0 s) :
    Kept z0 (State.txParamLane s j n) := by
  unfold State.txParamLane
  repeat' (first | with_reducible assumption | decide | with_reducible apply ite_kept
                 | with_reducible apply txSettings_kept | with_reducible apply txTaps_kept
                 | with_reducible apply txPage_kept | with_reducible apply txApplyPd_kept | split | exact id
                 | dsimp only)

theorem txParam_kept {z0 : State} (s : State) (j : Job) (hz : Kept z0 s) : Kept z0 (State.txParam s j) := by
  unfold State.txParam
  repeat' (first | with_reducible assumption | decide | intro _ _ _ | with_reducible apply ite_kept
                 | with_reducible apply each_kept | with_reducible apply finish_kept
                 | with_reducible apply txParamLane_kept | with_reducible apply await_kept | split | exact id
                 | dsimp only)

theorem setAdc_kept {z0 : State} (s : State) (n : Nat) (h : AdcH) (hz : Kept z0 s) : Kept z0 (State.setAdc s n h) := by
  unfold State.setAdc
  repeat' (first | with_reducible assumption | decide | (simp only [kept_mk]; with_reducible apply upd_kept)
                 | exact id | dsimp only)

theorem setEq_kept {z0 : State} (s : State) (n : Nat) (h : EqH) (hz : Kept z0 s) : Kept z0 (State.setEq s n h) := by
  unfold State.setEq
  repeat' (first | with_reducible assumption | decide | (simp only [kept_mk]; with_reducible apply upd_kept)
                 | exact id | dsimp only)

theorem setFec_kept {z0 : State} (s : State) (n : Nat) (h : FecH) (hz : Kept z0 s) : Kept z0 (State.setFec s n h) := by
  unfold State.setFec
  repeat' (first | with_reducible assumption | decide | (simp only [kept_mk]; with_reducible apply upd_kept)
                 | exact id | dsimp only)

theorem setLaneh_kept {z0 : State} (s : State) (n : Nat) (h : LaneH) (hz : Kept z0 s) :
    Kept z0 (State.setLaneh s n h) := by
  unfold State.setLaneh
  repeat' (first | with_reducible assumption | decide | (simp only [kept_mk]; with_reducible apply upd_kept)
                 | exact id | dsimp only)

theorem setHost_kept {z0 : State} (s : State) (m : Nat) (h : HostH) (hz : Kept z0 s) :
    Kept z0 (State.setHost s m h) := by
  unfold State.setHost
  repeat' (first | with_reducible assumption | decide | (simp only [kept_mk]; with_reducible apply upd_kept)
                 | exact id | dsimp only)

theorem setPool_kept {z0 : State} (s : State) (d : Nat) (h : PoolH) (hz : Kept z0 s) :
    Kept z0 (State.setPool s d h) := by
  unfold State.setPool
  repeat' (first | with_reducible assumption | decide | (simp only [kept_mk]; with_reducible apply upd_kept)
                 | exact id | dsimp only)

theorem hostSettle_kept {z0 : State} (s : State) (m : Nat) (hz : Kept z0 s) : Kept z0 (State.hostSettle s m) := by
  unfold State.hostSettle
  repeat' (first | with_reducible assumption | decide | with_reducible apply ite_kept
                 | with_reducible apply w_kept | with_reducible apply setHost_kept | split | exact id
                 | dsimp only)

theorem gbxSettle_kept {z0 : State} (s : State) (n m : Nat) (quiet : Bool) (hz : Kept z0 s) :
    Kept z0 (State.gbxSettle s n m quiet) := by
  unfold State.gbxSettle
  repeat' (first | with_reducible assumption | decide | with_reducible apply ite_kept
                 | with_reducible apply wb_kept | with_reducible apply wi_kept | with_reducible apply post_kept
                 | with_reducible apply w_kept | split | exact id | dsimp only)

theorem alignFollows_kept {z0 : State} (s : State) (n : Nat) (hz : Kept z0 s) : Kept z0 (State.alignFollows s n) := by
  unfold State.alignFollows
  repeat' (first | with_reducible assumption | decide | with_reducible apply ite_kept
                 | with_reducible apply w_kept | with_reducible apply gbxSettle_kept | split | exact id
                 | dsimp only)

theorem hostsDown_kept {z0 : State} (s : State) (n : Nat) (hz : Kept z0 s) : Kept z0 (State.hostsDown s n) := by
  unfold State.hostsDown
  repeat' (first | with_reducible assumption | decide | intro _ _ _ | with_reducible apply ite_kept
                 | with_reducible apply each_kept | with_reducible apply hostSettle_kept
                 | with_reducible apply gbxSettle_kept | split | exact id | dsimp only)

theorem payloadStop_kept {z0 : State} (s : State) (n : Nat) (hz : Kept z0 s) : Kept z0 (State.payloadStop s n) := by
  unfold State.payloadStop
  repeat' (first | with_reducible assumption | decide | with_reducible apply ite_kept
                 | with_reducible apply w_kept | split | exact id | dsimp only)

theorem holdover_kept {z0 : State} (s : State) (n cause : Nat) (hz : Kept z0 s) :
    Kept z0 (State.holdover s n cause) := by
  unfold State.holdover
  repeat' (first | with_reducible assumption | decide | with_reducible apply ite_kept
                 | with_reducible apply payloadStop_kept | with_reducible apply w_kept
                 | with_reducible apply inc_kept | with_reducible apply setLaneh_kept
                 | with_reducible apply post_kept | (simp only [kept_mk]; with_reducible apply upd_kept) | split
                 | exact id | dsimp only)

theorem setLane_kept {z0 : State} (s : State) (n st cause : Nat) (counted : Bool) (hz : Kept z0 s) :
    Kept z0 (State.setLane s n st cause counted) := by
  unfold State.setLane
  repeat' (first | with_reducible assumption | decide | intro _ _ _ | with_reducible apply ite_kept
                 | with_reducible apply each_kept | with_reducible apply w_kept | with_reducible apply wb_kept
                 | with_reducible apply payloadStop_kept | with_reducible apply squelch_kept
                 | with_reducible apply inc_kept | with_reducible apply setLaneh_kept
                 | with_reducible apply post_kept | (simp only [kept_mk]; with_reducible apply upd_kept) | split
                 | exact id | dsimp only)

theorem outerModeNow_kept {z0 : State} (s : State) (n : Nat) (hz : Kept z0 s) : Kept z0 (State.outerModeNow s n) := by
  unfold State.outerModeNow
  repeat' (first | with_reducible assumption | decide | with_reducible apply ite_kept
                 | with_reducible apply setFec_kept | with_reducible apply w_kept
                 | with_reducible apply resolve_kept | (simp only [kept_mk]; with_reducible apply upd_kept)
                 | split | exact id | dsimp only)

theorem dropOuter_kept {z0 : State} (s : State) (n : Nat) (counted : Bool) (hz : Kept z0 s) :
    Kept z0 (State.dropOuter s n counted) := by
  unfold State.dropOuter
  repeat' (first | with_reducible assumption | decide | with_reducible apply ite_kept
                 | with_reducible apply setFec_kept | with_reducible apply w_kept
                 | with_reducible apply outerModeNow_kept | with_reducible apply inc_kept
                 | with_reducible apply post_kept | (simp only [kept_mk]; with_reducible apply upd_kept) | split
                 | exact id | dsimp only)

theorem dropInner_kept {z0 : State} (s : State) (n z : Nat) (counted : Bool) (hz : Kept z0 s) :
    Kept z0 (State.dropInner s n z counted) := by
  unfold State.dropInner
  repeat' (first | with_reducible assumption | decide | with_reducible apply ite_kept
                 | with_reducible apply setFec_kept | with_reducible apply w_kept
                 | with_reducible apply dropOuter_kept | with_reducible apply inc_kept
                 | with_reducible apply post_kept | (simp only [kept_mk]; with_reducible apply upd_kept) | split
                 | exact id | dsimp only)

theorem acqIdle_kept {z0 : State} (s : State) (n : Nat) (hz : Kept z0 s) : Kept z0 (State.acqIdle s n) := by
  unfold State.acqIdle
  repeat' (first | with_reducible assumption | decide | with_reducible apply w_kept
                 | with_reducible apply dropInner_kept | exact id | dsimp only)

theorem ctleDone_kept {z0 : State} (s : State) (n : Nat) (hz : Kept z0 s) : Kept z0 (State.ctleDone s n) := by
  unfold State.ctleDone
  repeat' (first | with_reducible assumption | decide | with_reducible apply setAdc_kept
                 | with_reducible apply resolve_kept | (simp only [kept_mk]; with_reducible apply upd_kept)
                 | exact id | dsimp only)

theorem vgaDone_kept {z0 : State} (s : State) (n : Nat) (hz : Kept z0 s) : Kept z0 (State.vgaDone s n) := by
  unfold State.vgaDone
  repeat' (first | with_reducible assumption | decide | with_reducible apply setAdc_kept
                 | with_reducible apply resolve_kept | (simp only [kept_mk]; with_reducible apply upd_kept)
                 | exact id | dsimp only)

theorem vgaMode_kept {z0 : State} (s : State) (n : Nat) (auto : Bool) (hz : Kept z0 s) :
    Kept z0 (State.vgaMode s n auto) := by
  unfold State.vgaMode
  repeat' (first | with_reducible assumption | decide | with_reducible apply ite_kept
                 | with_reducible apply setAdc_kept | (simp only [kept_mk]; with_reducible apply upd_kept) | split
                 | exact id | dsimp only)

theorem feModes_kept {z0 : State} (s : State) (n : Nat) (hz : Kept z0 s) : Kept z0 (State.feModes s n) := by
  unfold State.feModes
  repeat' (first | with_reducible assumption | decide | with_reducible apply setAdc_kept
                 | with_reducible apply vgaMode_kept | (simp only [kept_mk]; with_reducible apply upd_kept) | split
                 | exact id | dsimp only)

theorem ctleGo_kept {z0 : State} (s : State) (n c : Nat) (hz : Kept z0 s) : Kept z0 (State.ctleGo s n c) := by
  unfold State.ctleGo
  repeat' (first | with_reducible assumption | decide | with_reducible apply ite_kept
                 | with_reducible apply ctleDone_kept | with_reducible apply setAdc_kept
                 | (simp only [kept_mk]; with_reducible apply upd_kept) | split | exact id | dsimp only)

theorem vgaGo_kept {z0 : State} (s : State) (n c : Nat) (hz : Kept z0 s) : Kept z0 (State.vgaGo s n c) := by
  unfold State.vgaGo
  repeat' (first | with_reducible assumption | decide | with_reducible apply ite_kept
                 | with_reducible apply vgaDone_kept | with_reducible apply setAdc_kept
                 | (simp only [kept_mk]; with_reducible apply upd_kept) | split | exact id | dsimp only)

theorem agcCfgTake_kept {z0 : State} (s : State) (n : Nat) (hz : Kept z0 s) :
    Kept z0 (State.agcCfgTake s n) := by
  unfold State.agcCfgTake
  repeat' (first | with_reducible assumption | decide | with_reducible apply setAdc_kept
                 | with_reducible apply resolve_kept | (simp only [kept_mk]; with_reducible apply upd_kept) | split
                 | exact id | dsimp only)

theorem frontEndFromCfg_kept {z0 : State} (s : State) (n : Nat) (hz : Kept z0 s) :
    Kept z0 (State.frontEndFromCfg s n) := by
  unfold State.frontEndFromCfg
  repeat' (first | with_reducible assumption | decide | with_reducible apply w_kept
                 | with_reducible apply feModes_kept | with_reducible apply setAdc_kept
                 | with_reducible apply agcCfgTake_kept | with_reducible apply ctleDone_kept
                 | with_reducible apply vgaDone_kept | (simp only [kept_mk]; with_reducible apply upd_kept) | split
                 | exact id | dsimp only)

theorem acqBegin_kept {z0 : State} (s : State) (n : Nat) (warm : Bool) (hz : Kept z0 s) :
    Kept z0 (State.acqBegin s n warm) := by
  unfold State.acqBegin
  repeat' (first | with_reducible assumption | decide | with_reducible apply ite_kept
                 | with_reducible apply acqIdle_kept | with_reducible apply w_kept
                 | with_reducible apply wb_kept | with_reducible apply inc_kept
                 | with_reducible apply setEq_kept | with_reducible apply feModes_kept
                 | with_reducible apply ctleGo_kept | with_reducible apply vgaGo_kept
                 | (simp only [kept_mk]; with_reducible apply upd_kept) | split | exact id | dsimp only)

theorem acqStart_kept {z0 : State} (s : State) (n : Nat) (warm : Bool) (hz : Kept z0 s) :
    Kept z0 (State.acqStart s n warm) := by
  unfold State.acqStart
  repeat' (first | with_reducible assumption | decide | with_reducible apply ite_kept
                 | with_reducible apply acqIdle_kept | with_reducible apply acqBegin_kept | split | exact id
                 | dsimp only)

theorem toAcquire_kept {z0 : State} (s : State) (n cause : Nat) (warm : Bool) (counted : Bool) (hz : Kept z0 s) :
    Kept z0 (State.toAcquire s n cause warm counted) := by
  unfold State.toAcquire
  repeat' (first | with_reducible assumption | decide | with_reducible apply ite_kept
                 | with_reducible apply setLane_kept | with_reducible apply acqStart_kept | split | exact id
                 | dsimp only)

theorem restoredCheck_kept {z0 : State} (s : State) (n : Nat) (hz : Kept z0 s) :
    Kept z0 (State.restoredCheck s n) := by
  unfold State.restoredCheck
  repeat' (first | with_reducible assumption | decide | with_reducible apply ite_kept
                 | with_reducible apply resolve_kept | split | exact id | dsimp only)

theorem putElem_kept {z0 : State} (s : State) (n e : Nat) (vs : List Int) (sel : List Nat) (hz : Kept z0 s) :
    Kept z0 (State.putElem s n e vs sel) := by
  unfold State.putElem
  repeat' (first | with_reducible assumption | decide | intro _ _ _ | with_reducible apply ite_kept
                 | with_reducible apply setCal_kept | with_reducible apply setElem_kept
                 | with_reducible apply setSel_kept | (simp only [kept_mk]; with_reducible apply upd_kept) | split
                 | exact id | dsimp only)

theorem rampFinish_kept {z0 : State} (s : State) (r : Ramp) (hz : Kept z0 s) : Kept z0 (State.rampFinish s r) := by
  unfold State.rampFinish
  repeat' (first | with_reducible assumption | decide | intro _ _ _ | with_reducible apply putElem_kept
                 | (simp only [kept_mk]; with_reducible apply upd_kept) | split | exact id | dsimp only)

theorem targetsTake_kept {z0 : State} (s : State) (n : Nat) (hz : Kept z0 s) : Kept z0 (State.targetsTake s n) := by
  unfold State.targetsTake
  repeat' (first | with_reducible assumption | decide | intro _ _ _ | with_reducible apply each_kept
                 | with_reducible apply each_kept | with_reducible apply putElem_kept
                 | with_reducible apply setCal_kept | (simp only [kept_mk]; with_reducible apply upd_kept) | split
                 | exact id | dsimp only)

theorem rampsFinish_kept {z0 : State} (s : State) (n : Nat) (hz : Kept z0 s) : Kept z0 (State.rampsFinish s n) := by
  unfold State.rampsFinish
  repeat' (first | with_reducible assumption | decide | intro _ _ _ | with_reducible apply each_kept
                 | with_reducible apply rampFinish_kept | with_reducible apply targetsTake_kept
                 | with_reducible apply restoredCheck_kept | exact id | dsimp only)

theorem elemFresh_kept {z0 : State} (s : State) (n e : Nat) (hz : Kept z0 s) : Kept z0 (State.elemFresh s n e) := by
  unfold State.elemFresh
  repeat' (first | with_reducible assumption | decide | with_reducible apply setCal_kept
                 | (simp only [kept_mk]; with_reducible apply upd_kept) | exact id | dsimp only)

theorem mapWrite_kept {z0 : State} (s : State) (m g j : Nat) (hz : Kept z0 s) : Kept z0 (State.mapWrite s m g j) := by
  unfold State.mapWrite
  repeat' (first | with_reducible assumption | decide | with_reducible apply ite_kept
                 | with_reducible apply w_kept | with_reducible apply inc_kept | split | exact id | dsimp only)

theorem cancelFull_kept {z0 : State} (s : State) (n : Nat) (hz : Kept z0 s) : Kept z0 (State.cancelFull s n) := by
  unfold State.cancelFull
  repeat' (first | with_reducible assumption | decide | with_reducible apply setCal_kept
                 | with_reducible apply resolve_kept | (simp only [kept_mk]; with_reducible apply upd_kept)
                 | exact id | dsimp only)

theorem toCal_kept {z0 : State} (s : State) (n cause : Nat) (hz : Kept z0 s) : Kept z0 (State.toCal s n cause) := by
  unfold State.toCal
  repeat' (first | with_reducible assumption | decide | with_reducible apply setLane_kept
                 | with_reducible apply w_kept | with_reducible apply acqIdle_kept
                 | with_reducible apply cancelFull_kept | with_reducible apply setCal_kept
                 | (simp only [kept_mk]; with_reducible apply upd_kept) | exact id | dsimp only)

theorem fgAbandon_kept {z0 : State} (s : State) (n : Nat) (hz : Kept z0 s) : Kept z0 (State.fgAbandon s n) := by
  unfold State.fgAbandon
  repeat' (first | with_reducible assumption | decide | with_reducible apply setCal_kept
                 | with_reducible apply resolve_kept | (simp only [kept_mk]; with_reducible apply upd_kept)
                 | exact id | dsimp only)

theorem convStart_kept {z0 : State} (s : State) (m : Nat) (hz : Kept z0 s) : Kept z0 (State.convStart s m) := by
  unfold State.convStart
  repeat' (first | with_reducible assumption | decide | with_reducible apply ite_kept
                 | with_reducible apply setAdc_kept | with_reducible apply setEq_kept
                 | with_reducible apply wb_kept | with_reducible apply w_kept
                 | with_reducible apply frontEndFromCfg_kept
                 | (simp only [kept_mk]; with_reducible apply upd_kept) | split | exact id | dsimp only)

theorem convStop_kept {z0 : State} (s : State) (m : Nat) (hz : Kept z0 s) : Kept z0 (State.convStop s m) := by
  unfold State.convStop
  repeat' (first | with_reducible assumption | decide | with_reducible apply dueTake_kept
                 | with_reducible apply w_kept | with_reducible apply setAdc_kept
                 | (simp only [kept_mk]; with_reducible apply upd_kept) | split | exact id | dsimp only)

theorem leaveOff_kept {z0 : State} (s : State) (n cause : Nat) (hz : Kept z0 s) :
    Kept z0 (State.leaveOff s n cause) := by
  unfold State.leaveOff
  repeat' (first | with_reducible assumption | decide | intro _ _ _ | with_reducible apply each_kept
                 | with_reducible apply w_kept | with_reducible apply convStart_kept
                 | with_reducible apply chainStart_kept | with_reducible apply toCal_kept
                 | with_reducible apply alignFollows_kept | with_reducible apply resolve_kept | exact id
                 | dsimp only)

theorem toDrain_kept {z0 : State} (s : State) (n cause : Nat) (hz : Kept z0 s) :
    Kept z0 (State.toDrain s n cause) := by
  unfold State.toDrain
  repeat' (first | with_reducible assumption | decide | intro _ _ _ | with_reducible apply each_kept
                 | with_reducible apply setLane_kept | with_reducible apply setLaneh_kept
                 | with_reducible apply acqIdle_kept | with_reducible apply fgAbandon_kept
                 | with_reducible apply cancelFull_kept | with_reducible apply rampsFinish_kept
                 | with_reducible apply setAdc_kept | with_reducible apply abortWaiters_kept
                 | (simp only [kept_mk]; with_reducible apply upd_kept) | exact id | dsimp only)

theorem toOff_kept {z0 : State} (s : State) (n : Nat) (hz : Kept z0 s) : Kept z0 (State.toOff s n) := by
  unfold State.toOff
  repeat' (first | with_reducible assumption | decide | intro _ _ _ | with_reducible apply each_kept
                 | with_reducible apply convStop_kept | with_reducible apply chainStop_kept
                 | with_reducible apply setLane_kept | with_reducible apply hostsDown_kept
                 | with_reducible apply resolve_kept | exact id | dsimp only)

theorem lockCheck_kept {z0 : State} (s : State) (n : Nat) (hz : Kept z0 s) : Kept z0 (State.lockCheck s n) := by
  unfold State.lockCheck
  repeat' (first | with_reducible assumption | decide | with_reducible apply ite_kept
                 | with_reducible apply setLane_kept | with_reducible apply w_kept
                 | with_reducible apply setCal_kept | with_reducible apply setLaneh_kept
                 | (simp only [kept_mk]; with_reducible apply upd_kept) | split | exact id | dsimp only)

theorem acqFailed_kept {z0 : State} (s : State) (n cause stateCause : Nat) (hz : Kept z0 s) :
    Kept z0 (State.acqFailed s n cause stateCause) := by
  unfold State.acqFailed
  repeat' (first | with_reducible assumption | decide | with_reducible apply ite_kept
                 | with_reducible apply acqBegin_kept | with_reducible apply inc_kept
                 | with_reducible apply toCal_kept | split | exact id | dsimp only)

theorem setLevels_kept {z0 : State} (s : State) (n : Nat) (l : List Int) (hz : Kept z0 s) :
    Kept z0 (State.setLevels s n l) := by
  unfold State.setLevels
  repeat' (first | with_reducible assumption | decide | with_reducible apply wi_kept | exact id | dsimp only)

theorem limitCheck_kept {z0 : State} (s : State) (n : Nat) (hz : Kept z0 s) : Kept z0 (State.limitCheck s n) := by
  unfold State.limitCheck
  repeat' (first | with_reducible assumption | decide | with_reducible apply ite_kept
                 | with_reducible apply setEq_kept | with_reducible apply w_kept
                 | with_reducible apply post_kept | (simp only [kept_mk]; with_reducible apply upd_kept) | split
                 | exact id | dsimp only)

theorem scaleLevels_kept {z0 : State} (s : State) (n : Nat) (up : Bool) (hz : Kept z0 s) :
    Kept z0 (State.scaleLevels s n up) := by
  unfold State.scaleLevels
  repeat' (first | with_reducible assumption | decide | with_reducible apply setLevels_kept
                 | with_reducible apply limitCheck_kept | exact id | dsimp only)

theorem vgaMove_kept {z0 : State} (s : State) (n : Nat) (up : Bool) (hz : Kept z0 s) :
    Kept z0 (State.vgaMove s n up) := by
  unfold State.vgaMove
  repeat' (first | with_reducible assumption | decide | with_reducible apply ite_kept
                 | with_reducible apply w_kept | with_reducible apply scaleLevels_kept | split | exact id
                 | dsimp only)

theorem agcLimit_kept {z0 : State} (s : State) (n : Nat) (b : Bool) (hz : Kept z0 s) :
    Kept z0 (State.agcLimit s n b) := by
  unfold State.agcLimit
  repeat' (first | with_reducible assumption | decide | with_reducible apply ite_kept
                 | with_reducible apply wb_kept | with_reducible apply w_kept | with_reducible apply post_kept
                 | split | exact id | dsimp only)

theorem holdStep_kept {z0 : State} (s : State) (n : Nat) (beyond : Bool) (hz : Kept z0 s) :
    Kept z0 (State.holdStep s n beyond) := by
  unfold State.holdStep
  repeat' (first | with_reducible assumption | decide | with_reducible apply ite_kept
                 | with_reducible apply w_kept | with_reducible apply setAdc_kept
                 | with_reducible apply agcLimit_kept | with_reducible apply inc_kept
                 | with_reducible apply post_kept | (simp only [kept_mk]; with_reducible apply upd_kept) | split
                 | exact id | dsimp only)

theorem sigStep_kept {z0 : State} (s : State) (n sq cnt : Nat) (hz : Kept z0 s) :
    Kept z0 (State.sigStep s n sq cnt) := by
  unfold State.sigStep
  repeat' (first | with_reducible assumption | decide | with_reducible apply ite_kept
                 | with_reducible apply setAdc_kept | with_reducible apply w_kept
                 | with_reducible apply post_kept | with_reducible apply holdover_kept
                 | with_reducible apply lockCheck_kept | (simp only [kept_mk]; with_reducible apply upd_kept)
                 | split | exact id | dsimp only)

theorem activityEnd_kept {z0 : State} (s : State) (n : Nat) (hz : Kept z0 s) : Kept z0 (State.activityEnd s n) := by
  unfold State.activityEnd
  repeat' (first | with_reducible assumption | decide | with_reducible apply ite_kept
                 | with_reducible apply setCal_kept | with_reducible apply w_kept | with_reducible apply wb_kept
                 | with_reducible apply post_kept | (simp only [kept_mk]; with_reducible apply upd_kept) | split
                 | exact id | dsimp only)

theorem windowEnd_kept {z0 : State} (s : State) (n : Nat) (hz : Kept z0 s) : Kept z0 (State.windowEnd s n) := by
  unfold State.windowEnd
  repeat' (first | with_reducible assumption | decide | with_reducible apply ite_kept
                 | with_reducible apply w_kept | with_reducible apply setAdc_kept | with_reducible apply wi_kept
                 | with_reducible apply activityEnd_kept | with_reducible apply holdStep_kept
                 | with_reducible apply sigStep_kept | (simp only [kept_mk]; with_reducible apply upd_kept)
                 | split | exact id | dsimp only)

theorem tapIn_kept {z0 : State} (s : State) (n j : Nat) (c raw : Int) (clip : Bool) (x : Seen) (hz : Kept z0 s) :
    Kept z0 (State.tapIn s n j c raw clip x) := by
  unfold State.tapIn
  repeat' (first | with_reducible assumption | decide | intro _ _ _ | with_reducible apply ite_kept
                 | with_reducible apply setAdc_kept | (simp only [kept_mk]; with_reducible apply upd_kept) | split
                 | exact id | dsimp only)

theorem codeIn_kept {z0 : State} (s : State) (n j : Nat) (x raw : Int) (seen : Seen) (hz : Kept z0 s) :
    Kept z0 (State.codeIn s n j x raw seen) := by
  unfold State.codeIn
  repeat' (first | with_reducible assumption | decide | with_reducible apply ite_kept
                 | with_reducible apply tapIn_kept | with_reducible apply w_kept | with_reducible apply setAdc_kept
                 | with_reducible apply inc_kept | with_reducible apply setCal_kept
                 | with_reducible apply windowEnd_kept | (simp only [kept_mk]; with_reducible apply upd_kept) | split
                 | exact id | dsimp only)

theorem sampleIn_kept {z0 : State} (s : State) (n d : Nat) (hz : Kept z0 s) :
    Kept z0 (State.sampleIn s n d) := by
  unfold State.sampleIn
  repeat' (first | with_reducible assumption | decide | intro _ _ _ | with_reducible apply ite_kept
                 | with_reducible apply each_kept | with_reducible apply each_kept
                 | with_reducible apply dueTake_kept | with_reducible apply setAdc_kept
                 | with_reducible apply codeIn_kept | (simp only [kept_mk]; with_reducible apply upd_kept) | split
                 | exact id | dsimp only)

theorem agcPeriod_kept {z0 : State} (s : State) (n : Nat) (hz : Kept z0 s) : Kept z0 (State.agcPeriod s n) := by
  unfold State.agcPeriod
  repeat' (first | with_reducible assumption | decide | with_reducible apply ite_kept
                 | with_reducible apply setAdc_kept | with_reducible apply vgaMove_kept
                 | with_reducible apply agcLimit_kept | (simp only [kept_mk]; with_reducible apply upd_kept)
                 | split | exact id | dsimp only)

theorem vgaWalkStep_kept {z0 : State} (s : State) (n : Nat) (hz : Kept z0 s) : Kept z0 (State.vgaWalkStep s n) := by
  unfold State.vgaWalkStep
  repeat' (first | with_reducible assumption | decide | with_reducible apply ite_kept
                 | with_reducible apply vgaMove_kept | with_reducible apply vgaDone_kept
                 | (simp only [kept_mk]; with_reducible apply upd_kept) | split | exact id | dsimp only)

theorem ctleWalkStep_kept {z0 : State} (s : State) (n : Nat) (hz : Kept z0 s) : Kept z0 (State.ctleWalkStep s n) := by
  unfold State.ctleWalkStep
  repeat' (first | with_reducible assumption | decide | with_reducible apply ite_kept
                 | with_reducible apply w_kept | with_reducible apply setEq_kept
                 | with_reducible apply ctleDone_kept | (simp only [kept_mk]; with_reducible apply upd_kept)
                 | split | exact id | dsimp only)

theorem rampStart_kept {z0 : State} (s : State) (n e : Nat) (b : List Int) (sel : List Nat) (hz : Kept z0 s) :
    Kept z0 (State.rampStart s n e b sel) := by
  unfold State.rampStart
  repeat' (first | with_reducible assumption | decide | with_reducible apply foldl_kept | intro _ _ _
                 | (simp only [kept_mk]; with_reducible apply upd_kept) | exact id | dsimp only)

theorem rampsTick_kept {z0 : State} (s : State) (n : Nat) (hz : Kept z0 s) :
    Kept z0 (State.rampsTick s n) := by
  unfold State.rampsTick
  repeat' (first | with_reducible assumption | decide | intro _ _ _ | with_reducible apply ite_kept
                 | with_reducible apply each_kept | with_reducible apply each_kept
                 | with_reducible apply putElem_kept | (simp only [kept_mk]; with_reducible apply upd_kept) | split
                 | exact id | dsimp only)

theorem serviceSettle_kept {z0 : State} (s : State) (m : Nat) (was : List Bool) (hz : Kept z0 s) :
    Kept z0 (State.serviceSettle s m was) := by
  unfold State.serviceSettle
  repeat' (first | with_reducible assumption | decide | intro _ _ _ | with_reducible apply ite_kept
                 | with_reducible apply each_kept | with_reducible apply rampFinish_kept
                 | with_reducible apply rampStart_kept | with_reducible apply setCal_kept
                 | with_reducible apply restoredCheck_kept
                 | (simp only [kept_mk]; with_reducible apply upd_kept) | split | exact id | dsimp only)

theorem mapChange_kept {z0 : State} (s : State) (m : Nat) (hz : Kept z0 s) : Kept z0 (State.mapChange s m) := by
  unfold State.mapChange
  repeat' (first | with_reducible assumption | decide | with_reducible apply ite_kept
                 | with_reducible apply setAdc_kept | with_reducible apply mapWrite_kept
                 | with_reducible apply serviceSettle_kept
                 | (simp only [kept_mk]; with_reducible apply upd_kept) | split | exact id | dsimp only)

theorem cellSwap_kept {z0 : State} (s : State) (m : Nat) (hz : Kept z0 s) : Kept z0 (State.cellSwap s m) := by
  unfold State.cellSwap
  repeat' (first | with_reducible assumption | decide | with_reducible apply ite_kept
                 | with_reducible apply setTx_kept | with_reducible apply cellWrite_kept
                 | with_reducible apply serviceSettle_kept
                 | (simp only [kept_mk]; with_reducible apply upd_kept) | split | exact id | dsimp only)

theorem setTap_kept {z0 : State} (s : State) (n i : Nat) (v : Int) (hz : Kept z0 s) :
    Kept z0 (State.setTap s n i v) := by
  unfold State.setTap
  repeat' (first | with_reducible assumption | decide | with_reducible apply wi_kept
                 | with_reducible apply wb_kept | exact id | dsimp only)

theorem setH1_kept {z0 : State} (s : State) (n : Nat) (v : Int) (hz : Kept z0 s) : Kept z0 (State.setH1 s n v) := by
  unfold State.setH1
  repeat' (first | with_reducible assumption | decide | with_reducible apply wi_kept
                 | with_reducible apply wb_kept | exact id | dsimp only)

theorem eqStart_kept {z0 : State} (s : State) (n : Nat) (hz : Kept z0 s) : Kept z0 (State.eqStart s n) := by
  unfold State.eqStart
  repeat' (first | with_reducible assumption | decide | intro _ _ _ | with_reducible apply ite_kept
                 | with_reducible apply each_kept | with_reducible apply setTap_kept
                 | with_reducible apply setH1_kept | with_reducible apply setLevels_kept
                 | with_reducible apply limitCheck_kept | split | exact id | dsimp only)

theorem adaptFfe_kept {z0 : State} (s : State) (n : Nat) (xs : Array Int) (ys : List Sym) (hz : Kept z0 s) :
    Kept z0 (State.adaptFfe s n xs ys) := by
  unfold State.adaptFfe
  repeat' (first | with_reducible assumption | decide | intro _ _ _ | with_reducible apply each_kept
                 | with_reducible apply setTap_kept | exact id | dsimp only)

theorem adapt_kept {z0 : State} (s : State) (n : Nat) (xs : Array Int) (ys : List Sym) (hz : Kept z0 s) :
    Kept z0 (State.adapt s n xs ys) := by
  unfold State.adapt
  repeat' (first | with_reducible assumption | decide | with_reducible apply ite_kept
                 | with_reducible apply adaptFfe_kept | with_reducible apply setTap_kept
                 | with_reducible apply setH1_kept | with_reducible apply setLevels_kept
                 | with_reducible apply limitCheck_kept | split | exact id | dsimp only)

theorem adaptationStep_kept {z0 : State} (s : State) (n pa k : Nat) (xs : List Int) (hz : Kept z0 s) :
    Kept z0 (State.adaptationStep s n pa k xs) := by
  unfold State.adaptationStep
  repeat' (first | with_reducible assumption | decide | with_reducible apply ite_kept
                 | with_reducible apply w_kept | with_reducible apply adapt_kept
                 | with_reducible apply setEq_kept | (simp only [kept_mk]; with_reducible apply upd_kept)
                 | split | exact id | dsimp only)

theorem trShow_kept {z0 : State} (s : State) (n : Nat) (hz : Kept z0 s) : Kept z0 (State.trShow s n) := by
  unfold State.trShow
  repeat' (first | with_reducible assumption | decide | with_reducible apply ite_kept
                 | with_reducible apply wi_kept | with_reducible apply wb_kept | with_reducible apply w_kept
                 | with_reducible apply post_kept | split | exact id | dsimp only)

theorem timingUpdate_kept {z0 : State} (s : State) (n pa : Nat) (xs : List Int) (hz : Kept z0 s) :
    Kept z0 (State.timingUpdate s n pa xs) := by
  unfold State.timingUpdate
  repeat' (first | with_reducible assumption | decide | with_reducible apply ite_kept
                 | with_reducible apply setEq_kept | with_reducible apply trShow_kept
                 | (simp only [kept_mk]; with_reducible apply upd_kept) | split | exact id | dsimp only)

theorem toStep_kept {z0 : State} (s : State) (n st : Nat) (hz : Kept z0 s) : Kept z0 (State.toStep s n st) := by
  unfold State.toStep
  repeat' (first | with_reducible assumption | decide | with_reducible apply w_kept
                 | with_reducible apply setEq_kept | (simp only [kept_mk]; with_reducible apply upd_kept)
                 | exact id | dsimp only)

theorem tryCode_kept {z0 : State} (s : State) (n c : Nat) (hz : Kept z0 s) : Kept z0 (State.tryCode s n c) := by
  unfold State.tryCode
  repeat' (first | with_reducible assumption | decide | with_reducible apply w_kept
                 | with_reducible apply eqStart_kept | with_reducible apply setEq_kept
                 | (simp only [kept_mk]; with_reducible apply upd_kept) | exact id | dsimp only)

theorem chooseDet_kept {z0 : State} (s : State) (n : Nat) (hz : Kept z0 s) : Kept z0 (State.chooseDet s n) := by
  unfold State.chooseDet
  repeat' (first | with_reducible assumption | decide | with_reducible apply wb_kept | exact id | dsimp only)

theorem acqStepEnd_kept {z0 : State} (s : State) (n : Nat) (hz : Kept z0 s) : Kept z0 (State.acqStepEnd s n) := by
  unfold State.acqStepEnd
  repeat' (first | with_reducible assumption | decide | with_reducible apply ite_kept
                 | with_reducible apply toStep_kept | with_reducible apply eqStart_kept
                 | with_reducible apply w_kept | with_reducible apply setEq_kept
                 | with_reducible apply ctleDone_kept | with_reducible apply tryCode_kept
                 | with_reducible apply chooseDet_kept | (simp only [kept_mk]; with_reducible apply upd_kept)
                 | split | exact id | dsimp only)

theorem ctleTryEnd_kept {z0 : State} (s : State) (n pa : Nat) (xs : List Int) (hz : Kept z0 s) :
    Kept z0 (State.ctleTryEnd s n pa xs) := by
  unfold State.ctleTryEnd
  repeat' (first | with_reducible assumption | decide | with_reducible apply ite_kept
                 | with_reducible apply setEq_kept | with_reducible apply tryCode_kept
                 | with_reducible apply w_kept | (simp only [kept_mk]; with_reducible apply upd_kept) | split
                 | exact id | dsimp only)

theorem eqLocked_kept {z0 : State} (s : State) (n : Nat) (hz : Kept z0 s) : Kept z0 (State.eqLocked s n) := by
  unfold State.eqLocked
  repeat' (first | with_reducible assumption | decide | with_reducible apply w_kept
                 | with_reducible apply toStep_kept | with_reducible apply setEq_kept
                 | with_reducible apply setFec_kept | with_reducible apply post_kept
                 | with_reducible apply lockCheck_kept | (simp only [kept_mk]; with_reducible apply upd_kept)
                 | exact id | dsimp only)

theorem eqLost_kept {z0 : State} (s : State) (n crit : Nat) (hz : Kept z0 s) : Kept z0 (State.eqLost s n crit) := by
  unfold State.eqLost
  repeat' (first | with_reducible assumption | decide | with_reducible apply w_kept
                 | with_reducible apply wb_kept | with_reducible apply inc_kept | with_reducible apply post_kept
                 | with_reducible apply dropInner_kept | with_reducible apply toAcquire_kept | exact id
                 | dsimp only)

theorem snrRecord_kept {z0 : State} (s : State) (n snr : Nat) (hz : Kept z0 s) :
    Kept z0 (State.snrRecord s n snr) := by
  unfold State.snrRecord
  repeat' (first | with_reducible assumption | decide | with_reducible apply foldl_kept | intro _ _ _
                 | with_reducible apply w_kept | with_reducible apply setEq_kept
                 | (simp only [kept_mk]; with_reducible apply upd_kept) | exact id | dsimp only)

theorem judgeLock_kept {z0 : State} (s : State) (n snr : Nat) (hz : Kept z0 s) :
    Kept z0 (State.judgeLock s n snr) := by
  unfold State.judgeLock
  repeat' (first | with_reducible assumption | decide | with_reducible apply ite_kept
                 | with_reducible apply setEq_kept | with_reducible apply eqLocked_kept
                 | (simp only [kept_mk]; with_reducible apply upd_kept) | split | exact id | dsimp only)

theorem judgeLoss_kept {z0 : State} (s : State) (n snr : Nat) (hz : Kept z0 s) :
    Kept z0 (State.judgeLoss s n snr) := by
  unfold State.judgeLoss
  repeat' (first | with_reducible assumption | decide | with_reducible apply ite_kept
                 | with_reducible apply setEq_kept | with_reducible apply eqLost_kept
                 | (simp only [kept_mk]; with_reducible apply upd_kept) | split | exact id | dsimp only)

theorem eqWindow_kept {z0 : State} (s : State) (n pa : Nat) (xs : List Int) (hz : Kept z0 s) :
    Kept z0 (State.eqWindow s n pa xs) := by
  unfold State.eqWindow
  repeat' (first | with_reducible assumption | decide | with_reducible apply ite_kept
                 | with_reducible apply snrRecord_kept | with_reducible apply judgeLoss_kept
                 | with_reducible apply judgeLock_kept | split | exact id | dsimp only)

theorem acqTimeout_kept {z0 : State} (s : State) (n : Nat) (hz : Kept z0 s) : Kept z0 (State.acqTimeout s n) := by
  unfold State.acqTimeout
  repeat' (first | with_reducible assumption | decide | with_reducible apply ite_kept
                 | with_reducible apply w_kept | with_reducible apply post_kept
                 | with_reducible apply acqFailed_kept | split | exact id | dsimp only)

theorem eqStore_kept {z0 : State} (s : State) (j : Job) (n : Nat) (hz : Kept z0 s) :
    Kept z0 (State.eqStore s j n) := by
  unfold State.eqStore
  repeat' (first | with_reducible assumption | decide | with_reducible apply ite_kept
                 | with_reducible apply w_kept | with_reducible apply wb_kept | split | exact id | dsimp only)

theorem ctleTarget_kept {z0 : State} (s : State) (n c : Nat) (hz : Kept z0 s) : Kept z0 (State.ctleTarget s n c) := by
  unfold State.ctleTarget
  repeat' (first | with_reducible assumption | decide | with_reducible apply ite_kept
                 | with_reducible apply abortWaiters_kept | with_reducible apply setAdc_kept
                 | (simp only [kept_mk]; with_reducible apply upd_kept) | split | exact id | dsimp only)

theorem vgaTarget_kept {z0 : State} (s : State) (n : Nat) (c : Option Nat) (hz : Kept z0 s) :
    Kept z0 (State.vgaTarget s n c) := by
  unfold State.vgaTarget
  repeat' (first | with_reducible assumption | decide | with_reducible apply ite_kept
                 | with_reducible apply abortWaiters_kept | with_reducible apply setAdc_kept
                 | (simp only [kept_mk]; with_reducible apply upd_kept) | split | exact id | dsimp only)

theorem feInService_kept {z0 : State} (s : State) (n : Nat) (wasAuto : Bool) (hz : Kept z0 s) :
    Kept z0 (State.feInService s n wasAuto) := by
  unfold State.feInService
  repeat' (first | with_reducible assumption | decide | with_reducible apply ite_kept
                 | with_reducible apply ctleTarget_kept | with_reducible apply vgaMode_kept
                 | with_reducible apply vgaTarget_kept | (simp only [kept_mk]; with_reducible apply upd_kept) | split
                 | exact id | dsimp only)

theorem eqParamLane_kept {z0 : State} (s : State) (j : Job) (n : Nat) (hz : Kept z0 s) :
    Kept z0 (State.eqParamLane s j n) := by
  unfold State.eqParamLane
  repeat' (first | with_reducible assumption | decide | with_reducible apply ite_kept
                 | with_reducible apply eqStore_kept | with_reducible apply setEq_kept
                 | with_reducible apply feInService_kept | with_reducible apply toAcquire_kept
                 | (simp only [kept_mk]; with_reducible apply upd_kept) | split | exact id | dsimp only)

theorem eqParam_kept {z0 : State} (s : State) (j : Job) (hz : Kept z0 s) : Kept z0 (State.eqParam s j) := by
  unfold State.eqParam
  repeat' (first | with_reducible assumption | decide | intro _ _ _ | with_reducible apply ite_kept
                 | with_reducible apply each_kept | with_reducible apply finish_kept
                 | with_reducible apply eqParamLane_kept | with_reducible apply await_kept | split | exact id
                 | dsimp only)

theorem innerLock_kept {z0 : State} (s : State) (n : Nat) (hz : Kept z0 s) : Kept z0 (State.innerLock s n) := by
  unfold State.innerLock
  repeat' (first | with_reducible assumption | decide | with_reducible apply setFec_kept
                 | with_reducible apply w_kept | with_reducible apply post_kept
                 | with_reducible apply lockCheck_kept | (simp only [kept_mk]; with_reducible apply upd_kept)
                 | exact id | dsimp only)

theorem innerTest_kept {z0 : State} (s : State) (n z : Nat) (hz : Kept z0 s) : Kept z0 (State.innerTest s n z) := by
  unfold State.innerTest
  repeat' (first | with_reducible assumption | decide | with_reducible apply ite_kept
                 | with_reducible apply setFec_kept | with_reducible apply dropInner_kept
                 | with_reducible apply holdover_kept | with_reducible apply innerLock_kept
                 | (simp only [kept_mk]; with_reducible apply upd_kept) | split | exact id | dsimp only)

theorem nextEpoch_kept {z0 : State} (s : State) (d : Nat) (hz : Kept z0 s) : Kept z0 (State.nextEpoch s d) := by
  unfold State.nextEpoch
  repeat' (first | with_reducible assumption | decide | intro _ _ _ | with_reducible apply ite_kept
                 | with_reducible apply foldl_kept | with_reducible apply each_kept
                 | with_reducible apply w_kept | with_reducible apply setFec_kept
                 | with_reducible apply setPool_kept | with_reducible apply resolve_kept
                 | (simp only [kept_mk]; with_reducible apply upd_kept) | split | exact id | dsimp only)

theorem poolEpoch_kept {z0 : State} (s : State) (d : Nat) (ins : List EpochIn) (hz : Kept z0 s) :
    Kept z0 (State.poolEpoch s d ins) := by
  unfold State.poolEpoch
  repeat' (first | with_reducible assumption | decide | with_reducible apply ite_kept
                 | with_reducible apply foldl_kept | intro _ _ _ | with_reducible apply w_kept
                 | with_reducible apply setPool_kept | with_reducible apply nextEpoch_kept
                 | (simp only [kept_mk]; with_reducible apply upd_kept) | split | exact id | dsimp only)

theorem deliverLane_kept {z0 : State} (s : State) (d : Nat) (e : EpochLane) (hz : Kept z0 s) :
    Kept z0 (State.deliverLane s d e) := by
  unfold State.deliverLane
  repeat' (first | with_reducible assumption | decide | with_reducible apply ite_kept
                 | with_reducible apply inc_kept | with_reducible apply setFec_kept
                 | (simp only [kept_mk]; with_reducible apply upd_kept) | split | exact id | dsimp only)

theorem decodeDeliver_kept {z0 : State} (s : State) (d : Nat) (hz : Kept z0 s) :
    Kept z0 (State.decodeDeliver s d) := by
  unfold State.decodeDeliver
  repeat' (first | with_reducible assumption | decide | intro _ _ _ | with_reducible apply ite_kept
                 | with_reducible apply each_kept | with_reducible apply setPool_kept
                 | with_reducible apply deliverLane_kept | with_reducible apply inc_kept
                 | with_reducible apply w_kept | (simp only [kept_mk]; with_reducible apply upd_kept) | split
                 | exact id | dsimp only)

theorem poolLevelEvent_kept {z0 : State} (s : State) (d lvl : Nat) (hz : Kept z0 s) :
    Kept z0 (State.poolLevelEvent s d lvl) := by
  unfold State.poolLevelEvent
  repeat' (first | with_reducible assumption | decide | with_reducible apply ite_kept
                 | with_reducible apply w_kept | with_reducible apply post_kept | split | exact id | dsimp only)

theorem poolWindow_kept {z0 : State} (s : State) (d : Nat) (hz : Kept z0 s) : Kept z0 (State.poolWindow s d) := by
  unfold State.poolWindow
  repeat' (first | with_reducible assumption | decide | with_reducible apply ite_kept
                 | with_reducible apply poolLevelEvent_kept | with_reducible apply w_kept
                 | with_reducible apply setPool_kept | with_reducible apply post_kept
                 | (simp only [kept_mk]; with_reducible apply upd_kept) | split | exact id | dsimp only)

theorem outerTest_kept {z0 : State} (s : State) (n : Nat) (good : Bool) (hz : Kept z0 s) :
    Kept z0 (State.outerTest s n good) := by
  unfold State.outerTest
  repeat' (first | with_reducible assumption | decide | with_reducible apply ite_kept
                 | with_reducible apply setFec_kept | with_reducible apply w_kept
                 | with_reducible apply post_kept | with_reducible apply lockCheck_kept
                 | (simp only [kept_mk]; with_reducible apply upd_kept) | split | exact id | dsimp only)

theorem outerCount_kept {z0 : State} (s : State) (n : Nat) (dec : Option (List Nat × Nat)) (hz : Kept z0 s) :
    Kept z0 (State.outerCount s n dec) := by
  unfold State.outerCount
  repeat' (first | with_reducible assumption | decide | with_reducible apply ite_kept
                 | with_reducible apply inc_kept | with_reducible apply w_kept | with_reducible apply post_kept
                 | (simp only [kept_mk]; with_reducible apply upd_kept) | split | exact id | dsimp only)

theorem toHost_kept {z0 : State} (s : State) (n : Nat) (bs : List Bool) (hz : Kept z0 s) :
    Kept z0 (State.toHost s n bs) := by
  unfold State.toHost
  repeat' (first | with_reducible assumption | decide | with_reducible apply ite_kept
                 | with_reducible apply setLaneh_kept | with_reducible apply setHost_kept
                 | (simp only [kept_mk]; with_reducible apply upd_kept) | split | exact id | dsimp only)

theorem streamOut_kept {z0 : State} (s : State) (n : Nat) (bs : List Bool) (hz : Kept z0 s) :
    Kept z0 (State.streamOut s n bs) := by
  unfold State.streamOut
  repeat' (first | with_reducible assumption | decide | with_reducible apply ite_kept
                 | with_reducible apply toHost_kept | with_reducible apply setTx_kept
                 | (simp only [kept_mk]; with_reducible apply upd_kept) | split | exact id | dsimp only)

theorem outerJudge_kept {z0 : State} (s : State) (n : Nat) (good : Bool) (hz : Kept z0 s) :
    Kept z0 (State.outerJudge s n good) := by
  unfold State.outerJudge
  repeat' (first | with_reducible assumption | decide | with_reducible apply ite_kept
                 | with_reducible apply setFec_kept | with_reducible apply dropOuter_kept
                 | with_reducible apply holdover_kept | (simp only [kept_mk]; with_reducible apply upd_kept)
                 | split | exact id | dsimp only)

theorem rsCodeword_kept {z0 : State} (s : State) (n : Nat) (skip bs : List Bool) (hz : Kept z0 s) :
    Kept z0 (State.rsCodeword s n skip bs) := by
  unfold State.rsCodeword
  repeat' (first | with_reducible assumption | decide | with_reducible apply ite_kept
                 | with_reducible apply outerModeNow_kept | with_reducible apply outerCount_kept
                 | with_reducible apply streamOut_kept | with_reducible apply outerJudge_kept
                 | with_reducible apply outerTest_kept | split | exact id | dsimp only)

theorem nextCodeword_kept {z0 : State} (s : State) (n : Nat) (hz : Kept z0 s) : Kept z0 (State.nextCodeword s n) := by
  unfold State.nextCodeword
  repeat' (first | with_reducible assumption | decide | with_reducible apply ite_kept
                 | with_reducible apply setFec_kept | with_reducible apply rsCodeword_kept
                 | (simp only [kept_mk]; with_reducible apply upd_kept) | split | exact id | dsimp only)

theorem setOuterMode_kept {z0 : State} (s : State) (n m : Nat) (hz : Kept z0 s) :
    Kept z0 (State.setOuterMode s n m) := by
  unfold State.setOuterMode
  repeat' (first | with_reducible assumption | decide | with_reducible apply ite_kept
                 | with_reducible apply w_kept | with_reducible apply setFec_kept
                 | with_reducible apply outerModeNow_kept | (simp only [kept_mk]; with_reducible apply upd_kept)
                 | split | exact id | dsimp only)

theorem fecConfigLane_kept {z0 : State} (s : State) (j : Job) (n : Nat) (hz : Kept z0 s) :
    Kept z0 (State.fecConfigLane s j n) := by
  unfold State.fecConfigLane
  repeat' (first | with_reducible assumption | decide | with_reducible apply ite_kept
                 | with_reducible apply setOuterMode_kept | with_reducible apply w_kept | split | exact id
                 | dsimp only)

theorem fecConfig_kept {z0 : State} (s : State) (j : Job) (hz : Kept z0 s) : Kept z0 (State.fecConfig s j) := by
  unfold State.fecConfig
  repeat' (first | with_reducible assumption | decide | intro _ _ _ | with_reducible apply ite_kept
                 | with_reducible apply each_kept | with_reducible apply finish_kept
                 | with_reducible apply fecConfigLane_kept | with_reducible apply await_kept
                 | with_reducible apply poolEpoch_kept | split | exact id | dsimp only)

theorem poolConfig_kept {z0 : State} (s : State) (j : Job) (hz : Kept z0 s) : Kept z0 (State.poolConfig s j) := by
  unfold State.poolConfig
  repeat' (first | with_reducible assumption | decide | intro _ _ _ | with_reducible apply ite_kept
                 | with_reducible apply each_kept | with_reducible apply finish_kept
                 | with_reducible apply w_kept | with_reducible apply await_kept
                 | with_reducible apply poolEpoch_kept | split | exact id | dsimp only)

end Sys2Proof.Machine
end

