-- ==== Sys2Proof/Laws/KeptCalibration.lean ====
section
/-! SUPPORT. Operations of Machine/Calibration, Nvm, Fabric keep the queue, the clock, canonical memories and a
legal device state (`Kept`). -/

namespace Sys2Proof.Machine

open Sys2Proof

theorem elemEvent_kept {z0 : State} (s : State) (m code e comp : Nat) (isComp : Bool) (hz : Kept z0 s) :
    Kept z0 (State.elemEvent s m code e comp isComp) := by
  unfold State.elemEvent
  repeat' (first | with_reducible assumption | decide | with_reducible apply post_kept | exact id | dsimp only)

theorem exhaust_kept {z0 : State} (s : State) (m e : Nat) (hz : Kept z0 s) : Kept z0 (State.exhaust s m e) := by
  unfold State.exhaust
  repeat' (first | with_reducible assumption | decide | with_reducible apply ite_kept
                 | with_reducible exact failedF_ne _ | with_reducible apply w_kept
                 | with_reducible apply elemEvent_kept | with_reducible apply setLane_kept | split | exact id
                 | dsimp only)

theorem mapFreeze_kept {z0 : State} (s : State) (m g r : Nat) (hz : Kept z0 s) :
    Kept z0 (State.mapFreeze s m g r) := by
  unfold State.mapFreeze
  repeat' (first | with_reducible assumption | decide | with_reducible apply setAdc_kept
                 | (simp only [kept_mk]; with_reducible apply upd_kept) | exact id | dsimp only)

theorem retire_kept {z0 : State} (s : State) (m e : Nat) (hz : Kept z0 s) : Kept z0 (State.retire s m e) := by
  unfold State.retire
  repeat' (first | with_reducible assumption | decide | with_reducible apply ite_kept
                 | with_reducible exact retiredF_ne (by assumption) | with_reducible apply w_kept
                 | with_reducible apply elemEvent_kept | with_reducible apply exhaust_kept
                 | with_reducible apply inc_kept | with_reducible apply mapFreeze_kept
                 | with_reducible apply setTx_kept | (simp only [kept_mk]; with_reducible apply upd_kept)
                 | split | exact id | dsimp only)

theorem suspect_kept {z0 : State} (s : State) (m e : Nat) (hz : Kept z0 s) : Kept z0 (State.suspect s m e) := by
  unfold State.suspect
  repeat' (first | with_reducible assumption | decide | with_reducible apply ite_kept
                 | with_reducible exact suspectF_ne _ | with_reducible apply retire_kept
                 | with_reducible apply w_kept | with_reducible apply elemEvent_kept | split | exact id
                 | dsimp only)

theorem goodVisit_kept {z0 : State} (s : State) (m e : Nat) (hz : Kept z0 s) : Kept z0 (State.goodVisit s m e) := by
  unfold State.goodVisit
  repeat' (first | with_reducible assumption | decide | with_reducible apply ite_kept
                 | with_reducible exact failedF_ne _ | with_reducible exact suspectF_ne _
                 | with_reducible apply w_kept | with_reducible apply setLane_kept | split | exact id
                 | dsimp only)

theorem newVals_kept {z0 : State} (s : State) (m e : Nat) (fg : Bool) (vs : List Int) (hz : Kept z0 s) :
    Kept z0 (State.newVals s m e fg vs) := by
  unfold State.newVals
  repeat' (first | with_reducible assumption | decide | with_reducible apply ite_kept
                 | with_reducible apply elemFresh_kept | with_reducible apply putElem_kept
                 | with_reducible apply rampStart_kept | with_reducible apply setCal_kept
                 | (simp only [kept_mk]; with_reducible apply upd_kept) | split | exact id | dsimp only)

theorem compsMeasured_kept {z0 : State} (s : State) (m e : Nat) (cs : List (Fin 3 × Int × Int)) (hz : Kept z0 s) :
    Kept z0 (State.compsMeasured s m e cs) := by
  unfold State.compsMeasured
  repeat' (first | with_reducible assumption | decide | intro _ _ _ | with_reducible apply ite_kept
                 | with_reducible apply each_kept | with_reducible apply setCal_kept
                 | with_reducible apply w_kept | with_reducible apply elemEvent_kept
                 | (simp only [kept_mk]; with_reducible apply upd_kept) | split | exact id | dsimp only)

theorem sparesTaken_kept {z0 : State} (s : State) (m e : Nat) (us : List Nat) (hz : Kept z0 s) :
    Kept z0 (State.sparesTaken s m e us) := by
  unfold State.sparesTaken
  repeat' (first | with_reducible assumption | decide | with_reducible apply ite_kept
                 | with_reducible apply setCal_kept | with_reducible apply w_kept
                 | with_reducible apply elemEvent_kept | (simp only [kept_mk]; with_reducible apply upd_kept) | split
                 | exact id | dsimp only)

theorem newSet_kept {z0 : State} (s : State) (m e : Nat) (fg : Bool) (vs : List Int) (sel : List Nat) (hz : Kept z0 s) :
    Kept z0 (State.newSet s m e fg vs sel) := by
  unfold State.newSet
  repeat' (first | with_reducible assumption | decide | with_reducible apply ite_kept
                 | with_reducible apply elemFresh_kept | with_reducible apply putElem_kept
                 | with_reducible apply newVals_kept | (simp only [kept_mk]; with_reducible apply upd_kept) | split
                 | exact id | dsimp only)

theorem visitSs_kept {z0 : State} (s : State) (m e : Nat) (fg choose : Bool) (comps : List (Fin 3 × Int × Int)) 
    (wt : List WeightTry) (spares : List (Nat × Nat)) (ofs gain : List (Int × Int)) (hz : Kept z0 s) :
    Kept z0 (State.visitSs s m e fg choose comps wt spares ofs gain) := by
  unfold State.visitSs
  repeat' (first | with_reducible assumption | decide | with_reducible apply ite_kept
                 | with_reducible apply compsMeasured_kept | with_reducible apply retire_kept
                 | with_reducible apply putElem_kept | with_reducible apply suspect_kept
                 | with_reducible apply sparesTaken_kept | with_reducible apply newSet_kept
                 | with_reducible apply goodVisit_kept | (simp only [kept_mk]; with_reducible apply upd_kept) | split
                 | exact id | dsimp only)

theorem visitGrp_kept {z0 : State} (s : State) (m g : Nat) (fg : Bool) (gain skew bw : List (Int × Int)) (hz : Kept z0 s) :
    Kept z0 (State.visitGrp s m g fg gain skew bw) := by
  unfold State.visitGrp
  repeat' (first | with_reducible assumption | decide | with_reducible apply ite_kept
                 | with_reducible apply retire_kept | with_reducible apply suspect_kept
                 | with_reducible apply newVals_kept | with_reducible apply goodVisit_kept
                 | (simp only [kept_mk]; with_reducible apply upd_kept) | split | exact id | dsimp only)

theorem visitOne_kept {z0 : State} (s : State) (m e : Nat) (fg : Bool) (j : Judged Int) (hz : Kept z0 s) :
    Kept z0 (State.visitOne s m e fg j) := by
  unfold State.visitOne
  repeat' (first | with_reducible assumption | decide | with_reducible apply ite_kept
                 | with_reducible apply newVals_kept | with_reducible apply goodVisit_kept
                 | with_reducible apply retire_kept | with_reducible apply suspect_kept
                 | (simp only [kept_mk]; with_reducible apply upd_kept) | split | exact id | dsimp only)

theorem visit_kept {z0 : State} (s : State) (n : Nat) (fg full : Bool) (x0 : Meas) (hz : Kept z0 s) :
    Kept z0 (State.visit s n fg full x0) := by
  unfold State.visit
  repeat' (first | with_reducible assumption | decide | with_reducible apply visitSs_kept
                 | with_reducible apply visitGrp_kept | with_reducible apply visitOne_kept
                 | (simp only [kept_mk]; with_reducible apply upd_kept) | split | exact id | dsimp only)

theorem countDisagree_kept {z0 : State} (s : State) (n : Nat) (ms : List Meas) (hz : Kept z0 s) :
    Kept z0 (State.countDisagree s n ms) := by
  unfold State.countDisagree
  repeat' (first | with_reducible assumption | decide | intro _ _ _ | with_reducible apply each_kept
                 | with_reducible apply inc_kept | exact id | dsimp only)

theorem passDone_kept {z0 : State} (s : State) (n : Nat) (hz : Kept z0 s) : Kept z0 (State.passDone s n) := by
  unfold State.passDone
  repeat' (first | with_reducible assumption | decide | intro _ _ _ | with_reducible apply each_kept
                 | with_reducible apply inc_kept | with_reducible apply w_kept
                 | with_reducible apply setCal_kept | (simp only [kept_mk]; with_reducible apply upd_kept)
                 | exact id | dsimp only)

theorem fgStart_kept {z0 : State} (s : State) (d : Nat) (hz : Kept z0 s) : Kept z0 (State.fgStart s d) := by
  unfold State.fgStart
  repeat' (first | with_reducible assumption | decide | with_reducible apply ite_kept
                 | with_reducible apply setCal_kept | with_reducible apply setAdc_kept
                 | with_reducible apply w_kept | (simp only [kept_mk]; with_reducible apply upd_kept) | split
                 | exact id | dsimp only)

theorem fgRestore_kept {z0 : State} (s : State) (n : Nat) (hz : Kept z0 s) : Kept z0 (State.fgRestore s n) := by
  unfold State.fgRestore
  repeat' (first | with_reducible assumption | decide | with_reducible apply setCal_kept
                 | with_reducible apply wb_kept | with_reducible apply frontEndFromCfg_kept
                 | (simp only [kept_mk]; with_reducible apply upd_kept) | exact id | dsimp only)

theorem acceptStored_kept {z0 : State} (s : State) (n : Nat) (hz : Kept z0 s) : Kept z0 (State.acceptStored s n) := by
  unfold State.acceptStored
  repeat' (first | with_reducible assumption | decide | with_reducible apply ite_kept
                 | with_reducible apply w_kept | with_reducible apply setCal_kept
                 | with_reducible apply post_kept | with_reducible apply toAcquire_kept
                 | (simp only [kept_mk]; with_reducible apply upd_kept) | split | exact id | dsimp only)

theorem fgRejected_kept {z0 : State} (s : State) (n : Nat) (hz : Kept z0 s) : Kept z0 (State.fgRejected s n) := by
  unfold State.fgRejected
  repeat' (first | with_reducible assumption | decide | with_reducible apply ite_kept
                 | with_reducible apply fgRestore_kept | with_reducible apply setLane_kept
                 | with_reducible apply w_kept | with_reducible apply inc_kept | with_reducible apply post_kept
                 | with_reducible apply resolve_kept | with_reducible apply acceptStored_kept | split | exact id
                 | dsimp only)

theorem fgDone_kept {z0 : State} (s : State) (n : Nat) (ms : List Meas) (hz : Kept z0 s) :
    Kept z0 (State.fgDone s n ms) := by
  unfold State.fgDone
  repeat' (first | with_reducible assumption | decide | intro _ _ _ | with_reducible apply ite_kept
                 | with_reducible apply each_kept | with_reducible apply countDisagree_kept
                 | with_reducible apply fgRejected_kept | with_reducible apply visit_kept
                 | with_reducible apply fgRestore_kept | with_reducible apply passDone_kept
                 | with_reducible apply post_kept | with_reducible apply toAcquire_kept
                 | with_reducible apply resolve_kept | split | exact id | dsimp only)

theorem sweepStep_kept {z0 : State} (s : State) (m : Nat) (hz : Kept z0 s) : Kept z0 (State.sweepStep s m) := by
  unfold State.sweepStep
  repeat' (first | with_reducible assumption | decide | intro _ _ _ | with_reducible apply ite_kept
                 | with_reducible apply each_kept | with_reducible apply setCal_kept
                 | with_reducible apply setAdc_kept | (simp only [kept_mk]; with_reducible apply upd_kept)
                 | split | exact id | dsimp only)

theorem cellStep_kept {z0 : State} (s : State) (m : Nat) (hz : Kept z0 s) : Kept z0 (State.cellStep s m) := by
  unfold State.cellStep
  repeat' (first | with_reducible assumption | decide | with_reducible apply ite_kept
                 | with_reducible apply setCal_kept | with_reducible apply setTx_kept
                 | (simp only [kept_mk]; with_reducible apply upd_kept) | split | exact id | dsimp only)

theorem slotEnd_kept {z0 : State} (s : State) (n : Nat) (hz : Kept z0 s) : Kept z0 (State.slotEnd s n) := by
  unfold State.slotEnd
  repeat' (first | with_reducible assumption | decide | intro _ _ _ | with_reducible apply ite_kept
                 | with_reducible apply each_kept | with_reducible apply inc_kept
                 | with_reducible apply setCal_kept | with_reducible apply passDone_kept
                 | with_reducible apply w_kept | with_reducible apply post_kept
                 | with_reducible apply resolve_kept | (simp only [kept_mk]; with_reducible apply upd_kept)
                 | split | exact id | dsimp only)

theorem slotBegin_kept {z0 : State} (s : State) (n : Nat) (hz : Kept z0 s) : Kept z0 (State.slotBegin s n) := by
  unfold State.slotBegin
  repeat' (first | with_reducible assumption | decide | intro _ _ _ | with_reducible apply ite_kept
                 | with_reducible apply each_kept | with_reducible apply setCal_kept
                 | with_reducible apply sweepStep_kept | with_reducible apply cellStep_kept
                 | (simp only [kept_mk]; with_reducible apply upd_kept) | split | exact id | dsimp only)

theorem cardingSlot_kept {z0 : State} (s : State) (n : Nat) (ms : List Meas) (hz : Kept z0 s) :
    Kept z0 (State.cardingSlot s n ms) := by
  unfold State.cardingSlot
  repeat' (first | with_reducible assumption | decide | intro _ _ _ | with_reducible apply ite_kept
                 | with_reducible apply each_kept | with_reducible apply countDisagree_kept
                 | with_reducible apply visit_kept | with_reducible apply slotEnd_kept
                 | with_reducible apply slotBegin_kept | split | exact id | dsimp only)

theorem scheduleFull_kept {z0 : State} (s : State) (n : Nat) (hz : Kept z0 s) : Kept z0 (State.scheduleFull s n) := by
  unfold State.scheduleFull
  repeat' (first | with_reducible assumption | decide | with_reducible apply ite_kept
                 | with_reducible apply setCal_kept | (simp only [kept_mk]; with_reducible apply upd_kept)
                 | split | exact id | dsimp only)

theorem tempReport_kept {z0 : State} (s : State) (n : Nat) (hz : Kept z0 s) : Kept z0 (State.tempReport s n) := by
  unfold State.tempReport
  repeat' (first | with_reducible assumption | decide | with_reducible apply ite_kept
                 | with_reducible apply scheduleFull_kept | with_reducible apply post_kept | split | exact id
                 | dsimp only)

theorem calRunLane_kept {z0 : State} (s : State) (j : Job) (n : Nat) (hz : Kept z0 s) :
    Kept z0 (State.calRunLane s j n) := by
  unfold State.calRunLane
  repeat' (first | with_reducible assumption | decide | with_reducible apply ite_kept
                 | with_reducible apply setCal_kept | with_reducible apply toCal_kept
                 | with_reducible apply scheduleFull_kept | (simp only [kept_mk]; with_reducible apply upd_kept)
                 | split | exact id | dsimp only)

theorem calRun_kept {z0 : State} (s : State) (j : Job) (hz : Kept z0 s) : Kept z0 (State.calRun s j) := by
  unfold State.calRun
  repeat' (first | with_reducible assumption | decide | intro _ _ _ | with_reducible apply ite_kept
                 | with_reducible apply each_kept | with_reducible apply finish_kept
                 | with_reducible apply calRunLane_kept | with_reducible apply await_kept | split | exact id
                 | dsimp only)

theorem calPolicyLane_kept {z0 : State} (s : State) (j : Job) (n : Nat) (hz : Kept z0 s) :
    Kept z0 (State.calPolicyLane s j n) := by
  unfold State.calPolicyLane
  repeat' (first | with_reducible assumption | decide | with_reducible apply ite_kept
                 | with_reducible apply w_kept | with_reducible apply wb_kept | split | exact id | dsimp only)

theorem calPolicy_kept {z0 : State} (s : State) (j : Job) (hz : Kept z0 s) : Kept z0 (State.calPolicy s j) := by
  unfold State.calPolicy
  repeat' (first | with_reducible assumption | decide | intro _ _ _ | with_reducible apply ite_kept
                 | with_reducible apply each_kept | with_reducible apply calPolicyLane_kept
                 | with_reducible apply finish_kept | split | exact id | dsimp only)

theorem commitEnd_kept {z0 : State} (s : State) (r : Running) (st : Status) (r0 : Nat) (hz : Kept z0 s) :
    Kept z0 (State.commitEnd s r st r0) := by
  unfold State.commitEnd
  repeat' (first | with_reducible assumption | decide | with_reducible apply ite_kept
                 | with_reducible apply w_kept | with_reducible apply finish_kept
                 | with_reducible apply post_kept | (simp only [kept_mk]; with_reducible apply upd_kept) | split
                 | exact id | dsimp only)

theorem setRunning_kept {z0 : State} (s : State) (r : Running) (hz : Kept z0 s) : Kept z0 (State.setRunning s r) := by
  unfold State.setRunning
  repeat' (first | with_reducible assumption | decide | (simp only [kept_mk]; with_reducible apply upd_kept)
                 | exact id | dsimp only)

theorem nvm_write_kept {z0 : State} (s : State) (a : Nat) (bs : List Nat) (hz : Kept z0 s) :
    Kept z0 { s with nvm := s.nvm.write a bs } := (kept_mk ..).2 (upd_kept hz id (nvmWrite_ok id) id)

theorem passedNew_kept {z0 : State} (s : State) (b : Bool) (hz : Kept z0 s) :
    Kept z0 { s with nvm := { s.nvm with passedNew := b } } := (kept_mk ..).2 (upd_kept hz id id id)

theorem commitProgram_kept {z0 : State} (s : State) (r : Running) (hz : Kept z0 s) :
    Kept z0 (State.commitProgram s r) := by
  unfold State.commitProgram
  dsimp only
  split
  · exact commitEnd_kept _ _ _ _ (post_kept _ _ _ _ hz)
  · exact setRunning_kept _ _ (passedNew_kept _ _ (nvm_write_kept _ _ _ (inc_kept _ F.CAL_NVM_CYC_CYCLES _ _ hz (by decide))))

theorem commitLoop_kept {z0 : State} (s : State) (r : Running) (hz : Kept z0 s) : Kept z0 (State.commitLoop s r) := by
  unfold State.commitLoop
  repeat' (first | with_reducible assumption | decide | with_reducible apply ite_kept
                 | with_reducible apply commitEnd_kept | with_reducible apply w_kept
                 | with_reducible apply setRunning_kept | with_reducible apply post_kept
                 | with_reducible apply commitProgram_kept
                 | (simp only [kept_mk]; with_reducible apply upd_kept) | split | exact id | dsimp only)

theorem commitStart_kept {z0 : State} (s : State) (hz : Kept z0 s) : Kept z0 (State.commitStart s) := by
  unfold State.commitStart
  repeat' (first | with_reducible assumption | decide | with_reducible apply ite_kept
                 | with_reducible apply w_kept | with_reducible apply commitLoop_kept
                 | (simp only [kept_mk]; with_reducible apply upd_kept) | with_reducible apply nvmErase_ok
                 | split | exact id | dsimp only)

theorem activate_kept {z0 : State} (s : State) (b : Nat) (hz : Kept z0 s) : Kept z0 (State.activate s b) := by
  unfold State.activate
  repeat' (first | with_reducible assumption | decide | with_reducible apply w_kept | exact id | dsimp only)

theorem otherShow_kept {z0 : State} (s : State) (hz : Kept z0 s) : Kept z0 (State.otherShow s) := by
  unfold State.otherShow
  repeat' (first | with_reducible assumption | decide | with_reducible apply ite_kept
                 | with_reducible apply w_kept | split | exact id | dsimp only)

theorem commitVerified_kept {z0 : State} (s : State) (r : Running) (hz : Kept z0 s) :
    Kept z0 (State.commitVerified s r) := by
  unfold State.commitVerified
  repeat' (first | with_reducible assumption | decide | with_reducible apply activate_kept
                 | with_reducible apply otherShow_kept | with_reducible apply wb_kept
                 | with_reducible apply post_kept | with_reducible apply commitEnd_kept
                 | (simp only [kept_mk]; with_reducible apply upd_kept) | exact id | dsimp only)

theorem programDone_kept {z0 : State} (s : State) (r : Running) (bad : List (Nat × Nat)) (hz : Kept z0 s) :
    Kept z0 (State.programDone s r bad) := by
  unfold State.programDone
  repeat' (first | with_reducible assumption | decide | intro _ _ _ | with_reducible apply ite_kept
                 | with_reducible apply each_kept | with_reducible apply commitVerified_kept
                 | with_reducible apply otherShow_kept | with_reducible apply w_kept
                 | with_reducible apply post_kept | with_reducible apply commitEnd_kept
                 | with_reducible apply commitLoop_kept | (simp only [kept_mk]; with_reducible apply upd_kept)
                 | with_reducible apply nvmWrite_ok | split | exact id | dsimp only)

theorem eraseDone_kept {z0 : State} (s : State) (hz : Kept z0 s) :
    Kept z0 (State.eraseDone s) := by
  unfold State.eraseDone
  repeat' (first | with_reducible assumption | decide | with_reducible apply ite_kept | with_reducible apply w_kept
                 | with_reducible apply otherShow_kept | with_reducible apply setRunning_kept
                 | with_reducible apply commitLoop_kept | with_reducible apply nvmErase_ok
                 | (simp only [kept_mk]; with_reducible apply upd_kept) | split | exact id | dsimp only)
  exact fun k => NvmH.erase_wf _ k

theorem programPages_kept {z0 : State} (s : State) (r : Running) (k : Nat) (hz : Kept z0 s) :
    Kept z0 (State.programPages s r k) := by
  unfold State.programPages
  repeat' (first | with_reducible assumption | decide | (simp only [kept_mk]; with_reducible apply upd_kept)
                 | with_reducible apply nvmWrite_ok | exact id | dsimp only)

theorem erasePages_kept {z0 : State} (s : State) (b k : Nat) (hz : Kept z0 s) :
    Kept z0 (State.erasePages s b k) := by
  unfold State.erasePages
  repeat' (first | with_reducible assumption | decide | with_reducible apply nvmWrite_ok
                 | (simp only [kept_mk]; with_reducible apply upd_kept) | split | exact id | dsimp only)

theorem nvmStop_kept {z0 : State} (s : State) (thermal : Bool) (hz : Kept z0 s) :
    Kept z0 (State.nvmStop s thermal) := by
  unfold State.nvmStop
  repeat' (first | with_reducible assumption | decide | with_reducible apply ite_kept
                 | with_reducible apply otherShow_kept | with_reducible apply programPages_kept
                 | with_reducible apply erasePages_kept | with_reducible apply commitLoop_kept
                 | (simp only [kept_mk]; with_reducible apply upd_kept) | split | exact id | dsimp only)

theorem retirementsShow_kept {z0 : State} (s : State) (n : Nat) (hz : Kept z0 s) :
    Kept z0 (State.retirementsShow s n) := by
  unfold State.retirementsShow
  repeat' (first | with_reducible assumption | decide | with_reducible apply foldl_kept | intro _ _ _
                 | with_reducible apply w_kept | with_reducible apply wb_kept | exact id | dsimp only)

theorem loadSection_kept {z0 : State} (s : State) (n : Nat) (e : List Nat) (hz : Kept z0 s) :
    Kept z0 (State.loadSection s n e) := by
  unfold State.loadSection
  repeat' (first | with_reducible assumption | decide | intro _ _ _ | with_reducible apply ite_kept
                 | with_reducible apply each_kept | with_reducible apply w_kept
                 | with_reducible apply loadWord_kept | with_reducible apply wb_kept
                 | with_reducible apply setCal_kept | with_reducible apply retirementsShow_kept
                 | (simp only [kept_mk]; with_reducible apply upd_kept) | split | exact id | dsimp only)

theorem restartPowered_kept {z0 : State} (s : State) (hz : Kept z0 s) : Kept z0 (State.restartPowered s) := by
  unfold State.restartPowered
  dsimp only
  generalize (s.nvm.log s.logBank).foldl (fun m p => max m p.1) _ = top
  exact (kept_mk ..).2 (upd_kept hz id id id)

theorem recordLoad_kept {z0 : State} (s : State) (hz : Kept z0 s) : Kept z0 (State.recordLoad s) := by
  unfold State.recordLoad
  repeat' (first | with_reducible assumption | decide | intro _ _ _ | with_reducible apply ite_kept
                 | with_reducible apply each_kept | with_reducible apply w_kept
                 | with_reducible apply otherShow_kept | with_reducible apply restartPowered_kept
                 | with_reducible apply post_kept | with_reducible apply activate_kept
                 | with_reducible apply loadSection_kept | with_reducible apply wb_kept | split | exact id
                 | dsimp only)

theorem restoreLane_kept {z0 : State} (s : State) (n : Nat) (hz : Kept z0 s) : Kept z0 (State.restoreLane s n) := by
  unfold State.restoreLane
  repeat' (first | with_reducible assumption | decide | intro _ _ _ | with_reducible apply ite_kept
                 | with_reducible apply each_kept | with_reducible apply each_kept
                 | with_reducible apply elemFresh_kept | with_reducible apply rampStart_kept
                 | with_reducible apply putElem_kept | (simp only [kept_mk]; with_reducible apply upd_kept) | split
                 | exact id | dsimp only)

theorem calRestore_kept {z0 : State} (s : State) (j : Job) (hz : Kept z0 s) : Kept z0 (State.calRestore s j) := by
  unfold State.calRestore
  repeat' (first | with_reducible assumption | decide | intro _ _ _ | with_reducible apply ite_kept
                 | with_reducible apply each_kept | with_reducible apply finish_kept
                 | with_reducible apply restoreLane_kept | with_reducible apply await_kept | split | exact id
                 | dsimp only)

theorem calCommit_kept {z0 : State} (s : State) (j : Job) (hz : Kept z0 s) : Kept z0 (State.calCommit s j) := by
  unfold State.calCommit
  repeat' (first | with_reducible assumption | decide | with_reducible apply ite_kept
                 | with_reducible apply finish_kept | with_reducible apply await_kept
                 | (simp only [kept_mk]; with_reducible apply upd_kept) | split | exact id | dsimp only)

theorem marginLow_kept {z0 : State} (s : State) (i : Nat) (hz : Kept z0 s) : Kept z0 (State.marginLow s i) := by
  unfold State.marginLow
  repeat' (first | with_reducible assumption | decide | with_reducible apply ite_kept
                 | with_reducible apply post_kept | (simp only [kept_mk]; with_reducible apply upd_kept) | split
                 | exact id | dsimp only)

theorem marginCapped_kept {z0 : State} (s : State) (i : Nat) (hz : Kept z0 s) : Kept z0 (State.marginCapped s i) := by
  unfold State.marginCapped
  repeat' (first | with_reducible assumption | decide | with_reducible apply ite_kept
                 | with_reducible apply w_kept | with_reducible apply marginLow_kept
                 | with_reducible apply post_kept | split | exact id | dsimp only)

theorem marginRestored_kept {z0 : State} (s : State) (i : Nat) (hz : Kept z0 s) :
    Kept z0 (State.marginRestored s i) := by
  unfold State.marginRestored
  repeat' (first | with_reducible assumption | decide | with_reducible apply ite_kept
                 | with_reducible apply w_kept | with_reducible apply post_kept
                 | (simp only [kept_mk]; with_reducible apply upd_kept) | split | exact id | dsimp only)

theorem marginFlags_kept {z0 : State} (s : State) (i : Nat) (hz : Kept z0 s) : Kept z0 (State.marginFlags s i) := by
  unfold State.marginFlags
  repeat' (first | with_reducible assumption | decide | with_reducible apply ite_kept
                 | with_reducible apply marginRestored_kept | with_reducible apply marginCapped_kept
                 | with_reducible apply w_kept | split | exact id | dsimp only)

theorem marginSettle_kept {z0 : State} (s : State) (i : Nat) (hz : Kept z0 s) : Kept z0 (State.marginSettle s i) := by
  unfold State.marginSettle
  repeat' (first | with_reducible assumption | decide | with_reducible apply ite_kept
                 | with_reducible apply w_kept | with_reducible apply wb_kept
                 | with_reducible apply marginFlags_kept | (simp only [kept_mk]; with_reducible apply upd_kept)
                 | split | exact id | dsimp only)

theorem marginMeasure_kept {z0 : State} (s : State) (i rate : Nat) (hz : Kept z0 s) :
    Kept z0 (State.marginMeasure s i rate) := by
  unfold State.marginMeasure
  repeat' (first | with_reducible assumption | decide | with_reducible apply marginSettle_kept
                 | (simp only [kept_mk]; with_reducible apply upd_kept) | exact id | dsimp only)

theorem marginsSettle_kept {z0 : State} (s : State) (hz : Kept z0 s) : Kept z0 (State.marginsSettle s) := by
  unfold State.marginsSettle
  repeat' (first | with_reducible assumption | decide | intro _ _ _ | with_reducible apply each_kept
                 | with_reducible apply marginSettle_kept | exact id | dsimp only)

theorem raiseStart_kept {z0 : State} (s : State) (c : Change) (hz : Kept z0 s) : Kept z0 (State.raiseStart s c) := by
  unfold State.raiseStart
  repeat' (first | with_reducible assumption | decide | with_reducible apply ite_kept
                 | with_reducible apply marginsSettle_kept
                 | (simp only [kept_mk]; with_reducible apply upd_kept) | split | exact id | dsimp only)

theorem raiseDrop_kept {z0 : State} (s : State) (c : Change) (hz : Kept z0 s) : Kept z0 (State.raiseDrop s c) := by
  unfold State.raiseDrop
  repeat' (first | with_reducible assumption | decide | (simp only [kept_mk]; with_reducible apply upd_kept)
                 | exact id | dsimp only)

theorem raisedLow_kept {z0 : State} (s : State) (i : Nat) (hz : Kept z0 s) : Kept z0 (State.raisedLow s i) := by
  unfold State.raisedLow
  repeat' (first | with_reducible assumption | decide | with_reducible apply ite_kept
                 | with_reducible apply post_kept | (simp only [kept_mk]; with_reducible apply upd_kept) | split
                 | exact id | dsimp only)

theorem raiseLow_kept {z0 : State} (s : State) (r : Raise) (hz : Kept z0 s) : Kept z0 (State.raiseLow s r) := by
  unfold State.raiseLow
  repeat' (first | with_reducible assumption | decide | intro _ _ _ | with_reducible apply each_kept
                 | with_reducible apply raisedLow_kept | exact id | dsimp only)

theorem raiseDenied_kept {z0 : State} (s : State) (r : Raise) (hz : Kept z0 s) : Kept z0 (State.raiseDenied s r) := by
  unfold State.raiseDenied
  repeat' (first | with_reducible assumption | decide | intro _ _ _ | with_reducible apply each_kept
                 | with_reducible apply post_kept | with_reducible apply raiseDrop_kept
                 | with_reducible apply marginsSettle_kept | exact id | dsimp only)

theorem state_w_kept {z0 : State} (s : State) {v : Nat} (hv : v ≤ 7) (hz : Kept z0 s) :
    Kept z0 (State.w s F.SYS_STATE_STATE 0 v) :=
  ⟨hz.queue, hz.clock, hz.mem, fun _ => state_set_ok _ hv⟩

theorem setDev_kept {z0 : State} (s : State) (d : DevState) (hz : Kept z0 s) : Kept z0 (State.setDev s d) := by
  unfold State.setDev
  dsimp only
  refine state_w_kept _ (by cases d <;> decide) ?_
  repeat' (first | with_reducible assumption | decide | with_reducible apply ite_kept
                 | with_reducible apply w_kept | (simp only [kept_mk]; with_reducible apply upd_kept) | exact id
                 | dsimp only)

theorem changeTo_kept {z0 : State} (s : State) (d : DevState) (host : Option (Master × Nat)) (hz : Kept z0 s) :
    Kept z0 (State.changeTo s d host) := by
  unfold State.changeTo
  repeat' (first | with_reducible assumption | decide | (simp only [kept_mk]; with_reducible apply upd_kept) | split
                 | exact id | dsimp only)

theorem changeState_kept {z0 : State} (s : State) (d : DevState) (hz : Kept z0 s) :
    Kept z0 (State.changeState s d) := by
  unfold State.changeState
  repeat' (first | with_reducible assumption | decide | with_reducible apply changeTo_kept
                 | (simp only [kept_mk]; with_reducible apply upd_kept) | split | exact id | dsimp only)

theorem autoSafe_kept {z0 : State} (s : State) (hz : Kept z0 s) : Kept z0 (State.autoSafe s) := by
  unfold State.autoSafe
  repeat' (first | with_reducible assumption | decide | with_reducible apply ite_kept
                 | with_reducible apply changeState_kept | split | exact id | dsimp only)

theorem setRail_kept {z0 : State} (s : State) (r : Nat) (h : RailH) (hz : Kept z0 s) :
    Kept z0 (State.setRail s r h) := by
  unfold State.setRail
  repeat' (first | with_reducible assumption | decide | (simp only [kept_mk]; with_reducible apply upd_kept)
                 | exact id | dsimp only)

theorem railEval_kept {z0 : State} (s : State) (r : Nat) (hz : Kept z0 s) : Kept z0 (State.railEval s r) := by
  unfold State.railEval
  repeat' (first | with_reducible assumption | decide | intro _ _ _ | with_reducible apply ite_kept
                 | with_reducible apply each_kept | with_reducible apply setRail_kept
                 | with_reducible apply marginFlags_kept | (simp only [kept_mk]; with_reducible apply upd_kept)
                 | split | exact id | dsimp only)

theorem reqWithdraw_kept {z0 : State} (s : State) (req : Nat) (hz : Kept z0 s) :
    Kept z0 (State.reqWithdraw s req) := by
  unfold State.reqWithdraw
  repeat' (first | with_reducible assumption | decide | intro _ _ _ | with_reducible apply ite_kept
                 | with_reducible apply w_kept | (simp only [kept_mk]; with_reducible apply upd_kept) | split
                 | exact id | dsimp only)

theorem reqRejected_kept {z0 : State} (s : State) (m : Master) (req : Nat) (hz : Kept z0 s) :
    Kept z0 (State.reqRejected s m req) := by
  unfold State.reqRejected
  repeat' (first | with_reducible assumption | decide | with_reducible apply w_kept
                 | with_reducible apply post_kept | exact id | dsimp only)

theorem stateReq_kept {z0 : State} (s : State) (m : Master) (req : Nat) (hz : Kept z0 s) :
    Kept z0 (State.stateReq s m req) := by
  unfold State.stateReq
  repeat' (first | with_reducible assumption | decide | intro _ _ _ | intro _ _ | with_reducible apply ite_kept
                 | with_reducible apply w_kept | with_reducible apply reqRejected_kept
                 | with_reducible apply changeTo_kept | (simp only [kept_mk]; with_reducible apply upd_kept) | split
                 | exact id | dsimp only)

theorem outranking_kept {z0 : State} (s : State) (act : State → State) (hz : Kept z0 s)
    (ha : ∀ t, Kept z0 t → Kept z0 (act t)) : Kept z0 (State.outranking s act) := by
  unfold State.outranking
  repeat' (first | with_reducible assumption | decide | with_reducible apply ha | with_reducible apply ite_kept
                 | with_reducible apply reqWithdraw_kept | with_reducible apply accErr_kept
                 | with_reducible apply stateReq_kept | split | exact id | dsimp only)

theorem avsFault_kept {z0 : State} (s : State) (r : Nat) (hz : Kept z0 s) :
    Kept z0 (State.avsFault s r) := by
  unfold State.avsFault
  repeat' (first | with_reducible assumption | decide | intro _ _ _ | intro _ _ | with_reducible apply ite_kept
                 | with_reducible apply outranking_kept | with_reducible apply w_kept
                 | with_reducible apply setRail_kept | with_reducible apply post_kept
                 | with_reducible apply autoSafe_kept | (simp only [kept_mk]; with_reducible apply upd_kept) | split
                 | exact id | dsimp only)

theorem avsCount_kept {z0 : State} (s : State) (r : Nat) (ok : Bool) (hz : Kept z0 s) :
    Kept z0 (State.avsCount s r ok) := by
  unfold State.avsCount
  repeat' (first | with_reducible assumption | decide | with_reducible apply ite_kept
                 | with_reducible apply setRail_kept | with_reducible apply avsFault_kept
                 | (simp only [kept_mk]; with_reducible apply upd_kept) | split | exact id | dsimp only)

theorem avsDone_kept {z0 : State} (s : State) (r : Nat) (ok : Bool) (hz : Kept z0 s) :
    Kept z0 (State.avsDone s r ok) := by
  unfold State.avsDone
  repeat' (first | with_reducible assumption | decide | intro _ _ _ | with_reducible apply ite_kept
                 | with_reducible apply each_kept | with_reducible apply w_kept
                 | with_reducible apply setRail_kept | with_reducible apply avsCount_kept
                 | with_reducible apply marginFlags_kept | (simp only [kept_mk]; with_reducible apply upd_kept)
                 | split | exact id | dsimp only)

theorem avsStatus_kept {z0 : State} (s : State) (r : Nat) (statusOk fault targetOk : Bool) (mv : Nat) (hz : Kept z0 s) :
    Kept z0 (State.avsStatus s r statusOk fault targetOk mv) := by
  unfold State.avsStatus
  repeat' (first | with_reducible assumption | decide | with_reducible apply ite_kept
                 | with_reducible apply avsCount_kept | with_reducible apply avsFault_kept | split | exact id
                 | dsimp only)

theorem avsRetry_kept {z0 : State} (s : State) (r : Nat) (good : Bool) (hz : Kept z0 s) :
    Kept z0 (State.avsRetry s r good) := by
  unfold State.avsRetry
  repeat' (first | with_reducible assumption | decide | with_reducible apply ite_kept
                 | with_reducible apply w_kept | with_reducible apply setRail_kept
                 | (simp only [kept_mk]; with_reducible apply upd_kept) | split | exact id | dsimp only)

theorem alignRestart_kept {z0 : State} (s : State) (m : Nat) (hz : Kept z0 s) : Kept z0 (State.alignRestart s m) := by
  unfold State.alignRestart
  repeat' (first | with_reducible assumption | decide | with_reducible apply ite_kept
                 | with_reducible apply setHost_kept | with_reducible apply w_kept
                 | with_reducible apply gbxSettle_kept | (simp only [kept_mk]; with_reducible apply upd_kept)
                 | split | exact id | dsimp only)

theorem recentre_kept {z0 : State} (s : State) (f : Fifo) (full : Bool) (hz : Kept z0 s) :
    Kept z0 (State.recentre s f full) := by
  unfold State.recentre
  repeat' (first | with_reducible assumption | decide | with_reducible apply ite_kept
                 | (simp only [kept_mk]; with_reducible apply upd_kept) | split | exact id | dsimp only)

theorem slipCount_kept {z0 : State} (s : State) (n i : Nat) (hz : Kept z0 s) : Kept z0 (State.slipCount s n i) := by
  unfold State.slipCount
  repeat' (first | with_reducible assumption | decide | with_reducible apply inc_kept
                 | with_reducible apply post_kept | exact id | dsimp only)

theorem fifoSlip_kept {z0 : State} (s : State) (f : Fifo) (full : Bool) (hz : Kept z0 s) :
    Kept z0 (State.fifoSlip s f full) := by
  unfold State.fifoSlip
  repeat' (first | with_reducible assumption | decide | with_reducible apply ite_kept
                 | with_reducible apply recentre_kept | with_reducible apply slipCount_kept
                 | with_reducible apply alignRestart_kept | (simp only [kept_mk]; with_reducible apply upd_kept)
                 | split | exact id | dsimp only)

end Sys2Proof.Machine
end

