-- ==== Sys2Proof/Laws/KeptCapture.lean ====
section
/-! SUPPORT. Operations of Machine/Capture, Plank, Lanes keep the queue, the clock, canonical memories and a
legal device state (`Kept`). -/

namespace Sys2Proof.Machine

open Sys2Proof

theorem setBatt_kept {z0 : State} (s : State) (b : Nat) (h : BattH) (hz : Kept z0 s) :
    Kept z0 (State.setBatt s b h) := by
  unfold State.setBatt
  repeat' (first | with_reducible assumption | decide | (simp only [kept_mk]; with_reducible apply upd_kept)
                 | exact id | dsimp only)

theorem battFree_kept {z0 : State} (s : State) (b : Nat) (hz : Kept z0 s) : Kept z0 (State.battFree s b) := by
  unfold State.battFree
  refine resolve_kept _ _ _ (setBatt_kept _ _ _ (foldl_mem_kept _ (fun s f hm hs => w_kept _ _ _ _ hs ?_) _
    (w_kept _ _ _ _ hz (by decide))))
  revert f
  decide

theorem battSettle_kept {z0 : State} (s : State) (b : Nat) (hz : Kept z0 s) : Kept z0 (State.battSettle s b) := by
  unfold State.battSettle
  repeat' (first | with_reducible assumption | decide | with_reducible apply ite_kept
                 | with_reducible apply battFree_kept | split | exact id | dsimp only)

theorem battRelease_kept {z0 : State} (s : State) (b : Nat) (hz : Kept z0 s) : Kept z0 (State.battRelease s b) := by
  unfold State.battRelease
  repeat' (first | with_reducible assumption | decide | with_reducible apply w_kept
                 | with_reducible apply battSettle_kept | exact id | dsimp only)

theorem rateBack_kept {z0 : State} (s : State) (b : Nat) (hz : Kept z0 s) : Kept z0 (State.rateBack s b) := by
  unfold State.rateBack
  repeat' (first | with_reducible assumption | decide | with_reducible apply ite_kept
                 | with_reducible apply w_kept | split | exact id | dsimp only)

theorem battEnd_kept {z0 : State} (s : State) (b cause : Nat) (hz : Kept z0 s) :
    Kept z0 (State.battEnd s b cause) := by
  unfold State.battEnd
  repeat' (first | with_reducible assumption | decide | intro _ _ _ | with_reducible apply ite_kept
                 | with_reducible apply each_kept | with_reducible apply rateBack_kept
                 | with_reducible apply setBatt_kept | with_reducible apply w_kept
                 | with_reducible apply post_kept | (simp only [kept_mk]; with_reducible apply upd_kept) | split
                 | exact id | dsimp only)

theorem battsEnd_kept {z0 : State} (s : State) (p : Nat → Bool) (cause : Nat) (hz : Kept z0 s) :
    Kept z0 (State.battsEnd s p cause) := by
  unfold State.battsEnd
  repeat' (first | with_reducible assumption | decide | intro _ _ _ | with_reducible apply each_kept
                 | with_reducible apply battEnd_kept | exact id | dsimp only)

theorem capStopped_kept {z0 : State} (s : State) (n : Nat) (hz : Kept z0 s) : Kept z0 (State.capStopped s n) := by
  unfold State.capStopped
  repeat' (first | with_reducible assumption | decide | with_reducible apply battsEnd_kept | exact id
                 | dsimp only)

theorem capModeChanged_kept {z0 : State} (s : State) (n : Nat) (hz : Kept z0 s) :
    Kept z0 (State.capModeChanged s n) := by
  unfold State.capModeChanged
  repeat' (first | with_reducible assumption | decide | with_reducible apply battsEnd_kept | exact id
                 | dsimp only)

theorem budgetTrim_kept {z0 : State} (s : State) (x1 : Nat) (hz : Kept z0 s) : Kept z0 (State.budgetTrim s x1) := by
  induction x1 generalizing s with
  | zero => exact hz
  | succ k ih => unfold State.budgetTrim; repeat' (first | with_reducible apply ih | with_reducible assumption
                                                         | decide | with_reducible apply ite_kept
                                                         | with_reducible apply battEnd_kept | split | dsimp only)

theorem dramTemp_kept {z0 : State} (s : State) (temp : Nat) (hz : Kept z0 s) : Kept z0 (State.dramTemp s temp) := by
  unfold State.dramTemp
  repeat' (first | with_reducible assumption | decide | with_reducible apply ite_kept
                 | with_reducible apply w_kept | with_reducible apply post_kept
                 | with_reducible apply budgetTrim_kept | (simp only [kept_mk]; with_reducible apply upd_kept)
                 | split | exact id | dsimp only)

theorem armAs_kept {z0 : State} (s : State) (j : Job) (k rate : Nat) (hz : Kept z0 s) :
    Kept z0 (State.armAs s j k rate) := by
  unfold State.armAs
  repeat' (first | with_reducible assumption | decide | with_reducible apply ite_kept
                 | with_reducible apply w_kept | with_reducible apply setBatt_kept
                 | with_reducible apply post_kept | split | exact id | dsimp only)

theorem captureArm_kept {z0 : State} (s : State) (j : Job) (hz : Kept z0 s) : Kept z0 (State.captureArm s j) := by
  unfold State.captureArm
  repeat' (first | with_reducible assumption | decide | with_reducible apply ite_kept
                 | with_reducible apply finish_kept | with_reducible apply armAs_kept
                 | (simp only [kept_mk]; with_reducible apply upd_kept) | split | exact id | dsimp only)

theorem battComplete_kept {z0 : State} (s : State) (b : Nat) (hz : Kept z0 s) : Kept z0 (State.battComplete s b) := by
  unfold State.battComplete
  repeat' (first | with_reducible assumption | decide | with_reducible apply ite_kept
                 | with_reducible apply battEnd_kept | (simp only [kept_mk]; with_reducible apply upd_kept)
                 | split | exact id | dsimp only)

theorem trigPost_kept {z0 : State} (s : State) (b : Nat) (hz : Kept z0 s) :
    Kept z0 (State.trigPost s b) := by
  unfold State.trigPost
  repeat' (first | with_reducible assumption | decide | with_reducible apply post_kept
                 | (simp only [kept_mk]; with_reducible apply upd_kept) | split | exact id | dsimp only)

theorem addRec_kept {z0 : State} (s : State) (b : Nat) (r : Rec) (hz : Kept z0 s) : Kept z0 (State.addRec s b r) := by
  unfold State.addRec
  repeat' (first | with_reducible assumption | decide | with_reducible apply ite_kept
                 | with_reducible apply post_kept | with_reducible apply setBatt_kept
                 | with_reducible apply inc_kept | with_reducible apply w_kept
                 | (simp only [kept_mk]; with_reducible apply upd_kept) | split | exact id | dsimp only)

theorem unitTake_kept {z0 : State} (s : State) (b : Nat) (r : Rec) (full : Bool) (hz : Kept z0 s) :
    Kept z0 (State.unitTake s b r full) := by
  unfold State.unitTake
  repeat' (first | with_reducible assumption | decide | intro _ _ _ | intro _ _ | with_reducible apply ite_kept
                 | with_reducible apply setBatt_kept | with_reducible apply addRec_kept
                 | (simp only [kept_mk]; with_reducible apply upd_kept) | split | exact id | dsimp only)

theorem trigFixed_kept {z0 : State} (s : State) (b t : Nat) (hz : Kept z0 s) : Kept z0 (State.trigFixed s b t) := by
  unfold State.trigFixed
  repeat' (first | with_reducible assumption | decide | intro _ _ _ | intro _ _ | with_reducible apply ite_kept
                 | with_reducible apply each_kept | with_reducible apply setBatt_kept | with_reducible apply w_kept
                 | with_reducible apply each_kept | with_reducible apply unitTake_kept
                 | (simp only [kept_mk]; with_reducible apply upd_kept) | split | exact id | dsimp only)

theorem trigAct_kept {z0 : State} (s : State) (b time : Nat) (hz : Kept z0 s) : Kept z0 (State.trigAct s b time) := by
  unfold State.trigAct
  repeat' (first | with_reducible assumption | decide | intro _ _ _ | intro _ _ | with_reducible apply ite_kept
                 | with_reducible apply setBatt_kept | with_reducible apply battEnd_kept
                 | with_reducible apply w_kept | with_reducible apply trigPost_kept
                 | with_reducible apply trigFixed_kept | with_reducible apply battComplete_kept
                 | (simp only [kept_mk]; with_reducible apply upd_kept) | split | exact id | dsimp only)

theorem grant_kept {z0 : State} (s : State) (b time : Nat) (hz : Kept z0 s) : Kept z0 (State.grant s b time) := by
  unfold State.grant
  repeat' (first | with_reducible assumption | decide | with_reducible apply ite_kept
                 | with_reducible apply battEnd_kept | with_reducible apply w_kept
                 | with_reducible apply setBatt_kept | with_reducible apply trigAct_kept
                 | with_reducible apply inc_kept | with_reducible apply post_kept
                 | (simp only [kept_mk]; with_reducible apply upd_kept) | split | exact id | dsimp only)

theorem grantAll_kept {z0 : State} (s : State) (x1 : Nat) (x2 : List (Nat × Nat)) (hz : Kept z0 s) :
    Kept z0 (State.grantAll s x1 x2) := by
  induction x1 generalizing s x2 with
  | zero => exact hz
  | succ k ih =>
    cases x2 with
    | nil => exact hz
    | cons e l => exact ih _ _ (grant_kept _ _ _ hz)

theorem triggerTick_kept {z0 : State} (s : State) (hz : Kept z0 s) : Kept z0 (State.triggerTick s) := by
  unfold State.triggerTick
  repeat' (first | with_reducible assumption | decide | intro _ _ _ | with_reducible apply each_kept
                 | with_reducible apply trigAct_kept | with_reducible apply grantAll_kept
                 | with_reducible apply setBatt_kept | (simp only [kept_mk]; with_reducible apply upd_kept)
                 | exact id | dsimp only)

theorem unitWrite_kept {z0 : State} (s : State) (b : Nat) (r : Rec) (full : Bool) (hz : Kept z0 s) :
    Kept z0 (State.unitWrite s b r full) := by
  unfold State.unitWrite
  repeat' (first | with_reducible assumption | decide | with_reducible apply ite_kept
                 | with_reducible apply trigFixed_kept | with_reducible apply unitTake_kept
                 | with_reducible apply battComplete_kept | (simp only [kept_mk]; with_reducible apply upd_kept)
                 | split | exact id | dsimp only)

theorem captureAbort_kept {z0 : State} (s : State) (j : Job) (hz : Kept z0 s) : Kept z0 (State.captureAbort s j) := by
  unfold State.captureAbort
  repeat' (first | with_reducible assumption | decide | with_reducible apply ite_kept
                 | with_reducible apply finish_kept | with_reducible apply battEnd_kept
                 | with_reducible apply battRelease_kept | with_reducible apply await_kept
                 | with_reducible apply battFree_kept | split | exact id | dsimp only)

theorem captureRead_kept {z0 : State} (s : State) (j : Job) (hz : Kept z0 s) : Kept z0 (State.captureRead s j) := by
  unfold State.captureRead
  repeat' (first | with_reducible assumption | decide | with_reducible apply ite_kept
                 | with_reducible apply finish_kept | with_reducible apply await_kept
                 | (simp only [kept_mk]; with_reducible apply upd_kept) | split | exact id | dsimp only)

theorem captureReadDone_kept {z0 : State} (s : State) (k : Nat) (hz : Kept z0 s) :
    Kept z0 (State.captureReadDone s k) := by
  unfold State.captureReadDone
  repeat' (first | with_reducible assumption | decide | with_reducible apply ite_kept
                 | with_reducible apply granted_kept | with_reducible apply resolve_kept
                 | with_reducible apply battSettle_kept | (simp only [kept_mk]; with_reducible apply upd_kept)
                 | with_reducible apply writeBytes_ok | split | exact id | dsimp only)

theorem plankWait_kept {z0 : State} (s : State) (j : Job) (hz : Kept z0 s) : Kept z0 (State.plankWait s j) := by
  unfold State.plankWait
  repeat' (first | with_reducible assumption | decide | with_reducible apply ite_kept
                 | with_reducible apply await_kept | with_reducible apply jobRefused_kept
                 | (simp only [kept_mk]; with_reducible apply upd_kept) | split | exact id | dsimp only)

theorem plankCompress_kept {z0 : State} (s : State) (j : Job) (hz : Kept z0 s) :
    Kept z0 (State.plankCompress s j) := by
  unfold State.plankCompress
  repeat' (first | with_reducible assumption | decide | with_reducible apply ite_kept
                 | with_reducible apply jobRefused_kept | with_reducible apply plankWait_kept
                 | (simp only [kept_mk]; with_reducible apply upd_kept) | split | exact id | dsimp only)

theorem plankDecompress_kept {z0 : State} (s : State) (j : Job) (hz : Kept z0 s) :
    Kept z0 (State.plankDecompress s j) := by
  unfold State.plankDecompress
  repeat' (first | with_reducible assumption | decide | with_reducible apply ite_kept
                 | with_reducible apply plankWait_kept | with_reducible apply jobRefused_kept
                 | (simp only [kept_mk]; with_reducible apply upd_kept) | split | exact id | dsimp only)

theorem plankStart_kept {z0 : State} (s : State) (hz : Kept z0 s) : Kept z0 (State.plankStart s) := by
  unfold State.plankStart
  repeat' (first | with_reducible assumption | decide | with_reducible apply ite_kept
                 | with_reducible apply foldl_kept | intro _ _ _ | with_reducible apply w_kept
                 | (simp only [kept_mk]; with_reducible apply upd_kept) | with_reducible apply nvmErase_ok
                 | split | exact id | dsimp only)

theorem engineIdle_kept {z0 : State} (s : State) (e : Nat) (hz : Kept z0 s) : Kept z0 (State.engineIdle s e) := by
  unfold State.engineIdle
  repeat' (first | with_reducible assumption | decide | with_reducible apply w_kept
                 | (simp only [kept_mk]; with_reducible apply upd_kept) | exact id | dsimp only)

theorem plankWrite_kept {z0 : State} (s : State) (p : PlankJob) (at_ : Nat) (bs : List Nat) (hz : Kept z0 s) :
    Kept z0 (State.plankWrite s p at_ bs) := by
  unfold State.plankWrite
  repeat' (first | with_reducible assumption | decide | with_reducible apply ite_kept
                 | (simp only [kept_mk]; with_reducible apply upd_kept) | with_reducible apply writeBytes_ok
                 | split | exact id | dsimp only)

theorem plankSpoil_kept {z0 : State} (s : State) (p : PlankJob) (at_ n : Nat) (hz : Kept z0 s) :
    Kept z0 (State.plankSpoil s p at_ n) := by
  unfold State.plankSpoil
  repeat' (first | with_reducible assumption | decide | with_reducible apply plankWrite_kept | exact id
                 | dsimp only)

theorem plankFinish_kept {z0 : State} (s : State) (p : PlankJob) (st : Status) (r0 r1 sub : Nat) (hz : Kept z0 s) :
    Kept z0 (State.plankFinish s p st r0 r1 sub) := by
  unfold State.plankFinish
  repeat' (first | with_reducible assumption | decide | with_reducible apply ite_kept
                 | with_reducible apply finish_kept | split | exact id | dsimp only)

theorem plankCount_kept {z0 : State} (s : State) (used made : Nat) (hz : Kept z0 s) :
    Kept z0 (State.plankCount s used made) := by
  unfold State.plankCount
  repeat' (first | with_reducible assumption | decide | with_reducible apply inc_kept | exact id | dsimp only)

theorem plankVoid_kept {z0 : State} (s : State) (p : PlankJob) (hz : Kept z0 s) : Kept z0 (State.plankVoid s p) := by
  unfold State.plankVoid
  repeat' (first | with_reducible assumption | decide | with_reducible apply plankSpoil_kept
                 | with_reducible apply plankWrite_kept | exact id | dsimp only)

theorem plankFull_kept {z0 : State} (s : State) (p : PlankJob) (input : Nat) (hz : Kept z0 s) :
    Kept z0 (State.plankFull s p input) := by
  unfold State.plankFull
  repeat' (first | with_reducible assumption | decide | with_reducible apply plankVoid_kept
                 | with_reducible apply inc_kept | with_reducible apply plankCount_kept
                 | with_reducible apply plankFinish_kept | exact id | dsimp only)

theorem compressEnd_kept {z0 : State} (s : State) (p : PlankJob) (hz : Kept z0 s) :
    Kept z0 (State.compressEnd s p) := by
  unfold State.compressEnd
  repeat' (first | with_reducible assumption | decide | with_reducible apply ite_kept
                 | with_reducible apply plankFull_kept | with_reducible apply plankWrite_kept
                 | with_reducible apply plankCount_kept | with_reducible apply plankFinish_kept | split
                 | exact id | dsimp only)

theorem decompressEnd_kept {z0 : State} (s : State) (p : PlankJob) (hz : Kept z0 s) :
    Kept z0 (State.decompressEnd s p) := by
  unfold State.decompressEnd
  repeat' (first | with_reducible assumption | decide | with_reducible apply ite_kept
                 | with_reducible apply plankFull_kept | with_reducible apply plankWrite_kept
                 | with_reducible apply plankCount_kept | with_reducible apply plankFinish_kept
                 | with_reducible apply plankSpoil_kept | with_reducible apply inc_kept | split | exact id
                 | dsimp only)

theorem plankBatt_kept {z0 : State} (s : State) (p : PlankJob) (hz : Kept z0 s) : Kept z0 (State.plankBatt s p) := by
  unfold State.plankBatt
  repeat' (first | with_reducible assumption | decide | with_reducible apply ite_kept
                 | with_reducible apply battSettle_kept | split | exact id | dsimp only)

theorem plankEnd_kept {z0 : State} (s : State) (e : Nat) (hz : Kept z0 s) : Kept z0 (State.plankEnd s e) := by
  unfold State.plankEnd
  repeat' (first | with_reducible assumption | decide | with_reducible apply ite_kept
                 | with_reducible apply granted_kept | with_reducible apply compressEnd_kept
                 | with_reducible apply decompressEnd_kept | with_reducible apply engineIdle_kept
                 | with_reducible apply plankBatt_kept | (simp only [kept_mk]; with_reducible apply upd_kept)
                 | split | exact id | dsimp only)

theorem plankNone_kept {z0 : State} (s : State) (hz : Kept z0 s) : Kept z0 (State.plankNone s) := by
  unfold State.plankNone
  repeat' (first | with_reducible assumption | decide | intro _ _ _ | with_reducible apply ite_kept
                 | with_reducible apply each_kept | with_reducible apply plankFinish_kept
                 | with_reducible apply inc_kept | with_reducible apply plankBatt_kept
                 | (simp only [kept_mk]; with_reducible apply upd_kept) | split | exact id | dsimp only)

theorem engineFault_kept {z0 : State} (s : State) (e : Nat) (hz : Kept z0 s) : Kept z0 (State.engineFault s e) := by
  unfold State.engineFault
  repeat' (first | with_reducible assumption | decide | with_reducible apply ite_kept
                 | with_reducible apply plankFinish_kept | with_reducible apply inc_kept
                 | with_reducible apply engineIdle_kept | with_reducible apply plankBatt_kept
                 | with_reducible apply w_kept | with_reducible apply post_kept
                 | with_reducible apply plankNone_kept | (simp only [kept_mk]; with_reducible apply upd_kept)
                 | split | exact id | dsimp only)

theorem plankReadError_kept {z0 : State} (s : State) (ring idx : Nat) (hz : Kept z0 s) :
    Kept z0 (State.plankReadError s ring idx) := by
  unfold State.plankReadError
  repeat' (first | with_reducible assumption | decide | with_reducible apply ite_kept
                 | with_reducible apply plankVoid_kept | with_reducible apply plankCount_kept
                 | with_reducible apply engineIdle_kept | (simp only [kept_mk]; with_reducible apply upd_kept)
                 | split | exact id | dsimp only)

theorem refuseUp_kept {z0 : State} (s : State) (n : Nat) (st : Status) (hz : Kept z0 s) :
    Kept z0 (State.refuseUp s n st) := by
  unfold State.refuseUp
  repeat' (first | with_reducible assumption | decide | intro _ _ _ | with_reducible apply each_kept
                 | with_reducible apply resolve_kept | exact id | dsimp only)

theorem upStart_kept {z0 : State} (s : State) (n cause : Nat) (hz : Kept z0 s) :
    Kept z0 (State.upStart s n cause) := by
  unfold State.upStart
  repeat' (first | with_reducible assumption | decide | with_reducible apply ite_kept
                 | with_reducible apply raiseStart_kept | split | exact id | dsimp only)

theorem restoreRefused_kept {z0 : State} (s : State) (n : Nat) (hz : Kept z0 s) :
    Kept z0 (State.restoreRefused s n) := by
  unfold State.restoreRefused
  repeat' (first | with_reducible assumption | decide | intro _ _ _ | with_reducible apply each_kept
                 | with_reducible apply w_kept | with_reducible apply post_kept | exact id | dsimp only)

theorem restoreCheck_kept {z0 : State} (s : State) (n : Nat) (hz : Kept z0 s) : Kept z0 (State.restoreCheck s n) := by
  unfold State.restoreCheck
  repeat' (first | with_reducible assumption | decide | with_reducible apply ite_kept
                 | with_reducible apply restoreRefused_kept | with_reducible apply upStart_kept
                 | (simp only [kept_mk]; with_reducible apply upd_kept) | split | exact id | dsimp only)

theorem restoreAll_kept {z0 : State} (s : State) (l : List Nat) (hz : Kept z0 s) : Kept z0 (State.restoreAll s l) := by
  unfold State.restoreAll
  repeat' (first | with_reducible assumption | decide | intro _ _ _ | with_reducible apply each_kept
                 | with_reducible apply restoreCheck_kept | exact id | dsimp only)

theorem upRefused_kept {z0 : State} (s : State) (n : Nat) (st : Status) (hz : Kept z0 s) :
    Kept z0 (State.upRefused s n st) := by
  unfold State.upRefused
  repeat' (first | with_reducible assumption | decide | with_reducible apply ite_kept
                 | with_reducible apply refuseUp_kept | with_reducible apply restoreRefused_kept | split
                 | exact id | dsimp only)

theorem upGo_kept {z0 : State} (s : State) (n cause : Nat) (hz : Kept z0 s) : Kept z0 (State.upGo s n cause) := by
  unfold State.upGo
  repeat' (first | with_reducible assumption | decide | intro _ _ _ | with_reducible apply ite_kept
                 | with_reducible apply each_kept | with_reducible apply raiseDrop_kept
                 | with_reducible apply upRefused_kept | with_reducible apply marginsSettle_kept
                 | with_reducible apply w_kept | with_reducible apply leaveOff_kept
                 | (simp only [kept_mk]; with_reducible apply upd_kept) | split | exact id | dsimp only)

theorem laneEnable_kept {z0 : State} (s : State) (j : Job) (hz : Kept z0 s) : Kept z0 (State.laneEnable s j) := by
  unfold State.laneEnable
  repeat' (first | with_reducible assumption | decide | intro _ _ _ | with_reducible apply ite_kept
                 | with_reducible apply each_kept | with_reducible apply finish_kept
                 | with_reducible apply w_kept | with_reducible apply upStart_kept
                 | with_reducible apply await_kept | (simp only [kept_mk]; with_reducible apply upd_kept)
                 | split | exact id | dsimp only)

theorem cancelEnable_kept {z0 : State} (s : State) (n : Nat) (st : Status) (hz : Kept z0 s) :
    Kept z0 (State.cancelEnable s n st) := by
  unfold State.cancelEnable
  repeat' (first | with_reducible assumption | decide | intro _ _ _ | with_reducible apply ite_kept
                 | with_reducible apply each_kept | with_reducible apply w_kept
                 | with_reducible apply refuseUp_kept | split | exact id | dsimp only)

theorem disableLane_kept {z0 : State} (s : State) (n : Nat) (hz : Kept z0 s) : Kept z0 (State.disableLane s n) := by
  unfold State.disableLane
  repeat' (first | with_reducible assumption | decide | intro _ _ _ | with_reducible apply ite_kept
                 | with_reducible apply each_kept | with_reducible apply cancelEnable_kept
                 | with_reducible apply w_kept | with_reducible apply toDrain_kept | split | exact id
                 | dsimp only)

theorem laneDisable_kept {z0 : State} (s : State) (j : Job) (hz : Kept z0 s) : Kept z0 (State.laneDisable s j) := by
  unfold State.laneDisable
  repeat' (first | with_reducible assumption | decide | intro _ _ _ | with_reducible apply ite_kept
                 | with_reducible apply each_kept | with_reducible apply finish_kept
                 | with_reducible apply disableLane_kept | with_reducible apply await_kept | split | exact id
                 | dsimp only)

theorem shedLane_kept {z0 : State} (s : State) (n : Nat) (hz : Kept z0 s) : Kept z0 (State.shedLane s n) := by
  unfold State.shedLane
  repeat' (first | with_reducible assumption | decide | intro _ _ _ | with_reducible apply ite_kept
                 | with_reducible apply each_kept | with_reducible apply cancelEnable_kept
                 | with_reducible apply w_kept | with_reducible apply squelch_kept
                 | with_reducible apply toDrain_kept | split | exact id | dsimp only)

theorem unshedLane_kept {z0 : State} (s : State) (n : Nat) (hz : Kept z0 s) : Kept z0 (State.unshedLane s n) := by
  unfold State.unshedLane
  repeat' (first | with_reducible assumption | decide | intro _ _ _ | with_reducible apply each_kept
                 | with_reducible apply w_kept | with_reducible apply squelch_kept
                 | with_reducible apply restoreCheck_kept | exact id | dsimp only)

theorem drainDone_kept {z0 : State} (s : State) (n : Nat) (hz : Kept z0 s) : Kept z0 (State.drainDone s n) := by
  unfold State.drainDone
  repeat' (first | with_reducible assumption | decide | intro _ _ _ | with_reducible apply ite_kept
                 | with_reducible apply each_kept | with_reducible apply toOff_kept
                 | with_reducible apply marginsSettle_kept | with_reducible apply capStopped_kept
                 | with_reducible apply w_kept | with_reducible apply refuseUp_kept
                 | with_reducible apply upStart_kept | with_reducible apply restoreCheck_kept
                 | (simp only [kept_mk]; with_reducible apply upd_kept) | split | exact id | dsimp only)

theorem gbxOf_kept {z0 : State} (s : State) (m : Nat) (quiet : Bool) (hz : Kept z0 s) :
    Kept z0 (State.gbxOf s m quiet) := by
  unfold State.gbxOf
  repeat' (first | with_reducible assumption | decide | with_reducible apply ite_kept
                 | with_reducible apply gbxSettle_kept | split | exact id | dsimp only)

theorem alignShow_kept {z0 : State} (s : State) (m : Nat) (hz : Kept z0 s) :
    Kept z0 (State.alignShow s m) := by
  unfold State.alignShow
  repeat' (first | with_reducible assumption | decide | with_reducible apply wb_kept
                 | (simp only [kept_mk]; with_reducible apply upd_kept) | split | exact id | dsimp only)

theorem setMode_kept {z0 : State} (s : State) (n v : Nat) (hz : Kept z0 s) : Kept z0 (State.setMode s n v) := by
  unfold State.setMode
  repeat' (first | with_reducible assumption | decide | intro _ _ _ | intro _ _ | with_reducible apply ite_kept
                 | with_reducible apply each_kept | with_reducible apply w_kept | with_reducible apply hostsDown_kept
                 | with_reducible apply each_kept | with_reducible apply alignShow_kept
                 | with_reducible apply gbxSettle_kept | with_reducible apply capModeChanged_kept
                 | (simp only [kept_mk]; with_reducible apply upd_kept) | split | exact id | dsimp only)

theorem prbsSettle_kept {z0 : State} (s : State) (m : Nat) (hz : Kept z0 s) : Kept z0 (State.prbsSettle s m) := by
  unfold State.prbsSettle
  repeat' (first | with_reducible assumption | decide | with_reducible apply w_kept
                 | with_reducible apply setHost_kept | with_reducible apply hostSettle_kept
                 | with_reducible apply gbxOf_kept | (simp only [kept_mk]; with_reducible apply upd_kept)
                 | exact id | dsimp only)

theorem laneConfigItem_kept {z0 : State} (s : State) (j : Job) (n : Nat) (hz : Kept z0 s) :
    Kept z0 (State.laneConfigItem s j n) := by
  unfold State.laneConfigItem
  repeat' (first | with_reducible assumption | decide | intro _ _ _ | with_reducible apply ite_kept
                 | with_reducible apply each_kept | with_reducible apply setMode_kept
                 | with_reducible apply w_kept | with_reducible apply loadWord_kept
                 | with_reducible apply prbsSettle_kept | (simp only [kept_mk]; with_reducible apply upd_kept)
                 | split | exact id | dsimp only)

theorem laneConfig_kept {z0 : State} (s : State) (j : Job) (hz : Kept z0 s) : Kept z0 (State.laneConfig s j) := by
  unfold State.laneConfig
  repeat' (first | with_reducible assumption | decide | intro _ _ _ | with_reducible apply ite_kept
                 | with_reducible apply each_kept | with_reducible apply finish_kept
                 | with_reducible apply laneConfigItem_kept | split | exact id | dsimp only)

theorem laneLoopback_kept {z0 : State} (s : State) (j : Job) (hz : Kept z0 s) : Kept z0 (State.laneLoopback s j) := by
  unfold State.laneLoopback
  repeat' (first | with_reducible assumption | decide | intro _ _ _ | with_reducible apply ite_kept
                 | with_reducible apply each_kept | with_reducible apply finish_kept
                 | with_reducible apply w_kept | split | exact id | dsimp only)

theorem mapSet_kept {z0 : State} (s : State) (e : Nat × Nat × Nat) (hz : Kept z0 s) : Kept z0 (State.mapSet s e) := by
  unfold State.mapSet
  repeat' (first | with_reducible assumption | decide | with_reducible apply ite_kept
                 | with_reducible apply w_kept | split | exact id | dsimp only)

theorem ownerSettle_kept {z0 : State} (s : State) (m : Nat) (hz : Kept z0 s) : Kept z0 (State.ownerSettle s m) := by
  unfold State.ownerSettle
  repeat' (first | with_reducible assumption | decide | intro _ _ _ | intro _ _ | with_reducible apply ite_kept
                 | with_reducible apply w_kept | with_reducible apply alignShow_kept
                 | with_reducible apply hostSettle_kept | (simp only [kept_mk]; with_reducible apply upd_kept)
                 | split | exact id | dsimp only)

theorem rerouted_kept {z0 : State} (s : State) (hz : Kept z0 s) :
    Kept z0 (State.rerouted s) := by
  unfold State.rerouted
  repeat' (first | with_reducible assumption | decide | intro _ _ _ | intro _ _ | with_reducible apply each_kept
                 | with_reducible apply markDelayed_kept | with_reducible apply each_kept
                 | with_reducible apply endEpisode_kept | (simp only [kept_mk]; with_reducible apply upd_kept)
                 | split | exact id | dsimp only)

theorem mapSettle_kept {z0 : State} (s : State) (lanes hosts : List Nat) (hz : Kept z0 s) :
    Kept z0 (State.mapSettle s lanes hosts) := by
  unfold State.mapSettle
  repeat' (first | with_reducible assumption | decide | intro _ _ _ | intro _ _ | with_reducible apply each_kept
                 | with_reducible apply markDelayed_kept | with_reducible apply each_kept
                 | with_reducible apply ownerSettle_kept | with_reducible apply gbxSettle_kept
                 | with_reducible apply rerouted_kept | (simp only [kept_mk]; with_reducible apply upd_kept) | split
                 | exact id | dsimp only)

theorem laneMap_kept {z0 : State} (s : State) (j : Job) (hz : Kept z0 s) : Kept z0 (State.laneMap s j) := by
  unfold State.laneMap
  repeat' (first | with_reducible assumption | decide | intro _ _ _ | with_reducible apply ite_kept
                 | with_reducible apply each_kept | with_reducible apply finish_kept
                 | with_reducible apply mapSet_kept | with_reducible apply mapSettle_kept | split | exact id
                 | dsimp only)

theorem oddFields_ne : ∀ f ∈ State.oddFields, f.id ≠ F.SYS_STATE_STATE.id := by decide

theorem rxBlank_kept {z0 : State} (s : State) (m : Nat) (hz : Kept z0 s) : Kept z0 (State.rxBlank s m) := by
  unfold State.rxBlank
  have h : Kept z0 (State.each s State.oddFields fun s f => s.w f m f.rst) :=
    foldl_mem_kept _ (fun s f hm hs => w_kept _ _ _ _ hs (oddFields_ne f hm)) s hz
  dsimp only
  generalize State.each s State.oddFields _ = t at h ⊢
  repeat' (first | with_reducible assumption | decide | intro _ _ _ | with_reducible apply each_kept
                 | with_reducible apply w_kept | with_reducible apply setEq_kept
                 | with_reducible apply setFec_kept | exact id | dsimp only)

theorem pairForm_kept {z0 : State} (s : State) (n : Nat) (hz : Kept z0 s) : Kept z0 (State.pairForm s n) := by
  unfold State.pairForm
  repeat' (first | with_reducible assumption | decide | with_reducible apply ite_kept
                 | with_reducible apply w_kept | with_reducible apply rxBlank_kept
                 | with_reducible apply setMode_kept | with_reducible apply capModeChanged_kept | split
                 | exact id | dsimp only)

theorem pairBreak_kept {z0 : State} (s : State) (n : Nat) (hz : Kept z0 s) : Kept z0 (State.pairBreak s n) := by
  unfold State.pairBreak
  repeat' (first | with_reducible assumption | decide | with_reducible apply ite_kept
                 | with_reducible apply w_kept | with_reducible apply setMode_kept | split | exact id
                 | dsimp only)

theorem lanePair_kept {z0 : State} (s : State) (j : Job) (hz : Kept z0 s) : Kept z0 (State.lanePair s j) := by
  unfold State.lanePair
  repeat' (first | with_reducible assumption | decide | intro _ _ _ | with_reducible apply ite_kept
                 | with_reducible apply each_kept | with_reducible apply finish_kept
                 | with_reducible apply pairForm_kept | with_reducible apply pairBreak_kept | split | exact id
                 | dsimp only)

theorem payloadStart_kept {z0 : State} (s : State) (n : Nat) (hz : Kept z0 s) : Kept z0 (State.payloadStart s n) := by
  unfold State.payloadStart
  repeat' (first | with_reducible assumption | decide | with_reducible apply ite_kept
                 | with_reducible apply setLaneh_kept | with_reducible apply w_kept
                 | with_reducible apply post_kept | (simp only [kept_mk]; with_reducible apply upd_kept) | split
                 | exact id | dsimp only)

theorem graceExpiry_kept {z0 : State} (s : State) (n : Nat) (hz : Kept z0 s) : Kept z0 (State.graceExpiry s n) := by
  unfold State.graceExpiry
  repeat' (first | with_reducible assumption | decide | with_reducible apply ite_kept
                 | with_reducible apply toAcquire_kept | split | exact id | dsimp only)

theorem alignTest_kept {z0 : State} (s : State) (m : Nat) (good : Bool) (start : Int) (hz : Kept z0 s) :
    Kept z0 (State.alignTest s m good start) := by
  unfold State.alignTest
  repeat' (first | with_reducible assumption | decide | with_reducible apply ite_kept
                 | with_reducible apply setHost_kept | with_reducible apply gbxOf_kept
                 | with_reducible apply alignRestart_kept | with_reducible apply w_kept
                 | (simp only [kept_mk]; with_reducible apply upd_kept) | split | exact id | dsimp only)

theorem cdrLock_kept {z0 : State} (s : State) (m : Nat) (hz : Kept z0 s) : Kept z0 (State.cdrLock s m) := by
  unfold State.cdrLock
  repeat' (first | with_reducible assumption | decide | with_reducible apply ite_kept
                 | with_reducible apply w_kept | with_reducible apply gbxOf_kept | split | exact id | dsimp only)

theorem cdrLost_kept {z0 : State} (s : State) (m : Nat) (sig : Bool) (hz : Kept z0 s) :
    Kept z0 (State.cdrLost s m sig) := by
  unfold State.cdrLost
  repeat' (first | with_reducible assumption | decide | with_reducible apply ite_kept
                 | with_reducible apply w_kept | with_reducible apply wb_kept
                 | with_reducible apply setHost_kept | with_reducible apply post_kept
                 | with_reducible apply gbxOf_kept | (simp only [kept_mk]; with_reducible apply upd_kept)
                 | split | exact id | dsimp only)

theorem prbsSymbol_kept {z0 : State} (m : Nat) (s : State) (err : Bool) (hz : Kept z0 s) :
    Kept z0 (State.prbsSymbol m s err) := by
  unfold State.prbsSymbol
  repeat' (first | with_reducible assumption | decide | with_reducible apply ite_kept
                 | with_reducible apply inc_kept | with_reducible apply w_kept
                 | with_reducible apply setHost_kept | (simp only [kept_mk]; with_reducible apply upd_kept)
                 | split | exact id | dsimp only)

theorem prbsCheck_kept {z0 : State} (s : State) (m : Nat) (errs : List Bool) (hz : Kept z0 s) :
    Kept z0 (State.prbsCheck s m errs) := by
  unfold State.prbsCheck
  repeat' (first | with_reducible assumption | decide | with_reducible apply ite_kept
                 | with_reducible apply foldl_kept | intro _ _ _ | with_reducible apply prbsSymbol_kept | split
                 | exact id | dsimp only)

theorem loopSlip_kept {z0 : State} (s : State) (n : Nat) (again : Bool) (hz : Kept z0 s) :
    Kept z0 (State.loopSlip s n again) := by
  unfold State.loopSlip
  repeat' (first | with_reducible assumption | decide | with_reducible apply ite_kept
                 | with_reducible apply loopBuffer_kept | with_reducible apply inc_kept
                 | with_reducible apply post_kept | split | exact id | dsimp only)

end Sys2Proof.Machine
end

