-- ==== Sys2Proof/Laws/KeptHatband.lean ====
section
/-! SUPPORT. Operations of Machine/Hatband, House, Slots, Thermal, Serial keep the queue, the clock, canonical memories and a
legal device state (`Kept`). -/

namespace Sys2Proof.Machine

open Sys2Proof

theorem setConv_kept {z0 : State} (s : State) (c : Nat) (h : ConvH) (hz : Kept z0 s) :
    Kept z0 (State.setConv s c h) := by
  unfold State.setConv
  repeat' (first | with_reducible assumption | decide | (simp only [kept_mk]; with_reducible apply upd_kept)
                 | exact id | dsimp only)

theorem settle_kept {z0 : State} (s : State) (p n : Nat) (hz : Kept z0 s) : Kept z0 (State.settle s p n) := by
  unfold State.settle
  repeat' (first | with_reducible assumption | decide | with_reducible apply w_kept | exact id | dsimp only)

theorem enqueue_kept {z0 : State} (s : State) (c e : Nat) (hz : Kept z0 s) : Kept z0 (State.enqueue s c e) := by
  unfold State.enqueue
  repeat' (first | with_reducible assumption | decide | with_reducible apply ite_kept
                 | with_reducible apply setConv_kept | with_reducible apply inc_kept
                 | with_reducible apply w_kept | with_reducible apply post_kept
                 | (simp only [kept_mk]; with_reducible apply upd_kept) | split | exact id | dsimp only)

theorem dequeue_kept {z0 : State} (s : State) (c : Nat) (hz : Kept z0 s) : Kept z0 (State.dequeue s c).2 := by
  unfold State.dequeue
  repeat' (first | with_reducible assumption | decide | with_reducible apply ite_kept
                 | with_reducible apply setConv_kept | (simp only [kept_mk]; with_reducible apply upd_kept)
                 | split | exact id | dsimp only)

theorem visitStart_kept {z0 : State} (s : State) (c p : Nat) (u : Option Urgent) (hz : Kept z0 s) :
    Kept z0 (State.visitStart s c p u) := by
  unfold State.visitStart
  repeat' (first | with_reducible assumption | decide | with_reducible apply setConv_kept
                 | with_reducible apply visit_kept | with_reducible apply wb_kept
                 | (simp only [kept_mk]; with_reducible apply upd_kept) | exact id | dsimp only)

theorem calNext_kept {z0 : State} (s : State) (c : Nat) (k : SelfCal) (x3 : Nat) (hz : Kept z0 s) :
    Kept z0 (State.calNext s c k x3).2 := by
  induction x3 generalizing s k with
  | zero => exact hz
  | succ n ih =>
    unfold State.calNext
    split
    · exact ih _ _ (w_kept _ _ _ _ hz (by decide))
    · exact hz

theorem calDone_kept {z0 : State} (s : State) (c : Nat) (k : SelfCal) (hz : Kept z0 s) :
    Kept z0 (State.calDone s c k) := by
  unfold State.calDone
  repeat' (first | with_reducible assumption | decide | with_reducible apply ite_kept
                 | with_reducible apply setConv_kept | with_reducible apply w_kept
                 | with_reducible apply post_kept | with_reducible apply resolve_kept
                 | (simp only [kept_mk]; with_reducible apply upd_kept) | split | exact id | dsimp only)

theorem convNext_kept {z0 : State} (s : State) (c : Nat) (hz : Kept z0 s) : Kept z0 (State.convNext s c) := by
  unfold State.convNext
  repeat' (first | with_reducible assumption | decide | with_reducible apply ite_kept
                 | with_reducible apply visit_kept | with_reducible apply setConv_kept
                 | with_reducible apply visitStart_kept | with_reducible apply calNext_kept
                 | with_reducible apply calDone_kept | (simp only [kept_mk]; with_reducible apply upd_kept)
                 | split | exact id | dsimp only)

theorem stepNext_kept {z0 : State} (s : State) (c : Nat) (hz : Kept z0 s) : Kept z0 (State.stepNext s c) := by
  unfold State.stepNext
  repeat' (first | with_reducible assumption | decide | with_reducible apply ite_kept
                 | with_reducible apply setConv_kept | with_reducible apply w_kept
                 | (simp only [kept_mk]; with_reducible apply upd_kept) | split | exact id | dsimp only)

theorem scanAdvance_kept {z0 : State} (s : State) (c : Nat) (hz : Kept z0 s) : Kept z0 (State.scanAdvance s c) := by
  unfold State.scanAdvance
  repeat' (first | with_reducible assumption | decide | with_reducible apply ite_kept
                 | with_reducible apply setConv_kept | with_reducible apply stepNext_kept
                 | with_reducible apply convNext_kept | (simp only [kept_mk]; with_reducible apply upd_kept)
                 | split | exact id | dsimp only)

theorem autorange_kept {z0 : State} (s : State) (p : Nat) (v : Visit) (hz : Kept z0 s) :
    Kept z0 (State.autorange s p v) := by
  unfold State.autorange
  repeat' (first | with_reducible assumption | decide | with_reducible apply ite_kept
                 | with_reducible apply w_kept | with_reducible apply settle_kept | split | exact id
                 | dsimp only)

theorem ptEffects_kept {z0 : State} (s : State) (p old new : Nat) (hz : Kept z0 s) :
    Kept z0 (State.ptEffects s p old new) := by
  unfold State.ptEffects
  repeat' (first | with_reducible assumption | decide | with_reducible apply ite_kept
                 | with_reducible apply settle_kept | with_reducible apply w_kept | split | exact id
                 | dsimp only)

theorem visitEnd_kept {z0 : State} (s : State) (c : Nat) (v : Visit) (open_ : Bool) (hz : Kept z0 s) :
    Kept z0 (State.visitEnd s c v open_) := by
  unfold State.visitEnd
  repeat' (first | with_reducible assumption | decide | with_reducible apply ite_kept
                 | with_reducible apply setConv_kept | with_reducible apply visit_kept
                 | with_reducible apply w_kept | with_reducible apply wb_kept | with_reducible apply inc_kept
                 | with_reducible apply post_kept | with_reducible apply autorange_kept
                 | with_reducible apply ptEffects_kept | with_reducible apply enqueue_kept
                 | with_reducible apply finish_kept | with_reducible apply convNext_kept
                 | with_reducible apply scanAdvance_kept | (simp only [kept_mk]; with_reducible apply upd_kept)
                 | split | exact id | dsimp only)

theorem convEnds_kept {z0 : State} (s : State) (c : Nat) (raw : Int) (hz : Kept z0 s) :
    Kept z0 (State.convEnds s c raw) := by
  unfold State.convEnds
  repeat' (first | with_reducible assumption | decide | with_reducible apply ite_kept
                 | with_reducible apply visit_kept | with_reducible apply setConv_kept
                 | with_reducible apply visitEnd_kept | with_reducible apply w_kept
                 | (simp only [kept_mk]; with_reducible apply upd_kept) | split | exact id | dsimp only)

theorem busGrant_kept {z0 : State} (s : State) (hz : Kept z0 s) : Kept z0 (State.busGrant s) := by
  unfold State.busGrant
  repeat' (first | with_reducible assumption | decide | with_reducible apply ite_kept
                 | with_reducible apply visit_kept | with_reducible apply setConv_kept
                 | with_reducible apply w_kept | (simp only [kept_mk]; with_reducible apply upd_kept) | split
                 | exact id | dsimp only)

theorem trigMiss_kept {z0 : State} (s : State) (c : Nat) (hz : Kept z0 s) : Kept z0 (State.trigMiss s c) := by
  unfold State.trigMiss
  repeat' (first | with_reducible assumption | decide | with_reducible apply inc_kept
                 | with_reducible apply w_kept | with_reducible apply post_kept | exact id | dsimp only)

theorem cycleStart_kept {z0 : State} (s : State) (c : Nat) (hz : Kept z0 s) : Kept z0 (State.cycleStart s c) := by
  unfold State.cycleStart
  repeat' (first | with_reducible assumption | decide | with_reducible apply setConv_kept
                 | with_reducible apply w_kept | (simp only [kept_mk]; with_reducible apply upd_kept) | exact id
                 | dsimp only)

theorem hbTrigger_kept {z0 : State} (s : State) (c : Nat) (hz : Kept z0 s) : Kept z0 (State.hbTrigger s c) := by
  unfold State.hbTrigger
  repeat' (first | with_reducible assumption | decide | with_reducible apply ite_kept
                 | with_reducible apply trigMiss_kept | with_reducible apply cycleStart_kept
                 | with_reducible apply convNext_kept | with_reducible apply setConv_kept
                 | (simp only [kept_mk]; with_reducible apply upd_kept) | split | exact id | dsimp only)

theorem hbPwmEdge_kept {z0 : State} (s : State) (p : Nat) (rising : Bool) (hz : Kept z0 s) :
    Kept z0 (State.hbPwmEdge s p rising) := by
  unfold State.hbPwmEdge
  repeat' (first | with_reducible assumption | decide | intro _ _ _ | with_reducible apply ite_kept
                 | with_reducible apply each_kept | with_reducible apply trigMiss_kept
                 | with_reducible apply setConv_kept | (simp only [kept_mk]; with_reducible apply upd_kept)
                 | split | exact id | dsimp only)

theorem hbChain_kept {z0 : State} (s : State) (hz : Kept z0 s) : Kept z0 (State.hbChain s) := by
  unfold State.hbChain
  repeat' (first | with_reducible assumption | decide | intro _ _ _ | with_reducible apply ite_kept
                 | with_reducible apply each_kept | with_reducible apply hbTrigger_kept | split | exact id
                 | dsimp only)

theorem flushQueue_kept {z0 : State} (s : State) (c : Nat) (hz : Kept z0 s) : Kept z0 (State.flushQueue s c) := by
  unfold State.flushQueue
  repeat' (first | with_reducible assumption | decide | with_reducible apply setConv_kept
                 | (simp only [kept_mk]; with_reducible apply upd_kept) | exact id | dsimp only)

theorem convRun_kept {z0 : State} (s : State) (c : Nat) (hz : Kept z0 s) : Kept z0 (State.convRun s c) := by
  unfold State.convRun
  repeat' (first | with_reducible assumption | decide | with_reducible apply w_kept
                 | with_reducible apply setConv_kept | with_reducible apply resolve_kept
                 | (simp only [kept_mk]; with_reducible apply upd_kept) | exact id | dsimp only)

theorem startTrigger_kept {z0 : State} (s : State) (c : Nat) (hz : Kept z0 s) : Kept z0 (State.startTrigger s c) := by
  unfold State.startTrigger
  repeat' (first | with_reducible assumption | decide | with_reducible apply ite_kept
                 | with_reducible apply hbTrigger_kept | split | exact id | dsimp only)

theorem startOne_kept {z0 : State} (s : State) (flush : Bool) (c : Nat) (hz : Kept z0 s) :
    Kept z0 (State.startOne s flush c) := by
  unfold State.startOne
  repeat' (first | with_reducible assumption | decide | with_reducible apply ite_kept
                 | with_reducible apply flushQueue_kept | with_reducible apply convRun_kept
                 | with_reducible apply w_kept | with_reducible apply setConv_kept
                 | (simp only [kept_mk]; with_reducible apply upd_kept) | split | exact id | dsimp only)

theorem hbStart_kept {z0 : State} (s : State) (j : Job) (hz : Kept z0 s) : Kept z0 (State.hbStart s j) := by
  unfold State.hbStart
  repeat' (first | with_reducible assumption | decide | intro _ _ _ | with_reducible apply ite_kept
                 | with_reducible apply each_kept | with_reducible apply finish_kept
                 | with_reducible apply w_kept | with_reducible apply startOne_kept
                 | with_reducible apply startTrigger_kept | with_reducible apply hbTrigger_kept
                 | with_reducible apply await_kept | split | exact id | dsimp only)

theorem dropVisit_kept {z0 : State} (s : State) (c : Nat) (hz : Kept z0 s) : Kept z0 (State.dropVisit s c) := by
  unfold State.dropVisit
  repeat' (first | with_reducible assumption | decide | with_reducible apply ite_kept
                 | with_reducible apply visit_kept | with_reducible apply setConv_kept
                 | with_reducible apply w_kept | with_reducible apply ptEffects_kept
                 | (simp only [kept_mk]; with_reducible apply upd_kept) | split | exact id | dsimp only)

theorem hbConversion_kept {z0 : State} (s : State) (c : Nat) (raw : Int) (hz : Kept z0 s) :
    Kept z0 (State.hbConversion s c raw) := by
  unfold State.hbConversion
  repeat' (first | with_reducible assumption | decide | intro _ _ _ | intro _ _ | with_reducible apply ite_kept
                 | with_reducible apply convEnds_kept | with_reducible apply visit_kept
                 | with_reducible apply dropVisit_kept | (simp only [kept_mk]; with_reducible apply upd_kept) | split
                 | exact id | dsimp only)

theorem convStopping_kept {z0 : State} (s : State) (c : Nat) (hz : Kept z0 s) : Kept z0 (State.convStopping s c) := by
  unfold State.convStopping
  repeat' (first | with_reducible assumption | decide | with_reducible apply ite_kept
                 | with_reducible apply visit_kept | with_reducible apply dropVisit_kept
                 | with_reducible apply w_kept | with_reducible apply setConv_kept
                 | (simp only [kept_mk]; with_reducible apply upd_kept) | split | exact id | dsimp only)

theorem stopOne_kept {z0 : State} (s : State) (c : Nat) (hz : Kept z0 s) : Kept z0 (State.stopOne s c) := by
  unfold State.stopOne
  repeat' (first | with_reducible assumption | decide | with_reducible apply ite_kept
                 | with_reducible apply convStopping_kept | with_reducible apply w_kept
                 | with_reducible apply setConv_kept | with_reducible apply abortWaiters_kept
                 | (simp only [kept_mk]; with_reducible apply upd_kept) | split | exact id | dsimp only)

theorem hbStop_kept {z0 : State} (s : State) (j : Job) (hz : Kept z0 s) : Kept z0 (State.hbStop s j) := by
  unfold State.hbStop
  repeat' (first | with_reducible assumption | decide | intro _ _ _ | with_reducible apply ite_kept
                 | with_reducible apply each_kept | with_reducible apply finish_kept
                 | with_reducible apply stopOne_kept | with_reducible apply await_kept | split | exact id
                 | dsimp only)

theorem hbStopped_kept {z0 : State} (s : State) (c : Nat) (hz : Kept z0 s) : Kept z0 (State.hbStopped s c) := by
  unfold State.hbStopped
  repeat' (first | with_reducible assumption | decide | with_reducible apply ite_kept
                 | with_reducible apply dropVisit_kept | with_reducible apply w_kept
                 | with_reducible apply setConv_kept | with_reducible apply post_kept
                 | with_reducible apply resolve_kept | with_reducible apply flushQueue_kept
                 | with_reducible apply convRun_kept | with_reducible apply startTrigger_kept
                 | with_reducible apply convNext_kept | (simp only [kept_mk]; with_reducible apply upd_kept) | split
                 | exact id | dsimp only)

theorem urgentDrop_kept {z0 : State} (s : State) (c : Nat) (u : Urgent) (hz : Kept z0 s) :
    Kept z0 (State.urgentDrop s c u) := by
  unfold State.urgentDrop
  repeat' (first | with_reducible assumption | decide | with_reducible apply inc_kept
                 | with_reducible apply w_kept | with_reducible apply post_kept
                 | with_reducible apply finish_kept | exact id | dsimp only)

theorem abortScan_kept {z0 : State} (s : State) (c : Nat) (hz : Kept z0 s) :
    Kept z0 (State.abortScan s c) := by
  unfold State.abortScan
  repeat' (first | with_reducible assumption | decide | intro _ _ _ | intro _ _ | with_reducible apply ite_kept
                 | with_reducible apply visit_kept | with_reducible apply dropVisit_kept
                 | with_reducible apply inc_kept | with_reducible apply setConv_kept
                 | (simp only [kept_mk]; with_reducible apply upd_kept) | split | exact id | dsimp only)

theorem abortHand_kept {z0 : State} (s : State) (c : Nat) (hz : Kept z0 s) : Kept z0 (State.abortHand s c) := by
  unfold State.abortHand
  repeat' (first | with_reducible assumption | decide | intro _ _ _ | intro _ _ | with_reducible apply ite_kept
                 | with_reducible apply setConv_kept | with_reducible apply inc_kept
                 | with_reducible apply abortScan_kept | (simp only [kept_mk]; with_reducible apply upd_kept) | split
                 | exact id | dsimp only)

theorem urgentCome_kept {z0 : State} (s : State) (c : Nat) (u : Urgent) (hz : Kept z0 s) :
    Kept z0 (State.urgentCome s c u) := by
  unfold State.urgentCome
  repeat' (first | with_reducible assumption | decide | with_reducible apply ite_kept
                 | with_reducible apply setConv_kept | with_reducible apply urgentDrop_kept
                 | with_reducible apply abortHand_kept | with_reducible apply convNext_kept
                 | (simp only [kept_mk]; with_reducible apply upd_kept) | split | exact id | dsimp only)

theorem hbUrgent_kept {z0 : State} (s : State) (j : Job) (hz : Kept z0 s) : Kept z0 (State.hbUrgent s j) := by
  unfold State.hbUrgent
  repeat' (first | with_reducible assumption | decide | intro _ _ _ | with_reducible apply ite_kept
                 | with_reducible apply finish_kept | with_reducible apply await_kept
                 | with_reducible apply urgentCome_kept | split | exact id | dsimp only)

theorem calStart_kept {z0 : State} (s : State) (c : Nat) (hz : Kept z0 s) : Kept z0 (State.calStart s c) := by
  unfold State.calStart
  repeat' (first | with_reducible assumption | decide | with_reducible apply ite_kept
                 | with_reducible apply setConv_kept | with_reducible apply w_kept
                 | with_reducible apply convNext_kept | (simp only [kept_mk]; with_reducible apply upd_kept)
                 | split | exact id | dsimp only)

theorem hbSelfcal_kept {z0 : State} (s : State) (j : Job) (hz : Kept z0 s) : Kept z0 (State.hbSelfcal s j) := by
  unfold State.hbSelfcal
  repeat' (first | with_reducible assumption | decide | intro _ _ _ | with_reducible apply ite_kept
                 | with_reducible apply each_kept | with_reducible apply finish_kept
                 | with_reducible apply await_kept | with_reducible apply calStart_kept | split | exact id
                 | dsimp only)

theorem calStepOver_kept {z0 : State} (s : State) (c : Nat) (k : SelfCal) (hz : Kept z0 s) :
    Kept z0 (State.calStepOver s c k) := by
  unfold State.calStepOver
  repeat' (first | with_reducible assumption | decide | with_reducible apply setConv_kept
                 | with_reducible apply convNext_kept | (simp only [kept_mk]; with_reducible apply upd_kept)
                 | exact id | dsimp only)

theorem calGood_kept {z0 : State} (s : State) (c : Nat) (k : SelfCal) (v : Int) (hz : Kept z0 s) :
    Kept z0 (State.calGood s c k v) := by
  unfold State.calGood
  repeat' (first | with_reducible assumption | decide | with_reducible apply ite_kept
                 | with_reducible exact calFactor_ne _ _ | with_reducible exact calKeptFld_ne _
                 | with_reducible apply wi_kept | with_reducible apply w_kept
                 | with_reducible apply calStepOver_kept | split | exact id | dsimp only)

theorem calBad_kept {z0 : State} (s : State) (c : Nat) (k : SelfCal) (hz : Kept z0 s) :
    Kept z0 (State.calBad s c k) := by
  unfold State.calBad
  repeat' (first | with_reducible assumption | decide | with_reducible apply ite_kept
                 | with_reducible exact calKeptFld_ne _ | with_reducible apply setConv_kept
                 | with_reducible apply convNext_kept | with_reducible apply w_kept
                 | with_reducible apply calStepOver_kept | (simp only [kept_mk]; with_reducible apply upd_kept)
                 | split | exact id | dsimp only)

theorem calStep_kept {z0 : State} (s : State) (c : Nat) (m1 m2 : Int) (hz : Kept z0 s) :
    Kept z0 (State.calStep s c m1 m2) := by
  unfold State.calStep
  repeat' (first | with_reducible assumption | decide | with_reducible apply ite_kept
                 | with_reducible apply calGood_kept | with_reducible apply calBad_kept
                 | (simp only [kept_mk]; with_reducible apply upd_kept) | split | exact id | dsimp only)

theorem excLevel_kept {z0 : State} (s : State) (hz : Kept z0 s) : Kept z0 (State.excLevel s) := by
  unfold State.excLevel
  repeat' (first | with_reducible assumption | decide | with_reducible apply ite_kept
                 | with_reducible apply w_kept | split | exact id | dsimp only)

theorem excResolve_kept {z0 : State} (s : State) (k : Nat) (hz : Kept z0 s) : Kept z0 (State.excResolve s k) := by
  unfold State.excResolve
  repeat' (first | with_reducible assumption | decide | intro _ _ _ | intro _ _ | with_reducible apply ite_kept
                 | with_reducible apply each_kept | with_reducible apply each_kept
                 | with_reducible apply resolve_kept | (simp only [kept_mk]; with_reducible apply upd_kept) | split
                 | exact id | dsimp only)

theorem excCheck_kept {z0 : State} (s : State) (k mv : Nat) (limit : Bool) (hz : Kept z0 s) :
    Kept z0 (State.excCheck s k mv limit) := by
  unfold State.excCheck
  repeat' (first | with_reducible assumption | decide | with_reducible apply ite_kept
                 | with_reducible apply w_kept | with_reducible apply post_kept
                 | with_reducible apply excLevel_kept | with_reducible apply excResolve_kept
                 | (simp only [kept_mk]; with_reducible apply upd_kept) | split | exact id | dsimp only)

theorem excSettle_kept {z0 : State} (s : State) (k : Nat) (hz : Kept z0 s) : Kept z0 (State.excSettle s k) := by
  unfold State.excSettle
  repeat' (first | with_reducible assumption | decide | intro _ _ _ | with_reducible apply each_kept
                 | with_reducible apply settle_kept | exact id | dsimp only)

theorem exciteOne_kept {z0 : State} (s : State) (j : Job) (k : Nat) (hz : Kept z0 s) :
    Kept z0 (State.exciteOne s j k) := by
  unfold State.exciteOne
  repeat' (first | with_reducible assumption | decide | with_reducible apply ite_kept
                 | with_reducible apply w_kept | with_reducible apply excSettle_kept
                 | (simp only [kept_mk]; with_reducible apply upd_kept) | split | exact id | dsimp only)

theorem hbExcite_kept {z0 : State} (s : State) (j : Job) (hz : Kept z0 s) : Kept z0 (State.hbExcite s j) := by
  unfold State.hbExcite
  repeat' (first | with_reducible assumption | decide | intro _ _ _ | with_reducible apply ite_kept
                 | with_reducible apply each_kept | with_reducible apply finish_kept
                 | with_reducible apply exciteOne_kept | with_reducible apply excLevel_kept
                 | with_reducible apply await_kept | split | exact id | dsimp only)

theorem setPoint_kept {z0 : State} (s : State) (w p : Nat) (hz : Kept z0 s) : Kept z0 (State.setPoint s w p) := by
  unfold State.setPoint
  repeat' (first | with_reducible assumption | decide | intro _ _ _ | with_reducible apply ite_kept
                 | with_reducible apply each_kept | with_reducible apply loadWord_kept
                 | with_reducible apply w_kept | with_reducible apply visit_kept
                 | with_reducible apply setConv_kept | with_reducible apply ptEffects_kept
                 | (simp only [kept_mk]; with_reducible apply upd_kept) | split | exact id | dsimp only)

theorem scanSetPoints_kept {z0 : State} (s : State) (j : Job) (hz : Kept z0 s) :
    Kept z0 (State.scanSetPoints s j) := by
  unfold State.scanSetPoints
  repeat' (first | with_reducible assumption | decide | intro _ _ _ | with_reducible apply ite_kept
                 | with_reducible apply each_kept | with_reducible apply w_kept
                 | with_reducible apply finish_kept | with_reducible apply setPoint_kept | split | exact id
                 | dsimp only)

theorem scanSetList_kept {z0 : State} (s : State) (j : Job) (hz : Kept z0 s) : Kept z0 (State.scanSetList s j) := by
  unfold State.scanSetList
  repeat' (first | with_reducible assumption | decide | intro _ _ _ | with_reducible apply ite_kept
                 | with_reducible apply each_kept | with_reducible apply finish_kept
                 | with_reducible apply w_kept | split | exact id | dsimp only)

theorem scanSetCfg_kept {z0 : State} (s : State) (j : Job) (hz : Kept z0 s) : Kept z0 (State.scanSetCfg s j) := by
  unfold State.scanSetCfg
  repeat' (first | with_reducible assumption | decide | with_reducible apply ite_kept
                 | with_reducible apply finish_kept | with_reducible apply w_kept | split | exact id
                 | dsimp only)

theorem scanSetMode_kept {z0 : State} (s : State) (j : Job) (hz : Kept z0 s) : Kept z0 (State.scanSetMode s j) := by
  unfold State.scanSetMode
  repeat' (first | with_reducible assumption | decide | with_reducible apply ite_kept
                 | with_reducible apply finish_kept | with_reducible apply w_kept | split | exact id
                 | dsimp only)

theorem hbScanSet_kept {z0 : State} (s : State) (j : Job) (hz : Kept z0 s) : Kept z0 (State.hbScanSet s j) := by
  unfold State.hbScanSet
  repeat' (first | with_reducible assumption | decide | with_reducible apply ite_kept
                 | with_reducible apply finish_kept | with_reducible apply scanSetPoints_kept
                 | with_reducible apply scanSetList_kept | with_reducible apply scanSetCfg_kept
                 | with_reducible apply scanSetMode_kept | (simp only [kept_mk]; with_reducible apply upd_kept)
                 | split | exact id | dsimp only)

theorem hbFault_kept {z0 : State} (s : State) (hz : Kept z0 s) : Kept z0 (State.hbFault s) := by
  unfold State.hbFault
  repeat' (first | with_reducible assumption | decide | intro _ _ _ | with_reducible apply ite_kept
                 | with_reducible apply each_kept | with_reducible apply convStopping_kept
                 | with_reducible apply dropVisit_kept | with_reducible apply w_kept
                 | with_reducible apply setConv_kept | (simp only [kept_mk]; with_reducible apply upd_kept)
                 | split | exact id | dsimp only)

theorem setDac_kept {z0 : State} (s : State) (c : Nat) (h : DacH) (hz : Kept z0 s) : Kept z0 (State.setDac s c h) := by
  unfold State.setDac
  repeat' (first | with_reducible assumption | decide | (simp only [kept_mk]; with_reducible apply upd_kept)
                 | exact id | dsimp only)

theorem setPwm_kept {z0 : State} (s : State) (p : Nat) (h : PwmH) (hz : Kept z0 s) : Kept z0 (State.setPwm s p h) := by
  unfold State.setPwm
  repeat' (first | with_reducible assumption | decide | (simp only [kept_mk]; with_reducible apply upd_kept)
                 | exact id | dsimp only)

theorem dacSettle_kept {z0 : State} (s : State) (c : Nat) (hz : Kept z0 s) : Kept z0 (State.dacSettle s c) := by
  unfold State.dacSettle
  repeat' (first | with_reducible assumption | decide | with_reducible apply wb_kept | exact id | dsimp only)

theorem dacClear_kept {z0 : State} (s : State) (c : Nat) (hz : Kept z0 s) : Kept z0 (State.dacClear s c) := by
  unfold State.dacClear
  repeat' (first | with_reducible assumption | decide | with_reducible apply ite_kept
                 | with_reducible apply w_kept | split | exact id | dsimp only)

theorem slewTick_kept {z0 : State} (s : State) (c : Nat) (hz : Kept z0 s) : Kept z0 (State.slewTick s c) := by
  unfold State.slewTick
  repeat' (first | with_reducible assumption | decide | with_reducible apply ite_kept
                 | with_reducible apply w_kept | with_reducible apply dacSettle_kept | split | exact id
                 | dsimp only)

theorem clampStart_kept {z0 : State} (s : State) (c r : Nat) (hz : Kept z0 s) : Kept z0 (State.clampStart s c r) := by
  unfold State.clampStart
  repeat' (first | with_reducible assumption | decide | with_reducible apply w_kept
                 | with_reducible apply setDac_kept | with_reducible apply dacSettle_kept
                 | (simp only [kept_mk]; with_reducible apply upd_kept) | exact id | dsimp only)

theorem clampEnd_kept {z0 : State} (s : State) (c : Nat) (hz : Kept z0 s) : Kept z0 (State.clampEnd s c) := by
  unfold State.clampEnd
  repeat' (first | with_reducible assumption | decide | with_reducible apply ite_kept
                 | with_reducible apply w_kept | with_reducible apply dacClear_kept
                 | with_reducible apply dacSettle_kept | with_reducible apply resolve_kept | split | exact id
                 | dsimp only)

theorem forceBegin_kept {z0 : State} (s : State) (c : Nat) (hz : Kept z0 s) : Kept z0 (State.forceBegin s c) := by
  unfold State.forceBegin
  repeat' (first | with_reducible assumption | decide | with_reducible apply ite_kept
                 | with_reducible apply setDac_kept | with_reducible apply w_kept
                 | with_reducible apply resolve_kept | with_reducible apply dacClear_kept
                 | with_reducible apply dacSettle_kept | (simp only [kept_mk]; with_reducible apply upd_kept)
                 | split | exact id | dsimp only)

theorem forceOver_kept {z0 : State} (s : State) (c : Nat) (hz : Kept z0 s) : Kept z0 (State.forceOver s c) := by
  unfold State.forceOver
  repeat' (first | with_reducible assumption | decide | with_reducible apply ite_kept
                 | with_reducible apply w_kept | with_reducible apply clampStart_kept
                 | with_reducible apply dacSettle_kept | with_reducible apply post_kept | split | exact id
                 | dsimp only)

theorem forcePost_kept {z0 : State} (s : State) (c cause : Nat) (hz : Kept z0 s) :
    Kept z0 (State.forcePost s c cause) := by
  unfold State.forcePost
  repeat' (first | with_reducible assumption | decide | with_reducible apply setDac_kept
                 | with_reducible apply w_kept | with_reducible apply post_kept
                 | (simp only [kept_mk]; with_reducible apply upd_kept) | exact id | dsimp only)

theorem dacForces_kept {z0 : State} (s : State) (c : Nat) (hz : Kept z0 s) : Kept z0 (State.dacForces s c) := by
  unfold State.dacForces
  repeat' (first | with_reducible assumption | decide | with_reducible apply ite_kept
                 | with_reducible apply wb_kept | with_reducible apply w_kept
                 | with_reducible apply forceBegin_kept | with_reducible apply forcePost_kept
                 | with_reducible apply forceOver_kept | split | exact id | dsimp only)

theorem rangeChange_kept {z0 : State} (s : State) (c r : Nat) (hz : Kept z0 s) :
    Kept z0 (State.rangeChange s c r) := by
  unfold State.rangeChange
  repeat' (first | with_reducible assumption | decide | with_reducible apply ite_kept
                 | with_reducible apply w_kept | with_reducible apply wb_kept | with_reducible apply setDac_kept
                 | with_reducible apply abortWaiters_kept | with_reducible apply clampStart_kept
                 | with_reducible apply dacSettle_kept | (simp only [kept_mk]; with_reducible apply upd_kept)
                 | split | exact id | dsimp only)

theorem dacCode_kept {z0 : State} (s : State) (c v : Nat) (hz : Kept z0 s) : Kept z0 (State.dacCode s c v) := by
  unfold State.dacCode
  repeat' (first | with_reducible assumption | decide | with_reducible apply ite_kept
                 | with_reducible apply w_kept | with_reducible apply dacSettle_kept | split | exact id
                 | dsimp only)

theorem dacSetOne_kept {z0 : State} (s : State) (j : Job) (c : Nat) (hz : Kept z0 s) :
    Kept z0 (State.dacSetOne s j c) := by
  unfold State.dacSetOne
  repeat' (first | with_reducible assumption | decide | with_reducible apply ite_kept
                 | with_reducible apply w_kept | with_reducible apply dacClear_kept
                 | with_reducible apply dacCode_kept | with_reducible apply dacForces_kept | split | exact id
                 | dsimp only)

theorem dacSet_kept {z0 : State} (s : State) (j : Job) (hz : Kept z0 s) : Kept z0 (State.dacSet s j) := by
  unfold State.dacSet
  repeat' (first | with_reducible assumption | decide | intro _ _ _ | with_reducible apply ite_kept
                 | with_reducible apply each_kept | with_reducible apply finish_kept
                 | with_reducible apply dacSetOne_kept | split | exact id | dsimp only)

theorem dacRangeOne_kept {z0 : State} (s : State) (j : Job) (c : Nat) (hz : Kept z0 s) :
    Kept z0 (State.dacRangeOne s j c) := by
  unfold State.dacRangeOne
  repeat' (first | with_reducible assumption | decide | with_reducible apply ite_kept
                 | with_reducible apply w_kept | with_reducible apply rangeChange_kept | split | exact id
                 | dsimp only)

theorem dacRange_kept {z0 : State} (s : State) (j : Job) (hz : Kept z0 s) : Kept z0 (State.dacRange s j) := by
  unfold State.dacRange
  repeat' (first | with_reducible assumption | decide | intro _ _ _ | with_reducible apply ite_kept
                 | with_reducible apply each_kept | with_reducible apply finish_kept
                 | with_reducible apply dacRangeOne_kept | with_reducible apply await_kept | split | exact id
                 | dsimp only)

theorem pwmPin_kept {z0 : State} (s : State) (p : Nat) (b edges : Bool) (hz : Kept z0 s) :
    Kept z0 (State.pwmPin s p b edges) := by
  unfold State.pwmPin
  repeat' (first | with_reducible assumption | decide | with_reducible apply ite_kept
                 | with_reducible apply wb_kept | with_reducible apply hbPwmEdge_kept | split | exact id
                 | dsimp only)

theorem pwmApply_kept {z0 : State} (s : State) (p : Nat) (hz : Kept z0 s) : Kept z0 (State.pwmApply s p) := by
  unfold State.pwmApply
  repeat' (first | with_reducible assumption | decide | with_reducible apply setPwm_kept
                 | with_reducible apply resolve_kept | (simp only [kept_mk]; with_reducible apply upd_kept)
                 | exact id | dsimp only)

theorem pwmRun_kept {z0 : State} (s : State) (p : Nat) (hz : Kept z0 s) : Kept z0 (State.pwmRun s p) := by
  unfold State.pwmRun
  repeat' (first | with_reducible assumption | decide | with_reducible apply w_kept
                 | with_reducible apply resolve_kept | exact id | dsimp only)

theorem periodStart_kept {z0 : State} (s : State) (p : Nat) (hz : Kept z0 s) : Kept z0 (State.periodStart s p) := by
  unfold State.periodStart
  repeat' (first | with_reducible assumption | decide | with_reducible apply ite_kept
                 | with_reducible apply pwmApply_kept | with_reducible apply pwmPin_kept
                 | with_reducible apply w_kept | with_reducible apply resolve_kept
                 | with_reducible apply pwmRun_kept | (simp only [kept_mk]; with_reducible apply upd_kept)
                 | split | exact id | dsimp only)

theorem activeEnd_kept {z0 : State} (s : State) (p : Nat) (hz : Kept z0 s) : Kept z0 (State.activeEnd s p) := by
  unfold State.activeEnd
  repeat' (first | with_reducible assumption | decide | with_reducible apply ite_kept
                 | with_reducible apply pwmPin_kept | split | exact id | dsimp only)

theorem pwmForces_kept {z0 : State} (s : State) (p : Nat) (hz : Kept z0 s) : Kept z0 (State.pwmForces s p) := by
  unfold State.pwmForces
  repeat' (first | with_reducible assumption | decide | with_reducible apply ite_kept
                 | with_reducible apply wb_kept | with_reducible apply w_kept | with_reducible apply setPwm_kept
                 | with_reducible apply post_kept | (simp only [kept_mk]; with_reducible apply upd_kept) | split
                 | exact id | dsimp only)

theorem pwmTiming_kept {z0 : State} (s : State) (p : Nat) (hz : Kept z0 s) : Kept z0 (State.pwmTiming s p) := by
  unfold State.pwmTiming
  repeat' (first | with_reducible assumption | decide | with_reducible apply ite_kept
                 | with_reducible apply pwmApply_kept | split | exact id | dsimp only)

theorem pwmRunState_kept {z0 : State} (s : State) (p : Nat) (run : Bool) (hz : Kept z0 s) :
    Kept z0 (State.pwmRunState s p run) := by
  unfold State.pwmRunState
  repeat' (first | with_reducible assumption | decide | with_reducible apply ite_kept
                 | with_reducible apply pwmRun_kept | with_reducible apply w_kept
                 | with_reducible apply abortWaiters_kept | (simp only [kept_mk]; with_reducible apply upd_kept)
                 | split | exact id | dsimp only)

theorem pwmSetOne_kept {z0 : State} (s : State) (j : Job) (p : Nat) (hz : Kept z0 s) :
    Kept z0 (State.pwmSetOne s j p) := by
  unfold State.pwmSetOne
  repeat' (first | with_reducible assumption | decide | with_reducible apply ite_kept
                 | with_reducible apply w_kept | with_reducible apply pwmTiming_kept
                 | with_reducible apply pwmForces_kept | with_reducible apply pwmRunState_kept | split
                 | exact id | dsimp only)

theorem pwmSet_kept {z0 : State} (s : State) (j : Job) (hz : Kept z0 s) : Kept z0 (State.pwmSet s j) := by
  unfold State.pwmSet
  repeat' (first | with_reducible assumption | decide | intro _ _ _ | with_reducible apply ite_kept
                 | with_reducible apply each_kept | with_reducible apply finish_kept
                 | with_reducible apply pwmSetOne_kept | with_reducible apply await_kept | split | exact id
                 | dsimp only)

theorem slotForces_kept {z0 : State} (s : State) (k : Nat) (hz : Kept z0 s) : Kept z0 (State.slotForces s k) := by
  unfold State.slotForces
  repeat' (first | with_reducible assumption | decide | with_reducible apply ite_kept
                 | with_reducible apply dacForces_kept | with_reducible apply pwmForces_kept
                 | (simp only [kept_mk]; with_reducible apply upd_kept) | split | exact id | dsimp only)

theorem clearPin_kept {z0 : State} (s : State) (hz : Kept z0 s) : Kept z0 (State.clearPin s) := by
  unfold State.clearPin
  repeat' (first | with_reducible assumption | decide | intro _ _ _ | with_reducible apply ite_kept
                 | with_reducible apply each_kept | with_reducible apply w_kept | with_reducible apply post_kept
                 | with_reducible apply dacForces_kept | (simp only [kept_mk]; with_reducible apply upd_kept)
                 | split | exact id | dsimp only)

theorem clearPinEnd_kept {z0 : State} (s : State) (hz : Kept z0 s) : Kept z0 (State.clearPinEnd s) := by
  unfold State.clearPinEnd
  repeat' (first | with_reducible assumption | decide | intro _ _ _ | with_reducible apply ite_kept
                 | with_reducible apply each_kept | with_reducible apply w_kept | with_reducible apply post_kept
                 | with_reducible apply dacForces_kept | split | exact id | dsimp only)

theorem hkFault_kept {z0 : State} (s : State) (hz : Kept z0 s) : Kept z0 (State.hkFault s) := by
  unfold State.hkFault
  repeat' (first | with_reducible assumption | decide | intro _ _ _ | with_reducible apply each_kept
                 | with_reducible apply w_kept | exact id | dsimp only)

theorem setSlot_kept {z0 : State} (s : State) (k : Nat) (h : SlotH) (hz : Kept z0 s) :
    Kept z0 (State.setSlot s k h) := by
  unfold State.setSlot
  repeat' (first | with_reducible assumption | decide | (simp only [kept_mk]; with_reducible apply upd_kept)
                 | exact id | dsimp only)

theorem slotPin_kept {z0 : State} (s : State) (k : Nat) (high : Bool) (hz : Kept z0 s) :
    Kept z0 (State.slotPin s k high) := by
  unfold State.slotPin
  repeat' (first | with_reducible assumption | decide | with_reducible apply setSlot_kept
                 | (simp only [kept_mk]; with_reducible apply upd_kept) | exact id | dsimp only)

theorem setFlt_kept {z0 : State} (s : State) (k : Nat) (b : Bool) (hz : Kept z0 s) : Kept z0 (State.setFlt s k b) := by
  unfold State.setFlt
  repeat' (first | with_reducible assumption | decide | with_reducible apply w_kept | exact id | dsimp only)

theorem laneFault_kept {z0 : State} (s : State) (n : Nat) (b : Bool) (hz : Kept z0 s) :
    Kept z0 (State.laneFault s n b) := by
  unfold State.laneFault
  repeat' (first | with_reducible assumption | decide | with_reducible apply ite_kept
                 | with_reducible apply wb_kept | with_reducible apply w_kept
                 | with_reducible apply squelch_kept | split | exact id | dsimp only)

theorem laneHeld_kept {z0 : State} (s : State) (n : Nat) (hz : Kept z0 s) : Kept z0 (State.laneHeld s n) := by
  unfold State.laneHeld
  repeat' (first | with_reducible assumption | decide | with_reducible apply ite_kept
                 | with_reducible apply toAcquire_kept | split | exact id | dsimp only)

theorem laneFreed_kept {z0 : State} (s : State) (n : Nat) (hz : Kept z0 s) : Kept z0 (State.laneFreed s n) := by
  unfold State.laneFreed
  repeat' (first | with_reducible assumption | decide | with_reducible apply ite_kept
                 | with_reducible apply acqBegin_kept | split | exact id | dsimp only)

theorem slotFault_kept {z0 : State} (s : State) (k : Nat) (hz : Kept z0 s) : Kept z0 (State.slotFault s k) := by
  unfold State.slotFault
  repeat' (first | with_reducible assumption | decide | intro _ _ _ | with_reducible apply ite_kept
                 | with_reducible apply each_kept | with_reducible apply setSlot_kept
                 | with_reducible apply setFlt_kept | with_reducible apply w_kept
                 | with_reducible apply inc_kept | with_reducible apply post_kept
                 | with_reducible apply laneFault_kept | with_reducible apply laneHeld_kept
                 | with_reducible apply slotForces_kept | (simp only [kept_mk]; with_reducible apply upd_kept)
                 | split | exact id | dsimp only)

theorem slotClear_kept {z0 : State} (s : State) (k : Nat) (hz : Kept z0 s) : Kept z0 (State.slotClear s k) := by
  unfold State.slotClear
  repeat' (first | with_reducible assumption | decide | intro _ _ _ | with_reducible apply ite_kept
                 | with_reducible apply each_kept | with_reducible apply setFlt_kept
                 | with_reducible apply post_kept | with_reducible apply laneFault_kept
                 | with_reducible apply laneFreed_kept | with_reducible apply slotForces_kept | split | exact id
                 | dsimp only)

theorem setSensor_kept {z0 : State} (s : State) (t : Nat) (h : SensorH) (hz : Kept z0 s) :
    Kept z0 (State.setSensor s t h) := by
  unfold State.setSensor
  repeat' (first | with_reducible assumption | decide | (simp only [kept_mk]; with_reducible apply upd_kept)
                 | exact id | dsimp only)

theorem setZone_kept {z0 : State} (s : State) (z : Nat) (h : ZoneH) (hz : Kept z0 s) :
    Kept z0 (State.setZone s z h) := by
  unfold State.setZone
  repeat' (first | with_reducible assumption | decide | (simp only [kept_mk]; with_reducible apply upd_kept)
                 | exact id | dsimp only)

theorem floorShow_kept {z0 : State} (s : State) (hz : Kept z0 s) : Kept z0 (State.floorShow s) := by
  unfold State.floorShow
  repeat' (first | with_reducible assumption | decide | with_reducible apply w_kept | exact id | dsimp only)

theorem substitute_kept {z0 : State} (s : State) (t : Nat) (hz : Kept z0 s) : Kept z0 (State.substitute s t) := by
  unfold State.substitute
  repeat' (first | with_reducible assumption | decide | with_reducible apply ite_kept
                 | with_reducible apply setZone_kept | with_reducible apply floorShow_kept
                 | with_reducible apply post_kept | (simp only [kept_mk]; with_reducible apply upd_kept) | split
                 | exact id | dsimp only)

theorem sensorFail_kept {z0 : State} (s : State) (t cause : Nat) (hz : Kept z0 s) :
    Kept z0 (State.sensorFail s t cause) := by
  unfold State.sensorFail
  repeat' (first | with_reducible assumption | decide | with_reducible apply w_kept
                 | with_reducible apply post_kept | with_reducible apply setSensor_kept
                 | with_reducible apply substitute_kept | (simp only [kept_mk]; with_reducible apply upd_kept)
                 | exact id | dsimp only)

theorem sensorRead_kept {z0 : State} (s : State) (t : Nat) (r : Option Reading) (hz : Kept z0 s) :
    Kept z0 (State.sensorRead s t r) := by
  unfold State.sensorRead
  repeat' (first | with_reducible assumption | decide | with_reducible apply ite_kept
                 | with_reducible apply w_kept | with_reducible apply setSensor_kept
                 | with_reducible apply sensorFail_kept | (simp only [kept_mk]; with_reducible apply upd_kept)
                 | split | exact id | dsimp only)

theorem zoneDisagree_kept {z0 : State} (s : State) (rs : List (Option Reading)) (z : Nat) (hz : Kept z0 s) :
    Kept z0 (State.zoneDisagree s rs z) := by
  unfold State.zoneDisagree
  repeat' (first | with_reducible assumption | decide | intro _ _ _ | with_reducible apply ite_kept
                 | with_reducible apply each_kept | with_reducible apply setSensor_kept
                 | with_reducible apply setZone_kept | with_reducible apply sensorFail_kept
                 | (simp only [kept_mk]; with_reducible apply upd_kept) | split | exact id | dsimp only)

theorem readSensors_kept {z0 : State} (s : State) (rs : List (Option Reading)) (hz : Kept z0 s) :
    Kept z0 (State.readSensors s rs) := by
  unfold State.readSensors
  repeat' (first | with_reducible assumption | decide | intro _ _ _ | with_reducible apply each_kept
                 | with_reducible apply sensorRead_kept | with_reducible apply zoneDisagree_kept
                 | with_reducible apply setSensor_kept | (simp only [kept_mk]; with_reducible apply upd_kept)
                 | exact id | dsimp only)

theorem readmit_kept {z0 : State} (s : State) (t : Nat) (hz : Kept z0 s) : Kept z0 (State.readmit s t) := by
  unfold State.readmit
  repeat' (first | with_reducible assumption | decide | with_reducible apply ite_kept
                 | with_reducible apply w_kept | with_reducible apply setSensor_kept
                 | with_reducible apply setZone_kept | with_reducible apply floorShow_kept
                 | (simp only [kept_mk]; with_reducible apply upd_kept) | split | exact id | dsimp only)

theorem zoneForm_kept {z0 : State} (s : State) (z : Nat) (hz : Kept z0 s) : Kept z0 (State.zoneForm s z) := by
  unfold State.zoneForm
  repeat' (first | with_reducible assumption | decide | intro _ _ _ | with_reducible apply ite_kept
                 | with_reducible apply foldl_kept | with_reducible apply each_kept
                 | with_reducible apply post_kept | with_reducible apply wb_kept | with_reducible apply w_kept
                 | with_reducible apply setSensor_kept | with_reducible apply wi_kept
                 | with_reducible apply setZone_kept | (simp only [kept_mk]; with_reducible apply upd_kept)
                 | split | exact id | dsimp only)

theorem zoneJudge_kept {z0 : State} (s : State) (z : Nat) (hz : Kept z0 s) : Kept z0 (State.zoneJudge s z) := by
  unfold State.zoneJudge
  repeat' (first | with_reducible assumption | decide | with_reducible apply ite_kept
                 | with_reducible apply setZone_kept | with_reducible apply w_kept
                 | with_reducible apply post_kept | (simp only [kept_mk]; with_reducible apply upd_kept) | split
                 | exact id | dsimp only)

theorem coldFlags_kept {z0 : State} (s : State) (hz : Kept z0 s) : Kept z0 (State.coldFlags s) := by
  unfold State.coldFlags
  repeat' (first | with_reducible assumption | decide | with_reducible apply ite_kept
                 | with_reducible apply w_kept | with_reducible apply wb_kept | with_reducible apply post_kept
                 | (simp only [kept_mk]; with_reducible apply upd_kept) | split | exact id | dsimp only)

theorem setStep_kept {z0 : State} (s : State) (new : Nat) (hz : Kept z0 s) : Kept z0 (State.setStep s new) := by
  unfold State.setStep
  repeat' (first | with_reducible assumption | decide | intro _ _ _ | with_reducible apply ite_kept
                 | with_reducible apply each_kept | with_reducible apply w_kept | with_reducible apply inc_kept
                 | with_reducible apply post_kept | (simp only [kept_mk]; with_reducible apply upd_kept) | split
                 | exact id | dsimp only)

theorem setShed_kept {z0 : State} (s : State) (k : Nat) (b : Bool) (hz : Kept z0 s) :
    Kept z0 (State.setShed s k b) := by
  unfold State.setShed
  repeat' (first | with_reducible assumption | decide | with_reducible apply w_kept | exact id | dsimp only)

theorem shedSlot_kept {z0 : State} (s : State) (k : Nat) (hz : Kept z0 s) : Kept z0 (State.shedSlot s k) := by
  unfold State.shedSlot
  repeat' (first | with_reducible assumption | decide | intro _ _ _ | with_reducible apply ite_kept
                 | with_reducible apply each_kept | with_reducible apply setShed_kept
                 | with_reducible apply inc_kept | with_reducible apply w_kept | with_reducible apply post_kept
                 | with_reducible apply shedLane_kept | with_reducible apply slotForces_kept
                 | (simp only [kept_mk]; with_reducible apply upd_kept) | split | exact id | dsimp only)

theorem shedRelease_kept {z0 : State} (s : State) (hz : Kept z0 s) : Kept z0 (State.shedRelease s) := by
  unfold State.shedRelease
  repeat' (first | with_reducible assumption | decide | intro _ _ _ | with_reducible apply ite_kept
                 | with_reducible apply each_kept | with_reducible apply setShed_kept
                 | with_reducible apply post_kept | with_reducible apply w_kept
                 | with_reducible apply unshedLane_kept | with_reducible apply slotForces_kept
                 | (simp only [kept_mk]; with_reducible apply upd_kept) | split | exact id | dsimp only)

theorem throttle_kept {z0 : State} (s : State) (hz : Kept z0 s) : Kept z0 (State.throttle s) := by
  unfold State.throttle
  repeat' (first | with_reducible assumption | decide | with_reducible apply ite_kept
                 | with_reducible apply setStep_kept | with_reducible apply shedSlot_kept
                 | with_reducible apply shedRelease_kept | (simp only [kept_mk]; with_reducible apply upd_kept)
                 | split | exact id | dsimp only)

theorem railCap_kept {z0 : State} (s : State) (r : Nat) (hz : Kept z0 s) : Kept z0 (State.railCap s r) := by
  unfold State.railCap
  repeat' (first | with_reducible assumption | decide | intro _ _ _ | with_reducible apply ite_kept
                 | with_reducible apply each_kept | with_reducible apply w_kept
                 | with_reducible apply marginFlags_kept | (simp only [kept_mk]; with_reducible apply upd_kept)
                 | split | exact id | dsimp only)

theorem thermalShow_kept {z0 : State} (s : State) (hz : Kept z0 s) : Kept z0 (State.thermalShow s) := by
  unfold State.thermalShow
  repeat' (first | with_reducible assumption | decide | with_reducible apply ite_kept
                 | with_reducible apply foldl_kept | intro _ _ _ | with_reducible apply w_kept
                 | with_reducible apply wi_kept | (simp only [kept_mk]; with_reducible apply upd_kept) | split
                 | exact id | dsimp only)

theorem thermalSense_kept {z0 : State} (s : State) (rs : List (Option Reading)) (hz : Kept z0 s) :
    Kept z0 (State.thermalSense s rs) := by
  unfold State.thermalSense
  repeat' (first | with_reducible assumption | decide | intro _ _ _ | with_reducible apply each_kept
                 | with_reducible apply readSensors_kept | with_reducible apply zoneForm_kept
                 | with_reducible apply zoneJudge_kept | with_reducible apply thermalShow_kept | exact id
                 | dsimp only)

theorem shutRecord_kept {z0 : State} (s : State) (z : Nat) (hz : Kept z0 s) : Kept z0 (State.shutRecord s z) := by
  unfold State.shutRecord
  repeat' (first | with_reducible assumption | decide | with_reducible apply w_kept | exact id | dsimp only)

theorem thermalAct_kept {z0 : State} (s : State) (hz : Kept z0 s) : Kept z0 (State.thermalAct s) := by
  unfold State.thermalAct
  repeat' (first | with_reducible assumption | decide | intro _ _ _ | with_reducible apply each_kept
                 | with_reducible apply coldFlags_kept | with_reducible apply throttle_kept
                 | with_reducible apply railCap_kept | exact id | dsimp only)

theorem setLimits_kept {z0 : State} (s : State) (j : Job) (z : Nat) (hz : Kept z0 s) :
    Kept z0 (State.setLimits s j z) := by
  unfold State.setLimits
  repeat' (first | with_reducible assumption | decide | with_reducible apply ite_kept
                 | with_reducible apply w_kept | split | exact id | dsimp only)

theorem thermLimits_kept {z0 : State} (s : State) (j : Job) (hz : Kept z0 s) : Kept z0 (State.thermLimits s j) := by
  unfold State.thermLimits
  repeat' (first | with_reducible assumption | decide | intro _ _ _ | with_reducible apply ite_kept
                 | with_reducible apply each_kept | with_reducible apply finish_kept
                 | with_reducible apply setLimits_kept | with_reducible apply w_kept | split | exact id
                 | dsimp only)

theorem setShedEntry_kept {z0 : State} (s : State) (i k : Nat) (hz : Kept z0 s) :
    Kept z0 (State.setShedEntry s i k) := by
  unfold State.setShedEntry
  repeat' (first | with_reducible assumption | decide | with_reducible apply ite_kept
                 | with_reducible apply w_kept | (simp only [kept_mk]; with_reducible apply upd_kept) | split
                 | exact id | dsimp only)

theorem thermShedOrder_kept {z0 : State} (s : State) (j : Job) (hz : Kept z0 s) :
    Kept z0 (State.thermShedOrder s j) := by
  unfold State.thermShedOrder
  repeat' (first | with_reducible assumption | decide | intro _ _ _ | with_reducible apply ite_kept
                 | with_reducible apply each_kept | with_reducible apply finish_kept
                 | with_reducible apply setShedEntry_kept | with_reducible apply w_kept | split | exact id
                 | dsimp only)

theorem mspW_kept {z0 : State} (s : State) (f : Fld) (v : Nat) (hz : Kept z0 s) (hf : f.id ≠ F.SYS_STATE_STATE.id) :
    Kept z0 (State.mspW s f v) := by
  unfold State.mspW
  repeat' (first | with_reducible assumption | decide | with_reducible apply ite_kept
                 | with_reducible apply w_kept | split | exact id | dsimp only)

theorem mspInc_kept {z0 : State} (s : State) (f : Fld) (hz : Kept z0 s) (hf : f.id ≠ F.SYS_STATE_STATE.id) :
    Kept z0 (State.mspInc s f) := by
  unfold State.mspInc
  repeat' (first | with_reducible assumption | decide | with_reducible apply ite_kept
                 | with_reducible apply inc_kept | split | exact id | dsimp only)

theorem setMsp_kept {z0 : State} (s : State) (m : MspH) (hz : Kept z0 s) : Kept z0 (State.setMsp s m) := by
  unfold State.setMsp
  repeat' (first | with_reducible assumption | decide | (simp only [kept_mk]; with_reducible apply upd_kept)
                 | exact id | dsimp only)

theorem xipDrop_kept {z0 : State} (s : State) (hz : Kept z0 s) : Kept z0 (State.xipDrop s) := by
  unfold State.xipDrop
  repeat' (first | with_reducible assumption | decide | with_reducible apply setMsp_kept
                 | (simp only [kept_mk]; with_reducible apply upd_kept) | exact id | dsimp only)

theorem setCont_kept {z0 : State} (s : State) (b : Bool) (hz : Kept z0 s) :
    Kept z0 (State.setCont s b) := by
  unfold State.setCont
  repeat' (first | with_reducible assumption | decide | with_reducible apply setMsp_kept
                 | with_reducible apply mspW_kept | (simp only [kept_mk]; with_reducible apply upd_kept) | split
                 | exact id | dsimp only)

theorem xipRestart_kept {z0 : State} (s : State) (hz : Kept z0 s) : Kept z0 (State.xipRestart s) := by
  unfold State.xipRestart
  repeat' (first | with_reducible assumption | decide | with_reducible apply setMsp_kept
                 | with_reducible apply setCont_kept | (simp only [kept_mk]; with_reducible apply upd_kept) | split
                 | exact id | dsimp only)

theorem xipRead_kept {z0 : State} (s : State) (l : Nat) (hz : Kept z0 s) : Kept z0 (State.xipRead s l) := by
  unfold State.xipRead
  repeat' (first | with_reducible assumption | decide | with_reducible apply ite_kept
                 | with_reducible apply setMsp_kept | with_reducible apply mspInc_kept
                 | (simp only [kept_mk]; with_reducible apply upd_kept) | split | exact id | dsimp only)

theorem xipFill_kept {z0 : State} (s : State) (f : Fill) (data : List Nat) (hz : Kept z0 s) :
    Kept z0 (State.xipFill s f data) := by
  unfold State.xipFill
  repeat' (first | with_reducible assumption | decide | with_reducible apply ite_kept
                 | with_reducible apply setMsp_kept | (simp only [kept_mk]; with_reducible apply upd_kept)
                 | split | exact id | dsimp only)

theorem frameLog_kept {z0 : State} (s : State) (c t : Nat) (f : Frame) (hz : Kept z0 s) :
    Kept z0 (State.frameLog s c t f) := by
  unfold State.frameLog
  repeat' (first | with_reducible assumption | decide | with_reducible apply ite_kept
                 | with_reducible apply setMsp_kept | (simp only [kept_mk]; with_reducible apply upd_kept) | split
                 | exact id | dsimp only)

theorem frameRun_kept {z0 : State} (s : State) (c t : Nat) (drops : Bool) (hz : Kept z0 s) :
    Kept z0 (State.frameRun s c t drops) := by
  unfold State.frameRun
  repeat' (first | with_reducible assumption | decide | with_reducible apply ite_kept
                 | with_reducible apply mspInc_kept | with_reducible apply setCont_kept
                 | with_reducible apply mspW_kept | with_reducible apply xipDrop_kept
                 | (simp only [kept_mk]; with_reducible apply upd_kept) | split | exact id | dsimp only)

theorem dqsTimeout_kept {z0 : State} (s : State) (c t : Nat) (hz : Kept z0 s) : Kept z0 (State.dqsTimeout s c t) := by
  unfold State.dqsTimeout
  repeat' (first | with_reducible assumption | decide | with_reducible apply ite_kept
                 | with_reducible apply mspW_kept | with_reducible apply post_kept | with_reducible apply w_kept
                 | (simp only [kept_mk]; with_reducible apply upd_kept) | split | exact id | dsimp only)

theorem fwFrame_kept {z0 : State} (s : State) (f : FwFrame) (data : List Nat) (strobe : Bool) (hz : Kept z0 s) :
    Kept z0 (State.fwFrame s f data strobe) := by
  unfold State.fwFrame
  repeat' (first | with_reducible assumption | decide | with_reducible apply ite_kept
                 | with_reducible apply frameLog_kept | with_reducible apply frameRun_kept
                 | with_reducible apply dqsTimeout_kept | (simp only [kept_mk]; with_reducible apply upd_kept)
                 | split | exact id | dsimp only)

theorem fillFrame_kept {z0 : State} (s : State) (f : Fill) (data : List Nat) (strobe : Bool) (hz : Kept z0 s) :
    Kept z0 (State.fillFrame s f data strobe) := by
  unfold State.fillFrame
  repeat' (first | with_reducible assumption | decide | with_reducible apply ite_kept
                 | with_reducible apply frameLog_kept | with_reducible apply setMsp_kept
                 | with_reducible apply frameRun_kept | with_reducible apply setCont_kept
                 | with_reducible apply dqsTimeout_kept | with_reducible apply xipFill_kept
                 | (simp only [kept_mk]; with_reducible apply upd_kept) | split | exact id | dsimp only)

theorem mspXfer_kept {z0 : State} (s : State) (j : Job) (hz : Kept z0 s) : Kept z0 (State.mspXfer s j) := by
  unfold State.mspXfer
  repeat' (first | with_reducible assumption | decide | with_reducible apply ite_kept
                 | with_reducible apply finish_kept | with_reducible apply setMsp_kept
                 | with_reducible apply await_kept | (simp only [kept_mk]; with_reducible apply upd_kept)
                 | split | exact id | dsimp only)

theorem setXfer_kept {z0 : State} (s : State) (y : Xfer) (hz : Kept z0 s) : Kept z0 (State.setXfer s y) := by
  unfold State.setXfer
  repeat' (first | with_reducible assumption | decide | with_reducible apply ite_kept
                 | with_reducible apply setMsp_kept | (simp only [kept_mk]; with_reducible apply upd_kept)
                 | split | exact id | dsimp only)

theorem dropXfer_kept {z0 : State} (s : State) (ring idx : Nat) (hz : Kept z0 s) :
    Kept z0 (State.dropXfer s ring idx) := by
  unfold State.dropXfer
  repeat' (first | with_reducible assumption | decide | with_reducible apply setMsp_kept
                 | (simp only [kept_mk]; with_reducible apply upd_kept) | exact id | dsimp only)

theorem xferEnd_kept {z0 : State} (s : State) (x : Xfer) (st : Status) (r0 r1 : Nat) (hz : Kept z0 s) :
    Kept z0 (State.xferEnd s x st r0 r1) := by
  unfold State.xferEnd
  repeat' (first | with_reducible assumption | decide | with_reducible apply dropXfer_kept
                 | with_reducible apply finish_kept | exact id | dsimp only)

theorem xferData_kept {z0 : State} (s : State) (j : Job) (data : List Nat) (hz : Kept z0 s) :
    Kept z0 (State.xferData s j data) := by
  unfold State.xferData
  repeat' (first | with_reducible assumption | decide | with_reducible apply ite_kept
                 | (simp only [kept_mk]; with_reducible apply upd_kept) | with_reducible apply writeBytes_ok
                 | split | exact id | dsimp only)

theorem xferRan_kept {z0 : State} (s : State) (x : Xfer) (data : List Nat) (hz : Kept z0 s) :
    Kept z0 (State.xferRan s x data) := by
  unfold State.xferRan
  repeat' (first | with_reducible assumption | decide | with_reducible apply ite_kept
                 | with_reducible apply xferData_kept | with_reducible apply xferEnd_kept
                 | with_reducible apply setXfer_kept | (simp only [kept_mk]; with_reducible apply upd_kept)
                 | split | exact id | dsimp only)

theorem xferFrame_kept {z0 : State} (s : State) (x : Xfer) (data : List Nat) (strobe : Bool) (hz : Kept z0 s) :
    Kept z0 (State.xferFrame s x data strobe) := by
  unfold State.xferFrame
  repeat' (first | with_reducible assumption | decide | with_reducible apply ite_kept
                 | with_reducible apply setMsp_kept | with_reducible apply xferEnd_kept
                 | with_reducible apply frameLog_kept | with_reducible apply frameRun_kept
                 | with_reducible apply dqsTimeout_kept | with_reducible apply xferRan_kept
                 | (simp only [kept_mk]; with_reducible apply upd_kept) | split | exact id | dsimp only)

theorem mspmFrame_kept {z0 : State} (s : State) (fw : Option FwFrame) (data : List Nat) (strobe : Bool) (hz : Kept z0 s) :
    Kept z0 (State.mspmFrame s fw data strobe) := by
  unfold State.mspmFrame
  repeat' (first | with_reducible assumption | decide | with_reducible apply ite_kept
                 | with_reducible apply fwFrame_kept | with_reducible apply fillFrame_kept
                 | with_reducible apply xferFrame_kept | (simp only [kept_mk]; with_reducible apply upd_kept) | split
                 | exact id | dsimp only)

theorem pollWait_kept {z0 : State} (s : State) (ring idx : Nat) (hz : Kept z0 s) :
    Kept z0 (State.pollWait s ring idx) := by
  unfold State.pollWait
  repeat' (first | with_reducible assumption | decide | with_reducible apply setXfer_kept
                 | (simp only [kept_mk]; with_reducible apply upd_kept) | split | exact id | dsimp only)

theorem pollTimeout_kept {z0 : State} (s : State) (ring idx : Nat) (hz : Kept z0 s) :
    Kept z0 (State.pollTimeout s ring idx) := by
  unfold State.pollTimeout
  repeat' (first | with_reducible assumption | decide | with_reducible apply ite_kept
                 | with_reducible apply w_kept | with_reducible apply post_kept
                 | with_reducible apply xferEnd_kept | (simp only [kept_mk]; with_reducible apply upd_kept)
                 | split | exact id | dsimp only)

end Sys2Proof.Machine
end

