-- ==== Sys2Proof/Laws/KeptSystem.lean ====
section
/-! SUPPORT. Operations of Machine/Encodings, Reset, Fault, Boot, Manage, Flags, Access, Slave, Telemetry, Dump, Pins, Endpoint, TestPort, Clock, Codes keep the queue, the clock, canonical memories and a
legal device state (`Kept`). -/

namespace Sys2Proof.Machine

open Sys2Proof

theorem writeFields_kept {z0 : State} (s : State) (i : Nat) (l : List (Fld × Nat)) (hz : Kept z0 s) (hl : ∀ p ∈ l,
    p.1.id ≠ F.SYS_STATE_STATE.id) : Kept z0 (State.writeFields s i l) := by
  exact foldl_mem_kept _ (fun s p hm hs => w_kept _ _ _ _ hs (hl p hm)) s hz

theorem encSettle_mem (s : State) (i n : Nat) :
    ∀ (l : List (Fld × Nat)) (p : Fld × Nat), p ∈ State.encSettle s i n l → p ∈ l := by
  induction n with
  | zero => intro l p h; exact h
  | succ n ih => intro l p h; exact (List.mem_filter.1 (ih _ p h)).1

theorem encAccepted_mem {s : State} {i : Nat} {l : List (Fld × Nat)} {p : Fld × Nat} (h : p ∈ State.encAccepted s i l) :
    p ∈ l := (List.mem_filter.1 (encSettle_mem s i _ _ p h)).1

theorem firmwareWrite_kept {z0 : State} (s : State) (base v : Nat) (hz : Kept z0 s) (hb : ∀ f ∈ State.fieldsOf base,
    f.id ≠ F.SYS_STATE_STATE.id) : Kept z0 (State.firmwareWrite s base v) := by
  refine writeFields_kept _ _ _ hz fun p hp => ?_
  obtain ⟨f, hf, rfl⟩ := List.mem_map.1 (encAccepted_mem hp)
  exact hb f hf

theorem blank_kept {z0 : State} (s : State) (hz : Kept z0 s) : Kept z0 (State.blank s) := by
  exact ⟨hz.queue, hz.clock, hz.mem, fun _ => show legalState [] from show _ ≤ 7 by decide⟩

theorem perstCause_kept {z0 : State} (s : State) (hz : Kept z0 s) : Kept z0 (State.perstCause s) := by
  unfold State.perstCause
  repeat' (first | with_reducible assumption | decide | with_reducible apply ite_kept
                 | with_reducible apply w_kept | split | exact id | dsimp only)

theorem enterReset_kept {z0 : State} (s : State) (f : Fld) (hz : Kept z0 s) (hf : f.id ≠ F.SYS_STATE_STATE.id) :
    Kept z0 (State.enterReset s f) := by
  have h1 := blank_kept _ (nvmStop_kept s false hz)
  refine perstCause_kept _ (w_kept _ _ _ _ ?_ hf)
  exact ⟨h1.queue, h1.clock, h1.mem, fun _ => resetRegs_ok _⟩

theorem resetCause_kept {z0 : State} (s : State) (f : Fld) (hz : Kept z0 s) (hf : f.id ≠ F.SYS_STATE_STATE.id) :
    Kept z0 (State.resetCause s f) := by
  unfold State.resetCause
  repeat' (first | with_reducible assumption | decide | with_reducible apply ite_kept
                 | with_reducible apply w_kept | with_reducible apply enterReset_kept
                 | (simp only [kept_mk]; with_reducible apply upd_kept) | split | exact id | dsimp only)

theorem powerUp_kept {z0 : State} (s : State) (hz : Kept z0 s) : Kept z0 (State.powerUp s) := by
  unfold State.powerUp
  split
  · exact hz
  · refine perstCause_kept _ (w_kept _ _ _ _ ?_ (by decide))
    have h1 := blank_kept _ hz
    exact ⟨h1.queue, h1.clock, h1.mem, h1.legal⟩

theorem powerDown_kept {z0 : State} (s : State) (hz : Kept z0 s) : Kept z0 (State.powerDown s) := by
  unfold State.powerDown
  split
  · exact hz
  · have h1 := blank_kept _ (nvmStop_kept s false hz)
    exact ⟨h1.queue, h1.clock, h1.mem, fun _ => state_set_ok [] (v := 0) (Nat.zero_le 7)⟩

theorem railReadback_kept {z0 : State} (s : State) (r : Nat) (mv : Option (BitVec 10)) (hz : Kept z0 s) :
    Kept z0 (State.railReadback s r mv) := by
  unfold State.railReadback
  repeat' (first | with_reducible assumption | decide | with_reducible apply ite_kept
                 | with_reducible apply w_kept | with_reducible apply avsCount_kept
                 | (simp only [kept_mk]; with_reducible apply upd_kept) | split | exact id | dsimp only)

theorem railSlew_kept {z0 : State} (s : State) (r : Nat) (ok : Bool) (hz : Kept z0 s) :
    Kept z0 (State.railSlew s r ok) := by
  unfold State.railSlew
  repeat' (first | with_reducible assumption | decide | with_reducible apply ite_kept
                 | with_reducible apply setRail_kept | with_reducible apply avsCount_kept
                 | (simp only [kept_mk]; with_reducible apply upd_kept) | split | exact id | dsimp only)

theorem enterState_kept {z0 : State} (s : State) (d : DevState) (hz : Kept z0 s) :
    Kept z0 (State.enterState s d) := by
  unfold State.enterState
  repeat' (first | with_reducible assumption | decide | with_reducible apply setDev_kept
                 | with_reducible apply post_kept | (simp only [kept_mk]; with_reducible apply upd_kept) | split
                 | exact id | dsimp only)

theorem resetEnd_kept {z0 : State} (s : State) (src : Nat) (chain : Bool) (rateOk : Fin 3 → Bool) (mv : Fin 3 → Option (BitVec 10)) (hz : Kept z0 s) :
    Kept z0 (State.resetEnd s src chain rateOk mv) := by
  unfold State.resetEnd
  repeat' (first | with_reducible assumption | decide | intro _ _ _ | intro _ _ | with_reducible apply ite_kept
                 | with_reducible apply each_kept | with_reducible apply w_kept | with_reducible apply wb_kept
                 | with_reducible apply enterState_kept | with_reducible apply each_kept
                 | with_reducible apply railSlew_kept | with_reducible apply railReadback_kept
                 | with_reducible apply clearPin_kept | (simp only [kept_mk]; with_reducible apply upd_kept) | split
                 | exact id | dsimp only)

theorem setSub_kept {z0 : State} (s : State) (k : Nat) (h : SubH) (hz : Kept z0 s) : Kept z0 (State.setSub s k h) := by
  unfold State.setSub
  repeat' (first | with_reducible assumption | decide | (simp only [kept_mk]; with_reducible apply upd_kept)
                 | exact id | dsimp only)

theorem subEnd_kept {z0 : State} (s : State) (k : Nat) (hz : Kept z0 s) : Kept z0 (State.subEnd s k) := by
  unfold State.subEnd
  repeat' (first | with_reducible assumption | decide | with_reducible apply setSub_kept
                 | with_reducible apply w_kept | exact id | dsimp only)

theorem subWrite_kept {z0 : State} (s : State) (k : Nat) (hz : Kept z0 s) : Kept z0 (State.subWrite s k) := by
  unfold State.subWrite
  repeat' (first | with_reducible assumption | decide | with_reducible apply ite_kept
                 | with_reducible apply setSub_kept | with_reducible apply subEnd_kept
                 | with_reducible apply resolve_kept | (simp only [kept_mk]; with_reducible apply upd_kept)
                 | with_reducible apply writeBytes_ok | split | exact id | dsimp only)

theorem subStopped_kept {z0 : State} (s : State) (k : Nat) (hz : Kept z0 s) : Kept z0 (State.subStopped s k) := by
  unfold State.subStopped
  repeat' (first | with_reducible assumption | decide | with_reducible apply ite_kept
                 | with_reducible apply subEnd_kept | with_reducible apply post_kept | split | exact id
                 | dsimp only)

theorem jobsLost_kept {z0 : State} (s : State) (hz : Kept z0 s) : Kept z0 (State.jobsLost s) := by
  unfold State.jobsLost
  repeat' (first | with_reducible assumption | decide | (simp only [kept_mk]; with_reducible apply upd_kept)
                 | exact id | dsimp only)

theorem endpointReset_kept {z0 : State} (s : State) (hz : Kept z0 s) : Kept z0 (State.endpointReset s) := by
  unfold State.endpointReset
  repeat' (first | with_reducible assumption | decide | intro _ _ _ | with_reducible apply ite_kept
                 | with_reducible apply each_kept | with_reducible apply subStopped_kept
                 | with_reducible apply jobsLost_kept | with_reducible apply ringEngineReset_kept | split
                 | exact id | dsimp only)

theorem functionReset_kept {z0 : State} (s : State) (hz : Kept z0 s) : Kept z0 (State.functionReset s) := by
  unfold State.functionReset
  repeat' (first | with_reducible assumption | decide | (simp only [kept_mk]; with_reducible apply upd_kept)
                 | exact id | dsimp only)

theorem perstEndpoint_kept {z0 : State} (s : State) (ns : Nat) (hz : Kept z0 s) :
    Kept z0 (State.perstEndpoint s ns) := by
  unfold State.perstEndpoint
  repeat' (first | with_reducible assumption | decide | with_reducible apply endpointReset_kept
                 | with_reducible apply functionReset_kept | with_reducible apply markDelayed_kept
                 | (simp only [kept_mk]; with_reducible apply upd_kept) | exact id | dsimp only)

theorem subGrant_kept {z0 : State} (s : State) (hz : Kept z0 s) :
    Kept z0 (State.subGrant s) := by
  unfold State.subGrant
  repeat' (first | with_reducible assumption | decide | intro _ _ _ | intro _ _ | with_reducible apply ite_kept
                 | with_reducible apply subWrite_kept | with_reducible apply granted_kept
                 | (simp only [kept_mk]; with_reducible apply upd_kept) | split | exact id | dsimp only)

theorem requestsAllowed_kept {z0 : State} (s : State) (hz : Kept z0 s) : Kept z0 (State.requestsAllowed s) := by
  unfold State.requestsAllowed
  repeat' (first | with_reducible assumption | decide | with_reducible apply flushIssue_kept
                 | with_reducible apply subGrant_kept | (simp only [kept_mk]; with_reducible apply upd_kept) | split
                 | exact id | dsimp only)

theorem summaryStart_kept {z0 : State} (s : State) (hz : Kept z0 s) :
    Kept z0 (State.summaryStart s) := by
  unfold State.summaryStart
  repeat' (first | with_reducible assumption | decide | with_reducible apply ite_kept | with_reducible apply w_kept
                 | (simp only [kept_mk]; with_reducible apply upd_kept) | split | exact id | dsimp only)

theorem writePart_wf (l : List Section) : ∀ {m : Mem} (base n : Nat), m.wf = true → (State.writePart m base l n).wf = true := by
  induction l with
  | nil => intro m base n h; exact h
  | cons x l ih => intro m base n h; exact ih _ _ (Mem.writeBytes_wf _ _ _ h)

theorem hostDumpLost_kept {z0 : State} (s : State) (hz : Kept z0 s) : Kept z0 (State.hostDumpLost s) := by
  unfold State.hostDumpLost
  repeat' (first | with_reducible assumption | decide | intro _ _ _ | intro _ _ | with_reducible apply ite_kept
                 | with_reducible apply w_kept
                 | with_reducible apply summaryStart_kept | (simp only [kept_mk]; with_reducible apply upd_kept)
                 | split | exact id | dsimp only)
  exact fun k => writePart_wf _ _ _ k

theorem setLink_kept {z0 : State} (s : State) (b : Bool) (hz : Kept z0 s) :
    Kept z0 (State.setLink s b) := by
  unfold State.setLink
  repeat' (first | with_reducible assumption | decide | (simp only [kept_mk]; with_reducible apply upd_kept) | split
                 | exact id | dsimp only)

theorem linkExit_kept {z0 : State} (s : State) (hz : Kept z0 s) : Kept z0 (State.linkExit s) := by
  unfold State.linkExit
  repeat' (first | with_reducible assumption | decide | with_reducible apply hostDumpLost_kept
                 | with_reducible apply setLink_kept | with_reducible apply markDelayed_kept
                 | (simp only [kept_mk]; with_reducible apply upd_kept) | split | exact id | dsimp only)

theorem linkEntry_kept {z0 : State} (s : State) (hz : Kept z0 s) : Kept z0 (State.linkEntry s) := by
  unfold State.linkEntry
  repeat' (first | with_reducible assumption | decide | with_reducible apply ite_kept
                 | with_reducible apply requestsAllowed_kept
                 | (simp only [kept_mk]; with_reducible apply upd_kept) | split | exact id | dsimp only)

theorem linkDownNow_kept {z0 : State} (s : State) (hz : Kept z0 s) : Kept z0 (State.linkDownNow s) := by
  unfold State.linkDownNow
  repeat' (first | with_reducible assumption | decide | intro _ _ _ | intro _ _ | with_reducible apply ite_kept
                 | with_reducible apply outranking_kept | with_reducible apply w_kept
                 | with_reducible apply autoSafe_kept | (simp only [kept_mk]; with_reducible apply upd_kept) | split
                 | exact id | dsimp only)

theorem lastFail_kept {z0 : State} (s : State) (hz : Kept z0 s) : Kept z0 (State.lastFail s) := by
  unfold State.lastFail
  repeat' (first | with_reducible assumption | decide | with_reducible apply ite_kept
                 | with_reducible apply w_kept | split | exact id | dsimp only)

theorem faultRecord_kept {z0 : State} (s : State) (cause detail : Nat) (hz : Kept z0 s) :
    Kept z0 (State.faultRecord s cause detail) := by
  unfold State.faultRecord
  repeat' (first | with_reducible assumption | decide | with_reducible apply w_kept | exact id | dsimp only)

theorem faultStop_kept {z0 : State} (s : State) (hz : Kept z0 s) : Kept z0 (State.faultStop s) := by
  unfold State.faultStop
  repeat' (first | with_reducible assumption | decide | intro _ _ _ | with_reducible apply ite_kept
                 | with_reducible apply each_kept | with_reducible apply subEnd_kept
                 | with_reducible apply w_kept | (simp only [kept_mk]; with_reducible apply upd_kept) | split
                 | exact id | dsimp only)

theorem safeWithdraw_kept {z0 : State} (s : State) (hz : Kept z0 s) :
    Kept z0 (State.safeWithdraw s) := by
  unfold State.safeWithdraw
  repeat' (first | with_reducible assumption | decide | intro _ _ _ | intro _ _
                 | (simp only [kept_mk]; with_reducible apply upd_kept) | split | exact id | dsimp only)

theorem bootEntered_kept {z0 : State} (s : State) (hz : Kept z0 s) :
    Kept z0 (State.bootEntered s) := by
  unfold State.bootEntered
  repeat' (first | with_reducible assumption | decide | with_reducible apply ite_kept | with_reducible apply w_kept
                 | with_reducible apply post_kept | (simp only [kept_mk]; with_reducible apply upd_kept) | split
                 | exact id | dsimp only)

theorem runEntered_kept {z0 : State} (s : State) (hz : Kept z0 s) :
    Kept z0 (State.runEntered s) := by
  unfold State.runEntered
  repeat' (first | with_reducible assumption | decide | with_reducible apply ite_kept | with_reducible apply w_kept
                 | with_reducible apply autoSafe_kept | with_reducible apply restoreAll_kept
                 | (simp only [kept_mk]; with_reducible apply upd_kept) | split | exact id | dsimp only)

theorem safeEntered_kept {z0 : State} (s : State) (hz : Kept z0 s) :
    Kept z0 (State.safeEntered s) := by
  unfold State.safeEntered
  repeat' (first | with_reducible assumption | decide | intro _ _ _ | intro _ _ | with_reducible apply each_kept
                 | with_reducible apply each_kept | with_reducible apply setCal_kept
                 | (simp only [kept_mk]; with_reducible apply upd_kept) | split | exact id | dsimp only)

theorem entered_kept {z0 : State} (s : State) (old d : DevState) (hz : Kept z0 s) :
    Kept z0 (State.entered s old d) := by
  unfold State.entered
  repeat' (first | with_reducible assumption | decide | with_reducible apply ite_kept
                 | with_reducible apply bootEntered_kept | with_reducible apply runEntered_kept
                 | with_reducible apply safeEntered_kept | (simp only [kept_mk]; with_reducible apply upd_kept)
                 | split | exact id | dsimp only)

theorem transStep_kept {z0 : State} (s : State) (hz : Kept z0 s) :
    Kept z0 (State.transStep s) := by
  unfold State.transStep
  repeat' (first | with_reducible assumption | decide | with_reducible apply enterState_kept
                 | with_reducible apply entered_kept | (simp only [kept_mk]; with_reducible apply upd_kept) | split
                 | exact id | dsimp only)

theorem transAll_kept {z0 : State} (s : State) (hz : Kept z0 s) :
    Kept z0 (State.transAll s) := by
  unfold State.transAll
  repeat' (first | with_reducible assumption | decide | with_reducible apply transStep_kept
                 | (simp only [kept_mk]; with_reducible apply upd_kept) | split | exact id | dsimp only)

theorem faultEnter_kept {z0 : State} (s : State) (cause detail : Nat) (hz : Kept z0 s) :
    Kept z0 (State.faultEnter s cause detail) := by
  unfold State.faultEnter
  repeat' (first | with_reducible assumption | decide | intro _ _ _ | intro _ _ | with_reducible apply ite_kept
                 | with_reducible apply outranking_kept | with_reducible apply safeWithdraw_kept
                 | with_reducible apply transAll_kept | with_reducible apply lastFail_kept
                 | with_reducible apply faultRecord_kept | with_reducible apply hbFault_kept
                 | with_reducible apply hkFault_kept | with_reducible apply battsEnd_kept
                 | with_reducible apply nvmStop_kept | with_reducible apply faultStop_kept
                 | with_reducible apply setDev_kept | (simp only [kept_mk]; with_reducible apply upd_kept) | split
                 | exact id | dsimp only)

theorem fatal_kept {z0 : State} (s : State) (cause detail : Nat) (hz : Kept z0 s) :
    Kept z0 (State.fatal s cause detail) := by
  unfold State.fatal
  repeat' (first | with_reducible assumption | decide | with_reducible apply ite_kept
                 | with_reducible apply w_kept | with_reducible apply faultEnter_kept
                 | (simp only [kept_mk]; with_reducible apply upd_kept) | split | exact id | dsimp only)

theorem firmwareRestart_kept {z0 : State} (s : State) (imageOk : Bool) (hz : Kept z0 s) :
    Kept z0 (State.firmwareRestart s imageOk) := by
  unfold State.firmwareRestart
  repeat' (first | with_reducible assumption | decide | with_reducible apply ite_kept
                 | with_reducible apply post_kept | with_reducible apply faultEnter_kept
                 | (simp only [kept_mk]; with_reducible apply upd_kept) | split | exact id | dsimp only)

theorem watchdogExpired_kept {z0 : State} (s : State) (imageOk : Bool) (hz : Kept z0 s) :
    Kept z0 (State.watchdogExpired s imageOk) := by
  unfold State.watchdogExpired
  repeat' (first | with_reducible assumption | decide | intro _ _ _ | intro _ _ | with_reducible apply ite_kept
                 | with_reducible apply outranking_kept | with_reducible apply transAll_kept
                 | with_reducible apply w_kept | with_reducible apply post_kept
                 | with_reducible apply faultEnter_kept | with_reducible apply autoSafe_kept
                 | with_reducible apply firmwareRestart_kept | (simp only [kept_mk]; with_reducible apply upd_kept)
                 | split | exact id | dsimp only)

theorem watchdogFatal_kept {z0 : State} (s : State) (hz : Kept z0 s) : Kept z0 (State.watchdogFatal s) := by
  unfold State.watchdogFatal
  repeat' (first | with_reducible assumption | decide | with_reducible apply ite_kept
                 | with_reducible apply fatal_kept | split | exact id | dsimp only)

theorem dumpRequest_kept {z0 : State} (s : State) (j : Job) (hz : Kept z0 s) : Kept z0 (State.dumpRequest s j) := by
  unfold State.dumpRequest
  repeat' (first | with_reducible assumption | decide | with_reducible apply ite_kept
                 | with_reducible apply finish_kept | with_reducible apply faultEnter_kept
                 | (simp only [kept_mk]; with_reducible apply upd_kept) | split | exact id | dsimp only)

theorem dumpEntry_kept {z0 : State} (s : State) (hz : Kept z0 s) : Kept z0 (State.dumpEntry s) := by
  unfold State.dumpEntry
  repeat' (first | with_reducible assumption | decide | with_reducible apply ite_kept | with_reducible apply w_kept
                 | with_reducible apply setDev_kept | with_reducible apply summaryStart_kept
                 | (simp only [kept_mk]; with_reducible apply upd_kept) | split | exact id | dsimp only)

theorem dumpEnd_kept {z0 : State} (s : State) (hz : Kept z0 s) : Kept z0 (State.dumpEnd s) := by
  unfold State.dumpEnd
  repeat' (first | with_reducible assumption | decide | with_reducible apply setDev_kept
                 | (simp only [kept_mk]; with_reducible apply upd_kept) | exact id | dsimp only)

theorem dumpTimeout_kept {z0 : State} (s : State) (hz : Kept z0 s) : Kept z0 (State.dumpTimeout s) := by
  unfold State.dumpTimeout
  repeat' (first | with_reducible assumption | decide | with_reducible apply ite_kept
                 | with_reducible apply w_kept | with_reducible apply dumpEnd_kept | split | exact id
                 | dsimp only)

theorem noImage_kept {z0 : State} (s : State) (hz : Kept z0 s) : Kept z0 (State.noImage s) := by
  unfold State.noImage
  repeat' (first | with_reducible assumption | decide | with_reducible apply ite_kept
                 | with_reducible apply w_kept | with_reducible apply faultEnter_kept | split | exact id
                 | dsimp only)

theorem firmwareStart_kept {z0 : State} (s : State) (init : FwInit) (hz : Kept z0 s) :
    Kept z0 (State.firmwareStart s init) := by
  unfold State.firmwareStart
  repeat' (first | with_reducible assumption | decide | intro _ _ _ | with_reducible apply each_kept
                 | with_reducible apply w_kept | with_reducible apply firmwareWrite_kept
                 | with_reducible apply xipRestart_kept | with_reducible apply calStart_kept | exact id
                 | dsimp only)

theorem headersRead_kept {z0 : State} (s : State) (a b : List Nat) (hz : Kept z0 s) :
    Kept z0 (State.headersRead s a b) := by
  unfold State.headersRead
  repeat' (first | with_reducible assumption | decide | with_reducible apply ite_kept | with_reducible apply w_kept
                 | with_reducible apply setMsp_kept | with_reducible apply wb_kept
                 | with_reducible apply noImage_kept | (simp only [kept_mk]; with_reducible apply upd_kept) | split
                 | exact id | dsimp only)

theorem bodyLoaded_kept {z0 : State} (s : State) (k : Nat) (body : List Nat) (init : FwInit) (hz : Kept z0 s) :
    Kept z0 (State.bodyLoaded s k body init) := by
  unfold State.bodyLoaded
  repeat' (first | with_reducible assumption | decide | with_reducible apply ite_kept | with_reducible apply w_kept
                 | with_reducible apply setMsp_kept | with_reducible apply firmwareStart_kept
                 | with_reducible apply noImage_kept | (simp only [kept_mk]; with_reducible apply upd_kept) | split
                 | exact id | dsimp only)

theorem hostImage_kept {z0 : State} (s : State) (ok : Bool) (init : FwInit) (hz : Kept z0 s) :
    Kept z0 (State.hostImage s ok init) := by
  unfold State.hostImage
  repeat' (first | with_reducible assumption | decide | with_reducible apply ite_kept | with_reducible apply w_kept
                 | with_reducible apply firmwareStart_kept | (simp only [kept_mk]; with_reducible apply upd_kept)
                 | split | exact id | dsimp only)

theorem bootComplete_kept {z0 : State} (s : State) (hz : Kept z0 s) : Kept z0 (State.bootComplete s) := by
  unfold State.bootComplete
  repeat' (first | with_reducible assumption | decide | with_reducible apply ite_kept
                 | with_reducible apply w_kept | with_reducible apply changeState_kept
                 | with_reducible apply post_kept | (simp only [kept_mk]; with_reducible apply upd_kept) | split
                 | exact id | dsimp only)

theorem bistRun_kept {z0 : State} (s : State) (j : Job) (hz : Kept z0 s) : Kept z0 (State.bistRun s j) := by
  unfold State.bistRun
  repeat' (first | with_reducible assumption | decide | with_reducible apply ite_kept
                 | with_reducible apply finish_kept | with_reducible apply w_kept
                 | with_reducible apply await_kept | with_reducible apply raiseStart_kept | split | exact id
                 | dsimp only)

theorem bistFinish_kept {z0 : State} (s : State) (st : Status) (r0 r1 : Nat) (hz : Kept z0 s) :
    Kept z0 (State.bistFinish s st r0 r1) := by
  unfold State.bistFinish
  repeat' (first | with_reducible assumption | decide | with_reducible apply ite_kept
                 | (simp only [kept_mk]; with_reducible apply upd_kept) | split | exact id | dsimp only)

theorem bistRefused_kept {z0 : State} (s : State) (hz : Kept z0 s) : Kept z0 (State.bistRefused s) := by
  unfold State.bistRefused
  repeat' (first | with_reducible assumption | decide | with_reducible apply w_kept
                 | with_reducible apply bistFinish_kept | exact id | dsimp only)

theorem bistDie_kept {z0 : State} (s : State) (sigs : Nat → Nat) (mems : Nat → Nat) (d : Nat) (hz : Kept z0 s) :
    Kept z0 (State.bistDie s sigs mems d) := by
  unfold State.bistDie
  repeat' (first | with_reducible assumption | decide | with_reducible apply ite_kept
                 | with_reducible apply w_kept | split | exact id | dsimp only)

theorem table_untested : (regTable.all fun sp => sp.fields.all fun f =>
    f.id != F.SYS_STATE_STATE.id || (sp.dims.isEmpty && decide (sp.base < 0x60000))) = true := by decide

theorem tested_ne {s : State} {sp : RegSpec} {f : Fld} {i : Nat} (hp : sp ∈ regTable) (hf : f ∈ sp.fields)
    (ht : s.bistTested sp i = true) : f.id ≠ F.SYS_STATE_STATE.id := by
  have h := List.all_eq_true.1 (List.all_eq_true.1 table_untested sp hp) f hf
  intro he
  simp [he] at h
  unfold State.bistTested State.partDie at ht
  rw [h.1] at ht
  have h1 : ¬0x10F000 ≤ sp.base := by omega
  have h2 : ¬0x60000 ≤ sp.base := by omega
  simp [h1, h2] at ht

theorem each_mem_kept {z s : State} {α : Type} {l : List α} {g : State → α → State} (h : Kept z s)
    (hg : ∀ s a, a ∈ l → Kept z s → Kept z (g s a)) : Kept z (State.each s l g) :=
  foldl_mem_kept l (fun s a ha hs => hg s a ha hs) s h

theorem bistRestore_kept {z0 : State} (s : State) (hz : Kept z0 s) : Kept z0 (State.bistRestore s) := by
  unfold State.bistRestore
  refine each_mem_kept hz fun s1 sp hp h1 => ?_
  refine each_mem_kept h1 fun s2 f hf h2 => ?_
  refine each_mem_kept h2 fun s3 i hi h3 => ?_
  exact w_kept _ _ _ _ h3 (tested_ne hp hf (List.mem_filter.1 hi).2)

theorem bistDone_kept {z0 : State} (s : State) (sigs : Nat → Nat) (mems : Nat → Nat) (hz : Kept z0 s) :
    Kept z0 (State.bistDone s sigs mems) := by
  unfold State.bistDone
  repeat' (first | with_reducible assumption | decide | intro _ _ _ | intro _ _ | with_reducible apply ite_kept
                 | with_reducible apply each_kept | with_reducible apply bistRestore_kept
                 | with_reducible apply w_kept | with_reducible apply each_kept | with_reducible apply bistDie_kept
                 | with_reducible apply raiseDrop_kept | with_reducible apply marginsSettle_kept
                 | with_reducible apply engineFault_kept | with_reducible apply bistFinish_kept
                 | with_reducible apply post_kept | (simp only [kept_mk]; with_reducible apply upd_kept) | split
                 | exact id | dsimp only)

theorem raiseGo_kept {z0 : State} (s : State) (c : Change) (hz : Kept z0 s) : Kept z0 (State.raiseGo s c) := by
  unfold State.raiseGo
  repeat' (first | with_reducible assumption | decide | with_reducible apply ite_kept
                 | with_reducible apply upGo_kept | (simp only [kept_mk]; with_reducible apply upd_kept) | split
                 | exact id | dsimp only)

theorem raiseRefused_kept {z0 : State} (s : State) (c : Change) (hz : Kept z0 s) :
    Kept z0 (State.raiseRefused s c) := by
  unfold State.raiseRefused
  repeat' (first | with_reducible assumption | decide | with_reducible apply ite_kept
                 | with_reducible apply upRefused_kept | with_reducible apply bistRefused_kept
                 | (simp only [kept_mk]; with_reducible apply upd_kept) | split | exact id | dsimp only)

theorem rateReady_kept {z0 : State} (s : State) (c : Change) (hz : Kept z0 s) : Kept z0 (State.rateReady s c) := by
  unfold State.rateReady
  repeat' (first | with_reducible assumption | decide | with_reducible apply ite_kept
                 | with_reducible apply raiseGo_kept | (simp only [kept_mk]; with_reducible apply upd_kept)
                 | split | exact id | dsimp only)

theorem rateTimeout_kept {z0 : State} (s : State) (c : Change) (hz : Kept z0 s) : Kept z0 (State.rateTimeout s c) := by
  unfold State.rateTimeout
  repeat' (first | with_reducible assumption | decide | with_reducible apply ite_kept
                 | with_reducible apply raiseGo_kept | with_reducible apply raiseLow_kept
                 | with_reducible apply raiseDenied_kept | with_reducible apply raiseRefused_kept
                 | (simp only [kept_mk]; with_reducible apply upd_kept) | split | exact id | dsimp only)

theorem timeSet_kept {z0 : State} (s : State) (j : Job) (hz : Kept z0 s) : Kept z0 (State.timeSet s j) := by
  unfold State.timeSet
  repeat' (first | with_reducible assumption | decide | with_reducible apply ite_kept
                 | with_reducible apply finish_kept | with_reducible apply w_kept
                 | with_reducible apply post_kept | split | exact id | dsimp only)

theorem hostReadFailed_kept {z0 : State} (s : State) (q i : Nat) (hz : Kept z0 s) :
    Kept z0 (State.hostReadFailed s q i) := by
  unfold State.hostReadFailed
  repeat' (first | with_reducible assumption | decide | with_reducible apply w_kept
                 | with_reducible apply finish_kept | exact id | dsimp only)

theorem hostReadError_kept {z0 : State} (s : State) (q i : Nat) (hz : Kept z0 s) :
    Kept z0 (State.hostReadError s q i) := by
  unfold State.hostReadError
  repeat' (first | with_reducible assumption | decide | with_reducible apply ite_kept
                 | with_reducible apply plankReadError_kept | with_reducible apply hostReadFailed_kept
                 | with_reducible apply dropXfer_kept | (simp only [kept_mk]; with_reducible apply upd_kept)
                 | split | exact id | dsimp only)

theorem thermalShut_kept {z0 : State} (s : State) (zs : List Nat) (hz : Kept z0 s) :
    Kept z0 (State.thermalShut s zs) := by
  unfold State.thermalShut
  repeat' (first | with_reducible assumption | decide | with_reducible apply ite_kept
                 | with_reducible apply shutRecord_kept | with_reducible apply resetCause_kept
                 | (simp only [kept_mk]; with_reducible apply upd_kept) | split | exact id | dsimp only)

theorem thermalNvm_kept {z0 : State} (s : State) (hz : Kept z0 s) : Kept z0 (State.thermalNvm s) := by
  unfold State.thermalNvm
  repeat' (first | with_reducible assumption | decide | with_reducible apply ite_kept
                 | with_reducible apply w_kept | with_reducible apply nvmStop_kept
                 | (simp only [kept_mk]; with_reducible apply upd_kept) | split | exact id | dsimp only)

theorem thermalTick_kept {z0 : State} (s : State) (rs : List (Option Reading)) (hz : Kept z0 s) :
    Kept z0 (State.thermalTick s rs) := by
  unfold State.thermalTick
  repeat' (first | with_reducible assumption | decide | with_reducible apply ite_kept
                 | with_reducible apply thermalSense_kept | with_reducible apply thermalShut_kept
                 | with_reducible apply thermalAct_kept | with_reducible apply thermalNvm_kept | split
                 | exact id | dsimp only)

theorem clearField_kept {z0 : State} (i v : Nat) (s : State) (f : Fld) (hz : Kept z0 s) (hf : f.id ≠ F.SYS_STATE_STATE.id) :
    Kept z0 (State.clearField i v s f) := by
  unfold State.clearField
  repeat' (first | with_reducible assumption | decide | with_reducible apply ite_kept
                 | with_reducible apply w_kept | split | exact id | dsimp only)

theorem readMulti_kept {z0 : State} (s : State) (m : Nat) (f : Fld) (i k : Nat) (hz : Kept z0 s) (hf : f.acc = .rc →
    f.id ≠ F.SYS_STATE_STATE.id) : Kept z0 (State.readMulti s m f i k).2 := by
  unfold State.readMulti
  dsimp only
  split
  · exact hz
  · split
    · refine (kept_mk ..).2 (upd_kept (s := if s.frozen = true then s else (s.dequeue i).2) ?_ id id id)
      exact ite_kept hz (dequeue_kept _ _ hz)
    · have h1 : Kept z0 { s with latches := keyPut s.latches (m, f.id, i) (s.readField f i) } :=
        (kept_mk ..).2 (upd_kept hz id id id)
      split
      · rename_i h
        refine w_kept _ _ _ _ h1 (hf ?_)
        simp only [Bool.and_eq_true, decide_eq_true_eq] at h
        exact h.1
      · exact h1

theorem readPart_kept {z0 : State} (m i k : Nat) (a : Nat × State) (f : Fld) (hz : Kept z0 a.2) (hf : f.acc = .rc →
    f.id ≠ F.SYS_STATE_STATE.id) : Kept z0 (State.readPart m i k a f).2 := by
  unfold State.readPart
  split
  · exact readMulti_kept _ _ _ _ _ hz hf
  · dsimp only
    split
    · rename_i h
      refine w_kept _ _ _ _ hz (hf ?_)
      simp only [Bool.and_eq_true, decide_eq_true_eq] at h
      exact h.1
    · exact hz

theorem readWord_kept {z0 : State} (s : State) (m off : Nat) (hz : Kept z0 s) :
    ∀ y, State.readWord s m off = some y → Kept z0 y.2 := by
  intro y hy
  unfold State.readWord at hy
  obtain ⟨h, hh, rfl⟩ := Option.map_eq_some_iff.1 hy
  dsimp only
  split
  · exact (kept_mk ..).2 (upd_kept hz id id id)
  · exact foldl_mem_kept2 _ (fun a f hm ha => readPart_kept m h.2.1 h.2.2 a f ha
      (rc_ne (locate_mem hh) (List.mem_filter.1 hm).1)) (0, s) hz

theorem busReadWord_kept {z0 : State} (m : Master) (a : List Nat × Bool × State) (off : Nat) (hz : Kept z0 a.2.2) :
    Kept z0 (State.busReadWord m a off).2.2 := by
  unfold State.busReadWord
  split
  · rename_i r hr
    exact readWord_kept _ _ _ hz r hr
  · exact hz

theorem busReadWords_kept {z0 : State} (m : Master) (l : List Nat) :
    ∀ a : List Nat × Bool × State, Kept z0 a.2.2 → Kept z0 (l.foldl (State.busReadWord m) a).2.2 := by
  induction l with
  | nil => intro a h; exact h
  | cons x l ih => intro a h; exact ih _ (busReadWord_kept m a x h)

theorem busRead_kept {z0 : State} (s : State) (m : Master) (off len : Nat) (hz : Kept z0 s) :
    Kept z0 (State.busRead s m off len) := by
  unfold State.busRead
  split
  · exact (kept_mk ..).2 (upd_kept (accErr_kept _ _ _ _ _ hz) id id id)
  · have h := busReadWords_kept m (State.accessWords off len) ([], false, s) hz
    exact (kept_mk ..).2 (upd_kept (accErr_kept _ _ _ _ _ h) id id id)

theorem excWritten_kept {z0 : State} (s old : State) (k : Nat) (hz : Kept z0 s) (ho : Kept z0 old) :
    Kept z0 (State.excWritten s old k) := by
  unfold State.excWritten
  repeat' (first | with_reducible assumption | decide | with_reducible apply ite_kept
                 | with_reducible apply w_kept | with_reducible apply excSettle_kept
                 | with_reducible apply excLevel_kept | (simp only [kept_mk]; with_reducible apply upd_kept)
                 | split | exact id | dsimp only)

theorem dacWritten_kept {z0 : State} (s old : State) (c k : Nat) (hz : Kept z0 s) (ho : Kept z0 old) :
    Kept z0 (State.dacWritten s old c k) := by
  unfold State.dacWritten
  repeat' (first | with_reducible assumption | decide | with_reducible apply ite_kept
                 | with_reducible apply dacClear_kept | with_reducible apply rangeChange_kept
                 | with_reducible apply dacForces_kept | split | dsimp only)

theorem written_kept {z0 : State} (s old : State) (base i k : Nat) (hz : Kept z0 s) (ho : Kept z0 old) :
    Kept z0 (State.written s old base i k) := by
  unfold State.written
  have h1 : Kept z0 (State.rerouted { s with held := old.markDelayed.held }) :=
    rerouted_kept _ ((kept_mk ..).2 (upd_kept hz id id id))
  repeat' (first | with_reducible assumption | decide | with_reducible apply ite_kept
                 | with_reducible apply setMode_kept | with_reducible apply setOuterMode_kept
                 | with_reducible apply squelch_kept | with_reducible apply mapSettle_kept
                 | with_reducible apply prbsSettle_kept | with_reducible apply excWritten_kept
                 | with_reducible apply setPoint_kept | with_reducible apply dacWritten_kept
                 | with_reducible apply pwmTiming_kept | with_reducible apply pwmForces_kept
                 | with_reducible apply xipRestart_kept | with_reducible apply setCont_kept
                 | with_reducible apply resetCause_kept | with_reducible apply markDelayed_kept
                 | with_reducible apply rerouted_kept | (simp only [kept_mk]; with_reducible apply upd_kept) | split
                 | exact id | dsimp only)

theorem stage_kept {z0 : State} (s : State) (m : Master) (sp : RegSpec) (i k v : Nat) (hz : Kept z0 s) :
    Kept z0 (State.stage s m sp i k v) := by
  unfold State.stage
  repeat' (first | with_reducible assumption | decide | intro _ _ _ | with_reducible apply ite_kept
                 | with_reducible apply each_kept | (simp only [kept_mk]; with_reducible apply upd_kept) | split
                 | exact id | dsimp only)

theorem writeReg_kept {z0 : State} (s : State) (m : Master) (sp : RegSpec) (i k v : Nat) (hz : Kept z0 s) (hp : sp
    ∈ regTable) : Kept z0 (State.writeReg s m sp i k v) := by
  unfold State.writeReg
  have hw : ∀ f ∈ sp.fields, f.acc ≠ .ro → f.id ≠ F.SYS_STATE_STATE.id := fun f hf ha => ro_ne hp hf ha
  have h1 := stage_kept s m sp i k v hz
  dsimp only
  have h3 := foldl_mem_kept ((sp.word k).filter fun f => f.acc == .w1c) (g := State.clearField i v)
    (fun t f hm ht => clearField_kept i v t f ht (hw f (List.mem_filter.1 (List.mem_filter.1 hm).1).1
      (by have := (List.mem_filter.1 hm).2; intro h; simp [h] at this))) _ h1
  split
  · exact h3
  · refine written_kept _ _ _ _ _ (writeFields_kept _ _ _ h3 fun p hp' => ?_) h3
    have hq := (List.mem_filter.1 (encAccepted_mem hp')).1
    obtain ⟨f, hf, hfe⟩ := List.mem_map.1 hq
    have hfe' : p.1 = f := by
      rw [← hfe]
      split <;> rfl
    rw [hfe']
    refine hw f (List.mem_filter.1 (List.mem_filter.1 hf).1).1 ?_
    have h4 := (List.mem_filter.1 hf).2
    intro h
    simp [h] at h4

theorem hbootGo_kept {z0 : State} (s : State) (v : Nat) (hz : Kept z0 s) : Kept z0 (State.hbootGo s v) := by
  unfold State.hbootGo
  repeat' (first | with_reducible assumption | decide | with_reducible apply ite_kept
                 | with_reducible apply w_kept | split | exact id | dsimp only)

theorem readmitBits_kept {z0 : State} (s : State) (w v : Nat) (hz : Kept z0 s) :
    Kept z0 (State.readmitBits s w v) := by
  unfold State.readmitBits
  repeat' (first | with_reducible assumption | decide | intro _ _ _ | with_reducible apply each_kept
                 | with_reducible apply w_kept | with_reducible apply readmit_kept | exact id | dsimp only)

theorem wordDo_kept {z0 : State} (s : State) (m : Master) (off v : Nat) (hz : Kept z0 s) :
    Kept z0 (State.wordDo s m off v) := by
  unfold State.wordDo
  split
  · exact hz
  · rename_i hl
    have hp := locate_mem hl
    repeat' (first | with_reducible assumption | decide | with_reducible apply ite_kept
                   | with_reducible apply resetCause_kept | with_reducible apply stateReq_kept
                   | with_reducible apply hbootGo_kept | with_reducible apply ringCtlDo_kept
                   | with_reducible apply readmitBits_kept | with_reducible apply writeReg_kept | dsimp only)

theorem busWriteWord_kept {z0 : State} (m : Master) (l : List (Nat × Nat)) (a : State.ErrBits × State) (x : Nat × Nat)
    (hz : Kept z0 a.2) : Kept z0 (State.busWriteWord m l a x).2 := by
  unfold State.busWriteWord
  repeat' (first | with_reducible assumption | decide | with_reducible apply ite_kept
                 | with_reducible apply wordDo_kept | (simp only [kept_mk]; with_reducible apply upd_kept) | split
                 | exact id | dsimp only)

theorem writeWords_kept {z0 : State} (s : State) (m : Master) (off : Nat) (l : List (Nat × Nat)) (hz : Kept z0 s) :
    Kept z0 (State.writeWords s m off l) := by
  unfold State.writeWords
  have h := foldl_kept2 (fun a f ha => busWriteWord_kept m l a f ha) l ({}, s) hz
  exact ite_kept (accErr_kept _ _ _ _ _ h) h

theorem busWrite_kept {z0 : State} (s : State) (m : Master) (off len : Nat) (allBytes : Bool) (vs : List Nat) (hz : Kept z0 s) :
    Kept z0 (State.busWrite s m off len allBytes vs) := by
  unfold State.busWrite
  repeat' (first | with_reducible assumption | decide | with_reducible apply ite_kept
                 | with_reducible apply accErr_kept | with_reducible apply writeWords_kept | split | exact id
                 | dsimp only)

theorem frameStart_kept {z0 : State} (s : State) (shape : Bool) (hz : Kept z0 s) :
    Kept z0 (State.frameStart s shape) := by
  unfold State.frameStart
  repeat' (first | with_reducible assumption | decide | with_reducible apply wb_kept | exact id | dsimp only)

theorem frameError_kept {z0 : State} (s : State) (cause cmd : Nat) (hz : Kept z0 s) :
    Kept z0 (State.frameError s cause cmd) := by
  unfold State.frameError
  repeat' (first | with_reducible assumption | decide | with_reducible apply w_kept
                 | with_reducible apply inc_kept | with_reducible apply post_kept | exact id | dsimp only)

theorem endOfMap_kept {z0 : State} (s : State) (hz : Kept z0 s) : Kept z0 (State.endOfMap s) := by
  unfold State.endOfMap
  repeat' (first | with_reducible assumption | decide | with_reducible apply w_kept | exact id | dsimp only)

theorem slaveWord_kept {z0 : State} (s : State) (off : Nat) (hz : Kept z0 s) :
    Kept z0 (State.slaveWord s off).2 := by
  unfold State.slaveWord
  split
  · rename_i r hr
    exact readWord_kept _ _ _ hz r hr
  · exact accErr_kept s.endOfMap { unmapped := true } Master.serial.code off false (endOfMap_kept _ hz)

theorem startFetch_kept {z0 : State} (s : State) (addr words : Nat) (hz : Kept z0 s) :
    Kept z0 (State.startFetch s addr words) := by
  unfold State.startFetch
  repeat' (first | with_reducible assumption | decide | with_reducible apply ite_kept
                 | with_reducible apply w_kept | with_reducible apply post_kept
                 | with_reducible apply setMsp_kept | with_reducible apply fetch_kept
                 | (simp only [kept_mk]; with_reducible apply upd_kept) | split | exact id | dsimp only)

theorem slaveReadFrom_kept {z0 : State} (s : State) (addr x2 : Nat) (hz : Kept z0 s) :
    Kept z0 (State.slaveReadFrom s addr x2).2 := by
  induction x2 generalizing s addr with
  | zero => exact hz
  | succ n ih =>
    unfold State.slaveReadFrom
    split
    · exact endOfMap_kept _ hz
    · split
      · exact startFetch_kept _ _ _ hz
      · exact ih _ _ (slaveWord_kept _ _ hz)

theorem slaveRead_kept {z0 : State} (s : State) (addr words : Nat) (hz : Kept z0 s) :
    Kept z0 (State.slaveRead s addr words) := by
  unfold State.slaveRead
  split
  · exact (kept_mk ..).2 (upd_kept (frameError_kept _ _ _ hz) id id id)
  · exact (kept_mk ..).2 (upd_kept (slaveReadFrom_kept s addr words hz) id id id)

theorem slaveWriteWord_kept {z0 : State} (s : State) (off v : Nat) (hz : Kept z0 s) :
    Kept z0 (State.slaveWriteWord s off v) := by
  unfold State.slaveWriteWord
  repeat' (first | with_reducible assumption | decide | with_reducible apply ite_kept
                 | with_reducible apply endOfMap_kept | with_reducible apply w_kept
                 | with_reducible apply writeWords_kept | split | exact id | dsimp only)

theorem slaveWriteFrom_kept {z0 : State} (s : State) (addr : Nat) (x2 : List Nat) (hz : Kept z0 s) :
    Kept z0 (State.slaveWriteFrom s addr x2) := by
  induction x2 generalizing s addr with
  | nil => exact hz
  | cons v vs ih =>
    unfold State.slaveWriteFrom
    split
    · exact hz
    · split
      · exact endOfMap_kept _ hz
      · exact ih _ _ (slaveWriteWord_kept _ _ _ hz)

theorem slaveWrite_kept {z0 : State} (s : State) (addr : Nat) (words : List Nat) (cut : Bool) (hz : Kept z0 s) :
    Kept z0 (State.slaveWrite s addr words cut) := by
  unfold State.slaveWrite
  repeat' (first | with_reducible assumption | decide | with_reducible apply ite_kept
                 | with_reducible apply frameError_kept | with_reducible apply slaveWriteFrom_kept | split
                 | exact id | dsimp only)

theorem slaveFetch_kept {z0 : State} (s : State) (words : Nat) (hz : Kept z0 s) :
    Kept z0 (State.slaveFetch s words) := by
  unfold State.slaveFetch
  repeat' (first | with_reducible assumption | decide | with_reducible apply ite_kept
                 | with_reducible apply setMsp_kept | with_reducible apply w_kept
                 | (simp only [kept_mk]; with_reducible apply upd_kept) | split | exact id | dsimp only)

theorem fetchWord_kept {z0 : State} (a : List Nat × State) (off : Nat) (hz : Kept z0 a.2) :
    Kept z0 (State.fetchWord a off).2 := by
  unfold State.fetchWord
  repeat' (first | with_reducible assumption | decide | with_reducible apply slaveWord_kept | dsimp only)

theorem fetchDone_kept {z0 : State} (s : State) (hz : Kept z0 s) : Kept z0 (State.fetchDone s) := by
  unfold State.fetchDone
  split
  · exact hz
  · have h := foldl_kept2 (fun a f ha => fetchWord_kept a f ha) s.msp.fetch ([], s) hz
    exact w_kept _ _ _ _ (w_kept _ _ _ _ (setMsp_kept _ _ h) (by decide)) (by decide)

theorem chainReply_kept {z0 : State} (s : State) (st addr v : Nat) (hz : Kept z0 s) :
    Kept z0 (State.chainReply s st addr v) := by
  unfold State.chainReply
  repeat' (first | with_reducible assumption | decide | with_reducible apply setMsp_kept
                 | (simp only [kept_mk]; with_reducible apply upd_kept) | exact id | dsimp only)

theorem chainError_kept {z0 : State} (s : State) (clocks : Nat) (hz : Kept z0 s) :
    Kept z0 (State.chainError s clocks) := by
  unfold State.chainError
  repeat' (first | with_reducible assumption | decide | with_reducible apply w_kept
                 | with_reducible apply inc_kept | with_reducible apply post_kept | exact id | dsimp only)

theorem chainRead_kept {z0 : State} (s : State) (addr : Nat) (hz : Kept z0 s) :
    Kept z0 (State.chainRead s addr) := by
  unfold State.chainRead
  split
  · exact chainReply_kept _ _ _ _ hz
  · exact chainReply_kept _ _ _ _ (slaveWord_kept _ _ hz)

theorem chainWrite_kept {z0 : State} (s : State) (addr v : Nat) (hz : Kept z0 s) :
    Kept z0 (State.chainWrite s addr v) := by
  unfold State.chainWrite
  repeat' (first | with_reducible assumption | decide | with_reducible apply ite_kept
                 | with_reducible apply slaveWriteWord_kept | with_reducible apply chainReply_kept | split
                 | exact id | dsimp only)

theorem chainAct_kept {z0 : State} (s : State) (w : Nat) (hz : Kept z0 s) : Kept z0 (State.chainAct s w) := by
  unfold State.chainAct
  repeat' (first | with_reducible assumption | decide | with_reducible apply ite_kept
                 | with_reducible apply w_kept | with_reducible apply hbChain_kept
                 | with_reducible apply chainReply_kept | with_reducible apply chainRead_kept
                 | with_reducible apply chainWrite_kept | (simp only [kept_mk]; with_reducible apply upd_kept)
                 | split | exact id | dsimp only)

theorem chainOut_kept {z0 : State} (s : State) (clocks x : Nat) (hz : Kept z0 s) :
    Kept z0 (State.chainOut s clocks x) := by
  unfold State.chainOut
  repeat' (first | with_reducible assumption | decide | intro _ _ _ | intro _ _
                 | (simp only [kept_mk]; with_reducible apply upd_kept) | split | exact id | dsimp only)

theorem chainRelease_kept {z0 : State} (s : State) (clocks x : Nat) (hz : Kept z0 s) :
    Kept z0 (State.chainRelease s clocks x) := by
  unfold State.chainRelease
  repeat' (first | with_reducible assumption | decide | with_reducible apply ite_kept | with_reducible apply w_kept
                 | with_reducible apply chainError_kept | with_reducible apply chainOut_kept
                 | with_reducible apply chainAct_kept | with_reducible apply chainReply_kept
                 | (simp only [kept_mk]; with_reducible apply upd_kept) | split | exact id | dsimp only)

theorem subStart_kept {z0 : State} (s : State) (j : Job) (l : List (Nat × Nat)) (hz : Kept z0 s) :
    Kept z0 (State.subStart s j l) := by
  unfold State.subStart
  repeat' (first | with_reducible assumption | decide | with_reducible apply ite_kept
                 | with_reducible apply finish_kept | with_reducible apply setSub_kept
                 | with_reducible apply w_kept | split | exact id | dsimp only)

theorem subStop_kept {z0 : State} (s : State) (j : Job) (hz : Kept z0 s) : Kept z0 (State.subStop s j) := by
  unfold State.subStop
  repeat' (first | with_reducible assumption | decide | with_reducible apply ite_kept
                 | with_reducible apply finish_kept | with_reducible apply setSub_kept
                 | with_reducible apply await_kept | with_reducible apply subEnd_kept
                 | (simp only [kept_mk]; with_reducible apply upd_kept) | split | exact id | dsimp only)

theorem subscribe_kept {z0 : State} (s : State) (j : Job) (hz : Kept z0 s) : Kept z0 (State.subscribe s j) := by
  unfold State.subscribe
  repeat' (first | with_reducible assumption | decide | with_reducible apply ite_kept
                 | with_reducible apply finish_kept | with_reducible apply subStop_kept
                 | with_reducible apply subStart_kept | split | exact id | dsimp only)

theorem subRead_kept {z0 : State} (a : List Nat × State) (off : Nat) (hz : Kept z0 a.2) :
    Kept z0 (State.subRead a off).2 := by
  unfold State.subRead
  split
  · rename_i r hr
    exact readWord_kept _ _ _ hz r hr
  · exact hz

theorem subRecord_kept {z0 : State} (s : State) (k count : Nat) (payload : List Nat) (time : Nat) (hz : Kept z0 s) :
    Kept z0 (State.subRecord s k count payload time) := by
  unfold State.subRecord
  repeat' (first | with_reducible assumption | decide | with_reducible apply setSub_kept
                 | with_reducible apply subGrant_kept | (simp only [kept_mk]; with_reducible apply upd_kept) | split
                 | exact id | dsimp only)

theorem subPeriod_kept {z0 : State} (s : State) (k : Nat) (hz : Kept z0 s) : Kept z0 (State.subPeriod s k) := by
  unfold State.subPeriod
  dsimp only
  split
  · exact hz
  · split
    · exact inc_kept _ _ _ _ (setSub_kept _ _ _ hz) (by decide)
    · exact subRecord_kept _ _ _ _ _ (foldl_kept2 (fun a f ha => subRead_kept a f ha) _ ([], s) hz)

theorem takeEntries_kept {z0 : State} (s : State) (c x2 : Nat) (hz : Kept z0 s) :
    Kept z0 (State.takeEntries s c x2).2 := by
  induction x2 generalizing s with
  | zero => exact hz
  | succ n ih => exact ih _ (dequeue_kept _ _ hz)

theorem subQueue_kept {z0 : State} (s : State) (k : Nat) (period : Bool) (hz : Kept z0 s) :
    Kept z0 (State.subQueue s k period) := by
  unfold State.subQueue
  dsimp only
  split
  · exact hz
  · exact subRecord_kept _ _ _ _ _ (takeEntries_kept _ _ _ hz)

theorem hostDumpWrite_kept {z0 : State} (s : State) (fw : List Nat) (hz : Kept z0 s) :
    Kept z0 (State.hostDumpWrite s fw) := by
  unfold State.hostDumpWrite
  refine w_kept _ _ _ _ (w_kept _ _ _ _ ((kept_mk ..).2 (upd_kept hz (writeBytes_ok fun k => ?_) id id)) (by decide)) (by decide)
  exact writeSections_wf _ _ k

theorem flashDumpWrite_kept {z0 : State} (s : State) (fw : List Nat) (hz : Kept z0 s) :
    Kept z0 (State.flashDumpWrite s fw) := by
  unfold State.flashDumpWrite
  repeat' (first | with_reducible assumption | decide | intro _ _ _ | intro _ _
                 | with_reducible apply setMsp_kept | with_reducible apply w_kept
                 | (simp only [kept_mk]; with_reducible apply upd_kept) | split | exact id | dsimp only)

theorem summaryDone_kept {z0 : State} (s : State) (fw : List Nat) (hz : Kept z0 s) :
    Kept z0 (State.summaryDone s fw) := by
  unfold State.summaryDone
  repeat' (first | with_reducible assumption | decide | with_reducible apply ite_kept | with_reducible apply w_kept
                 | with_reducible apply flashDumpWrite_kept | (simp only [kept_mk]; with_reducible apply upd_kept)
                 | split | exact id | dsimp only)

theorem dumpComplete_kept {z0 : State} (s : State) (fw : List Nat) (hz : Kept z0 s) :
    Kept z0 (State.dumpComplete s fw) := by
  unfold State.dumpComplete
  repeat' (first | with_reducible assumption | decide | with_reducible apply ite_kept
                 | with_reducible apply hostDumpWrite_kept | with_reducible apply dumpEnd_kept
                 | with_reducible apply summaryDone_kept | (simp only [kept_mk]; with_reducible apply upd_kept)
                 | split | exact id | dsimp only)

end Sys2Proof.Machine
end

