-- ==== Sys2Proof/Laws/Nvm.lean ====
section
/-! SUPPORT. Laws of the calibration array: what a write reads back, what an erasure leaves, values inside a read, when a
record written to a bank is valid, the program log of an array that ends early, and CRCs of long runs (R138-R145). -/

namespace Sys2Proof

open Sys2Proof.Machine

/-! ### Little-endian values -/

@[simp] theorem leBytes_length (n v : Nat) : (leBytes n v).length = n := by
  induction n generalizing v with
  | zero => rfl
  | succ n ih => simp [leBytes, ih]

theorem leBytes_lt (n v : Nat) : ∀ b ∈ leBytes n v, b < 256 := by
  induction n generalizing v with
  | zero => simp [leBytes]
  | succ n ih =>
    intro b hb
    simp only [leBytes, List.mem_cons] at hb
    obtain rfl | hb := hb
    · exact Nat.mod_lt _ (by decide)
    · exact ih _ b hb

theorem leVal_leBytes (n v : Nat) : leVal (leBytes n v) = v % 256 ^ n := by
  induction n generalizing v with
  | zero => simp [leBytes, leVal, Nat.mod_one]
  | succ n ih =>
    simp only [leBytes, leVal, ih, Nat.mod_mod]
    rw [Nat.pow_succ, Nat.mul_comm (256 ^ n) 256, Nat.mod_mul]

/-- A field of a list of bytes laid out in three parts. -/
theorem leAt_middle (xs ys zs : List Nat) (o n : Nat) (ho : xs.length = o) (hn : ys.length = n) :
    leAt (xs ++ (ys ++ zs)) o n = leVal ys := by
  subst ho hn
  simp [leAt]

/-! ### The array -/

/-- A byte after a write. -/
theorem Machine.NvmH.byte_write (l : List Nat) (m : NvmH) (a x : Nat) :
    (m.write a l).byte x = if a ≤ x ∧ x < a + l.length then BitVec.ofNat 8 (l.getD (x - a) 0) else m.byte x := by
  induction l generalizing m a with
  | nil =>
    simp only [NvmH.write, List.length_nil, Nat.add_zero]
    rw [if_neg (by omega)]
  | cons b l ih =>
    simp only [NvmH.write, ih, List.length_cons]
    by_cases h : x = a
    · subst h
      rw [if_neg (by omega), if_pos (by omega)]
      simp [NvmH.byte, Tab.get_set]
    · by_cases h2 : a + 1 ≤ x ∧ x < a + 1 + l.length
      · rw [if_pos h2, if_pos (by omega)]
        obtain ⟨k, rfl⟩ : ∃ k, x = a + 1 + k := ⟨x - (a + 1), by omega⟩
        simp [show a + 1 + k - a = k + 1 by omega]
      · rw [if_neg h2, if_neg (by omega)]
        simp [NvmH.byte, Tab.get_set, h]

/-- A write changes bytes and nothing else. -/
theorem Machine.NvmH.write_frame (l : List Nat) (m : NvmH) (a : Nat) : m.write a l = { m with bytes := (m.write a l).bytes } := by
  induction l generalizing m a with
  | nil => rfl
  | cons b l ih =>
    simp only [NvmH.write]
    rw [ih]

/-- A write reads back as written. -/
theorem Machine.NvmH.read_write (m : NvmH) (a : Nat) (l : List Nat) (h : ∀ b ∈ l, b < 256) :
    (m.write a l).read a l.length = l := by
  apply List.ext_getElem
  · simp [NvmH.read]
  · intro k h1 h2
    have hb : l[k] < 256 := h _ (List.getElem_mem h2)
    simp only [NvmH.read, List.getElem_map, List.getElem_range, NvmH.byte_write]
    rw [if_pos (by omega), Nat.add_sub_cancel_left, List.getD_eq_getElem?_getD, List.getElem?_eq_getElem h2]
    simp [Nat.mod_eq_of_lt hb]

@[simp] theorem Machine.NvmH.read_length (m : NvmH) (a n : Nat) : (m.read a n).length = n := by simp [NvmH.read]

/-- A read inside a read. -/
theorem Machine.NvmH.drop_take_read (m : NvmH) (a n o k : Nat) (h : o + k ≤ n) :
    ((m.read a n).drop o).take k = m.read (a + o) k := by
  apply List.ext_getElem
  · simp only [List.length_take, List.length_drop, NvmH.read_length]
    omega
  · intro i h1 h2
    simp [NvmH.read, Nat.add_assoc]

theorem Machine.NvmH.leAt_read (m : NvmH) (a n o k : Nat) (h : o + k ≤ n) :
    leAt (m.read a n) o k = leVal (m.read (a + o) k) := by rw [leAt, NvmH.drop_take_read m a n o k h]

/-- An erasure leaves the other banks. -/
theorem Machine.NvmH.byte_erase (m : NvmH) (b x : Nat) :
    (m.erase b).byte x = if x / bankBytes = b then Nvm.blank else m.byte x := by
  unfold NvmH.erase NvmH.byte
  generalize m.bytes = t
  induction t with
  | nil => simp [Tab.get]
  | cons e t ih =>
    obtain ⟨k, v⟩ := e
    by_cases hk : k / bankBytes = b
    · rw [List.filter_cons_of_neg (by simp [hk]), ih]
      split
      · rfl
      · rename_i hx
        simp only [Tab.get]
        rw [if_neg (by rintro rfl; exact hx hk)]
    · rw [List.filter_cons_of_pos (by simp [hk])]
      simp only [Tab.get]
      by_cases hx : k = x
      · subst hx
        simp [hk]
      · simp only [if_neg hx, ih]

theorem Machine.NvmH.isBlank_erase (m : NvmH) (b : Nat) : (m.erase b).isBlank b = true := by
  simp [NvmH.isBlank, NvmH.erase]

/-- A bank that reads another magic number first holds no valid record. -/
theorem Machine.NvmH.not_valid (m : NvmH) (b : Nat) (h : leVal (m.read (b * bankBytes) 4) ≠ 0x42434C4F) :
    m.valid b = false := by
  have h2 : leAt (m.read (b * bankBytes) recordLen) 0 4 ≠ 0x42434C4F := by
    rw [NvmH.leAt_read _ _ _ _ _ (by unfold recordLen; omega), Nat.add_zero]
    exact h
  unfold NvmH.valid
  dsimp only
  rw [beq_eq_false_iff_ne.mpr h2]
  simp only [Bool.false_and]

/-! ### CRC-32C keeps to 32 bits -/

theorem Machine.crcBit_lt {c : Nat} (h : c < 2 ^ 32) : crcBit c < 2 ^ 32 := by
  unfold crcBit
  split
  · exact Nat.xor_lt_two_pow (by omega) (by decide)
  · omega

theorem Machine.crcByte_lt {c b : Nat} (h : c < 2 ^ 32) (hb : b < 2 ^ 32) : crcByte c b < 2 ^ 32 := by
  unfold crcByte
  repeat apply crcBit_lt
  exact Nat.xor_lt_two_pow h hb

theorem Machine.crc32c_lt (bs : List Nat) (h : ∀ b ∈ bs, b < 256) : crc32c bs < 2 ^ 32 := by
  have : ∀ (l : List Nat) (c : Nat), (∀ b ∈ l, b < 256) → c < 2 ^ 32 → l.foldl crcByte c < 2 ^ 32 := by
    intro l
    induction l with
    | nil => exact fun c _ hc => hc
    | cons b l ih =>
      intro c hl hc
      exact ih _ (fun x hx => hl x (List.mem_cons_of_mem _ hx))
        (crcByte_lt hc (Nat.lt_trans (hl b (List.mem_cons_self ..)) (by decide)))
  exact Nat.xor_lt_two_pow (this bs _ h (by decide)) (by decide)

/-! ### A valid record -/

/-- The first 252 bytes of a record with sequence number `seq` and then the bytes `rest` (R139). -/
def headBytes (seq : Nat) (rest : List Nat) : List Nat :=
  leBytes 4 0x42434C4F ++ (leBytes 2 1 ++ (leBytes 2 0x100 ++ (leBytes 4 recordLen ++ (leBytes 4 seq ++ rest))))

/-- A whole record: head, its CRC, sections, CRC and end mark (R139, R141). -/
def recordOf (head secs : List Nat) : List Nat :=
  let body := head ++ (leBytes 4 (crc32c head) ++ secs)
  body ++ (leBytes 4 (crc32c body) ++ leBytes 4 0x43444E45)

/-- A bank that reads such a record holds a valid one. -/
theorem Machine.NvmH.valid_of_read (m : NvmH) (b seq : Nat) (rest secs : List Nat) (hr : rest.length = 236)
    (hs : secs.length = 0x78000) (h1 : ∀ x ∈ rest, x < 256) (h2 : ∀ x ∈ secs, x < 256) (hq : seq ≤ 0xFFFFFFFE)
    (h : m.read (b * bankBytes) recordLen = recordOf (headBytes seq rest) secs) : m.valid b = true := by
  have hl : (headBytes seq rest).length = 0xFC := by simp [headBytes, hr]
  have hb : ∀ x ∈ headBytes seq rest, x < 256 := by
    intro x hx
    simp only [headBytes, List.mem_append] at hx
    rcases hx with hx | hx | hx | hx | hx | hx
    iterate 5 exact leBytes_lt _ _ x hx
    exact h1 x hx
  have hB : ∀ x ∈ headBytes seq rest ++ (leBytes 4 (crc32c (headBytes seq rest)) ++ secs), x < 256 := by
    intro x hx
    simp only [List.mem_append] at hx
    rcases hx with hx | hx | hx
    · exact hb x hx
    · exact leBytes_lt _ _ x hx
    · exact h2 x hx
  have c1 := crc32c_lt _ hb
  have c2 := crc32c_lt _ hB
  have lB : (headBytes seq rest ++ (leBytes 4 (crc32c (headBytes seq rest)) ++ secs)).length = 0x78100 := by
    simp [hl, hs]
  unfold NvmH.valid
  rw [h]
  have e : recordOf (headBytes seq rest) secs = leBytes 4 0x42434C4F ++ (leBytes 2 1 ++ (leBytes 2 0x100 ++
      (leBytes 4 recordLen ++ (leBytes 4 seq ++ (rest ++ (leBytes 4 (crc32c (headBytes seq rest)) ++ secs ++
        (leBytes 4 (crc32c (headBytes seq rest ++ (leBytes 4 (crc32c (headBytes seq rest)) ++ secs))) ++
          leBytes 4 0x43444E45))))))) := by
    simp only [recordOf, List.append_assoc]
    simp only [headBytes, List.append_assoc]
  have k0 : leAt (recordOf (headBytes seq rest) secs) 0 4 = 0x42434C4F := by
    rw [e, ← List.nil_append (leBytes 4 0x42434C4F ++ _), leAt_middle [] _ _ 0 4 rfl (by simp), leVal_leBytes]
    all_goals rfl
  have k4 : leAt (recordOf (headBytes seq rest) secs) 4 2 = 1 := by
    rw [e, leAt_middle _ _ _ 4 2 (by simp) (by simp), leVal_leBytes]
    all_goals rfl
  have k6 : leAt (recordOf (headBytes seq rest) secs) 6 2 = 0x100 := by
    rw [e, ← List.append_assoc, leAt_middle _ _ _ 6 2 (by simp) (by simp), leVal_leBytes]
    all_goals rfl
  have k8 : leAt (recordOf (headBytes seq rest) secs) 8 4 = recordLen := by
    rw [e, ← List.append_assoc, ← List.append_assoc, leAt_middle _ _ _ 8 4 (by simp) (by simp), leVal_leBytes]
    rfl
  have kC : leAt (recordOf (headBytes seq rest) secs) 0xC 4 = seq := by
    rw [e, ← List.append_assoc, ← List.append_assoc, ← List.append_assoc, leAt_middle _ _ _ 0xC 4 (by simp) (by simp),
      leVal_leBytes, Nat.mod_eq_of_lt (by omega)]
  have kF : leAt (recordOf (headBytes seq rest) secs) 0xFC 4 = crc32c (headBytes seq rest) := by
    simp only [recordOf, List.append_assoc]
    rw [leAt_middle _ _ _ 0xFC 4 hl (by simp), leVal_leBytes, Nat.mod_eq_of_lt (by omega)]
  have kB : leAt (recordOf (headBytes seq rest) secs) 0x78100 4 =
      crc32c (headBytes seq rest ++ (leBytes 4 (crc32c (headBytes seq rest)) ++ secs)) := by
    simp only [recordOf]
    rw [leAt_middle _ _ _ 0x78100 4 lB (by simp), leVal_leBytes, Nat.mod_eq_of_lt (by omega)]
  have kE : leAt (recordOf (headBytes seq rest) secs) 0x78104 4 = 0x43444E45 := by
    simp only [recordOf]
    rw [← List.append_assoc, ← List.append_nil (leBytes 4 0x43444E45),
      leAt_middle _ _ _ 0x78104 4 (by rw [List.length_append, lB, leBytes_length]) (by simp), leVal_leBytes]
    all_goals rfl
  have tF : (recordOf (headBytes seq rest) secs).take 0xFC = headBytes seq rest := by
    simp only [recordOf, List.append_assoc]
    rw [← hl, List.take_left]
  have tB : (recordOf (headBytes seq rest) secs).take 0x78100 =
      headBytes seq rest ++ (leBytes 4 (crc32c (headBytes seq rest)) ++ secs) := by
    simp only [recordOf]
    rw [← lB, List.take_left]
  simp only [k0, k4, k6, k8, kC, kF, kB, kE, tF, tB, beq_self_eq_true, Bool.and_self, Bool.true_and, decide_eq_true_eq]
  exact hq

/-- Length of a record. -/
theorem recordOf_length (head secs : List Nat) (hl : head.length = 0xFC) (hs : secs.length = 0x78000) :
    (recordOf head secs).length = recordLen := by
  simp [recordOf, hl, hs, recordLen]

/-! ### The program log -/

/-- A table with no key from `lo` on reads its default there. -/
theorem Tab.get_above {α : Type} (l : Tab α) (lo : Nat) (d : α) (h : (l.all fun c => decide (c.1 < lo)) = true) (a : Nat)
    (ha : lo ≤ a) : l.get a d = d := by
  induction l with
  | nil => rfl
  | cons c l ih =>
    simp only [List.all_cons, Bool.and_eq_true, decide_eq_true_eq] at h
    show (if c.1 = a then c.2 else Tab.get l a d) = _
    rw [if_neg (by omega)]
    exact ih h.2

/-- Where no byte from `lo` on is programmed, such a byte is erased. -/
theorem Machine.NvmH.byte_above (m : NvmH) (lo : Nat) (h : (m.bytes.all fun c => decide (c.1 < lo)) = true) (a : Nat)
    (ha : lo ≤ a) : m.byte a = Nvm.blank := Tab.get_above _ lo _ h a ha

/-- Slots of bank b from `n` on are free where nothing from slot `n` on is programmed. -/
theorem Machine.NvmH.slot_above (m : NvmH) (b n : Nat)
    (h : (m.bytes.all fun c => decide (c.1 < b * bankBytes + logBase + 8 * n)) = true) (i : Nat) (hi : n ≤ i) :
    m.slot b i = [255, 255, 255, 255, 255, 255, 255, 255] := by
  have e (k : Nat) : m.byte (b * bankBytes + logBase + 8 * i + k) = Nvm.blank := m.byte_above _ h _ (by omega)
  simp only [NvmH.slot, NvmH.read, e]
  rfl

/-- The log is read from the slots in front of the free ones. -/
theorem Machine.NvmH.log_upTo (m : NvmH) (b n : Nat) (hn : n ≤ logSlots)
    (h : (m.bytes.all fun c => decide (c.1 < b * bankBytes + logBase + 8 * n)) = true) :
    m.log b = (List.range n).filterMap fun i => NvmH.slotEntry (m.slot b i) := by
  obtain ⟨k, hk⟩ := Nat.le.dest hn
  unfold NvmH.log
  rw [← hk, List.range_add, List.filterMap_append, List.filterMap_map]
  rw [show (List.range k).filterMap ((fun i => NvmH.slotEntry (m.slot b i)) ∘ (n + ·)) = [] from ?_, List.append_nil]
  rw [List.filterMap_eq_nil_iff]
  intro i _
  show NvmH.slotEntry (m.slot b (n + i)) = none
  rw [m.slot_above b n h _ (Nat.le_add_right n i)]
  rfl

theorem Machine.NvmH.nextSlot_upTo (m : NvmH) (b n : Nat) (hn : n ≤ logSlots)
    (h : (m.bytes.all fun c => decide (c.1 < b * bankBytes + logBase + 8 * n)) = true) : m.nextSlot b ≤ n := by
  obtain ⟨k, hk⟩ := Nat.le.dest hn
  unfold NvmH.nextSlot
  rw [← hk, List.range_add, List.foldl_append, List.foldl_map]
  have h1 : ∀ (l : List Nat) (x : Nat), l.foldl (fun a i => if NvmH.slotFree (m.slot b (n + i)) then a else n + i + 1) x = x := by
    intro l
    induction l with
    | nil => intro x; rfl
    | cons i l ih =>
      intro x
      rw [List.foldl_cons, ih, m.slot_above b n h _ (Nat.le_add_right n i)]
      rfl
  rw [h1]
  have h2 : ∀ (l : List Nat) (x : Nat), (∀ i ∈ l, i < n) → x ≤ n →
      l.foldl (fun a i => if NvmH.slotFree (m.slot b i) then a else i + 1) x ≤ n := by
    intro l
    induction l with
    | nil => intro x _ hx; exact hx
    | cons i l ih =>
      intro x hl hx
      rw [List.foldl_cons]
      refine ih _ (fun j hj => hl j (List.mem_cons_of_mem _ hj)) ?_
      have := hl i List.mem_cons_self
      split <;> omega
  exact h2 _ 0 (fun i hi => List.mem_range.mp hi) (Nat.zero_le n)

theorem Machine.NvmH.logDirty_none (m : NvmH) (b : Nat)
    (h : (m.bytes.all fun c => decide (c.1 < b * bankBytes + logBase + 8 * 0)) = true) : m.logDirty b = false := by
  unfold NvmH.logDirty
  rw [List.any_eq_false]
  intro i _
  rw [m.slot_above b 0 h i (Nat.zero_le i)]
  exact Bool.false_ne_true

/-- The programs known to the device, where the log is read up to slot `n`. -/
theorem Machine.State.programs_upTo (s : State) (n : Nat) (hn : n ≤ logSlots)
    (h : (s.nvm.bytes.all fun c => decide (c.1 < s.logBank * bankBytes + logBase + 8 * n)) = true) :
    s.programs = s.recordPrograms ++ (List.range n).filterMap fun i => NvmH.slotEntry (s.nvm.slot s.logBank i) := by
  unfold State.programs
  rw [s.nvm.log_upTo _ n hn h]

/-! ### CRCs of long runs -/

/-- A fold over numbers that takes each value before the next. -/
def foldStrict (f : Nat → Nat → Nat) : List Nat → Nat → Nat
  | [], a => a
  | b :: bs, a =>
    match f a b with
    | 0 => foldStrict f bs 0
    | n + 1 => foldStrict f bs (n + 1)

theorem foldStrict_eq (f : Nat → Nat → Nat) (l : List Nat) (a : Nat) : foldStrict f l a = l.foldl f a := by
  induction l generalizing a with
  | nil => rfl
  | cons b l ih =>
    rw [foldStrict, List.foldl_cons]
    split <;> rename_i h <;> rw [ih, h]

theorem crc32c_strict (bs : List Nat) : crc32c bs = foldStrict crcByte bs 0xFFFFFFFF ^^^ 0xFFFFFFFF := by
  rw [foldStrict_eq, crc32c]

end Sys2Proof
end

