-- ==== Sys2Proof/Machine/Endpoint.lean ====
section
/-! DEFINITION. The PCIe endpoint as the host finds it: its configuration identity, its BARs, the MSI-X table and the
pending bit array (spec/10_command_rings.md R266, R290). No command of the table reads them. -/

namespace Sys2Proof.Machine

open Sys2Proof

/-- Max Payload Size and Max Read Request Size in bytes, the outstanding non-posted requests and the MSI-X vectors
(R266). -/
def maxPayload : Nat := 512
def maxReadRequest : Nat := 4096
def maxOutstanding : Nat := 512
def msixVectors : Nat := 2048

/-- The link's rates in GT/s, the first in Flit Mode and the others in non-Flit Mode, and its widths; Lane reversal and
polarity inversion are supported (R266). -/
def linkRates : List Nat := [64, 32, 16]
def linkWidths : List Nat := [8, 4, 1]

/-- Power management: the states D0 and D3hot, No_Soft_Reset, and ASPM L1 alone when the host enables it (R266). -/
def powerStates : List Nat := [0, 3]
def noSoftReset : Bool := true
def aspmState : Nat := 1

/-- The size in bytes of the memory behind a BAR: BAR0/1, BAR2/3 and BAR4/5, each 64-bit and non-prefetchable; no other
(R46, R48, R266). -/
def barSize : Nat → Option Nat
  | 0 => some 0x4000000
  | 2 => some 0x200000
  | 4 => some 0x10000
  | _ => none

/-- Where BAR4 holds the MSI-X table and the pending bit array (R266). -/
def msixTableAt : Nat := 0
def msixPbaAt : Nat := 0x8000

namespace State

/-- The identity words of configuration space, in the places that PCIe 6.0 gives a type 0 header: Device and Vendor ID,
class code and Revision ID, Subsystem ID and Subsystem Vendor ID; they read right from the first request (R85, R266). -/
def configId (s : State) (off : Nat) : Option Nat :=
  match off with
  | 0x00 => some (0xD192 * 2 ^ 16 + 0x1D6E)
  | 0x08 => some (0x120000 * 2 ^ 8 + s.r F.SYS_ID_SILICON)
  | 0x2C => some (0xD192 * 2 ^ 16 + 0x1D6E)
  | _ => none

/-- The vector control word of MSI-X table entry v: bit 0 masks it (R290). -/
def msixControl (s : State) (v : Nat) : Nat := (!s.pcie.unmasked.get v false).toNat

/-- The four words of MSI-X table entry v, in the places that PCIe 6.0 gives them: the message address, its upper half, the
message data and the vector control (R290). -/
def msixEntry (s : State) (v : Nat) : List Nat :=
  let e := s.pcie.msix.get v (0, 0)
  [e.1 % 2 ^ 32, e.1 / 2 ^ 32, e.2, s.msixControl v]

/-- A quadword of the pending bit array: bit b of quadword k is vector 64 k + b's (R290). -/
def msixPba (s : State) (k : Nat) : Nat :=
  (List.range 64).foldl (fun a b => if s.pcie.msixPend.get (64 * k + b) false then a + 2 ^ b else a) 0

end State

end Sys2Proof.Machine
end

