-- ==== Sys2Proof/Machine/Package.lean ====
section
/-! DEFINITION. The balls of the package (spec/17_electrical_package.md R470-R474): row r and column c from 1 to 81. -/

namespace Sys2Proof.Machine

/-- A ball on brim east lies in column 82 less its west column (R470-R472). -/
def mirrored (east : Bool) (b : Nat × Nat) : Nat × Nat := (b.1, if east then 82 - b.2 else b.2)

/-- The ball of line lane n: its receive (`tx` false) or transmit pair, the P or the N side (R471). -/
def lineBall (n : Nat) (tx neg : Bool) : Nat × Nat :=
  let i := n % 96
  let k := i % 48
  mirrored (96 ≤ n) (15 + 9 * (k / 8) + k % 8, 2 + 3 * tx.toNat + neg.toNat + 6 * (i / 48))

/-- The ball of host lane m (R472). -/
def hostBall (m : Nat) (tx neg : Bool) : Nat × Nat :=
  let x := 2 * (m % 192) + tx.toNat
  mirrored (192 ≤ m) (3 + x / 5, 15 + 3 * (x % 5) + neg.toNat)

/-- What a ball carries: a bus's bit, a differential side, a supply by its name, or ground. -/
inductive Ball where
  | signal (name : String) (k : Nat)
  | pair (name : String) (k : Nat) (neg : Bool)
  | supply (name : String)
  | vss | agndHk
deriving DecidableEq, Repr

/-- `n` balls of one kind, and the bits of a bus in ascending order. -/
def ballsOf (n : Nat) (b : Ball) : List Ball := List.replicate n b
def busBalls (name : String) (n : Nat) : List Ball := (List.range n).map (Ball.signal name)

/-- The pairs of a bus in ascending order, P before N, with `gap` balls of VSS after each (R473). -/
def pairBalls (name : String) (n gap : Nat) : List Ball :=
  (List.range n).flatMap fun k => [.pair name k false, .pair name k true] ++ ballsOf gap .vss

/-- The balls of crown north in fill order: pairs with a VSS ball after each, single signals, then VSS (R473, R474). -/
def crownNorth : List Ball :=
  pairBalls "PCIE_TX" 8 1 ++ pairBalls "PCIE_RX" 8 1 ++ pairBalls "PCIE_REFCLK" 1 1 ++ pairBalls "LREFCLK" 1 1 ++
    pairBalls "CORE_W_SNS" 1 1 ++ pairBalls "CORE_C_SNS" 1 1 ++ pairBalls "CORE_E_SNS" 1 1 ++
    (["PERST_N", "PWRGD", "RST_N"].flatMap (busBalls · 1)) ++ busBalls "BOOT_SRC" 2 ++
    (["AVS_CLK", "AVS_MDATA", "AVS_SDATA", "TCK", "TMS", "TDI", "TDO", "TRST_N", "HK_CLR_N", "MSPM_CLK"].flatMap
      (busBalls · 1)) ++ busBalls "MSPM_DQ" 8 ++ (["MSPM_DQS", "MSPM_CS0_N", "MSPM_CS1_N"].flatMap (busBalls · 1)) ++
    busBalls "MSPM_SEL" 4 ++ (["MSPM_SELV", "MSPS_CLK", "MSPS_CS_N"].flatMap (busBalls · 1)) ++ busBalls "MSPS_DQ" 4 ++
    busBalls "MSPS_MODE" 1 ++ busBalls "SLOT_FLT_N" 24 ++ busBalls "SLOT_EN" 24

/-- The balls of crown south in fill order (R473, R474). -/
def crownSouth : List Ball :=
  pairBalls "HB_AIN" 64 0 ++ pairBalls "HB_X" 1 0 ++
    ((List.range 8).flatMap fun k =>
      [.pair "HB_EXC_F" k false, .pair "HB_EXC_F" k true, .pair "HB_EXC_S" k false, .pair "HB_EXC_S" k true]) ++
    busBalls "HB_MXA" 4 ++ busBalls "HB_MXS" 6 ++ busBalls "HB_MXEN" 1 ++ busBalls "HK_DAC" 48 ++ busBalls "HK_PWM" 24

/-- The balls of the crown centre in fill order (R470). -/
def crownCentre : List Ball :=
  ballsOf 120 (.supply "VDD_CORE_C") ++ ballsOf 16 (.supply "VDD_PCIE") ++ ballsOf 16 (.supply "VDD_IO") ++
    ballsOf 40 (.supply "VDD_DRAM") ++ ballsOf 8 (.supply "VPP_DRAM") ++ ballsOf 12 (.supply "VDD_HKA") ++
    ballsOf 6 (.supply "VNEG_HK") ++ ballsOf 5 .agndHk

/-- The balls of a line corner in fill order (R470). -/
def lineCorner : List Ball :=
  ballsOf 90 (.supply "VDD_ANA") ++ ballsOf 30 (.supply "VDD_TX") ++ ballsOf 6 (.supply "VDD_PLL")

/-- The ball at row `r` and west column `c` of a line region of brim west (`die` 0) or east (R471). -/
def lineAt (die r c : Nat) : Ball :=
  let y := r - 15
  let k := 96 * die + 48 * ((c - 2) / 6) + 8 * (y / 9) + y % 9
  if c = 1 || y % 9 = 8 then .vss
  else match (c - 2) % 6 with
    | 0 => .pair "LINE_RX" k false
    | 1 => .pair "LINE_RX" k true
    | 3 => .pair "LINE_TX" k false
    | 4 => .pair "LINE_TX" k true
    | _ => .vss

/-- The ball at a west column of a host region (R472). -/
def hostAt (die r c : Nat) : Ball :=
  if r < 3 || 79 < r || c = 17 || c = 23 || c = 29 then .supply "VDD_HSL"
  else
    let u := (c - 15) / 3
    let x := 5 * (r - 3) + u
    if c = 14 || c = 30 || (c - 15) % 3 = 2 || 384 ≤ x then .vss
    else .pair (if x % 2 = 0 then "HSL_RX" else "HSL_TX") (192 * die + x / 2) ((c - 15) % 3 == 1)

/-- The ball at row `r` and column `c` (R470). -/
def ballAt (r c : Nat) : Ball :=
  let die := if 51 < c then 1 else 0
  let w := if 51 < c then 82 - c else c
  if w ≤ 13 then
    if r < 15 then lineCorner.getD (13 * (14 - r) + w - 1) .vss
    else if 67 < r then lineCorner.getD (13 * (r - 68) + w - 1) .vss
    else lineAt die r w
  else if w ≤ 30 then hostAt die r w
  else if r ≤ 9 then crownNorth.getD (21 * (r - 1) + (c - 31)) .vss
  else if 69 < r then crownSouth.getD (21 * (r - 70) + (c - 31)) .agndHk
  else if c ≤ 37 then .supply "VDD_CORE_W"
  else if 44 < c then .supply "VDD_CORE_E"
  else crownCentre.getD (7 * (r - 10) + (c - 38)) .vss

end Sys2Proof.Machine
end

