-- ==== Sys2Proof/Machine/Pins.lean ====
section
/-! DEFINITION. What the output pins carry, as functions of the state: line drivers, host transmitters, housekeeping DACs,
Hatband's selects and sources, the serial port master (R81-R83, R218-R223, R247-R255, R332, R339, R342, R369, R400-R405).
No command reads them. -/

namespace Sys2Proof.Machine

open Sys2Proof

/-- A line output: high impedance, squelched at its common mode, or driving DAC code `d` with the swing in sixteenths of a
millivolt (differential, peak to peak) at so many sixteenths of the release ramp (R81, R219, R220, R223). -/
inductive LinePin where
  | highZ | squelched
  | drives (d : Int) (swing16 ramp16 : Nat)
deriving DecidableEq, Repr

/-- A host transmitter: high impedance, powered down, electrical idle at its common mode, a test pattern (PRBS13Q or
PRBS31Q), or data (R81, R247, R251-R253). -/
inductive HostPin where
  | highZ | off | idle | prbs13q | prbs31q
  | data (bs : List Bool)
deriving DecidableEq, Repr

/-- A housekeeping DAC output: 100 kΩ to ground, or a code of its range (R81, R366). -/
inductive DacPin where
  | highZ
  | code (range v : Nat)
deriving DecidableEq, Repr

/-- MSPM_CLK, MSPM_CS0_N, MSPM_CS1_N, MSPM_SEL, MSPM_SELV and MSPM_DQ (R400). -/
structure MasterPins where
  clk : Bool
  cs0N : Bool
  cs1N : Bool
  sel : Nat
  selV : Bool
  dq : DqCell := {}
deriving DecidableEq, Repr

/-- The differential voltage of a line output in millivolts: d = ±127 gives half of the swing each way (R219, R220). -/
def LinePin.mv : LinePin → Frac
  | .drives d sw r => Frac.mk' (d * sw * r) (127 * 2 * 16 * 16)
  | _ => {}

/-! ### Host link coding, R251, R259 -/

/-- The level indices of a stream of bits: Gray mapping, then precoding after a level sent as `p` (R211, R251). -/
def hostIndices (precode : Bool) (p : Nat) (bs : List Bool) : List Nat :=
  let gs := (bitPairs bs).map gray
  if precode then precodeRun p gs else gs

/-- The levels of them in thirds of full amplitude, -3 to +3, with the polarity (R213, R251). -/
def hostLevels (invert precode : Bool) (p : Nat) (bs : List Bool) : List Int :=
  (hostIndices precode p bs).map fun (a : Nat) => let v : Int := 2 * (a : Int) - 3; if invert then -v else v

/-- The 4-tap equaliser, in 64ths of a level: `prev` is the level before the run; two levels after it are looked at
(R251, R259). -/
def hostFir (pre2 pre1 main post1 : Int) : Int → List Int → List Int
  | _, [] => []
  | prev, x :: xs =>
    (post1 * prev + main * x + pre1 * xs.headD 0 + pre2 * (xs.tail).headD 0) :: hostFir pre2 pre1 main post1 x xs

/-- `k` level indices of PRBS13Q or PRBS31Q from a generator register: Gray-coded pairs of bits (R247, R251). -/
def patternQ (gen : Nat → Bool × Nat) (r k : Nat) : List Nat := (bitPairs (prbsBits gen (2 * k) r).1).map gray

namespace State

/-- The device's outputs are released to high impedance: OFF, once the 100 µs are over for which the rails must last
after PWRGD fell (R81-R83; the instant is DESIGN CHOICE, log 92). -/
def outputsOff (s : State) : Bool := !s.powered && s.sys.resetAt + 100000 ≤ s.now

/-- The driver of lane n is squelched: a source requests it, the chain is stopped, or the device is in OFF, FAULT or DUMP
(R83, R221, R255). -/
def lineQuiet (s : State) (n : Nat) : Bool :=
  s.anySquelch n || s.frozen || !s.powered || !s.on F.LANE_TX_STAT_DRV_ON n ||
    (!s.on F.LANE_TX_STAT_RAMPING n && !(s.txh n).released)

/-- The swing of lane n in sixteenths of a millivolt: 300 mV and 10 mV a code; a walk spreads a code over 16 sub-steps of
its microsecond (R219). -/
def swing16 (s : State) (n : Nat) : Nat :=
  let c := s.r F.LANE_TX_STAT_SWING_CODE n
  let t := s.r F.LANE_TX_CFG_SWING n
  let k := if s.on F.LANE_TX_STAT_WALKING n then min 16 ((s.now - (s.txh n).walkAt) * 16 / 1000) else 0
  16 * (300 + 10 * c) + (if c < t then 10 * k else 0) - (if t < c then 10 * k else 0)

/-- The amplitude of lane n's output in sixteenths: a release ramp rises in 16 equal steps over the 2^UNSQ µs it began
with (R223, R227). -/
def ramp16 (s : State) (n : Nat) : Nat :=
  if s.on F.LANE_TX_STAT_RAMPING n then
    min 16 ((s.now - (s.txh n).rampAt) * 16 / (1000 * 2 ^ (s.txh n).ramp))
  else 16

/-- The line output of lane n. -/
def linePin (s : State) (n : Nat) : LinePin :=
  if s.outputsOff then .highZ
  else if s.lineQuiet n then .squelched
  else .drives (s.txh n).dacCode (s.swing16 n) (s.ramp16 n)

/-- The physical unary cells of lane n that are on, and the binary segment (R218). -/
def dacSwitches (s : State) (n : Nat) : List Nat × Nat :=
  (dacCells (s.r F.LANE_TX_STAT_SPARE_CELL n) (s.txh n).dacCode, dacBinary (s.txh n).dacCode)

/-- A test pattern or electrical idle by its code: 1 PRBS13Q and 2 PRBS31Q of a generator (R253). -/
def genPin (v : Nat) : HostPin := if v = 1 then .prbs13q else .prbs31q

/-- What fill is at host lane m (R247). -/
def fillPin (s : State) (m : Nat) : HostPin :=
  match s.r F.HSL_CFG_FILL m with
  | 0 => .prbs31q
  | 1 => .idle
  | _ => .prbs13q

/-- The transmitter of host lane m: a generator replaces the data, and fill stands where there is neither (R247, R253,
R255). -/
def hostPin (s : State) (m : Nat) : HostPin :=
  if s.outputsOff then .highZ
  else if s.frozen || !s.live then .idle
  else if !s.hostPowered m then .off
  else if s.on F.HSL_CFG_PRBS_GEN m then genPin (s.r F.HSL_CFG_PRBS_GEN m)
  else if s.hostCarries m then .data (s.hosth m).sent
  else s.fillPin m

/-- The taps of host lane m's transmitter, LSB 1/64: pre2, pre1, main, post1 (R259). -/
def hostTaps (s : State) (m : Nat) : Int × Int × Int × Int :=
  (s.ri F.HSL_TX_FIR_PRE2 m, s.ri F.HSL_TX_FIR_PRE1 m, s.ri F.HSL_TX_FIR_MAIN m, s.ri F.HSL_TX_FIR_POST1 m)

/-- The waveform of bits that host lane m sends after level index `p`, in 192ths of full amplitude (R251). -/
def hostWave (s : State) (m p : Nat) (bs : List Bool) : List Int :=
  let (a, b, c, d) := s.hostTaps m
  hostFir a b c d (2 * p - 3) (hostLevels (s.on F.HSL_CFG_TX_INVERT m) (s.on F.HSL_CFG_TX_PRECODE m) p bs)

/-- The output of housekeeping DAC c: after PWRGD falls the clear code, in the range that was in force, and during a range
clamp 0 V, which is code 0 in every range (R81, R83, R365, R367, R371). -/
def dacPin (s : State) (c : Nat) : DacPin :=
  if s.outputsOff then .highZ
  else if !s.powered then (let x := s.hk.offOut.getD c (0, 0); .code x.1 x.2)
  else .code (s.r F.HK_DAC_STAT_RANGE c) (if s.dacClamped c then 0 else s.r F.HK_DAC_STAT_OUT c)

/-! ### Hatband, R332, R339, R342 -/

/-- HB_MXEN, HB_MXS and HB_MXA between two channel changes: the last address stays, with the enable (R332). -/
def mxPins (s : State) : Bool × Nat × Nat := (s.hb.mxEn, s.hb.mxAddr / 16, s.hb.mxAddr % 16)

/-- Excitation output k: its setpoint in millivolts, or off, at high impedance with 100 kΩ to ground (R342). -/
def excPin (s : State) (k : Nat) : Option Nat :=
  if bitAt (s.r F.HB_EXC_STAT_ON) k then some (s.r F.HB_EXC_CFG_MV k) else none

/-- The burn-out current of converter c in microamperes: during the check conversion, and during every kept conversion of a
point in continuous mode (R339). -/
def burnCurrent (s : State) (c : Nat) : Nat :=
  match (s.convh c).visit with
  | none => 0
  | some v =>
    if !v.waitBus && !v.discard && (v.check || ptBo v.cfg == 1) then (if bitAt v.cfg 25 then 10 else 1) else 0

/-! ### The serial port master, R400, R404, R405 -/

/-- The master's pins between two frames, in OFF and in RESET: no select is asserted, MSPM_CLK idles at CPOL, MSPM_SEL keeps
the last decoded target, and MSPM_DQ is at high impedance (R400, R401, R405). -/
def masterIdle (s : State) : MasterPins :=
  { clk := s.on F.MSPM_CFG_CPOL, cs0N := true, cs1N := true, sel := s.msp.sel, selV := false }

/-- The same while a frame's select is asserted, at time point D1, D2 or D3: one select and no other (R404, R405). -/
def masterSelect (s : State) (f : Frame) (p : Nat) : MasterPins :=
  { s.masterIdle with cs0N := f.tgt != 0, cs1N := f.tgt != 1, sel := if 16 ≤ f.tgt then f.tgt - 16 else s.msp.sel,
                      selV := decide (16 ≤ f.tgt), dq := f.dqAt (s.on F.MSPM_CFG_CPHA) p }

end State

/-! ### The expanded channel change, R331, R332 -/

/-- The expansion select `ns` nanoseconds after E0, with a discharge of `d`: HB_MXEN, the new address, the discharge switch
closed, and the converter's input at HB_XP and HB_XN; a transition belongs to what follows it. -/
def mxChange (d ns : Nat) : Bool × Bool × Bool × Bool :=
  (decide (d + 150 ≤ ns), decide (100 ≤ ns), decide (100 ≤ ns) && decide (ns < d + 100), decide (d + 150 ≤ ns))

/-- The discharge of a channel change, and what a visit takes in all, in nanoseconds: the change, the check with its
discharge, and the kept conversions (R331, R332, R339). -/
def Visit.discharge (v : Visit) : Nat := if v.nbr then 4000 else 1000
def Visit.nanos (v : Visit) : Nat :=
  (if v.discard then v.discharge + 1000 + (if 64 ≤ v.point then 150 else 0) else 0) + (if v.check then 2000 else 0) +
    1000 * ptN v.cfg

end Sys2Proof.Machine
end

