-- ==== Sys2Proof/Machine/TestPort.lean ====
section
/-! DEFINITION. The IEEE 1149.1 test access port: its instructions, what they select, and the gate on boundary scan
(spec/17_electrical_package.md R468). No command of the table drives it, and it never acts on the device state. -/

namespace Sys2Proof.Machine

open Sys2Proof

/-- The data register that an instruction selects. -/
inductive TapPath where
  | bypass | idcode | boundary
deriving DecidableEq, Repr

/-- The 32-bit IDCODE: stepping, part number 0xD192, manufacturer field 0x5B7, and 1. -/
def idcode : BitVec 32 := 0x1D192B6F

/-- What an instruction selects, with the level of RST_N: the boundary scan instructions act only while it is held low,
and every instruction but IDCODE is BYPASS otherwise. -/
def TapInstr.path (i : TapInstr) (rstLow : Bool) : TapPath :=
  match i with
  | .idcode => .idcode
  | .extest | .extestPulse | .extestTrain => if rstLow then .boundary else .bypass
  | .bypass | .other => .bypass

/-- RST_N is held low: the pin caused or joined the RESET under way, and the instant of its release has not come (R84;
DEDUCED, log 93). -/
def State.rstLow (s : State) : Bool := s.dev == .reset && s.now < s.sys.rstUntil

/-- An instruction is loaded; TRST_N low selects IDCODE, as IEEE 1149.1 has it (PRESUMED, log 93). -/
def State.tapLoad (s : State) (i : TapInstr) : State := { s with tap := { s.tap with ir := i } }
def State.tapReset (s : State) : State := { s with tap := {} }

/-- A scan of the data register: the bits at TDO for the bits at TDI, least significant first. IDCODE shifts out its
32 bits and then what came in, BYPASS delays by one bit that starts at 0; the boundary register's cells are the pins',
whose order the manual does not give. -/
def State.tapScan (s : State) (tdi : List Bool) : List Bool :=
  match s.tap.ir.path s.rstLow with
  | .idcode => ((List.range 32).map (bitAt idcode.toNat) ++ tdi).take tdi.length
  | .bypass => (false :: tdi).take tdi.length
  | .boundary => (List.range tdi.length).map fun k => bitAt (Config.unstated 7 k) 0

end Sys2Proof.Machine
end

