-- ==== Sys2Proof/WellFormed.lean ====
section
/-! DEFINITION. Which commands an outside world can send: lists of the length the spec gives what they carry, and
operands that do not contradict each other. Every meaning is total; a well-formed command is one the hardware can meet. -/

namespace Sys2Proof

/-- A measurement of a visit: at most four attempts of each quantity, ten weights a try, three comparators and two spare
units of three weights (R120). -/
def Meas.wf : Meas → Bool
  | .subSlice _ _ _ comps ws sp ofs gain => comps.length ≤ 3 && ws.length ≤ 4 &&
      ws.all (fun t => t.w1.length == 10 && t.w2.length == 10) && sp.length ≤ 3 && ofs.length ≤ 4 && gain.length ≤ 4
  | .group _ _ gain skew bw => gain.length ≤ 4 && skew.length ≤ 4 && bw.length ≤ 4
  | .pair skew => skew.length ≤ 4
  | .cell _ _ trim => trim.length ≤ 4

/-- The lanes of a pool epoch are named once each. -/
def lanesOnce (l : List EpochIn) : Bool := decide (l.map (·.lane)).Nodup

/-- Samples as the converter gives them: saturation makes -128 (0x80) impossible (R106). -/
def samplesOk (xs : List (BitVec 8)) : Bool := xs.all (· != 0x80#8)

/-- A change that waits for islands: a BIST run tests something (R446). -/
def Change.wf : Change → Bool
  | .lane _ _ => true
  | .bist _ _ mask => mask != 0

/-- The command is one the outside world can send. -/
def Instr.wf : Instr → Bool
  | .registerWrite _ _ len _ vs => vs.length == (len + 3) / 4
  | .txSatWindow _ x => x.1 ≤ 225000 && x.2.1.run.length ≤ 225000 && x.2.2.run.length ≤ 225000
  | .adcWindow _ xs => xs.length ≤ 450001
  | .adaptationStep _ _ k xs => k ≤ xs.length && samplesOk xs
  | .timingUpdate _ _ xs => decide (0 < xs.length) && samplesOk xs
  | .ctleTryEnd _ _ xs => decide (0 < xs.length) && samplesOk xs
  | .eqWindow _ _ xs => decide (0 < xs.length) && samplesOk xs
  | .innerHuntTest _ _ xs => xs.length == 4608
  | .poolEpoch _ ins => lanesOnce ins
  | .hostAlignTest _ word _ => word.run.length == 2720
  | .fgDone _ rx tx => (rx ++ tx).all Meas.wf
  | .cardingSlot _ ms => ms.all Meas.wf
  | .nvmProgramDone bad => bad.all fun b => decide (b.1 < 491784)
  | .rateRaiseReady c => c.wf
  | .rateRaiseTimeout c => c.wf
  | .captureUnitWrite _ _ p xs q _ => (p ++ xs ++ q).length ≤ 4096 && samplesOk (p ++ xs ++ q)
  | .hbSelfcalStep _ m1 m2 => decide (m1.natAbs ≤ 2 ^ 26) && decide (m2.natAbs ≤ 2 ^ 26)
  | .thermalTick rs => rs.length == 128
  | .mspmFrame fw data _ =>
    data.length ≤ 65536 && fw.toList.all fun f => f.cmd.length ≤ 2 && f.addr.length ≤ 4 && f.data.length ≤ 65536
  | .bootHeadersRead a b => a.length == 256 && b.length == 256
  | .bootImageLoaded body _ => body.length ≤ 3145728
  | .slaveRead _ _ whole words => whole || words == 0
  | .slaveWrite _ _ whole words cut => whole || (words.isEmpty && !cut)
  | .slaveUndefinedCommand _ (some c) => !([0xA1, 0xA2, 0xA5, 0xA6].contains c.toNat)
  | .dumpComplete fw => fw.length == 131072
  | _ => true

end Sys2Proof
end

