-- ==== Sys2Proof/Tests/Slice0.lean ====
section
/-! SUPPORT. Tests. For every statement of Obligations.lean that has hypotheses a theorem witness_<Name>: concrete states and
operands that meet the hypotheses of each of its clauses. One parenthesis lists the facts of one clause; a fact that an
earlier clause of the same statement has is not said again. Then the calibration array, what the well-formedness check
refuses, and the spec's worked examples, whose expected values are the spec's. -/

namespace Sys2Proof.Tests

set_option Elab.async false

open Sys2Proof.Machine

/-! ### States and jobs that the tests share -/

/-- `s` with these register fields written: field, index, value. -/
def put (s : State) (l : List (Fld × Nat × Nat)) : State := l.foldl (fun s x => s.w x.1 x.2.1 x.2.2) s

/-- Device state `d` with the link up and bus mastering on. -/
def dv (d : Nat) : State :=
  { put State.reset [(F.SYS_STATE_STATE, 0, d)] with pcie := { bme := true, linkL0 := true, ready := true } }

/-- A descriptor with opcode, buffers and parameter bytes. -/
def descOf (op len0 addr0 addr1 len1 : Nat) (ps : List Nat) : List Nat :=
  [op, 0, 0, 0] ++ leBytes 4 len0 ++ leBytes 8 addr0 ++ leBytes 8 addr1 ++ leBytes 4 len1 ++ [0, 0, 0, 0] ++ ps ++
    List.replicate (32 - ps.length) 0

/-- The started job of ring 5, index 7, without buffers. -/
def jb (op : Nat) (ps : List Nat) : Job := { ring := 5, idx := 7, desc := descOf op 0 0 0 0 ps, phase := .started }

/-- `s` with that job in flight. -/
def wj (j : Job) (s : State) : State := { s with jobs := [j] }

/-- The invariants' statements: a state of which they hold, and the step it takes. -/
theorem witness_StepKeepsMemories : (dv 4).memOk ∧ ∃ t, step (dv 4) = .next t := ⟨⟨rfl, rfl⟩, _, rfl⟩
theorem witness_StepKeepsState : legalState (dv 4).regs ∧ ∃ t, step (dv 4) = .next t := ⟨by unfold legalState; decide +kernel, _, rfl⟩

/-! ### Rings -/

def nopPending : State := { dv 4 with pending := [.nop 5 7] }

/-- The ring table entry of type `ty` whose completion ring is 9. -/
def entry (ty : Nat) : List Nat :=
  leBytes 8 0x100000 ++ [ty, 6] ++ leBytes 2 (if ty ≤ 2 then 9 else 0) ++ [0, 0, if ty ≤ 2 then 0 else 4, 0] ++
    List.replicate 8 0 ++ leBytes 8 (if ty ≤ 2 then 0x2000 else 0) ++ List.replicate 32 0

/-- Ring 5 has that entry; ring 9 is an ACTIVE completion ring. -/
def ringS (ty : Nat) : State :=
  { (put (dv 4) [(F.RNG_TABLE_ADDR, 0, 0x40000), (F.RNG_STAT_STATE, 9, 1), (F.RNG_STAT_TYPE, 9, 3)]).setRing 9
      { base := 0x300000, log2 := 5, coalCount := 1 } with
    hostMem := Mem.writeBytes [] (0x40000 + 64 * 5) (entry ty) }

/-- Ring 5 is ACTIVE with three descriptors posted. -/
def ringA : State :=
  put ((ringS 1).setRing 5 (State.entryKept (entry 1)))
    [(F.RNG_CTL_ENABLE, 5, 1), (F.RNG_STAT_STATE, 5, 1), (F.RNG_STAT_TYPE, 5, 1), (F.RNG_IDX_HOST_IDX, 5, 3)]

/-- Ring 5 as a completion ring that writes no head back, and without the completion ring that it needs. -/
def ringC : State := put ringA [(F.RNG_STAT_TYPE, 5, 3)]
def ringNoCq : State := put (ringS 1) [(F.RNG_STAT_STATE, 9, 0)]
def ringNoWb : State := ringA.setRing 5 { State.entryKept (entry 1) with headWb := 0 }

def fetched : Job := { jb 1 [] with phase := .fetched }

def nopJ : Job := jb 1 []
def fenceJ : Job := jb 2 [1]
def dueJ : Job := { jb 1 [] with phase := .due }

/-- Ring 5 is STOPPING. -/
def ringStop : State := put ringA [(F.RNG_STAT_STATE, 5, 2)]

def wdEvent : Held := { src := 761, code := 0xA004, data := List.replicate 16 0 }

/-- Ring 9 is an ACTIVE event ring and the route of group 0xA; a watchdog event is held. -/
def eventS : State :=
  { (put (dv 4) [(F.RNG_STAT_STATE, 9, 1), (F.RNG_STAT_TYPE, 9, 4), (F.RNG_STAT_PHASE, 9, 1), (F.EVT_ROUTE_VALID, 9, 1),
      (F.EVT_ROUTE_RING, 9, 9)]).setRing 9
      { base := 0x300000, log2 := 5, coalCount := 1, irqEn := true, vector := 3, timer := true, u := 2 } with
      held := [wdEvent],
      pcie := { bme := true, linkL0 := true, ready := true, unmasked := [(3, true)] } }

/-- The same with an event of lane 191, whose slot's route is VALID. -/
def laneEvent : Held := { src := 191, code := 0x1004, data := List.replicate 16 0 }
def slotS : State :=
  { put eventS [(F.EVT_SLOT_ROUTE_VALID, 23, 1), (F.EVT_SLOT_ROUTE_RING, 23, 9)] with held := [laneEvent] }

def unmask3 : MsixEntry := ⟨3, 0xFEE00000, 7, false⟩
def mask3 : MsixEntry := { unmask3 with mask := true }
def pend3 : State := { eventS with pcie := { eventS.pcie with msixPend := [(3, true)] } }

theorem witness_StepRunsFront :
    (nopPending.pending = [Instr.nop 5 7]) ∧
    ((dv 4).pending = [] ∧ (dv 4).sys.trans = [] ∧ (List.any (dv 4).subs fun x => x.snd.waiting.isSome) = false ∧
      (dv 4).dev ≠ DevState.off ∧ (dv 4).sys.lrefAbsent = false) ∧
    ((dv 0).pending = [] ∧ (dv 0).sys.trans = [] ∧ (List.any (dv 0).subs fun x => x.snd.waiting.isSome) = false ∧
      (dv 0).dev = DevState.off) := by
  and_intros <;> decide +kernel

theorem witness_RingSwitch :
    ((ringS 1).serviced = true ∧ (ringS 1).canIssue = true ∧ (ringS 1).r F.RNG_STAT_STATE 5 = 0 ∧ (ringS
      1).pcie.tableWait = [] ∧ (true && State.entryCommon ((ringS 1).hostMem.readN ((ringS 1).tableEntry 5) 64) &&
      State.entryTyped ((ringS 1).hostMem.readN ((ringS 1).tableEntry 5) 64)) = true ∧ (¬(byteAt ((ringS
      1).hostMem.readN ((ringS 1).tableEntry 5) 64) 8 ≤ 2 ∧ (ringS 1).ringIs (leAt ((ringS 1).hostMem.readN ((ringS
      1).tableEntry 5) 64) 10 2) 3 = false))) ∧
    (ringNoCq.serviced = true ∧ ringNoCq.canIssue = true ∧ ringNoCq.r F.RNG_STAT_STATE 5 = 0 ∧
      ringNoCq.pcie.tableWait = [] ∧ (true && State.entryCommon (ringNoCq.hostMem.readN (ringNoCq.tableEntry 5) 64)
      && State.entryTyped (ringNoCq.hostMem.readN (ringNoCq.tableEntry 5) 64)) = true ∧ byteAt
      (ringNoCq.hostMem.readN (ringNoCq.tableEntry 5) 64) 8 ≤ 2 ∧ ringNoCq.ringIs (leAt (ringNoCq.hostMem.readN
      (ringNoCq.tableEntry 5) 64) 10 2) 3 = false) ∧
    ((false && State.entryCommon ((ringS 1).hostMem.readN ((ringS 1).tableEntry 5) 64) && State.entryTyped ((ringS
      1).hostMem.readN ((ringS 1).tableEntry 5) 64)) = false) ∧
    (ringA.serviced = true ∧ ringA.disableIgnored 5 = false ∧ ringA.r F.RNG_STAT_STATE 5 ≠ 0 ∧ ((ringA.r
      F.RNG_STAT_TYPE 5 > 2 ∨ ringA.ringJobs 5 = 0))) ∧
    ((wj (jb 1 []) ringA).serviced = true ∧ (wj (jb 1 []) ringA).disableIgnored 5 = false ∧ (wj (jb 1 []) ringA).r
      F.RNG_STAT_STATE 5 ≠ 0 ∧ (wj (jb 1 []) ringA).r F.RNG_STAT_TYPE 5 ≤ 2 ∧ 0 < (wj (jb 1 []) ringA).ringJobs 5)
      := by
  and_intros <;> decide +kernel

theorem witness_DoorbellAndFetch :
    ((ringA.live || ringA.frozen) = true) ∧
    (320 = 64 * 5 ∧ ringA.live = true ∧ ringA.r F.RNG_STAT_STATE 5 = 1 ∧ ringA.doorbellBad 5 63 = false) ∧
    (ringA.doorbellBad 5 64 = true) ∧
    (ringA.serviced = true ∧ ringA.canIssue = true ∧ ringA.r F.RNG_STAT_TYPE 5 ≤ 2 ∧ ringA.slotsDeal.fetchCount 5
      8 ≠ 0 ∧ (ringA.ring 5).headWb ≠ 0 ∧ 3 < 4) ∧
    (ringNoWb.serviced = true ∧ ringNoWb.canIssue = true ∧ ringNoWb.r F.RNG_STAT_STATE 5 = 1 ∧ ringNoWb.r
      F.RNG_STAT_TYPE 5 ≤ 2 ∧ ringNoWb.slotsDeal.fetchCount 5 8 ≠ 0 ∧ (ringNoWb.ring 5).headWb = 0) := by
  and_intros <;> decide +kernel

theorem witness_JobStart :
    ((wj fetched ringA).job? 5 7 = some fetched ∧ (wj fetched ringA).serviced = true ∧ fetched.phase =
      JobPhase.fetched ∧ (wj fetched ringA).mayStart fetched = true) := by
  and_intros <;> decide +kernel

theorem witness_NopAndCompletion :
    ((wj nopJ (dv 4)).started? 1 5 7 = some nopJ ∧ (wj nopJ (dv 4)).bistHolds nopJ = false) ∧
    ((wj fenceJ (dv 4)).started? 2 5 7 = some fenceJ ∧ (wj fenceJ (dv 4)).bistHolds fenceJ = false) ∧
    ((wj dueJ ringA).nextDue 9 = some dueJ ∧ (wj dueJ ringA).serviced = true ∧ (wj dueJ ringA).canIssue = true ∧
      (wj dueJ ringA).ringIs 9 3 = true ∧ (wj dueJ ringA).ringFree 9 ≠ 0 ∧ (wj dueJ ringA).r F.RNG_STAT_STATE
      dueJ.ring ≠ 2) ∧
    ((wj dueJ ringStop).nextDue 9 = some dueJ ∧ (wj dueJ ringStop).serviced = true ∧ (wj dueJ ringStop).canIssue =
      true ∧ (wj dueJ ringStop).ringIs 9 3 = true ∧ (wj dueJ ringStop).ringFree 9 ≠ 0 ∧ (wj dueJ ringStop).r
      F.RNG_STAT_STATE dueJ.ring = 2 ∧ (wj dueJ ringStop).ringJobs dueJ.ring = 1 ∧ (wj dueJ ringStop).on
      F.RNG_STAT_ENABLE_PENDING dueJ.ring = false) := by
  and_intros <;> decide +kernel

theorem witness_EventDeliver :
    (eventS.nextEvent 9 = some wdEvent ∧ ((∀ (k : Nat), eventS.slotOf wdEvent.src = some k → eventS.on
      F.EVT_SLOT_ROUTE_VALID k = false))) ∧
    (slotS.nextEvent 9 = some laneEvent ∧ slotS.slotOf laneEvent.src = some 23 ∧ slotS.on F.EVT_SLOT_ROUTE_VALID
      23 = true) ∧
    (wdEvent ∈ eventS.held ∧ ((eventS.routeOf wdEvent.src wdEvent.code ≠ some 8 ∨ eventS.ringIs 8 4 = false))) ∧
    (eventS.serviced = true ∧ eventS.canIssue = true ∧ eventS.ringIs 9 4 = true ∧ 2 ≤ eventS.ringFree 9 ∧
      wdEvent.data.length = 16 ∧ 9 < 32) ∧
    (23 ≠ 9) := by
  and_intros <;> decide +kernel

theorem witness_Interrupts :
    (eventS.live = true ∧ (eventS.ring 9).irqEn = true ∧ (eventS.ring 9).timer = true ∧ 0 < (eventS.ring 9).u ∧
      eventS.pcie.unmasked.get (eventS.ring 9).vector false = true ∧ eventS.canIssue = true) ∧
    (((unmask3.mask = true ∨ eventS.canIssue = true))) := by
  and_intros <;> decide +kernel

/-! ### Register access -/

/-- What `locate` finds at an offset of the map. -/
def spec (off : Nat) : RegSpec := ((locate off).map Prod.fst).getD ⟨0, 0, [], []⟩

def feOff : Fin 67108864 := Fin.ofNat _ (F.LANE_FE_CFG_CTLE_CODE.base + 0x10000 * 191)
def ringCq : Fin 67108864 := Fin.ofNat _ F.THM_SHED_COUNT_COUNT.base
def hole : Fin 67108864 := Fin.ofNat _ 0x3FFFFF0

def evtOff : Fin 67108864 := Fin.ofNat _ F.LANE_EVT_DOWN.base
def bufAt : Fin 67108864 := Fin.ofNat _ F.SYS_DUMP_BUF_ADDR.base

/-- Sensor 103 has failed. -/
def failedS : State := put (dv 4) [(F.THM_SENSOR_FAIL_FAIL, 3, 128), (F.THM_SENSOR_FAILED, 103, 1)]

def downOff : Fin 67108864 := Fin.ofNat _ (F.LANE_DOWN_COUNT.base + 0x10000 * 191)
def countS : State := put (dv 4) [(F.LANE_DOWN_COUNT, 191, 77), (F.LANE_EVT_DOWN, 0, 1)]

def holeAt : Fin 67108864 := Fin.ofNat _ 0x3FFFFF0

def timeOff : Fin 67108864 := Fin.ofNat _ F.SYS_TIME_TIME.base
def bufLo : Fin 67108864 := Fin.ofNat _ F.SYS_DUMP_BUF_ADDR.base
def bufHi : Fin 67108864 := Fin.ofNat _ (F.SYS_DUMP_BUF_ADDR.base + 4)
def stagedS : State := { dv 3 with staged := [((1, F.SYS_DUMP_BUF_ADDR.id, 0), 0x1000)] }

theorem witness_RegisterAccess :
    ((dv 3).live = true ∧ ringCq.val % 4 = 0 ∧ locate ringCq.val = some (spec ringCq.val, 0, 0) ∧ plainRegister
      (spec ringCq.val) = true ∧ (dv 3).writeIgnored (spec ringCq.val) 0 = false ∧ (((spec ringCq.val).word 0).all
      fun f => !f.multi) = true ∧ (dv 3).wordErr Master.pcie (ringCq.val) 10 none = { } ∧ F.THM_SHED_COUNT_COUNT ∈
      (spec ringCq.val).word 0 ∧ ((F.THM_SHED_COUNT_COUNT.acc = Acc.rw ∨ F.THM_SHED_COUNT_COUNT.acc = Acc.lk))) ∧
    ((dv 3).accErrLow = 0 ∧ hole.val % 4 = 0 ∧ locate hole.val = none) ∧
    (hole.val % 8 = 0 ∧ locate (hole.val + 4) = none) ∧
    ((dv 4).live = true ∧ (dv 4).accErrLow = 0 ∧ (dv 4).dev ≠ DevState.setup ∧ (dv 4).writeIgnored (spec
      ringCq.val) 0 = false ∧ (spec ringCq.val).word 0 = [F.THM_SHED_COUNT_COUNT] ∧ F.THM_SHED_COUNT_COUNT.acc =
      Acc.lk ∧ F.THM_SHED_COUNT_COUNT.multi = false ∧ bits 10 (F.THM_SHED_COUNT_COUNT.lo % 32)
      F.THM_SHED_COUNT_COUNT.width ≠ (dv 4).r F.THM_SHED_COUNT_COUNT) ∧
    (9 < 10 ∧ 0 ≠ 9) ∧
    (0 < 32) ∧
    (((0 / 32 ≠ 3 ∨ bitAt 10 (0 % 32) = false))) ∧
    (bufAt.val % 8 = 0 ∧ locate bufAt.val = some (spec bufAt.val, 0, 0) ∧ locate (bufAt.val + 4) = some (spec
      bufAt.val, 0, 0 + 1) ∧ plainRegister (spec bufAt.val) = true ∧ (dv 3).writeIgnored (spec bufAt.val) 0 = false
      ∧ (spec bufAt.val).word 0 = [F.SYS_DUMP_BUF_ADDR] ∧ (spec bufAt.val).word (0 + 1) = [F.SYS_DUMP_BUF_ADDR] ∧
      F.SYS_DUMP_BUF_ADDR.multi = true ∧ F.SYS_DUMP_BUF_ADDR.first = 0 ∧ F.SYS_DUMP_BUF_ADDR.last = 0 + 1 ∧ (dv
      3).writable F.SYS_DUMP_BUF_ADDR = true ∧ (dv 3).encAccepted 0 [(F.SYS_DUMP_BUF_ADDR, 4096 + 4096 * 2 ^ 32)] =
      [(F.SYS_DUMP_BUF_ADDR, 4096 + 4096 * 2 ^ 32)]) ∧
    (State.accessForm (ringCq.val) 4 = true ∧ List.foldl (State.busWriteWord Master.pcie (List.map (fun k =>
      (ringCq.val + 4 * k, ([24]).getD k 0)) (List.range (4 / 4)))) ({ }, dv 3) (List.map (fun k => (ringCq.val + 4
      * k, ([24]).getD k 0)) (List.range (4 / 4))) = ({ }, dv 3)) ∧
    (evtOff.val % 4 = 0 ∧ locate evtOff.val = some (spec evtOff.val, 0, 0) ∧ plainRegister (spec evtOff.val) =
      true ∧ (dv 3).writeIgnored (spec evtOff.val) 0 = false ∧ (((spec evtOff.val).word 0).all fun f => !f.multi) =
      true ∧ (dv 3).wordErr Master.pcie (evtOff.val) 1 none = { } ∧ F.LANE_EVT_DOWN ∈ (spec evtOff.val).word 0 ∧
      F.LANE_EVT_DOWN.acc = Acc.w1c ∧ (dv 3).r F.LANE_EVT_DOWN < 2 ^ F.LANE_EVT_DOWN.width) ∧
    (failedS.live = true ∧ 33 = 23 + 10 ∧ 7 ≠ 23) ∧
    (7 < 32 ∧ bitAt (failedS.r F.THM_SENSOR_FAIL_FAIL 3) 7 = true ∧ bitAt 128 7 = true) := by
  and_intros <;> decide +kernel

theorem witness_W1cAndRc :
    (countS.live = true ∧ evtOff.val % 4 = 0 ∧ locate evtOff.val = some (spec evtOff.val, 0, 0) ∧ plainRegister
      (spec evtOff.val) = true ∧ countS.writeIgnored (spec evtOff.val) 0 = false ∧ (((spec evtOff.val).word 0).all
      fun f => f.acc == Acc.w1c || f.acc == Acc.ro) = true) ∧
    ((countS.live || countS.frozen) = true ∧ State.accessForm (downOff.val) 4 = true) ∧
    (holeAt.val % 4 = 0 ∧ locate holeAt.val = none) ∧
    (downOff.val % 4 = 0 ∧ locate downOff.val = some (spec downOff.val, 191, 0) ∧ (((spec downOff.val).word 0).all
      fun f => !f.multi) = true ∧ countS.bistTested (spec downOff.val) 191 = false) ∧
    (((countS.w F.SYS_STATE_STATE 0 6).live || (countS.w F.SYS_STATE_STATE 0 6).frozen) = true ∧ (countS.w
      F.SYS_STATE_STATE 0 6).bistTested (spec downOff.val) 191 = false ∧ (countS.w F.SYS_STATE_STATE 0 6).frozen =
      true) := by
  and_intros <;> decide +kernel

theorem witness_Multiword :
    (stagedS.live = true ∧ timeOff.val % 8 = 0 ∧ locate timeOff.val = some (spec timeOff.val, 0, 0) ∧ locate
      (timeOff.val + 4) = some (spec timeOff.val, 0, 0 + 1) ∧ (spec timeOff.val).word 0 = [F.SYS_TIME_TIME] ∧ (spec
      timeOff.val).word (0 + 1) = [F.SYS_TIME_TIME] ∧ F.SYS_TIME_TIME.multi = true ∧ F.SYS_TIME_TIME.first = 0 ∧
      F.SYS_TIME_TIME ≠ F.HB_Q_ENTRY ∧ F.SYS_TIME_TIME.acc ≠ Acc.rc ∧ stagedS.bistTested (spec timeOff.val) 0 =
      false) ∧
    (bufLo.val % 4 = 0 ∧ locate bufLo.val = some (spec bufLo.val, 0, 0) ∧ plainRegister (spec bufLo.val) = true ∧
      stagedS.writeIgnored (spec bufLo.val) 0 = false ∧ (spec bufLo.val).word 0 = [F.SYS_DUMP_BUF_ADDR] ∧
      F.SYS_DUMP_BUF_ADDR.multi = true ∧ stagedS.writable F.SYS_DUMP_BUF_ADDR = true ∧ F.SYS_DUMP_BUF_ADDR.last =
      F.SYS_DUMP_BUF_ADDR.first + 1 ∧ 0 = F.SYS_DUMP_BUF_ADDR.first) ∧
    (bufHi.val % 4 = 0 ∧ locate bufHi.val = some (spec bufLo.val, 0, 1) ∧ (spec bufLo.val).word 1 =
      [F.SYS_DUMP_BUF_ADDR] ∧ 1 = F.SYS_DUMP_BUF_ADDR.last ∧ keyed stagedS.staged (Master.serial.code,
      F.SYS_DUMP_BUF_ADDR.id, 0) = some 4096 ∧ stagedS.encAccepted 0 [(F.SYS_DUMP_BUF_ADDR, 4096 + 4096 * 2 ^ 32)] =
      [(F.SYS_DUMP_BUF_ADDR, 4096 + 4096 * 2 ^ 32)]) := by
  and_intros <;> decide +kernel

/-! ### Device states, fabric -/

def permS : State := put (dv 4) [(F.LANE_STAT_STATE, 191, 4)]
def busyS : State := wj (jb 1 []) (put (dv 4) [(F.LANE_STAT_STATE, 191, 4), (F.SYS_RESET_CFG_PERST_MODE, 0, 1)])
def linkDownSafe : State := put (dv 5) [(F.SYS_SAFE_CAUSE_LINK_DOWN, 0, 1), (F.LANE_STAT_STATE, 191, 4)]

def linkDownSetup : State := { dv 3 with pcie := { ready := true, linkDown := true } }
/-- A transition to `d` was triggered in state `old` before. -/
def tr (d : DevState) : Trans := { dest := d, at_ := 0 }
def inTrans (old : Nat) (d : DevState) : State := { dv old with sys := { trans := [tr d] } }
def safeLanes : State := put (dv 5) [(F.LANE_STAT_STATE, 191, 4)]
def runLinkDown : State := { inTrans 3 .run with pcie := { ready := true, linkDown := true } }
def calWaits : State := put (inTrans 4 .safe) [(F.LANE_STAT_STATE, 191, 2)]

def noLink : State := { dv 4 with pcie := { ready := true, bme := true, msiWait := [3, 4] } }
def noBme : State := { dv 4 with pcie := { ready := true, linkL0 := true, msiWait := [3, 4] } }

def safeNoLink : State := { dv 5 with pcie := { ready := true } }
def runNoLink : State := { dv 4 with pcie := { ready := true } }

def lanesUp : State := put (dv 4) ((List.range 8).map fun n => (F.LANE_STAT_STATE, n, 4))
def faultedRail : State := put (dv 4) [(F.SYS_RAIL_STAT_AVS_FAULT, 2, 1)]
def railWrite : State := (dv 4).setRail 2 { target := some 800, fails := 2 }
def slipping : State :=
  { put lanesUp [(F.LANE_ADC_STAT_RUNNING, 7, 1)] with fab := { rates := (List.range 40).map fun i => (i, [100000]) } }

def railHigh : State := put (dv 4) [(F.SYS_RAIL_STAT_SETPOINT, 2, 900)]
def railLow : State := put (dv 4) [(F.SYS_RAIL_STAT_SETPOINT, 2, 700), (F.SYS_ISL_MARGIN_MARGIN, 39, 0)]

def railCalm : State :=
  { put (dv 4) ((F.SYS_RAIL_STAT_SETPOINT, 2, 800) :: (List.range 40).map fun i => (F.SYS_ISL_MARGIN_MARGIN, i, 0xFFFF)) with
    now := 2000000 }
def safeWrite : State := (dv 5).setRail 2 { target := some 800, fails := 2 }

theorem witness_StateRequests :
    ((dv 3).sys.trans = [] ∧ (((dv 3).dev = DevState.setup ∨ (dv 3).dev = DevState.safe ∧ (dv 3).safeCause / 2 =
      0))) ∧
    ((dv 4).sys.trans = [] ∧ (dv 4).dev = DevState.run) ∧
    ((dv 5).sys.trans = [] ∧ (dv 5).dev = DevState.safe ∧ ((∀ (n : Nat), n < 192 → (dv 5).laneState n = 0))) ∧
    ((inTrans 3 DevState.run).pending = [] ∧ (inTrans 3 DevState.run).sys.trans = [tr DevState.run] ∧ (inTrans 3
      DevState.run).powered = true ∧ (inTrans 3 DevState.run).sys.lrefAbsent = false ∧ ((∀ (p : Nat × SubH), p ∈
      (inTrans 3 DevState.run).subs → p.snd.waiting = none)) ∧ (tr DevState.run).dest = DevState.run ∧ (∀ (n : Nat),
      (inTrans 3 DevState.run).r F.LANE_STAT_RESTORE_PENDING n = 0) ∧ (inTrans 3 DevState.run).pcie.linkDown =
      false) ∧
    (runLinkDown.pending = [] ∧ runLinkDown.sys.trans = [tr DevState.run] ∧ runLinkDown.powered = true ∧
      runLinkDown.sys.lrefAbsent = false ∧ ((∀ (p : Nat × SubH), p ∈ runLinkDown.subs → p.snd.waiting = none)) ∧ (∀
      (n : Nat), runLinkDown.r F.LANE_STAT_RESTORE_PENDING n = 0) ∧ runLinkDown.pcie.linkDown = true) ∧
    ((inTrans 5 DevState.setup).pending = [] ∧ (inTrans 5 DevState.setup).sys.trans = [tr DevState.setup] ∧
      (inTrans 5 DevState.setup).powered = true ∧ (inTrans 5 DevState.setup).sys.lrefAbsent = false ∧ ((∀ (p : Nat ×
      SubH), p ∈ (inTrans 5 DevState.setup).subs → p.snd.waiting = none)) ∧ (tr DevState.setup).dest =
      DevState.setup ∧ (inTrans 5 DevState.setup).dev ≠ DevState.boot) ∧
    ((inTrans 4 DevState.safe).pending = [] ∧ (inTrans 4 DevState.safe).sys.trans = [tr DevState.safe] ∧ (inTrans
      4 DevState.safe).powered = true ∧ (inTrans 4 DevState.safe).sys.lrefAbsent = false ∧ ((∀ (p : Nat × SubH), p ∈
      (inTrans 4 DevState.safe).subs → p.snd.waiting = none)) ∧ (tr DevState.safe).dest = DevState.safe) ∧
    ((((dv 3).dev = DevState.boot ∨ (dv 3).dev = DevState.setup ∨ (dv 3).dev = DevState.safe))) ∧
    ((((dv 3).dev = DevState.boot ∨ (dv 3).dev = DevState.setup ∨ (dv 3).dev = DevState.run ∨ (dv 3).dev =
      DevState.safe ∧ ∃ n, n < 192 ∧ (dv 3).laneState n ≠ 0))) ∧
    ((((dv 4).dev = DevState.boot ∨ (dv 4).dev = DevState.run ∨ (dv 4).dev = DevState.safe ∧ (dv 4).safeCause / 2
      ≠ 0))) ∧
    ((inTrans 4 DevState.safe).live = true ∧ (inTrans 4 DevState.safe).inTransition = true) := by
  and_intros <;> first | exact fun _ => rfl | decide +kernel

theorem witness_ResetEntryAndEnd :
    ((busyS.live || busyS.frozen) = true ∧ busyS.nvm.running = none) ∧
    (busyS.powered = true) ∧
    ((permS.live || permS.frozen) = true ∧ permS.r F.SYS_RESET_CFG_PERST_MODE = 0 ∧ permS.nvm.running = none) ∧
    ((dv 0).dev = DevState.off) ∧
    (State.reset.dev = DevState.reset ∧ State.reset.r F.SYS_RESET_CFG_PERST_MODE = 0) ∧
    (State.reset.sys.perstUntil ≤ State.reset.now ∧ State.reset.sys.rstUntil ≤ State.reset.now ∧
      State.reset.sys.thermalHold = false ∧ State.reset.hk.clrLow = false ∧ State.reset.fab.rails = [] ∧
      State.reset.r F.SYS_BOOT_STAT_PHASE = 0 ∧ (true, true, true).fst = true) ∧
    ((true, true, true).snd.fst = true) ∧
    ((true, true, true).snd.snd = true) := by
  and_intros <;> decide +kernel

theorem witness_LinkAndEndpoint :
    ((noLink.live || noLink.frozen) = true ∧ noLink.pcie.tableWait = [] ∧ noLink.subs = [] ∧ noLink.pcie.ready =
      true) ∧
    (noLink.dev ≠ DevState.dump) ∧
    (noLink.live = true ∧ (∀ (k : Nat), noLink.r F.SYS_TLM_STAT_STATE k = 0)) ∧
    (busyS.live = true ∧ (∀ (k : Nat), busyS.r F.SYS_TLM_STAT_STATE k = 0) ∧ busyS.r F.SYS_RESET_CFG_PERST_MODE ≠
      0) := by
  and_intros <;> first | exact fun _ => rfl | decide +kernel

theorem witness_SafeAndClock :
    (runNoLink.serviced = true ∧ runNoLink.sys.trans = [] ∧ runNoLink.pcie.linkL0 = false ∧ runNoLink.pcie.ready =
      true) ∧
    (runNoLink.r F.SYS_SAFE_CAUSE_FW_WATCHDOG = 0) := by
  and_intros <;> decide +kernel

theorem witness_Fabric :
    ((railCalm.live || railCalm.frozen) = true ∧ 2 < 3 ∧ railCalm.r F.SYS_RAIL_STAT_AVS_FAULT 2 = 0 ∧
      (railCalm.railh 2).target = none ∧ railCalm.r F.SYS_RAIL_STAT_SETPOINT 2 ≤ railCalm.ceiling 2 ∧
      railCalm.wantsUp 2 = false ∧ railCalm.wantsDown 2 = true ∧ railCalm.stepDue 2 = true ∧ railCalm.r
      F.SYS_RAIL_CFG_VMIN 2 < railCalm.r F.SYS_RAIL_STAT_SETPOINT 2) ∧
    ((safeWrite.live || safeWrite.frozen) = true ∧ (safeWrite.railh 2).target = some 800 ∧ 2 ≤ (safeWrite.railh
      2).fails ∧ safeWrite.r F.SYS_RAIL_STAT_AVS_FAULT 2 = 0 ∧ safeWrite.sys.trans = [] ∧ safeWrite.live = true) ∧
    (safeWrite.readbackBad 2 750 = false) ∧
    (((dv 4).live || (dv 4).frozen) = true) ∧
    ((dv 4).live = true ∧ ((((dv 4).fifoAt (Fifo.adc 7)).snd.snd = false ∨ 4096 ≤ (dv 4).marginAt ((dv 4).fifoAt
      (Fifo.adc 7)).snd.fst))) ∧
    (slipping.live = true ∧ Fifo.hostRx 14 = Fifo.hostRx 14 ∧ (slipping.fifoAt (Fifo.hostRx 14)).snd.snd = true ∧
      slipping.marginAt (slipping.fifoAt (Fifo.hostRx 14)).snd.fst < 4096 ∧ slipping.laneMode (slipping.fifoAt
      (Fifo.hostRx 14)).fst ≠ 3 ∧ State.fifoNo (Fifo.adc 7) ≠ State.fifoNo (Fifo.hostRx 14)) ∧
    ((slipping.fifoAt (Fifo.adc 7)).snd.snd = true ∧ slipping.marginAt (slipping.fifoAt (Fifo.adc 7)).snd.fst <
      4096 ∧ (∀ (m : Fin 384), Fifo.adc 7 ≠ Fifo.hostRx m) ∧ State.fifoNo (Fifo.hostRx 14) ≠ State.fifoNo (Fifo.adc
      7)) ∧
    ((railHigh.live || railHigh.frozen) = true ∧ isPayload 39 = false) ∧
    (railHigh.r F.SYS_RAIL_STAT_AVS_FAULT 2 = 0 ∧ (railHigh.railh 2).target = none ∧ railHigh.ceiling 2 <
      railHigh.r F.SYS_RAIL_STAT_SETPOINT 2) ∧
    ((railLow.live || railLow.frozen) = true ∧ railLow.r F.SYS_RAIL_STAT_AVS_FAULT 2 = 0 ∧ (railLow.railh
      2).target = none ∧ railLow.r F.SYS_RAIL_STAT_SETPOINT 2 < railLow.ceiling 2 ∧ railLow.wantsUp 2 = true ∧
      railLow.stepDue 2 = true) ∧
    ((dv 4).r F.SYS_RAIL_STAT_AVS_FAULT 2 = 0 ∧ ((dv 4).railh 2).target = none ∧ (dv 4).r F.SYS_RAIL_STAT_SETPOINT
      2 ≤ (dv 4).ceiling 2 ∧ (dv 4).wantsUp 2 = false ∧ (dv 4).wantsDown 2 = false) ∧
    ((faultedRail.live || faultedRail.frozen) = true ∧ faultedRail.r F.SYS_RAIL_STAT_AVS_FAULT 2 ≠ 0) ∧
    (railHigh.sys.trans = [] ∧ railHigh.live = true) := by
  and_intros <;> decide +kernel

/-! ### Lanes and the transmit path -/

/-- `s` with lanes `l` in lane state `st`. -/
def lanes (l : List Nat) (st : Nat) (s : State := dv 4) : State := put s (l.map fun n => (F.LANE_STAT_STATE, n, st))

/-- Every lane has its two host lanes. -/
def mapped (s : State := dv 4) : State :=
  put s ((List.range 192).flatMap fun n => [(F.XBAR_MAP_A_VALID, n, 1), (F.XBAR_MAP_B_VALID, n, 1)])

/-- Only lanes 0 to 7 have theirs. -/
def few : State :=
  let none : Tab Nat := (List.range 184).map fun k => (k + 8, 0)
  { dv 4 with regs := Tab.put (Tab.put (dv 4).regs F.XBAR_MAP_A_VALID.id none) F.XBAR_MAP_B_VALID.id none }

/-- Lanes 190 and 191 are a fused pair. -/
def paired : State := put (dv 4) [(F.LANE_FE_STAT_FUSED_ROLE, 190, 1), (F.LANE_FE_STAT_FUSED_ROLE, 191, 2)]

def cfgAll : Job := jb 0x10 [190, 0, 2, 0, 0, 7, 2, 9, 4]
def loop2 : Job := jb 0x13 [190, 0, 2, 0, 2]
def loop3 : Job := jb 0x13 [190, 0, 2, 0, 3]
def pairOn : Job := jb 0x15 [188, 0, 4, 0, 1]
def pairOff : Job := jb 0x15 [188, 0, 4, 0, 0]
def mapOne : Job := jb 0x14 [2, 0, 0, 0, 3, 0, 8, 0, 9, 0, 4, 0, 6, 0, 255, 255]

def cfgBad : Job := jb 0x10 [191, 0, 2, 0, 0, 7, 2, 9, 4]
def cfgSlot : Job := jb 0x10 [23, 0, 1, 0, 2, 1, 1]
def mapBroken : Job := jb 0x14 [1, 0, 0, 0, 3, 0, 8, 0, 9, 0]

def cfgHost : Job := jb 0x10 [190, 0, 2, 0, 1, 15, 11, 2, 1, 2, 0, 0, 1, 255, 20, 3]

def twoLanes : Job := jb 0x11 [190, 0, 2, 0]
def offLanes : Job := jb 0x12 [190, 0, 2, 0]
def offOne : Job := jb 0x12 [191, 0, 1, 0]

def offAgain : State := wj offOne (put (lanes [191] 6) [(F.LANE_STAT_ENABLE_PENDING, 191, 1)])

def raiseOne : Raise := { change := .lane 191 1, islands := [35], from_ := 0 }
def raiseNone : Raise := { change := .lane 191 1, islands := [], from_ := 0 }
def raising (r : Raise) (rates : List (Nat × List Nat)) : State := { mapped with fab := { raises := [r], rates := rates } }

def tracking : State :=
  put (lanes [191] 4) [(F.LANE_EQ_STAT_LOCKED, 191, 1), (F.LANE_FEC_STAT_INNER_LOCKED, 191, 1), (F.LANE_FEC_STAT_OUTER_LOCKED, 191, 1)]
def resuming : State := tracking.setLaneh 191 { resume := some 5 }

/-- Lane 191 has its host lanes; host lane 383 recovers its clock, or does not. -/
def last : State := put (dv 4) [(F.XBAR_MAP_A_VALID, 191, 1), (F.XBAR_MAP_B_VALID, 191, 1)]
def hostUp : State := put last [(F.LANE_STAT_STATE, 191, 4), (F.HSL_STAT_CDR_LOCK, 383, 1)]
def hostDown : State := put last [(F.LANE_STAT_STATE, 191, 4)]
def zeroWord : List (BitVec 10) := List.replicate 544 0

/-- A word of zeros but for its last 16 symbols, which fifteen of the roots of the outer code have as a root. -/
def wrongEnd : List (BitVec 10) := [1, 792, 769, 477, 965, 180, 5, 833, 936, 650, 38, 594, 684, 266, 944, 688]
def badWord : List (BitVec 10) := List.replicate 528 0 ++ wrongEnd

/-- The run of level indices that demaps to these bits. -/
def levelsOf : List Bool → List (Fin 4)
  | m :: l :: bs => (if m then (if l then 2 else 3) else if l then 1 else 0) :: levelsOf bs
  | _ => []
def zeroLevels : Levels := ⟨0, levelsOf (bitsOfSymbols (zeroWord.map (·.toNat)))⟩
def badLevels : Levels := ⟨0, levelsOf (bitsOfSymbols (badWord.map (·.toNat)))⟩
def noLevels : Levels := ⟨0, []⟩

theorem zeroWord_dec : rsDecode (zeroWord.map (·.toNat)) = some (List.replicate 544 0, 0) := by
  rw [zeroWord, List.map_replicate]
  exact rsDecode_zeros 544

theorem badWord_dec : rsDecode (badWord.map (·.toNat)) = none := by
  rw [badWord, List.map_append, List.map_replicate]
  exact rsDecode_none 528 _ (by decide +kernel) (by decide +kernel)

theorem dec_some {l w : List Nat} {r : List Nat × Nat} (h : rsDecode w = some r) (e : l = w) : rsDecode l = some r := e ▸ h
theorem dec_is {l w : List Nat} {r : List Nat × Nat} (h : rsDecode w = some r) (e : l = w) : (rsDecode l).isSome = true := by
  rw [dec_some h e]; rfl
theorem dec_ne {l w : List Nat} {r : List Nat × Nat} (h : rsDecode w = some r) (e : l = w) : rsDecode l ≠ none := by
  rw [dec_some h e]; exact Option.some_ne_none r
theorem dec_none {l w : List Nat} (h : rsDecode w = none) (e : l = w) : rsDecode l = none := e ▸ h
theorem dec_not {l w : List Nat} (h : rsDecode w = none) (e : l = w) : (rsDecode l).isSome = false := by
  rw [dec_none h e]; rfl

/-- Lane 191 in L100, whose A lane is 382; its alignment at the sixteenth bad word; its loopbacks. -/
def slow : State := put hostDown [(F.LANE_STAT_MODE, 191, 3)]
def alignedUp : State := put hostUp [(F.HSL_STAT_ALIGNED, 383, 1)]
def lineBack : State := put hostUp [(F.LANE_STAT_LOOPBACK, 191, 2)]
def nearBack : State := put hostUp [(F.LANE_STAT_LOOPBACK, 191, 1), (F.LANE_STAT_MODE, 191, 2)]

def txAll : Job := jb 0x19 [191, 0, 1, 0, 0, 0, 0, 0, 63, 15, 50, 4]
def txSwing : Job := jb 0x19 [191, 0, 1, 0, 0, 0, 0, 0, 1, 0, 50, 4]
def txFir : Job := jb 0x19 ([191, 0, 1, 0, 1, 0, 0, 0] ++ List.range 24)
def txBad : Job := jb 0x19 [191, 0]
def driving : State :=
  put (lanes [191] 4) [(F.LANE_TX_STAT_SWING_CODE, 191, 30), (F.LANE_TX_STAT_DRV_ON, 191, 1), (F.LANE_TX_STAT_RAMPING, 191, 1)]

def txPage : Job := jb 0x19 ([191, 0, 1, 0, 4, 0, 0, 0] ++ List.range 16)
def txPageIn : Job := jb 0x19 ([191, 0, 1, 0, 4, 1, 0, 0] ++ List.range 16)

def walkingUp : State := put driving [(F.LANE_TX_STAT_WALKING, 191, 1), (F.LANE_TX_CFG_SWING, 191, 50)]
def walkingDown : State := put driving [(F.LANE_TX_STAT_WALKING, 191, 1), (F.LANE_TX_CFG_SWING, 191, 28)]
def firTaps : List Nat := List.range 16
def firWaits : State := driving.setTx 191 { pendFir := some firTaps }

def tableWaits : State := driving.setTx 191 { pendPd := some firTaps, pendPdEn := some true }

/-- Symbols that lane 191 has sent, and four chains: pairs ready, a window's last symbol, and the inner code's blocks. -/
def sentSyms : List Nat := [1, 2, 3, 0, 1, 2, 3, 3]
def pairsReady : State := driving.setTx 191 { out := [1, 2], sent := sentSyms, k := 5 }
def windowEnd : State := driving.setTx 191 { out := [1, 2], sent := sentSyms, winN := 225000, winSat := 3 }
def episode : State := driving.setTx 191 { out := [1, 2], sent := sentSyms, winN := 225000, winSat := 3, satEpisode := true }
def blockReady : State := driving.setTx 191 { pos := 544, data := true, buf := List.replicate 544 true }
def blockShort : State := driving.setTx 191 { pos := 544, data := true }
def blockMark : State := driving.setTx 191 { prbs := 77 }

theorem witness_LaneSettings :
    ((wj cfgHost (dv 3)).started? 16 5 7 = some cfgHost ∧ (wj cfgHost (dv 3)).bistHolds cfgHost = false ∧
      State.laneConfigOk cfgHost = true ∧ (wj cfgHost (dv 3)).laneConfigAllowed cfgHost = true ∧ cfgHost.p 4 1 = 1 ∧
      190 ∈ cfgHost.items ∧ bitAt (cfgHost.p 5 1) 0 = true) ∧
    (bitAt (cfgHost.p 5 1) 1 = true) ∧
    (bitAt (cfgHost.p 5 1) 2 = true) ∧
    (bitAt (cfgHost.p 5 1) 3 = true) ∧
    ((wj cfgAll (dv 3)).started? 16 5 7 = some cfgAll ∧ (wj cfgAll (dv 3)).bistHolds cfgAll = false ∧
      State.laneConfigOk cfgAll = true ∧ (wj cfgAll (dv 3)).laneConfigAllowed cfgAll = true ∧ cfgAll.p 4 1 = 0 ∧ 190
      ∈ cfgAll.items ∧ bitAt (cfgAll.p 5 1) 0 = true) ∧
    (bitAt (cfgAll.p 5 1) 1 = true) ∧
    (bitAt (cfgAll.p 5 1) 2 = true) ∧
    ((wj cfgBad (dv 4)).started? 16 5 7 = some cfgBad ∧ (wj cfgBad (dv 4)).bistHolds cfgBad = false ∧
      State.laneConfigOk cfgBad = false) ∧
    ((wj cfgSlot (dv 3)).started? 16 5 7 = some cfgSlot ∧ (wj cfgSlot (dv 3)).bistHolds cfgSlot = false ∧
      State.laneConfigOk cfgSlot = true ∧ (wj cfgSlot (dv 3)).laneConfigAllowed cfgSlot = true ∧ cfgSlot.p 4 1 = 2 ∧
      bitAt (cfgSlot.p 5 1) 0 = true ∧ 23 < 24) ∧
    ((wj cfgAll (lanes [191] 4)).started? 16 5 7 = some cfgAll ∧ (wj cfgAll (lanes [191] 4)).bistHolds cfgAll =
      false ∧ (wj cfgAll (lanes [191] 4)).laneConfigAllowed cfgAll = false) ∧
    ((wj loop2 (dv 4)).started? 19 5 7 = some loop2 ∧ (wj loop2 (dv 4)).bistHolds loop2 = false ∧ (loop2.spanOk
      192 && decide (loop2.p 4 1 ≤ 4) && loop2.pz 5 27) = true ∧ (¬(loop2.p 4 1 = 3 ∧ loop2.items.any (wj loop2 (dv
      4)).fused = true)) ∧ ((∀ (n : Nat), n ∈ loop2.items → (wj loop2 (dv 4)).laneState n = 0)) ∧ 190 ∈ loop2.items)
      ∧
    ((wj loop2 (lanes [191] 4)).started? 19 5 7 = some loop2 ∧ (wj loop2 (lanes [191] 4)).bistHolds loop2 = false
      ∧ (¬(loop2.p 4 1 = 3 ∧ loop2.items.any (wj loop2 (lanes [191] 4)).fused = true)) ∧ (∃ n, n ∈ loop2.items ∧ (wj
      loop2 (lanes [191] 4)).laneState n ≠ 0)) ∧
    ((wj loop3 paired).started? 19 5 7 = some loop3 ∧ (wj loop3 paired).bistHolds loop3 = false ∧ (loop3.spanOk
      192 && decide (loop3.p 4 1 ≤ 4) && loop3.pz 5 27) = true ∧ loop3.p 4 1 = 3 ∧ loop3.items.any (wj loop3
      paired).fused = true) ∧
    ((wj pairOn (dv 4)).started? 21 5 7 = some pairOn ∧ (wj pairOn (dv 4)).bistHolds pairOn = false ∧ (wj pairOn
      (dv 4)).lanePairOk pairOn = true ∧ ((∀ (n : Nat), n ∈ pairOn.items → (wj pairOn (dv 4)).laneState n = 0)) ∧
      190 ∈ pairOn.items ∧ 190 % 2 = 0 ∧ pairOn.p 4 1 = 1 ∧ (wj pairOn (dv 4)).fused 190 = false) ∧
    ((wj pairOff paired).started? 21 5 7 = some pairOff ∧ (wj pairOff paired).bistHolds pairOff = false ∧ (wj
      pairOff paired).lanePairOk pairOff = true ∧ ((∀ (n : Nat), n ∈ pairOff.items → (wj pairOff paired).laneState n
      = 0)) ∧ 190 ∈ pairOff.items ∧ pairOff.p 4 1 = 0 ∧ (wj pairOff paired).fused 190 = true) ∧
    ((wj mapOne few).started? 20 5 7 = some mapOne ∧ (wj mapOne few).bistHolds mapOne = false ∧ State.laneMapOk
      mapOne = true ∧ ((State.mapEntries mapOne).any fun e => (wj mapOne few).laneState e.fst != 0 || (wj mapOne
      few).takesFromUp e.fst e.snd.fst || (wj mapOne few).takesFromUp e.fst e.snd.snd) = false ∧ ((wj mapOne
      few).each (State.mapEntries mapOne) State.mapSet).mapLegal = true ∧ (List.map (fun x => x.fst)
      (State.mapEntries mapOne)).Nodup) ∧
    ((wj mapOne (lanes [3] 4 few)).started? 20 5 7 = some mapOne ∧ (wj mapOne (lanes [3] 4 few)).bistHolds mapOne
      = false ∧ ((State.mapEntries mapOne).any fun e => (wj mapOne (lanes [3] 4 few)).laneState e.fst != 0 || (wj
      mapOne (lanes [3] 4 few)).takesFromUp e.fst e.snd.fst || (wj mapOne (lanes [3] 4 few)).takesFromUp e.fst
      e.snd.snd) = true) ∧
    ((wj mapBroken few).started? 20 5 7 = some mapBroken ∧ (wj mapBroken few).bistHolds mapBroken = false ∧
      State.laneMapOk mapBroken = true ∧ ((State.mapEntries mapBroken).any fun e => (wj mapBroken few).laneState
      e.fst != 0 || (wj mapBroken few).takesFromUp e.fst e.snd.fst || (wj mapBroken few).takesFromUp e.fst
      e.snd.snd) = false ∧ ((wj mapBroken few).each (State.mapEntries mapBroken) State.mapSet).mapLegal = false) :=
      by
  and_intros <;> decide +kernel

theorem witness_LaneSwitch :
    (offAgain.started? 18 5 7 = some offOne ∧ offAgain.bistHolds offOne = false ∧ State.lanesOnly offOne = true ∧
      offOne.items = [191] ∧ offAgain.fused 191 = false ∧ offAgain.laneState 191 = 6 ∧ offAgain.r
      F.LANE_STAT_ENABLE_PENDING 191 = 1) ∧
    ((wj twoLanes (lanes [190] 6 mapped)).started? 17 5 7 = some twoLanes ∧ (wj twoLanes (lanes [190] 6
      mapped)).bistHolds twoLanes = false ∧ State.lanesOnly twoLanes = true ∧ List.findSome? (wj twoLanes (lanes
      [190] 6 mapped)).enableRefusal ((wj twoLanes (lanes [190] 6 mapped)).leads twoLanes.items) = none ∧
      List.filter (fun n => (wj twoLanes (lanes [190] 6 mapped)).laneState n == 0) ((wj twoLanes (lanes [190] 6
      mapped)).leads twoLanes.items) ++ List.filter (fun n => (wj twoLanes (lanes [190] 6 mapped)).laneState n == 6)
      ((wj twoLanes (lanes [190] 6 mapped)).leads twoLanes.items) ≠ []) ∧
    (191 ∈ List.filter (fun n => (wj twoLanes (lanes [190] 6 mapped)).laneState n == 0) ((wj twoLanes (lanes [190]
      6 mapped)).leads twoLanes.items)) ∧
    (190 ∈ List.filter (fun n => (wj twoLanes (lanes [190] 6 mapped)).laneState n == 6) ((wj twoLanes (lanes [190]
      6 mapped)).leads twoLanes.items)) ∧
    ((wj twoLanes (lanes [190, 191] 4 mapped)).started? 17 5 7 = some twoLanes ∧ (wj twoLanes (lanes [190, 191] 4
      mapped)).bistHolds twoLanes = false ∧ List.findSome? (wj twoLanes (lanes [190, 191] 4 mapped)).enableRefusal
      ((wj twoLanes (lanes [190, 191] 4 mapped)).leads twoLanes.items) = none ∧ List.filter (fun n => (wj twoLanes
      (lanes [190, 191] 4 mapped)).laneState n == 0) ((wj twoLanes (lanes [190, 191] 4 mapped)).leads
      twoLanes.items) ++ List.filter (fun n => (wj twoLanes (lanes [190, 191] 4 mapped)).laneState n == 6) ((wj
      twoLanes (lanes [190, 191] 4 mapped)).leads twoLanes.items) = []) ∧
    ((wj offLanes (dv 4)).started? 18 5 7 = some offLanes ∧ (wj offLanes (dv 4)).bistHolds offLanes = false ∧
      State.lanesOnly offLanes = true ∧ ((∀ (n : Nat), n < 192 → (wj offLanes (dv 4)).laneState n = 0 ∧ (wj offLanes
      (dv 4)).r F.LANE_STAT_ENABLE_PENDING n = 0 ∧ (wj offLanes (dv 4)).fused n = false)) ∧ 190 ∈ offLanes.items) ∧
    ((wj offOne (lanes [191] 4)).started? 18 5 7 = some offOne ∧ (wj offOne (lanes [191] 4)).bistHolds offOne =
      false ∧ (wj offOne (lanes [191] 4)).fused 191 = false ∧ (wj offOne (lanes [191] 4)).laneState 191 ≠ 0 ∧ (wj
      offOne (lanes [191] 4)).laneState 191 ≠ 6 ∧ (wj offOne (lanes [191] 4)).r F.LANE_STAT_ENABLE_PENDING 191 = 0)
      := by
  and_intros <;> decide +kernel

theorem witness_RateRaise :
    ((raising raiseNone []).live = true ∧ (raising raiseNone []).raise? (Change.lane 191 1) = some raiseNone ∧
      (raising raiseNone []).laneState 191 = 0 ∧ (raising raiseNone []).fused 191 = false ∧ (raising raiseNone
      []).enableRefusal 191 = none ∧ (raising raiseNone []).raiseReady raiseNone = true) ∧
    ((raising raiseNone []).raiseAllowed raiseNone = true) ∧
    ((raising raiseOne [(35, [100000])]).live = true ∧ (raising raiseOne [(35, [100000])]).raise? (Change.lane 191
      1) = some raiseOne ∧ (raising raiseOne [(35, [100000])]).laneState 191 = 0 ∧ (raising raiseOne [(35,
      [100000])]).fused 191 = false ∧ (raising raiseOne [(35, [100000])]).enableRefusal 191 = none ∧ (raising
      raiseOne [(35, [100000])]).raiseReady raiseOne = false ∧ (raising raiseOne [(35, [100000])]).raiseAllowed
      raiseOne = false ∧ 35 ∈ raiseOne.islands ∧ (raising raiseOne [(35, [100000])]).marginAt 35 < 4301) := by
  and_intros <;> decide +kernel

theorem witness_DrainAndGrace :
    ((lanes [191] 6).live = true ∧ (lanes [191] 6).fused 191 = false ∧ (lanes [191] 6).laneState 191 = 6 ∧ (lanes
      [191] 6).r F.LANE_STAT_ENABLE_PENDING 191 = 0 ∧ (lanes [191] 6).r F.LANE_STAT_RESTORE_PENDING 191 = 0) ∧
    ((lanes [191] 5).live = true ∧ (lanes [191] 5).fused 191 = false ∧ (lanes [191] 5).laneState 191 ≠ 6) ∧
    (resuming.live = true ∧ resuming.tracking 191 = true ∧ resuming.r F.LANE_STAT_HOLDOVER 191 = 0 ∧ resuming.r
      F.LANE_STAT_PAYLOAD 191 = 0 ∧ resuming.payloadLocked 191 = true ∧ (resuming.laneh 191).resume ≠ none) ∧
    ((put tracking [(F.LANE_STAT_HOLDOVER, 191, 1)]).live = true ∧ (put tracking [(F.LANE_STAT_HOLDOVER, 191,
      1)]).tracking 191 = true ∧ (put tracking [(F.LANE_STAT_HOLDOVER, 191, 1)]).r F.LANE_STAT_HOLDOVER 191 ≠ 0 ∧
      (put tracking [(F.LANE_STAT_HOLDOVER, 191, 1)]).fused 191 = false) := by
  and_intros <;> decide +kernel

theorem hostLane_fact1 : (rsDecode (symbolsOf 544 (alignedUp.hostBits 383 badLevels))).isSome = false :=
  dec_not badWord_dec (by decide +kernel)
theorem hostLane_fact2 : (rsDecode (symbolsOf 544 ((alignedUp.setHost 383 { last := 9, fail := 15 }).hostBits 383 badLevels))).isSome = false :=
  dec_not badWord_dec (by decide +kernel)
theorem hostLane_fact3 : (rsDecode (symbolsOf 544 (hostUp.hostBits 383 badLevels))).isSome = false :=
  dec_not badWord_dec (by decide +kernel)
theorem hostLane_fact4 : (rsDecode (symbolsOf 544 (hostUp.hostBits 383 zeroLevels))).isSome = true :=
  dec_is zeroWord_dec (by decide +kernel)
theorem hostLane_fact5 : (rsDecode (symbolsOf 544 ((hostUp.setHost 383 { cand := 9, pass := 2 }).hostBits 383 zeroLevels))).isSome = true :=
  dec_is zeroWord_dec (by decide +kernel)
theorem witness_HostLane :
    (slow.live = true ∧ slow.hostPowered 382 = true ∧ slow.r F.HSL_STAT_CDR_LOCK 382 = 0 ∧ slow.bitForBit 382 =
      true) ∧
    (alignedUp.live = true ∧ alignedUp.alignHunts 383 = true ∧ alignedUp.r F.HSL_STAT_ALIGNED 383 = 1 ∧ (rsDecode
      (symbolsOf 544 (alignedUp.hostBits 383 badLevels))).isSome = false ∧ (alignedUp.hosth 383).fail + 1 < 16) ∧
    ((alignedUp.setHost 383 { last := 9, fail := 15 }).live = true ∧ (alignedUp.setHost 383
      { last := 9, fail := 15 }).alignHunts 383 = true ∧ (alignedUp.setHost 383 { last := 9, fail := 15 }).r
      F.HSL_STAT_ALIGNED 383 = 1 ∧ (rsDecode (symbolsOf 544 ((alignedUp.setHost 383
      { last := 9, fail := 15 }).hostBits 383 badLevels))).isSome = false ∧ 16 ≤ ((alignedUp.setHost 383
      { last := 9, fail := 15 }).hosth 383).fail + 1) ∧
    (lineBack.live = true ∧ ((lineBack.r F.LANE_STAT_LOOPBACK 191 = 1 ∨ lineBack.lineLoop 191 = true)) ∧
      lineBack.laneState 191 ≠ 0 ∧ lineBack.laneState 191 ≠ 6 ∧ lineBack.lineLoop 191 = true) ∧
    (nearBack.live = true ∧ ((nearBack.r F.LANE_STAT_LOOPBACK 191 = 1 ∨ nearBack.lineLoop 191 = true)) ∧
      nearBack.laneState 191 ≠ 0 ∧ nearBack.laneState 191 ≠ 6 ∧ nearBack.lineLoop 191 = false ∧ false = false ∧ 1 <
      nearBack.laneMode 191) ∧
    (hostDown.live = true ∧ hostDown.hostPowered 383 = true ∧ hostDown.r F.HSL_STAT_CDR_LOCK 383 = 0 ∧
      hostDown.bitForBit 383 = false) ∧
    (hostUp.live = true ∧ hostUp.hostPowered 383 = true ∧ hostUp.r F.HSL_STAT_CDR_LOCK 383 ≠ 0 ∧
      hostUp.ownerActive 383 = true) ∧
    (hostUp.alignHunts 383 = true ∧ hostUp.r F.HSL_STAT_ALIGNED 383 = 0 ∧ (rsDecode (symbolsOf 544
      (hostUp.hostBits 383 badLevels))).isSome = false) ∧
    ((rsDecode (symbolsOf 544 (hostUp.hostBits 383 zeroLevels))).isSome = true ∧ (hostUp.hosth 383).pass + 1 < 3)
      ∧
    ((hostUp.setHost 383 { cand := 9, pass := 2 }).live = true ∧ (hostUp.setHost 383
      { cand := 9, pass := 2 }).alignHunts 383 = true ∧ (hostUp.setHost 383 { cand := 9, pass := 2 }).r
      F.HSL_STAT_ALIGNED 383 = 0 ∧ (rsDecode (symbolsOf 544 ((hostUp.setHost 383 { cand := 9, pass := 2 }).hostBits
      383 zeroLevels))).isSome = true ∧ 3 ≤ ((hostUp.setHost 383 { cand := 9, pass := 2 }).hosth 383).pass + 1) ∧
    ((put hostUp [(F.HSL_CFG_PRBS_CHK, 383, 1)]).live = true ∧ (put hostUp [(F.HSL_CFG_PRBS_CHK, 383,
      1)]).hostPowered 383 = true ∧ (put hostUp [(F.HSL_CFG_PRBS_CHK, 383, 1)]).r F.HSL_CFG_PRBS_CHK 383 ≠ 0 ∧ (put
      hostUp [(F.HSL_CFG_PRBS_CHK, 383, 1)]).r F.HSL_STAT_CDR_LOCK 383 ≠ 0 ∧ (put hostUp [(F.HSL_CFG_PRBS_CHK, 383,
      1)]).r F.HSL_STAT_PRBS_LOCK 383 = 0 ∧ ((put hostUp [(F.HSL_CFG_PRBS_CHK, 383, 1)]).hosth 383).run = 0) ∧
    ((put hostUp [(F.HSL_CFG_PRBS_CHK, 383, 1), (F.HSL_STAT_PRBS_LOCK, 383, 1)]).live = true ∧ (put hostUp
      [(F.HSL_CFG_PRBS_CHK, 383, 1), (F.HSL_STAT_PRBS_LOCK, 383, 1)]).hostPowered 383 = true ∧ (put hostUp
      [(F.HSL_CFG_PRBS_CHK, 383, 1), (F.HSL_STAT_PRBS_LOCK, 383, 1)]).r F.HSL_CFG_PRBS_CHK 383 ≠ 0 ∧ (put hostUp
      [(F.HSL_CFG_PRBS_CHK, 383, 1), (F.HSL_STAT_PRBS_LOCK, 383, 1)]).r F.HSL_STAT_CDR_LOCK 383 ≠ 0 ∧ (put hostUp
      [(F.HSL_CFG_PRBS_CHK, 383, 1), (F.HSL_STAT_PRBS_LOCK, 383, 1)]).r F.HSL_STAT_PRBS_LOCK 383 ≠ 0 ∧ ((put hostUp
      [(F.HSL_CFG_PRBS_CHK, 383, 1), (F.HSL_STAT_PRBS_LOCK, 383, 1)]).hosth 383).errs < 63) ∧
    ((put hostUp [(F.LANE_STAT_LOOPBACK, 191, 1)]).live = true ∧ (((put hostUp [(F.LANE_STAT_LOOPBACK, 191, 1)]).r
      F.LANE_STAT_LOOPBACK 191 = 1 ∨ (put hostUp [(F.LANE_STAT_LOOPBACK, 191, 1)]).lineLoop 191 = true)) ∧ (put
      hostUp [(F.LANE_STAT_LOOPBACK, 191, 1)]).laneState 191 ≠ 0 ∧ (put hostUp [(F.LANE_STAT_LOOPBACK, 191,
      1)]).laneState 191 ≠ 6 ∧ (put hostUp [(F.LANE_STAT_LOOPBACK, 191, 1)]).lineLoop 191 = false) := by
  have h1 := hostLane_fact1
  have h2 := hostLane_fact2
  have h3 := hostLane_fact3
  have h4 := hostLane_fact4
  have h5 := hostLane_fact5
  and_intros <;> first | with_reducible assumption | decide +kernel

theorem witness_TxParam :
    ((wj txPage driving).started? 25 5 7 = some txPage ∧ (wj txPage driving).bistHolds txPage = false ∧
      State.txParamOk txPage = true ∧ 2 ≤ txPage.p 4 1 ∧ txPage.p 5 1 = 0 ∧ 191 ∈ txPage.items) ∧
    ((wj txPageIn (dv 4)).started? 25 5 7 = some txPageIn ∧ (wj txPageIn (dv 4)).bistHolds txPageIn = false ∧
      State.txParamOk txPageIn = true ∧ 2 ≤ txPageIn.p 4 1 ∧ txPageIn.p 5 1 = 1 ∧ ((∀ (n : Nat), n ∈ txPageIn.items
      → (wj txPageIn (dv 4)).laneState n = 0 ∧ (wj txPageIn (dv 4)).txPending n = false ∧ (wj txPageIn (dv 4)).r
      F.LANE_TX_STAT_WALKING n = 0)) ∧ 191 ∈ txPageIn.items ∧ 191 < 256) ∧
    ((wj txAll driving).started? 25 5 7 = some txAll ∧ (wj txAll driving).bistHolds txAll = false ∧
      State.txParamOk txAll = true ∧ txAll.p 4 1 = 0 ∧ 16 ≤ txAll.p 8 1 ∧ (∃ n, n ∈ txAll.items ∧ (wj txAll
      driving).laneState n ≠ 0)) ∧
    ((wj txAll (dv 4)).started? 25 5 7 = some txAll ∧ (wj txAll (dv 4)).bistHolds txAll = false ∧ txAll.p 5 1 = 0
      ∧ ((∀ (n : Nat), n ∈ txAll.items → (wj txAll (dv 4)).laneState n = 0 ∧ (wj txAll (dv 4)).txPending n = false ∧
      (wj txAll (dv 4)).r F.LANE_TX_STAT_WALKING n = 0)) ∧ 191 ∈ txAll.items ∧ bitAt (txAll.p 8 1) 0 = true) ∧
    (bitAt (txAll.p 8 1) 1 = true) ∧
    (bitAt (txAll.p 8 1) 2 = true) ∧
    (bitAt (txAll.p 8 1) 3 = true) ∧
    (bitAt (txAll.p 8 1) 4 = true) ∧
    (bitAt (txAll.p 8 1) 5 = true) ∧
    ((wj txSwing driving).started? 25 5 7 = some txSwing ∧ (wj txSwing driving).bistHolds txSwing = false ∧
      State.txParamOk txSwing = true ∧ txSwing.items = [191] ∧ txSwing.p 4 1 = 0 ∧ txSwing.p 5 1 = 0 ∧ txSwing.p 8 1
      = 1 ∧ (wj txSwing driving).laneState 191 ≠ 0 ∧ (wj txSwing driving).r F.LANE_TX_STAT_SWING_CODE 191 ≠
      txSwing.p 10 1) ∧
    ((wj txFir (dv 4)).started? 25 5 7 = some txFir ∧ (wj txFir (dv 4)).bistHolds txFir = false ∧ State.txParamOk
      txFir = true ∧ txFir.p 4 1 = 1 ∧ txFir.p 5 1 = 0 ∧ ((∀ (n : Nat), n ∈ txFir.items → (wj txFir (dv
      4)).laneState n = 0 ∧ (wj txFir (dv 4)).txPending n = false ∧ (wj txFir (dv 4)).r F.LANE_TX_STAT_WALKING n =
      0)) ∧ 191 ∈ txFir.items ∧ 15 < 16) ∧
    ((wj txFir driving).started? 25 5 7 = some txFir ∧ (wj txFir driving).bistHolds txFir = false ∧ txFir.items =
      [191] ∧ (wj txFir driving).laneState 191 ≠ 0) ∧
    ((wj txBad (dv 4)).started? 25 5 7 = some txBad ∧ (wj txBad (dv 4)).bistHolds txBad = false ∧ State.txParamOk
      txBad = false) := by
  and_intros <;> decide +kernel

theorem witness_TransmitRamp :
    (walkingUp.live = true ∧ walkingUp.r F.LANE_TX_STAT_WALKING 191 ≠ 0 ∧ walkingUp.r F.LANE_TX_CFG_SWING 191 <
      128 ∧ walkingUp.r F.LANE_TX_STAT_SWING_CODE 191 < 128 ∧ walkingUp.r F.LANE_TX_STAT_SWING_CODE 191 <
      walkingUp.r F.LANE_TX_CFG_SWING 191) ∧
    (15 ≠ 191) ∧
    (walkingDown.live = true ∧ walkingDown.r F.LANE_TX_STAT_WALKING 191 ≠ 0 ∧ walkingDown.r F.LANE_TX_CFG_SWING
      191 < 128 ∧ walkingDown.r F.LANE_TX_STAT_SWING_CODE 191 < 128 ∧ walkingDown.r F.LANE_TX_CFG_SWING 191 <
      walkingDown.r F.LANE_TX_STAT_SWING_CODE 191) ∧
    (firWaits.live = true ∧ firWaits.laneState 191 ≠ 0 ∧ firWaits.txPending 191 = true ∧ firWaits.dacWord 191 =
      true ∧ (firWaits.txh 191).pendFir = some firTaps ∧ 15 < 16) ∧
    (walkingUp.r F.LANE_TX_STAT_RAMPING 191 ≠ 0) ∧
    (walkingUp.r F.LANE_TX_STAT_DRV_ON 191 ≠ 0) ∧
    (walkingUp.laneMode 191 ≠ 3 ∧ (walkingUp.txh 191).out = [] ∧ (walkingUp.txh 191).pos = 0 ∧ walkingUp.lineLoop
      191 = false ∧ walkingUp.hostReady 191 = false) ∧
    ((dv 4).live = true ∧ (dv 4).r F.LANE_TX_STAT_DRV_ON 191 = 0) ∧
    (tableWaits.live = true ∧ tableWaits.laneState 191 ≠ 0 ∧ tableWaits.txPending 191 = true ∧ tableWaits.dacWord
      191 = true ∧ (tableWaits.txh 191).pendFir = none) ∧
    ((tableWaits.txh 191).pendPd = some firTaps ∧ 15 < 256) ∧
    ((tableWaits.txh 191).pendPdEn = some true) ∧
    (pairsReady.live = true ∧ pairsReady.dacWord 191 = false) ∧
    (windowEnd.live = true ∧ windowEnd.r F.LANE_TX_STAT_DRV_ON 191 ≠ 0 ∧ windowEnd.laneMode 191 ≠ 3 ∧
      (windowEnd.txh 191).out = [1, 2] ∧ 4 ≤ (windowEnd.txh 191).sent.length ∧ txWindowN (windowEnd.laneMode 191) ≤
      (windowEnd.txh 191).winN + 1 ∧ 0 < (windowEnd.txh 191).winSat ∧ (windowEnd.txh 191).satEpisode = false) ∧
    (episode.live = true ∧ episode.r F.LANE_TX_STAT_DRV_ON 191 ≠ 0 ∧ episode.laneMode 191 ≠ 3 ∧ (episode.txh
      191).out = [1, 2] ∧ 4 ≤ (episode.txh 191).sent.length ∧ txWindowN (episode.laneMode 191) ≤ (episode.txh
      191).winN + 1 ∧ 0 < (episode.txh 191).winSat ∧ (episode.txh 191).satEpisode = true) ∧
    (pairsReady.r F.LANE_TX_STAT_DRV_ON 191 ≠ 0 ∧ pairsReady.laneMode 191 ≠ 3 ∧ (pairsReady.txh 191).out = [1, 2]
      ∧ 4 ≤ (pairsReady.txh 191).sent.length ∧ (pairsReady.txh 191).winN + 1 < txWindowN (pairsReady.laneMode 191))
      ∧
    (blockReady.live = true ∧ blockReady.r F.LANE_TX_STAT_RAMPING 191 ≠ 0) ∧
    (blockReady.r F.LANE_TX_STAT_DRV_ON 191 ≠ 0 ∧ blockReady.laneMode 191 ≠ 3 ∧ (blockReady.txh 191).out = [] ∧
      (blockReady.txh 191).pos ≠ 0 ∧ (blockReady.txh 191).data = true ∧ 544 ≤ (blockReady.txh 191).buf.length) ∧
    (blockShort.live = true ∧ blockShort.r F.LANE_TX_STAT_DRV_ON 191 ≠ 0 ∧ blockShort.laneMode 191 ≠ 3 ∧
      (blockShort.txh 191).out = [] ∧ (blockShort.txh 191).pos ≠ 0 ∧ (blockShort.txh 191).data = true ∧
      (blockShort.txh 191).buf.length < 544) := by
  and_intros <;> decide +kernel

/-! ### Converters and equaliser -/

/-- The converter of lane 191 runs. -/
def adcOn : State :=
  (put (lanes [191] 4) [(F.LANE_ADC_STAT_RUNNING, 191, 1), (F.LANE_FE_CFG_VGA_AUTO, 191, 1), (F.LANE_FE_STAT_VGA_CODE, 191, 30)]).setAdc
    191 { vgaAuto := true, agcSum := 3600000, agcN := 1000, target := 40 }
def sums (q : Nat) (n : Nat) : State := adcOn.setAdc 191 { vgaAuto := true, agcSum := q, agcN := n, target := 40 }
def quiet : State := sums 3000 1000

def vgaWalk (g h : Nat) : State := (adcOn.setAdc 191 { vgaWalk := some g }).w F.LANE_ADC_STAT_HOLD 191 h
def ctleWalk (g h : Nat) : State :=
  put (adcOn.setAdc 191 { ctleWalk := some g }) [(F.LANE_ADC_STAT_HOLD, 191, h), (F.LANE_FE_STAT_CTLE_CODE, 191, 10)]

/-- Lane 191 with sample `k - 1` of its stream taken, of combined value `c`, and so much of its window. -/
def taken (c : Int) (k : Nat) (w : Win) (pass : Bool) : State :=
  adcOn.setAdc 191 { cur := some (c, 5, -3), lastX := some 0, k := k, win := w, pass := pass }
def held (c : Nat) (s : State) : State := put s [(F.LANE_ADC_STAT_HOLD, 191, 1), (F.LANE_ADC_STAT_CLEAN_COUNT, 191, c)]
def loud : Int := 400 * 2 ^ 36
def endWin (clips : Nat) : Win := { n := 450000, clips := clips, hi := 3, lo := -100 }
def passEnd : State := (taken 0 100 (endWin 0) true).setCal 191 { running := true, fgAt := 0 }

def passLate : State := { passEnd with now := 1000000 }

def mapChange (g j : Nat) : State := adcOn.setAdc 191 { maps := if g = 9 then [(1, 2), (g, j), (3, 3)] else [(g, j), (1, 2)] }
def noMaps : List (Nat × Nat) := []
def offFrame : State := adcOn.setAdc 191 { k := 5, maps := [(4, 5)] }
def cellSwap (k : Nat) : State :=
  put (adcOn.setTx 191 { pendCell := [7, 8], k := k }) [(F.LANE_TX_STAT_SPARE_CELL, 191, 6), (F.LANE_TX_STAT_DRV_ON, 191, 1)]
def rampAt (t : Nat) : Ramp := { lane := 191, elem := 5, n := 10, t := t, vals := [(0, (0 : Int), (40 : Int))] }
def ramping (t h : Nat) : State := { adcOn with ramps := [rampAt t] }.w F.LANE_ADC_STAT_HOLD 191 h
def midFrame (s : State) : State := s.setAdc 191 { k := 5 }

/-- Lane 191 in lane state `st` and acquisition step `a`, with a signal and its equaliser at the start values. -/
def eqAt (st a : Nat) : State :=
  (put adcOn [(F.LANE_STAT_STATE, 191, st), (F.LANE_EQ_STAT_ACQ_STEP, 191, a), (F.LANE_FE_STAT_SIG_PRESENT, 191, 1),
    (F.LANE_EQ_CFG_ADAPT_FFE, 191, 1), (F.LANE_EQ_CFG_ADAPT_H1, 191, 1), (F.LANE_EQ_CFG_ADAPT_LVL, 191, 1),
    (F.LANE_EQ_FFE_COEF, 48 * 191 + 8, 4096)]).setLevels 191 [-1030, -343, 343, 1030]
def locked : State := (eqAt 4 8).w F.LANE_EQ_STAT_LOCKED 191 1
def warm (a : Nat) : State := (eqAt 3 a).w F.LANE_EQ_STAT_WARM 191 1
def block : List (BitVec 8) := (List.range 60).map fun k => BitVec.ofNat 8 ([142, 224, 32, 114].getD ((k * k * 3 + k / 5) % 4) 0)

def trying (l : List Nat) (fine : Bool) : State := (eqAt 3 3).setEq 191 { toTry := l, tried := [(20, ⟨3, 1⟩)], fine := fine }
def noSignal (a : Nat) : State := (eqAt 3 a).w F.LANE_FE_STAT_SIG_PRESENT 191 0
def lastTry (s : State) : State := s.w F.LANE_STAT_ACQ_FAILS 191 7
def fixedCtle : State := (eqAt 3 2).w F.LANE_FE_CFG_CTLE_AUTO 191 0

def judging (good snr : Nat) : State := ((eqAt 3 7).setEq 191 { good := good }).w F.LANE_EQ_LOCK_CFG_LOCK_SNR 191 snr
def losing (snr : Nat) : State := (locked.setEq 191 { badSnr := 7 }).w F.LANE_EQ_LOCK_CFG_LOCK_SNR 191 snr

def eqJob (groups : Nat) : Job :=
  jb 0x18 [191, 0, 1, 0, groups, 0, 0xFE, 1, 12, 20, 5, 0x30, 8, 10, 20, 0x20, 5, 9, 6, 7, 3, 5, 7, 9, 0, 0x10, 0x20, 7]
def eqBad : Job := jb 0x18 [191, 0, 1, 0, 0x3F, 0, 0xFE, 1, 12, 200]

theorem witness_ConverterStartAndGain :
    (adcOn.live = true ∧ adcOn.adcRuns 191 = true ∧ (adcOn.adch 191).vgaAuto = true ∧ (adcOn.adch 191).pass =
      false ∧ (adcOn.adch 191).agcN ≠ 0 ∧ adcOn.r F.LANE_FE_STAT_VGA_CODE 191 ≤ 72 ∧ 10000 * (adcOn.adch 191).agcSum
      > (106 * (adcOn.adch 191).target) ^ 2 * (adcOn.adch 191).agcN) ∧
    (quiet.live = true ∧ quiet.adcRuns 191 = true ∧ (quiet.adch 191).vgaAuto = true ∧ (quiet.adch 191).pass =
      false ∧ (quiet.adch 191).agcN ≠ 0 ∧ quiet.r F.LANE_FE_STAT_VGA_CODE 191 ≤ 72 ∧ 106 ^ 2 * (quiet.adch
      191).agcSum < (100 * (quiet.adch 191).target) ^ 2 * (quiet.adch 191).agcN ∧ (¬10000 * (quiet.adch 191).agcSum
      > (106 * (quiet.adch 191).target) ^ 2 * (quiet.adch 191).agcN) ∧ quiet.on F.LANE_ADC_STAT_HOLD 191 = false) ∧
    ((sums 0 0).live = true ∧ (sums 0 0).adcRuns 191 = true ∧ ((sums 0 0).adch 191).vgaAuto = true ∧ ((sums 0
      0).adch 191).pass = false ∧ ((sums 0 0).adch 191).agcN = 0) ∧
    ((sums 1600000 1000).live = true ∧ (sums 1600000 1000).adcRuns 191 = true ∧ ((sums 1600000 1000).adch
      191).vgaAuto = true ∧ ((sums 1600000 1000).adch 191).pass = false ∧ ((sums 1600000 1000).adch 191).agcN ≠ 0 ∧
      (sums 1600000 1000).r F.LANE_FE_STAT_VGA_CODE 191 ≤ 72 ∧ (¬10000 * ((sums 1600000 1000).adch 191).agcSum >
      (106 * ((sums 1600000 1000).adch 191).target) ^ 2 * ((sums 1600000 1000).adch 191).agcN) ∧ ((¬106 ^ 2 * ((sums
      1600000 1000).adch 191).agcSum < (100 * ((sums 1600000 1000).adch 191).target) ^ 2 * ((sums 1600000 1000).adch
      191).agcN ∨ (sums 1600000 1000).on F.LANE_ADC_STAT_HOLD 191 = true))) ∧
    (((sums 1600000 1000).w F.LANE_FE_STAT_AGC_LIMIT 191 1).live = true ∧ ((sums 1600000 1000).w
      F.LANE_FE_STAT_AGC_LIMIT 191 1).adcRuns 191 = true ∧ (((sums 1600000 1000).w F.LANE_FE_STAT_AGC_LIMIT 191
      1).adch 191).vgaAuto = true ∧ (((sums 1600000 1000).w F.LANE_FE_STAT_AGC_LIMIT 191 1).adch 191).pass = false ∧
      (((sums 1600000 1000).w F.LANE_FE_STAT_AGC_LIMIT 191 1).adch 191).agcN ≠ 0 ∧ ((sums 1600000 1000).w
      F.LANE_FE_STAT_AGC_LIMIT 191 1).r F.LANE_FE_STAT_VGA_CODE 191 ≤ 72 ∧ ((sums 1600000 1000).w
      F.LANE_FE_STAT_AGC_LIMIT 191 1).on F.LANE_FE_STAT_AGC_LIMIT 191 = true) ∧
    ((lanes [191] 1).live = true ∧ (lanes [191] 1).laneState 191 = 1 ∧ (lanes [191] 1).on F.LANE_ADC_STAT_RUNNING
      191 = false) ∧
    ((adcOn.setAdc 191 { }).live = true ∧ (adcOn.setAdc 191 { }).adcRuns 191 = true ∧ ((((adcOn.setAdc 191
      { }).adch 191).vgaAuto = false ∨ ((adcOn.setAdc 191 { }).adch 191).pass = true))) := by
  and_intros <;> decide +kernel

theorem walksAndWindows_fact1 : ((taken 0 100 (endWin 200) false).adch 191).win.clips + (decide (State.outCode 5 (((taken 0 100 (endWin 200) false).adch 191).lastX.getD 0) 0 ((if (taken 0 100 (endWin 200) false).atFrame 191 = true then (taken 0 100 (endWin 200) false).each ((taken 0 100 (endWin 200) false).members 191) fun s m => s.dueTake m fun x => decide (x < 91) else taken 0 100 (endWin 200) false).streamX 191 ((taken 0 100 (endWin 200) false).adch 191).k 5) > 127 ∨ State.outCode 5 (((taken 0 100 (endWin 200) false).adch 191).lastX.getD 0) 0 ((if (taken 0 100 (endWin 200) false).atFrame 191 = true then (taken 0 100 (endWin 200) false).each ((taken 0 100 (endWin 200) false).members 191) fun s m => s.dueTake m fun x => decide (x < 91) else taken 0 100 (endWin 200) false).streamX 191 ((taken 0 100 (endWin 200) false).adch 191).k 5) < -127)).toNat < 65536 :=
  Nat.lt_of_le_of_lt (Nat.add_le_add_left (Bool.toNat_le _) _) (by decide +kernel)
theorem walksAndWindows_fact2 : windowN ((taken 0 100 (endWin 200) false).laneMode 191) < 4096 * (((taken 0 100 (endWin 200) false).adch 191).win.clips + (decide (State.outCode 5 (((taken 0 100 (endWin 200) false).adch 191).lastX.getD 0) 0 ((if (taken 0 100 (endWin 200) false).atFrame 191 = true then (taken 0 100 (endWin 200) false).each ((taken 0 100 (endWin 200) false).members 191) fun s m => s.dueTake m fun x => decide (x < 91) else taken 0 100 (endWin 200) false).streamX 191 ((taken 0 100 (endWin 200) false).adch 191).k 5) > 127 ∨ State.outCode 5 (((taken 0 100 (endWin 200) false).adch 191).lastX.getD 0) 0 ((if (taken 0 100 (endWin 200) false).atFrame 191 = true then (taken 0 100 (endWin 200) false).each ((taken 0 100 (endWin 200) false).members 191) fun s m => s.dueTake m fun x => decide (x < 91) else taken 0 100 (endWin 200) false).streamX 191 ((taken 0 100 (endWin 200) false).adch 191).k 5) < -127)).toNat) :=
  Nat.lt_of_lt_of_le (by decide +kernel) (Nat.mul_le_mul_left _ (Nat.le_add_right _ _))
theorem walksAndWindows_fact3 : ¬windowN ((held 3 (taken 0 100 (endWin 0) false)).laneMode 191) < 4096 * (((held 3 (taken 0 100 (endWin 0) false)).adch 191).win.clips + (decide (State.outCode 5 (((held 3 (taken 0 100 (endWin 0) false)).adch 191).lastX.getD 0) 0 ((if (held 3 (taken 0 100 (endWin 0) false)).atFrame 191 = true then (held 3 (taken 0 100 (endWin 0) false)).each ((held 3 (taken 0 100 (endWin 0) false)).members 191) fun s m => s.dueTake m fun x => decide (x < 91) else held 3 (taken 0 100 (endWin 0) false)).streamX 191 ((held 3 (taken 0 100 (endWin 0) false)).adch 191).k 5) > 127 ∨ State.outCode 5 (((held 3 (taken 0 100 (endWin 0) false)).adch 191).lastX.getD 0) 0 ((if (held 3 (taken 0 100 (endWin 0) false)).atFrame 191 = true then (held 3 (taken 0 100 (endWin 0) false)).each ((held 3 (taken 0 100 (endWin 0) false)).members 191) fun s m => s.dueTake m fun x => decide (x < 91) else held 3 (taken 0 100 (endWin 0) false)).streamX 191 ((held 3 (taken 0 100 (endWin 0) false)).adch 191).k 5) < -127)).toNat) :=
  Nat.not_lt.mpr (Nat.le_trans (Nat.mul_le_mul_left _ (Nat.add_le_add_left (Bool.toNat_le _) _)) (by decide +kernel))
theorem walksAndWindows_fact4 : ¬windowN ((held 15 (taken 0 100 (endWin 0) false)).laneMode 191) < 4096 * (((held 15 (taken 0 100 (endWin 0) false)).adch 191).win.clips + (decide (State.outCode 5 (((held 15 (taken 0 100 (endWin 0) false)).adch 191).lastX.getD 0) 0 ((if (held 15 (taken 0 100 (endWin 0) false)).atFrame 191 = true then (held 15 (taken 0 100 (endWin 0) false)).each ((held 15 (taken 0 100 (endWin 0) false)).members 191) fun s m => s.dueTake m fun x => decide (x < 91) else held 15 (taken 0 100 (endWin 0) false)).streamX 191 ((held 15 (taken 0 100 (endWin 0) false)).adch 191).k 5) > 127 ∨ State.outCode 5 (((held 15 (taken 0 100 (endWin 0) false)).adch 191).lastX.getD 0) 0 ((if (held 15 (taken 0 100 (endWin 0) false)).atFrame 191 = true then (held 15 (taken 0 100 (endWin 0) false)).each ((held 15 (taken 0 100 (endWin 0) false)).members 191) fun s m => s.dueTake m fun x => decide (x < 91) else held 15 (taken 0 100 (endWin 0) false)).streamX 191 ((held 15 (taken 0 100 (endWin 0) false)).adch 191).k 5) < -127)).toNat) :=
  Nat.not_lt.mpr (Nat.le_trans (Nat.mul_le_mul_left _ (Nat.add_le_add_left (Bool.toNat_le _) _)) (by decide +kernel))
theorem witness_WalksAndWindows :
    ((vgaWalk 31 0).live = true ∧ (vgaWalk 31 0).adcRuns 191 = true ∧ ((vgaWalk 31 0).adch 191).vgaWalk = some 31
      ∧ ((vgaWalk 31 0).adch 191).ctleWalk = none ∧ 31 ≤ 72 ∧ (vgaWalk 31 0).r F.LANE_FE_STAT_VGA_CODE 191 ≤ 72 ∧
      (vgaWalk 31 0).r F.LANE_FE_STAT_VGA_CODE 191 < 31 ∧ (vgaWalk 31 0).on F.LANE_ADC_STAT_HOLD 191 = false) ∧
    (31 ≠ 191) ∧
    ((vgaWalk 31 1).live = true ∧ (vgaWalk 31 1).adcRuns 191 = true ∧ ((vgaWalk 31 1).adch 191).vgaWalk = some 31
      ∧ ((vgaWalk 31 1).adch 191).ctleWalk = none ∧ (vgaWalk 31 1).r F.LANE_FE_STAT_VGA_CODE 191 ≤ 72 ∧ (vgaWalk 31
      1).r F.LANE_FE_STAT_VGA_CODE 191 < 31 ∧ (vgaWalk 31 1).on F.LANE_ADC_STAT_HOLD 191 = true) ∧
    ((vgaWalk 29 1).live = true ∧ (vgaWalk 29 1).adcRuns 191 = true ∧ ((vgaWalk 29 1).adch 191).vgaWalk = some 29
      ∧ ((vgaWalk 29 1).adch 191).ctleWalk = none ∧ 29 ≤ 72 ∧ (vgaWalk 29 1).r F.LANE_FE_STAT_VGA_CODE 191 ≤ 72 ∧ 29
      < (vgaWalk 29 1).r F.LANE_FE_STAT_VGA_CODE 191) ∧
    ((vgaWalk 30 1).live = true ∧ (vgaWalk 30 1).adcRuns 191 = true ∧ ((vgaWalk 30 1).adch 191).vgaWalk = some 30
      ∧ ((vgaWalk 30 1).adch 191).ctleWalk = none ∧ 30 ≤ 72 ∧ (vgaWalk 30 1).r F.LANE_FE_STAT_VGA_CODE 191 ≤ 72 ∧
      (vgaWalk 30 1).r F.LANE_FE_STAT_VGA_CODE 191 = 30) ∧
    ((ctleWalk 10 0).live = true ∧ (ctleWalk 10 0).adcRuns 191 = true ∧ ((ctleWalk 10 0).adch 191).ctleWalk = some
      10 ∧ ((ctleWalk 10 0).adch 191).vgaWalk = none ∧ 10 ≤ 36 ∧ (ctleWalk 10 0).r F.LANE_FE_STAT_CTLE_CODE 191 ≤ 36
      ∧ (ctleWalk 10 0).on F.LANE_ADC_STAT_HOLD 191 = false ∧ (ctleWalk 10 0).r F.LANE_FE_STAT_CTLE_CODE 191 = 10) ∧
    (10 ≠ 191) ∧
    ((ctleWalk 9 0).live = true ∧ (ctleWalk 9 0).adcRuns 191 = true ∧ ((ctleWalk 9 0).adch 191).ctleWalk = some 9
      ∧ ((ctleWalk 9 0).adch 191).vgaWalk = none ∧ 9 ≤ 36 ∧ (ctleWalk 9 0).r F.LANE_FE_STAT_CTLE_CODE 191 ≤ 36 ∧
      (ctleWalk 9 0).on F.LANE_ADC_STAT_HOLD 191 = false ∧ 9 < (ctleWalk 9 0).r F.LANE_FE_STAT_CTLE_CODE 191) ∧
    ((ctleWalk 9 1).live = true ∧ (ctleWalk 9 1).adcRuns 191 = true ∧ ((ctleWalk 9 1).adch 191).ctleWalk = some 9
      ∧ ((ctleWalk 9 1).adch 191).vgaWalk = none ∧ (ctleWalk 9 1).r F.LANE_FE_STAT_CTLE_CODE 191 ≤ 36 ∧ (ctleWalk 9
      1).on F.LANE_ADC_STAT_HOLD 191 = true) ∧
    ((ctleWalk 12 0).live = true ∧ (ctleWalk 12 0).adcRuns 191 = true ∧ ((ctleWalk 12 0).adch 191).ctleWalk = some
      12 ∧ ((ctleWalk 12 0).adch 191).vgaWalk = none ∧ 12 ≤ 36 ∧ (ctleWalk 12 0).r F.LANE_FE_STAT_CTLE_CODE 191 ≤ 36
      ∧ (ctleWalk 12 0).on F.LANE_ADC_STAT_HOLD 191 = false ∧ (ctleWalk 12 0).r F.LANE_FE_STAT_CTLE_CODE 191 < 12) ∧
    (adcOn.live = true ∧ adcOn.adcRuns 191 = true ∧ (adcOn.adch 191).cur = none) ∧
    ((taken loud 512 { } false).live = true ∧ (taken loud 512 { } false).adcRuns 191 = true ∧ ((taken loud 512 { }
      false).adch 191).cur = some (loud, 5, -3) ∧ (((taken loud 512 { } false).adch 191).k - 1) % 512 = 511) ∧
    (((taken loud 512 { } false).adch 191).win.n + 1 < windowN ((taken loud 512 { } false).laneMode 191)) ∧
    ((taken loud 513 { } false).live = true ∧ (taken loud 513 { } false).adcRuns 191 = true ∧ ((taken loud 513 { }
      false).adch 191).cur = some (loud, 5, -3) ∧ (((taken loud 513 { } false).adch 191).k - 1) % 512 ≠ 511) ∧
    ((taken 0 100 (endWin 200) false).live = true ∧ (taken 0 100 (endWin 200) false).adcRuns 191 = true ∧ ((taken
      0 100 (endWin 200) false).adch 191).cur = some (0, 5, -3) ∧ windowN ((taken 0 100 (endWin 200) false).laneMode
      191) ≤ ((taken 0 100 (endWin 200) false).adch 191).win.n + 1 ∧ (((taken 0 100 (endWin 200) false).adch
      191).win.clips + (decide (State.outCode 5 (((taken 0 100 (endWin 200) false).adch 191).lastX.getD 0) 0 ((if
      (taken 0 100 (endWin 200) false).atFrame 191 = true then (taken 0 100 (endWin 200) false).each ((taken 0 100
      (endWin 200) false).members 191) fun s m => s.dueTake m fun x => decide (x < 91) else taken 0 100 (endWin 200)
      false).streamX 191 ((taken 0 100 (endWin 200) false).adch 191).k 5) > 127 ∨ State.outCode 5 (((taken 0 100
      (endWin 200) false).adch 191).lastX.getD 0) 0 ((if (taken 0 100 (endWin 200) false).atFrame 191 = true then
      (taken 0 100 (endWin 200) false).each ((taken 0 100 (endWin 200) false).members 191) fun s m => s.dueTake m
      fun x => decide (x < 91) else taken 0 100 (endWin 200) false).streamX 191 ((taken 0 100 (endWin 200)
      false).adch 191).k 5) < -127)).toNat < 65536)) ∧
    (-127 ≤ ((taken 0 100 (endWin 200) false).adch 191).win.lo ∧ ((taken 0 100 (endWin 200) false).adch
      191).win.hi ≤ 127) ∧
    (((taken 0 100 (endWin 200) false).adch 191).pass = false ∧ (windowN ((taken 0 100 (endWin 200)
      false).laneMode 191) < 4096 * (((taken 0 100 (endWin 200) false).adch 191).win.clips + (decide (State.outCode
      5 (((taken 0 100 (endWin 200) false).adch 191).lastX.getD 0) 0 ((if (taken 0 100 (endWin 200) false).atFrame
      191 = true then (taken 0 100 (endWin 200) false).each ((taken 0 100 (endWin 200) false).members 191) fun s m
      => s.dueTake m fun x => decide (x < 91) else taken 0 100 (endWin 200) false).streamX 191 ((taken 0 100 (endWin
      200) false).adch 191).k 5) > 127 ∨ State.outCode 5 (((taken 0 100 (endWin 200) false).adch 191).lastX.getD 0)
      0 ((if (taken 0 100 (endWin 200) false).atFrame 191 = true then (taken 0 100 (endWin 200) false).each ((taken
      0 100 (endWin 200) false).members 191) fun s m => s.dueTake m fun x => decide (x < 91) else taken 0 100
      (endWin 200) false).streamX 191 ((taken 0 100 (endWin 200) false).adch 191).k 5) < -127)).toNat)) ∧ (taken 0
      100 (endWin 200) false).on F.LANE_ADC_STAT_HOLD 191 = false) ∧
    ((taken 0 100 (endWin 0) true).live = true ∧ (taken 0 100 (endWin 0) true).adcRuns 191 = true ∧ ((taken 0 100
      (endWin 0) true).adch 191).cur = some (0, 5, -3) ∧ windowN ((taken 0 100 (endWin 0) true).laneMode 191) ≤
      ((taken 0 100 (endWin 0) true).adch 191).win.n + 1 ∧ ((taken 0 100 (endWin 0) true).adch 191).pass = true) ∧
    (passLate.live = true ∧ passLate.adcRuns 191 = true ∧ (passLate.adch 191).cur = some (0, 5, -3) ∧ windowN
      (passLate.laneMode 191) ≤ (passLate.adch 191).win.n + 1 ∧ (passLate.adch 191).pass = true ∧ (passLate.calh
      191).measured = false ∧ 16000000 ≤ (passLate.now - (passLate.calh 191).fgAt) * passLate.r
      F.SYS_ISL_MARGIN_TS_PASS (State.controlIsland 191)) ∧
    ((held 3 (taken 0 100 (endWin 0) false)).live = true ∧ (held 3 (taken 0 100 (endWin 0) false)).adcRuns 191 =
      true ∧ ((held 3 (taken 0 100 (endWin 0) false)).adch 191).cur = some (0, 5, -3) ∧ windowN ((held 3 (taken 0
      100 (endWin 0) false)).laneMode 191) ≤ ((held 3 (taken 0 100 (endWin 0) false)).adch 191).win.n + 1 ∧ ((held 3
      (taken 0 100 (endWin 0) false)).adch 191).pass = false ∧ (¬windowN ((held 3 (taken 0 100 (endWin 0)
      false)).laneMode 191) < 4096 * (((held 3 (taken 0 100 (endWin 0) false)).adch 191).win.clips + (decide
      (State.outCode 5 (((held 3 (taken 0 100 (endWin 0) false)).adch 191).lastX.getD 0) 0 ((if (held 3 (taken 0 100
      (endWin 0) false)).atFrame 191 = true then (held 3 (taken 0 100 (endWin 0) false)).each ((held 3 (taken 0 100
      (endWin 0) false)).members 191) fun s m => s.dueTake m fun x => decide (x < 91) else held 3 (taken 0 100
      (endWin 0) false)).streamX 191 ((held 3 (taken 0 100 (endWin 0) false)).adch 191).k 5) > 127 ∨ State.outCode 5
      (((held 3 (taken 0 100 (endWin 0) false)).adch 191).lastX.getD 0) 0 ((if (held 3 (taken 0 100 (endWin 0)
      false)).atFrame 191 = true then (held 3 (taken 0 100 (endWin 0) false)).each ((held 3 (taken 0 100 (endWin 0)
      false)).members 191) fun s m => s.dueTake m fun x => decide (x < 91) else held 3 (taken 0 100 (endWin 0)
      false)).streamX 191 ((held 3 (taken 0 100 (endWin 0) false)).adch 191).k 5) < -127)).toNat)) ∧ (held 3 (taken
      0 100 (endWin 0) false)).on F.LANE_ADC_STAT_HOLD 191 = true ∧ (held 3 (taken 0 100 (endWin 0) false)).r
      F.LANE_ADC_STAT_CLEAN_COUNT 191 < 15) ∧
    ((held 15 (taken 0 100 (endWin 0) false)).live = true ∧ (held 15 (taken 0 100 (endWin 0) false)).adcRuns 191 =
      true ∧ ((held 15 (taken 0 100 (endWin 0) false)).adch 191).cur = some (0, 5, -3) ∧ windowN ((held 15 (taken 0
      100 (endWin 0) false)).laneMode 191) ≤ ((held 15 (taken 0 100 (endWin 0) false)).adch 191).win.n + 1 ∧ ((held
      15 (taken 0 100 (endWin 0) false)).adch 191).pass = false ∧ (¬windowN ((held 15 (taken 0 100 (endWin 0)
      false)).laneMode 191) < 4096 * (((held 15 (taken 0 100 (endWin 0) false)).adch 191).win.clips + (decide
      (State.outCode 5 (((held 15 (taken 0 100 (endWin 0) false)).adch 191).lastX.getD 0) 0 ((if (held 15 (taken 0
      100 (endWin 0) false)).atFrame 191 = true then (held 15 (taken 0 100 (endWin 0) false)).each ((held 15 (taken
      0 100 (endWin 0) false)).members 191) fun s m => s.dueTake m fun x => decide (x < 91) else held 15 (taken 0
      100 (endWin 0) false)).streamX 191 ((held 15 (taken 0 100 (endWin 0) false)).adch 191).k 5) > 127 ∨
      State.outCode 5 (((held 15 (taken 0 100 (endWin 0) false)).adch 191).lastX.getD 0) 0 ((if (held 15 (taken 0
      100 (endWin 0) false)).atFrame 191 = true then (held 15 (taken 0 100 (endWin 0) false)).each ((held 15 (taken
      0 100 (endWin 0) false)).members 191) fun s m => s.dueTake m fun x => decide (x < 91) else held 15 (taken 0
      100 (endWin 0) false)).streamX 191 ((held 15 (taken 0 100 (endWin 0) false)).adch 191).k 5) < -127)).toNat)) ∧
      (held 15 (taken 0 100 (endWin 0) false)).on F.LANE_ADC_STAT_HOLD 191 = true ∧ (held 15 (taken 0 100 (endWin 0)
      false)).r F.LANE_ADC_STAT_CLEAN_COUNT 191 = 15) := by
  have h1 := walksAndWindows_fact1
  have h2 := walksAndWindows_fact2
  have h3 := walksAndWindows_fact3
  have h4 := walksAndWindows_fact4
  and_intros <;> first | with_reducible assumption | decide +kernel

theorem witness_MapsAndRamps :
    ((mapChange 4 5).live = true ∧ (mapChange 4 5).on F.LANE_TX_STAT_DRV_ON 191 = false) ∧
    ((mapChange 4 5).mapMay 191 = true ∧ ((mapChange 4 5).adch 191).maps = noMaps ++ [(4, 5), (1, 2)] ∧ ((∀ (c :
      Nat × Nat), c ∈ noMaps → c.fst ≠ 9)) ∧ ((4 = 9 ∨ noMaps = [] ∧ ∀ (c : Nat × Nat), c ∈ [(1, 2)] → c.fst ≠ 9)) ∧
      4 ≤ 9 ∧ 5 ≤ 8 ∧ 4 < 9 ∧ 4 < 8) ∧
    (4 ≠ 191) ∧
    ((mapChange 4 5).on F.LANE_ADC_STAT_HOLD ((mapChange 4 5).lead 191) = false) ∧
    ((mapChange 9 8).live = true ∧ (mapChange 9 8).mapMay 191 = true ∧ ((mapChange 9 8).adch 191).maps = [(1, 2)]
      ++ [(9, 8), (3, 3)] ∧ ((∀ (c : Nat × Nat), c ∈ [(1, 2)] → c.fst ≠ 9)) ∧ ((9 = 9 ∨ [(1, 2)] = [] ∧ ∀ (c : Nat ×
      Nat), c ∈ [(3, 3)] → c.fst ≠ 9)) ∧ 9 ≤ 9 ∧ 8 ≤ 8 ∧ 9 = 9) ∧
    (offFrame.live = true ∧ offFrame.mapMay 191 = false) ∧
    ((cellSwap 0).live = true ∧ (cellSwap 0).on F.LANE_TX_STAT_DRV_ON 191 = true ∧ (cellSwap 0).dacWord 191 = true
      ∧ ((cellSwap 0).txh 191).pendCell = [7, 8] ∧ 7 < 16 ∧ (cellSwap 0).r F.LANE_TX_STAT_SPARE_CELL 191 ≠ 7) ∧
    (7 ≠ 191) ∧
    ((cellSwap 5).live = true ∧ (cellSwap 5).dacWord 191 = false) ∧
    ((ramping 3 0).live = true ∧ (ramping 3 0).on F.LANE_ADC_STAT_HOLD ((ramping 3 0).lead 191) = false ∧ (ramping
      3 0).rampsOf 191 = [rampAt 3] ∧ (rampAt 3).t + 1 < (rampAt 3).n ∧ (ramping 3 0).atBoundary 191 (rampAt 3).elem
      = true) ∧
    ((ramping 9 0).live = true ∧ (ramping 9 0).on F.LANE_ADC_STAT_HOLD ((ramping 9 0).lead 191) = false ∧ (ramping
      9 0).rampsOf 191 = [rampAt 9] ∧ (rampAt 9).n ≤ (rampAt 9).t + 1 ∧ (ramping 9 0).atBoundary 191 (rampAt 9).elem
      = true) ∧
    ((ramping 9 1).live = true ∧ (ramping 9 1).on F.LANE_ADC_STAT_HOLD ((ramping 9 1).lead 191) = true) ∧
    ((midFrame (ramping 3 0)).live = true ∧ (midFrame (ramping 3 0)).on F.LANE_ADC_STAT_HOLD ((midFrame (ramping 3
      0)).lead 191) = false ∧ (midFrame (ramping 3 0)).rampsOf 191 = [rampAt 3] ∧ (midFrame (ramping 3
      0)).atBoundary 191 (rampAt 3).elem = false) ∧
    ((midFrame (ramping 9 0)).live = true ∧ (midFrame (ramping 9 0)).on F.LANE_ADC_STAT_HOLD ((midFrame (ramping 9
      0)).lead 191) = false ∧ (midFrame (ramping 9 0)).rampsOf 191 = [rampAt 9] ∧ (midFrame (ramping 9
      0)).atBoundary 191 (rampAt 9).elem = false) := by
  and_intros <;> decide +kernel

theorem witness_EqualiserLoops :
    ((eqAt 3 2).live = true ∧ (eqAt 3 2).dspRuns 191 = true ∧ (((eqAt 3 2).frozenEq 191 = true ∨ (eqAt 3 2).r
      F.LANE_EQ_STAT_ACQ_STEP 191 = 2))) ∧
    ((eqAt 3 2).r F.LANE_STAT_LOOPBACK 191 ≠ 3 ∧ (eqAt 3 2).frzSignal 191 = false ∧ (eqAt 3 2).on
      F.LANE_ADC_STAT_HOLD 191 = false ∧ (eqAt 3 2).on F.LANE_EQ_STAT_FRZ_LOL 191 = false) ∧
    (47 ≠ 191) ∧
    (locked.live = true ∧ locked.dspRuns 191 = true ∧ 4 ≤ locked.r F.LANE_EQ_STAT_ACQ_STEP 191 ∧ locked.frozenEq
      191 = false ∧ locked.symBlock 191 1 (locked.rxIn 191 block) ≠ [] ∧ 47 < 48) ∧
    ((locked.w F.LANE_STAT_LOOPBACK 191 3).live = true ∧ (locked.w F.LANE_STAT_LOOPBACK 191 3).dspRuns 191 = true
      ∧ (locked.w F.LANE_STAT_LOOPBACK 191 3).r F.LANE_STAT_LOOPBACK 191 = 3) ∧
    ((locked.w F.LANE_ADC_STAT_HOLD 191 1).live = true ∧ (locked.w F.LANE_ADC_STAT_HOLD 191 1).dspRuns 191 = true
      ∧ (locked.w F.LANE_ADC_STAT_HOLD 191 1).r F.LANE_STAT_LOOPBACK 191 ≠ 3 ∧ (((locked.w F.LANE_ADC_STAT_HOLD 191
      1).frzSignal 191 = true ∨ (locked.w F.LANE_ADC_STAT_HOLD 191 1).on F.LANE_ADC_STAT_HOLD 191 = true))) ∧
    ((locked.w F.LANE_FE_STAT_SIG_PRESENT 191 0).live = true ∧ (locked.w F.LANE_FE_STAT_SIG_PRESENT 191 0).dspRuns
      191 = true ∧ (locked.w F.LANE_FE_STAT_SIG_PRESENT 191 0).r F.LANE_STAT_LOOPBACK 191 ≠ 3 ∧ (locked.w
      F.LANE_FE_STAT_SIG_PRESENT 191 0).frzSignal 191 = true) := by
  and_intros <;> decide +kernel

theorem witness_Acquisition :
    ((noSignal 1).live = true ∧ (noSignal 1).laneState 191 = 3 ∧ (noSignal 1).fusedOdd 191 = false ∧ (noSignal
      1).adcRuns 191 = true ∧ (noSignal 1).r F.LANE_EQ_STAT_ACQ_STEP 191 = 1 ∧ (noSignal 1).sigOk 191 = false) ∧
    (1 ≤ (noSignal 1).r F.LANE_EQ_STAT_ACQ_STEP 191 ∧ (noSignal 1).r F.LANE_EQ_STAT_ACQ_STEP 191 ≤ 7) ∧
    ((eqAt 3 1).live = true ∧ (eqAt 3 1).laneState 191 = 3 ∧ (eqAt 3 1).fusedOdd 191 = false ∧ (eqAt 3 1).adcRuns
      191 = true ∧ (eqAt 3 1).r F.LANE_EQ_STAT_ACQ_STEP 191 = 1 ∧ (eqAt 3 1).sigOk 191 = true) ∧
    (1 ≤ (eqAt 3 1).r F.LANE_EQ_STAT_ACQ_STEP 191 ∧ (eqAt 3 1).r F.LANE_EQ_STAT_ACQ_STEP 191 ≤ 7 ∧ satAdd
      F.LANE_STAT_ACQ_FAILS.width ((eqAt 3 1).r F.LANE_STAT_ACQ_FAILS 191) 1 ≠ (eqAt 3 1).r F.LANE_CFG_ACQ_RETRY
      191) ∧
    ((eqAt 3 2).live = true ∧ (eqAt 3 2).laneState 191 = 3 ∧ (eqAt 3 2).fusedOdd 191 = false ∧ (eqAt 3 2).adcRuns
      191 = true ∧ (eqAt 3 2).r F.LANE_EQ_STAT_ACQ_STEP 191 = 2) ∧
    ((eqAt 3 3).live = true ∧ (eqAt 3 3).laneState 191 = 3 ∧ (eqAt 3 3).fusedOdd 191 = false ∧ (eqAt 3 3).adcRuns
      191 = true ∧ (eqAt 3 3).r F.LANE_EQ_STAT_ACQ_STEP 191 = 3) ∧
    ((trying [4, 8] false).live = true ∧ (trying [4, 8] false).laneState 191 = 3 ∧ (trying [4, 8] false).fusedOdd
      191 = false ∧ (trying [4, 8] false).adcRuns 191 = true ∧ (trying [4, 8] false).r F.LANE_EQ_STAT_ACQ_STEP 191 =
      3 ∧ (trying [4, 8] false).on F.LANE_ADC_STAT_HOLD 191 = false ∧ ((trying [4, 8] false).eqh 191).toTry = [4, 8]
      ∧ ((∀ (x : Nat), x ∈ [8] → x ≤ 36)) ∧ [8] = [8]) ∧
    ((trying [36] false).live = true ∧ (trying [36] false).laneState 191 = 3 ∧ (trying [36] false).fusedOdd 191 =
      false ∧ (trying [36] false).adcRuns 191 = true ∧ (trying [36] false).r F.LANE_EQ_STAT_ACQ_STEP 191 = 3 ∧
      (trying [36] false).on F.LANE_ADC_STAT_HOLD 191 = false ∧ ((trying [36] false).eqh 191).toTry = [36] ∧ ((∀ (x
      : Nat), x ∈ [] → x ≤ 36)) ∧ ((trying [36] false).eqh 191).fine = false) ∧
    ((trying [36] true).live = true ∧ (trying [36] true).laneState 191 = 3 ∧ (trying [36] true).fusedOdd 191 =
      false ∧ (trying [36] true).adcRuns 191 = true ∧ (trying [36] true).r F.LANE_EQ_STAT_ACQ_STEP 191 = 3 ∧ (trying
      [36] true).on F.LANE_ADC_STAT_HOLD 191 = false ∧ ((trying [36] true).eqh 191).toTry = [36] ∧ ((trying [36]
      true).eqh 191).fine = true) ∧
    ((eqAt 3 4).live = true ∧ (eqAt 3 4).laneState 191 = 3 ∧ (eqAt 3 4).fusedOdd 191 = false ∧ (eqAt 3 4).adcRuns
      191 = true ∧ (eqAt 3 4).r F.LANE_EQ_STAT_ACQ_STEP 191 = 4) ∧
    ((eqAt 3 5).live = true ∧ (eqAt 3 5).laneState 191 = 3 ∧ (eqAt 3 5).fusedOdd 191 = false ∧ (eqAt 3 5).adcRuns
      191 = true ∧ (eqAt 3 5).r F.LANE_EQ_STAT_ACQ_STEP 191 = 5) ∧
    ((eqAt 3 6).live = true ∧ (eqAt 3 6).laneState 191 = 3 ∧ (eqAt 3 6).fusedOdd 191 = false ∧ (eqAt 3 6).adcRuns
      191 = true ∧ (eqAt 3 6).r F.LANE_EQ_STAT_ACQ_STEP 191 = 6) ∧
    ((eqAt 3 7).live = true ∧ (eqAt 3 7).laneState 191 = 3 ∧ (eqAt 3 7).fusedOdd 191 = false ∧ (eqAt 3 7).adcRuns
      191 = true ∧ (eqAt 3 7).r F.LANE_EQ_STAT_ACQ_STEP 191 = 7) ∧
    ((lastTry (eqAt 3 5)).live = true ∧ (lastTry (eqAt 3 5)).laneState 191 = 3 ∧ (lastTry (eqAt 3 5)).fusedOdd 191
      = false ∧ 1 ≤ (lastTry (eqAt 3 5)).r F.LANE_EQ_STAT_ACQ_STEP 191 ∧ (lastTry (eqAt 3 5)).r
      F.LANE_EQ_STAT_ACQ_STEP 191 ≤ 7 ∧ (lastTry (eqAt 3 5)).sigOk 191 = true ∧ satAdd F.LANE_STAT_ACQ_FAILS.width
      ((lastTry (eqAt 3 5)).r F.LANE_STAT_ACQ_FAILS 191) 1 = (lastTry (eqAt 3 5)).r F.LANE_CFG_ACQ_RETRY 191) ∧
    (((eqAt 3 8).w F.LANE_EQ_STAT_LOCKED 191 1).live = true ∧ ((eqAt 3 8).w F.LANE_EQ_STAT_LOCKED 191 1).laneState
      191 = 3 ∧ ((eqAt 3 8).w F.LANE_EQ_STAT_LOCKED 191 1).fusedOdd 191 = false ∧ ((eqAt 3 8).w
      F.LANE_EQ_STAT_LOCKED 191 1).on F.LANE_EQ_STAT_LOCKED 191 = true ∧ ((eqAt 3 8).w F.LANE_EQ_STAT_LOCKED 191
      1).payloadLocked 191 = false ∧ satAdd F.LANE_STAT_ACQ_FAILS.width (((eqAt 3 8).w F.LANE_EQ_STAT_LOCKED 191
      1).r F.LANE_STAT_ACQ_FAILS 191) 1 ≠ ((eqAt 3 8).w F.LANE_EQ_STAT_LOCKED 191 1).r F.LANE_CFG_ACQ_RETRY 191) ∧
    ((lastTry ((eqAt 3 8).w F.LANE_EQ_STAT_LOCKED 191 1)).live = true ∧ (lastTry ((eqAt 3 8).w
      F.LANE_EQ_STAT_LOCKED 191 1)).laneState 191 = 3 ∧ (lastTry ((eqAt 3 8).w F.LANE_EQ_STAT_LOCKED 191
      1)).fusedOdd 191 = false ∧ (lastTry ((eqAt 3 8).w F.LANE_EQ_STAT_LOCKED 191 1)).on F.LANE_EQ_STAT_LOCKED 191 =
      true ∧ (lastTry ((eqAt 3 8).w F.LANE_EQ_STAT_LOCKED 191 1)).payloadLocked 191 = false ∧ satAdd
      F.LANE_STAT_ACQ_FAILS.width ((lastTry ((eqAt 3 8).w F.LANE_EQ_STAT_LOCKED 191 1)).r F.LANE_STAT_ACQ_FAILS 191)
      1 = (lastTry ((eqAt 3 8).w F.LANE_EQ_STAT_LOCKED 191 1)).r F.LANE_CFG_ACQ_RETRY 191) := by
  and_intros <;> decide +kernel

theorem witness_EqualiserLock :
    ((judging 5 10).live = true ∧ (judging 5 10).adcRuns 191 = true ∧ (judging 5 10).on F.LANE_EQ_STAT_ACQ_STEP
      191 = true ∧ (judging 5 10).symBlock 191 1 ((judging 5 10).rxIn 191 block) ≠ [] ∧ (judging 5 10).on
      F.LANE_EQ_STAT_LOCKED 191 = false ∧ (judging 5 10).r F.LANE_EQ_STAT_ACQ_STEP 191 = 7 ∧ (judging 5 10).r
      F.LANE_EQ_LOCK_CFG_LOCK_SNR 191 ≤ State.snrOf ((judging 5 10).levels 191) (sumI (List.map (fun y => y.e ^ 2)
      ((judging 5 10).symBlock 191 1 ((judging 5 10).rxIn 191 block)))).toNat ((judging 5 10).symBlock 191 1
      ((judging 5 10).rxIn 191 block)).length ∧ State.ordered ((judging 5 10).levels 191) = true ∧ State.spaced
      ((judging 5 10).levels 191) = true ∧ (judging 5 10).on F.LANE_TR_STAT_FREQ_LIMIT 191 = false ∧ (judging 5
      10).sigOk 191 = true ∧ ((judging 5 10).eqh 191).good < 63) ∧
    ((judging 5 60000).live = true ∧ (judging 5 60000).adcRuns 191 = true ∧ (judging 5 60000).on
      F.LANE_EQ_STAT_ACQ_STEP 191 = true ∧ (judging 5 60000).symBlock 191 1 ((judging 5 60000).rxIn 191 block) ≠ []
      ∧ (judging 5 60000).on F.LANE_EQ_STAT_LOCKED 191 = false ∧ (judging 5 60000).r F.LANE_EQ_STAT_ACQ_STEP 191 = 7
      ∧ (¬((judging 5 60000).r F.LANE_EQ_LOCK_CFG_LOCK_SNR 191 ≤ State.snrOf ((judging 5 60000).levels 191) (sumI
      (List.map (fun y => y.e ^ 2) ((judging 5 60000).symBlock 191 1 ((judging 5 60000).rxIn 191 block)))).toNat
      ((judging 5 60000).symBlock 191 1 ((judging 5 60000).rxIn 191 block)).length ∧ State.ordered ((judging 5
      60000).levels 191) = true ∧ State.spaced ((judging 5 60000).levels 191) = true ∧ (judging 5 60000).on
      F.LANE_TR_STAT_FREQ_LIMIT 191 = false ∧ (judging 5 60000).sigOk 191 = true))) ∧
    ((judging 63 10).live = true ∧ (judging 63 10).adcRuns 191 = true ∧ (judging 63 10).on F.LANE_EQ_STAT_ACQ_STEP
      191 = true ∧ (judging 63 10).symBlock 191 1 ((judging 63 10).rxIn 191 block) ≠ [] ∧ (judging 63 10).on
      F.LANE_EQ_STAT_LOCKED 191 = false ∧ (judging 63 10).r F.LANE_EQ_STAT_ACQ_STEP 191 = 7 ∧ (judging 63 10).r
      F.LANE_EQ_LOCK_CFG_LOCK_SNR 191 ≤ State.snrOf ((judging 63 10).levels 191) (sumI (List.map (fun y => y.e ^ 2)
      ((judging 63 10).symBlock 191 1 ((judging 63 10).rxIn 191 block)))).toNat ((judging 63 10).symBlock 191 1
      ((judging 63 10).rxIn 191 block)).length ∧ State.ordered ((judging 63 10).levels 191) = true ∧ State.spaced
      ((judging 63 10).levels 191) = true ∧ (judging 63 10).on F.LANE_TR_STAT_FREQ_LIMIT 191 = false ∧ (judging 63
      10).sigOk 191 = true ∧ 63 ≤ ((judging 63 10).eqh 191).good) ∧
    ((losing 60000).live = true ∧ (losing 60000).adcRuns 191 = true ∧ (losing 60000).on F.LANE_EQ_STAT_ACQ_STEP
      191 = true ∧ (losing 60000).symBlock 191 1 ((losing 60000).rxIn 191 block) ≠ [] ∧ (losing 60000).on
      F.LANE_EQ_STAT_LOCKED 191 = true ∧ (losing 60000).sigOk 191 = true ∧ State.snrOf ((losing 60000).levels 191)
      (sumI (List.map (fun y => y.e ^ 2) ((losing 60000).symBlock 191 1 ((losing 60000).rxIn 191 block)))).toNat
      ((losing 60000).symBlock 191 1 ((losing 60000).rxIn 191 block)).length + 16 * (losing 60000).r
      F.LANE_EQ_LOCK_CFG_UNLOCK_MARGIN 191 < (losing 60000).r F.LANE_EQ_LOCK_CFG_LOCK_SNR 191 ∧ 7 ≤ ((losing
      60000).eqh 191).badSnr ∧ (losing 60000).held? 191 = false) ∧
    ((eqAt 3 5).live = true ∧ (eqAt 3 5).adcRuns 191 = true ∧ (eqAt 3 5).on F.LANE_EQ_STAT_ACQ_STEP 191 = true ∧
      (eqAt 3 5).symBlock 191 1 ((eqAt 3 5).rxIn 191 block) ≠ [] ∧ (eqAt 3 5).r F.LANE_EQ_STAT_ACQ_STEP 191 < 7 ∧
      (eqAt 3 5).on F.LANE_EQ_STAT_LOCKED 191 = false) ∧
    ((losing 0).live = true ∧ (losing 0).adcRuns 191 = true ∧ (losing 0).on F.LANE_EQ_STAT_ACQ_STEP 191 = true ∧
      (losing 0).symBlock 191 1 ((losing 0).rxIn 191 block) ≠ [] ∧ (losing 0).on F.LANE_EQ_STAT_LOCKED 191 = true ∧
      (losing 0).sigOk 191 = true ∧ (¬State.snrOf ((losing 0).levels 191) (sumI (List.map (fun y => y.e ^ 2)
      ((losing 0).symBlock 191 1 ((losing 0).rxIn 191 block)))).toNat ((losing 0).symBlock 191 1 ((losing 0).rxIn
      191 block)).length + 16 * (losing 0).r F.LANE_EQ_LOCK_CFG_UNLOCK_MARGIN 191 < (losing 0).r
      F.LANE_EQ_LOCK_CFG_LOCK_SNR 191) ∧ (losing 0).on F.LANE_TR_STAT_FREQ_LIMIT 191 = false ∧ State.ordered
      ((losing 0).levels 191) = true) ∧
    (((losing 0).w F.LANE_FE_STAT_SIG_PRESENT 191 0).live = true ∧ ((losing 0).w F.LANE_FE_STAT_SIG_PRESENT 191
      0).adcRuns 191 = true ∧ ((losing 0).w F.LANE_FE_STAT_SIG_PRESENT 191 0).on F.LANE_EQ_STAT_ACQ_STEP 191 = true
      ∧ ((losing 0).w F.LANE_FE_STAT_SIG_PRESENT 191 0).symBlock 191 1 (((losing 0).w F.LANE_FE_STAT_SIG_PRESENT 191
      0).rxIn 191 block) ≠ [] ∧ ((losing 0).w F.LANE_FE_STAT_SIG_PRESENT 191 0).on F.LANE_EQ_STAT_LOCKED 191 = true
      ∧ ((losing 0).w F.LANE_FE_STAT_SIG_PRESENT 191 0).sigOk 191 = false) := by
  and_intros <;> decide +kernel

theorem witness_EqParam :
    ((wj eqBad (dv 4)).started? 24 5 7 = some eqBad ∧ (wj eqBad (dv 4)).bistHolds eqBad = false ∧ State.eqParamOk
      eqBad = false) ∧
    ((wj (eqJob 63) (dv 4)).started? 24 5 7 = some (eqJob 63) ∧ (wj (eqJob 63) (dv 4)).bistHolds (eqJob 63) =
      false ∧ State.eqParamOk (eqJob 63) = true ∧ State.eqGrp (eqJob 63) 7 = false ∧ (eqJob 63).items.all ((wj
      (eqJob 63) (dv 4)).eqAllowed (eqJob 63)) = true ∧ 191 ∈ (eqJob 63).items ∧ State.eqGrp (eqJob 63) 0 = true) ∧
    (State.eqGrp (eqJob 63) 1 = true) ∧
    (State.eqGrp (eqJob 63) 2 = true) ∧
    (State.eqGrp (eqJob 63) 3 = true) ∧
    (State.eqGrp (eqJob 63) 4 = true) ∧
    (State.eqGrp (eqJob 63) 5 = true) ∧
    ((wj (eqJob 57) locked).started? 24 5 7 = some (eqJob 57) ∧ (wj (eqJob 57) locked).bistHolds (eqJob 57) =
      false ∧ State.eqParamOk (eqJob 57) = true ∧ ((State.eqGrp (eqJob 57) 7 = true ∧ (wj (eqJob 57) locked).dev =
      DevState.safe ∨ (eqJob 57).items.all ((wj (eqJob 57) locked).eqAllowed (eqJob 57)) = false))) ∧
    ((wj (eqJob 128) locked).started? 24 5 7 = some (eqJob 128) ∧ (wj (eqJob 128) locked).bistHolds (eqJob 128) =
      false ∧ State.eqParamOk (eqJob 128) = true ∧ (eqJob 128).p 4 2 = 128 ∧ (wj (eqJob 128) locked).dev ≠
      DevState.safe ∧ (wj (eqJob 128) locked).eqAllowed (eqJob 128) 191 = true ∧ (wj (eqJob 128) locked).fusedOdd
      191 = false ∧ (wj (eqJob 128) locked).held? 191 = false ∧ (eqJob 128).items = [191]) ∧
    ((wj (eqJob 64) locked).started? 24 5 7 = some (eqJob 64) ∧ (wj (eqJob 64) locked).bistHolds (eqJob 64) =
      false ∧ State.eqParamOk (eqJob 64) = true ∧ State.eqGrp (eqJob 64) 7 = false ∧ (eqJob 64).items.all ((wj
      (eqJob 64) locked).eqAllowed (eqJob 64)) = true ∧ 191 ∈ (eqJob 64).items ∧ State.eqGrp (eqJob 64) 6 = true ∧
      (wj (eqJob 64) locked).fusedOdd 191 = false) := by
  and_intros <;> decide +kernel

/-! ### Decoder and pool -/

/-- Lane 191 tracks with its decoder on: inner and outer lock as given. -/
def fecOn (il ol : Nat) (h : FecH := { offset := 287 }) : State :=
  (put (lanes [191] 4) [(F.LANE_ADC_STAT_RUNNING, 191, 1), (F.LANE_EQ_STAT_ACQ_STEP, 191, 8), (F.LANE_EQ_STAT_LOCKED, 191, 1),
    (F.LANE_FEC_STAT_INNER_ON, 191, 1), (F.LANE_FEC_STAT_INNER_LOCKED, 191, il), (F.LANE_FEC_STAT_OUTER_LOCKED, 191, ol),
    (F.LANE_FEC_STAT_OUTER_MODE, 191, 1)]).setFec 191 h
def cleanSyms : List RxSym := List.replicate (288 * 16) ⟨0, 5, 5⟩
def dirtySyms : List RxSym := List.replicate (288 * 16) ⟨1, 5, 5⟩

theorem clean_count {s : State} (h : s.on F.LANE_EQ_CFG_RX_PRECODE 191 = false) (pa : RxSym) :
    s.cleanCount 191 pa cleanSyms = 64 := by
  rw [cleanSyms, cleanCount_replicate _ _ _ _ _ h]
  decide +kernel

theorem dirty_count {s : State} (h : s.on F.LANE_EQ_CFG_RX_PRECODE 191 = false) (pa : RxSym) :
    s.cleanCount 191 pa dirtySyms = 0 := by
  rw [dirtySyms, cleanCount_replicate _ _ _ _ _ h]
  decide +kernel

def word1 (s : State) : State := s.w F.LANE_STAT_MODE 191 3
def outer (m : Nat) (s : State) : State := word1 (s.w F.LANE_FEC_STAT_OUTER_MODE 191 m)
def payload (s : State) : State := s.w F.LANE_STAT_PAYLOAD 191 1
def looped (s : State) : State := s.w F.LANE_STAT_LOOPBACK 191 2
def short : State := fecOn 1 0 { stream := List.replicate 100 true }
def streaming : State := fecOn 1 0 { stream := List.replicate 5440 true }
theorem streaming_length : (streaming.fech 191).stream.length = 5440 := by
  rw [show (streaming.fech 191).stream = List.replicate 5440 true from rfl, List.length_replicate]
def modeWaits : State := fecOn 1 1 { stream := List.replicate 10336 true, pendMode := some 2 }
theorem modeWaits_length : (modeWaits.fech 191).stream.length = 10336 := by
  rw [show (modeWaits.fech 191).stream = List.replicate 10336 true from rfl, List.length_replicate]
def sym5 : RxSym := ⟨0, 5, 5⟩
/-- The decoder of lane 191 with this run demapped behind what it holds. -/
def streamed (s : State) (w : Levels) : FecH :=
  { s.fech 191 with
    stream := (s.fech 191).stream ++ if decide (s.laneMode 191 = 3) then
      (demapRun (s.on F.LANE_EQ_CFG_RX_PRECODE 191) w.prev 0 0 (w.run.map fun a => { a := a, relM := 0, relL := 0 })).flatMap
        fun p => [p.m, p.l] else [] }

theorem hunts_fact1 : rsDecode (symbolsOf 544 (List.take 5440 (List.drop (((streamed (word1 (fecOn 0 0)) zeroLevels).cand + (word1 (fecOn 0 0)).outerCands 191 - (streamed (word1 (fecOn 0 0)) zeroLevels).blk) % (word1 (fecOn 0 0)).outerCands 191 * if decide ((word1 (fecOn 0 0)).laneMode 191 = 3) = true then 2 else 544) (streamed (word1 (fecOn 0 0)) zeroLevels).stream))) ≠ none :=
  dec_ne zeroWord_dec (by decide +kernel)
theorem hunts_fact2 : rsDecode (symbolsOf 544 (List.take 5440 (List.drop (((streamed (word1 (fecOn 0 0)) badLevels).cand + (word1 (fecOn 0 0)).outerCands 191 - (streamed (word1 (fecOn 0 0)) badLevels).blk) % (word1 (fecOn 0 0)).outerCands 191 * if decide ((word1 (fecOn 0 0)).laneMode 191 = 3) = true then 2 else 544) (streamed (word1 (fecOn 0 0)) badLevels).stream))) = none :=
  dec_none badWord_dec (by decide +kernel)
theorem hunts_fact3 : rsDecode (symbolsOf 544 (List.take 5440 (List.drop (((streamed (word1 (fecOn 1 0 { oPass := 2 })) zeroLevels).cand + (word1 (fecOn 1 0 { oPass := 2 })).outerCands 191 - (streamed (word1 (fecOn 1 0 { oPass := 2 })) zeroLevels).blk) % (word1 (fecOn 1 0 { oPass := 2 })).outerCands 191 * if decide ((word1 (fecOn 1 0 { oPass := 2 })).laneMode 191 = 3) = true then 2 else 544) (streamed (word1 (fecOn 1 0 { oPass := 2 })) zeroLevels).stream))) ≠ none :=
  dec_ne zeroWord_dec (by decide +kernel)
theorem hunts_fact4 : rsDecode (symbolsOf 544 (List.take 5440 (List.drop (((streamed (outer 0 (fecOn 1 1)) zeroLevels).cand + (outer 0 (fecOn 1 1)).outerCands 191 - (streamed (outer 0 (fecOn 1 1)) zeroLevels).blk) % (outer 0 (fecOn 1 1)).outerCands 191 * if decide ((outer 0 (fecOn 1 1)).laneMode 191 = 3) = true then 2 else 544) (streamed (outer 0 (fecOn 1 1)) zeroLevels).stream))) ≠ none :=
  dec_ne zeroWord_dec (by decide +kernel)
theorem hunts_fact5 : rsDecode (symbolsOf 544 (List.take 5440 (List.drop (((streamed (outer 1 (fecOn 1 1 { oFail := 15 })) zeroLevels).cand + (outer 1 (fecOn 1 1 { oFail := 15 })).outerCands 191 - (streamed (outer 1 (fecOn 1 1 { oFail := 15 })) zeroLevels).blk) % (outer 1 (fecOn 1 1 { oFail := 15 })).outerCands 191 * if decide ((outer 1 (fecOn 1 1 { oFail := 15 })).laneMode 191 = 3) = true then 2 else 544) (streamed (outer 1 (fecOn 1 1 { oFail := 15 })) zeroLevels).stream))) = some (List.replicate 544 0, 0) :=
  dec_some zeroWord_dec (by decide +kernel)
theorem hunts_fact6 : rsDecode (symbolsOf 544 (List.take 5440 (List.drop (((streamed (outer 1 (fecOn 1 1 { oFail := 15 })) badLevels).cand + (outer 1 (fecOn 1 1 { oFail := 15 })).outerCands 191 - (streamed (outer 1 (fecOn 1 1 { oFail := 15 })) badLevels).blk) % (outer 1 (fecOn 1 1 { oFail := 15 })).outerCands 191 * if decide ((outer 1 (fecOn 1 1 { oFail := 15 })).laneMode 191 = 3) = true then 2 else 544) (streamed (outer 1 (fecOn 1 1 { oFail := 15 })) badLevels).stream))) = none :=
  dec_none badWord_dec (by decide +kernel)
theorem hunts_fact7 : ((outer 1 (payload (fecOn 1 1))).r F.LANE_FEC_STAT_OUTER_MODE 191 ≠ 2 ∨ rsDecode (symbolsOf 544 (List.take 5440 (List.drop (((streamed (outer 1 (payload (fecOn 1 1))) zeroLevels).cand + (outer 1 (payload (fecOn 1 1))).outerCands 191 - (streamed (outer 1 (payload (fecOn 1 1))) zeroLevels).blk) % (outer 1 (payload (fecOn 1 1))).outerCands 191 * if decide ((outer 1 (payload (fecOn 1 1))).laneMode 191 = 3) = true then 2 else 544) (streamed (outer 1 (payload (fecOn 1 1))) zeroLevels).stream))) = none) :=
  .inl (by decide +kernel)
theorem hunts_fact8 : rsDecode (symbolsOf 544 (List.take 5440 (List.drop (((streamed (outer 2 (payload (fecOn 1 1))) zeroLevels).cand + (outer 2 (payload (fecOn 1 1))).outerCands 191 - (streamed (outer 2 (payload (fecOn 1 1))) zeroLevels).blk) % (outer 2 (payload (fecOn 1 1))).outerCands 191 * if decide ((outer 2 (payload (fecOn 1 1))).laneMode 191 = 3) = true then 2 else 544) (streamed (outer 2 (payload (fecOn 1 1))) zeroLevels).stream))) = some (List.replicate 544 0, 0) :=
  dec_some zeroWord_dec (by decide +kernel)
theorem witness_Hunts :
    ((fecOn 0 0).live = true ∧ (fecOn 0 0).innerRuns 191 = true ∧ (fecOn 0 0).on F.LANE_FEC_STAT_INNER_LOCKED 191
      = false ∧ (fecOn 0 0).r F.LANE_FEC_CFG_LOCK_ZMIN 191 ≤ (fecOn 0 0).cleanCount 191 sym5 cleanSyms ∧ ((fecOn 0
      0).fech 191).pass < 3) ∧
    (0 ≠ 191) ∧
    ((¬(fecOn 0 0).r F.LANE_FEC_CFG_LOCK_ZMIN 191 ≤ (fecOn 0 0).cleanCount 191 sym5 dirtySyms)) ∧
    ((fecOn 0 0 { offset := 287, pass := 3 }).live = true ∧ (fecOn 0 0 { offset := 287, pass := 3 }).innerRuns 191
      = true ∧ (fecOn 0 0 { offset := 287, pass := 3 }).on F.LANE_FEC_STAT_INNER_LOCKED 191 = false ∧ (fecOn 0 0
      { offset := 287, pass := 3 }).r F.LANE_FEC_CFG_LOCK_ZMIN 191 ≤ (fecOn 0 0
      { offset := 287, pass := 3 }).cleanCount 191 sym5 cleanSyms ∧ 3 ≤ ((fecOn 0 0
      { offset := 287, pass := 3 }).fech 191).pass) ∧
    ((fecOn 1 1 { fail := 2 }).live = true ∧ (fecOn 1 1 { fail := 2 }).innerRuns 191 = true ∧ (fecOn 1 1
      { fail := 2 }).on F.LANE_FEC_STAT_INNER_LOCKED 191 = true ∧ (fecOn 1 1 { fail := 2 }).r
      F.LANE_FEC_CFG_LOCK_ZMIN 191 ≤ (fecOn 1 1 { fail := 2 }).cleanCount 191 sym5 cleanSyms) ∧
    ((¬(fecOn 1 1 { fail := 2 }).r F.LANE_FEC_CFG_LOCK_ZMIN 191 ≤ (fecOn 1 1 { fail := 2 }).cleanCount 191 sym5
      dirtySyms) ∧ ((fecOn 1 1 { fail := 2 }).fech 191).fail < 3) ∧
    ((fecOn 1 1 { fail := 2 }).outerRuns 191 = true ∧ ((fecOn 1 1 { fail := 2 }).fech 191).pendMode = none ∧
      (streamed (fecOn 1 1 { fail := 2 }) noLevels).stream.length < (((streamed (fecOn 1 1 { fail := 2 })
      noLevels).cand + (fecOn 1 1 { fail := 2 }).outerCands 191 - (streamed (fecOn 1 1 { fail := 2 }) noLevels).blk)
      % (fecOn 1 1 { fail := 2 }).outerCands 191 * if decide ((fecOn 1 1 { fail := 2 }).laneMode 191 = 3) = true
      then 2 else 544) + 5440) := by
  have h1 := hunts_fact1
  have h2 := hunts_fact2
  have h3 := hunts_fact3
  have h4 := hunts_fact4
  have h5 := hunts_fact5
  have h6 := hunts_fact6
  have h7 := hunts_fact7
  have h8 := hunts_fact8
  and_intros <;> first | with_reducible assumption | (simp only [streaming_length, modeWaits_length, clean_count (s := fecOn 0 0) rfl, dirty_count (s := fecOn 0 0) rfl, clean_count (s := fecOn 0 0 { offset := 287, pass := 3 }) rfl, clean_count (s := fecOn 1 1 { fail := 2 }) rfl, dirty_count (s := fecOn 1 1 { fail := 2 }) rfl, dirty_count (s := fecOn 1 1 { fail := 3 }) rfl] <;> decide +kernel) | decide +kernel
theorem witness_Hunts_2 :
    ((fecOn 1 1 { fail := 3 }).live = true ∧ (fecOn 1 1 { fail := 3 }).innerRuns 191 = true ∧ (fecOn 1 1
      { fail := 3 }).on F.LANE_FEC_STAT_INNER_LOCKED 191 = true ∧ (¬(fecOn 1 1 { fail := 3 }).r
      F.LANE_FEC_CFG_LOCK_ZMIN 191 ≤ (fecOn 1 1 { fail := 3 }).cleanCount 191 sym5 dirtySyms) ∧ 3 ≤ ((fecOn 1 1
      { fail := 3 }).fech 191).fail) ∧
    ((word1 (fecOn 0 0)).live = true ∧ (word1 (fecOn 0 0)).outerRuns 191 = true ∧ ((word1 (fecOn 0 0)).fech
      191).pendMode = none ∧ (((streamed (word1 (fecOn 0 0)) zeroLevels).cand + (word1 (fecOn 0 0)).outerCands 191 -
      (streamed (word1 (fecOn 0 0)) zeroLevels).blk) % (word1 (fecOn 0 0)).outerCands 191 * if decide ((word1 (fecOn
      0 0)).laneMode 191 = 3) = true then 2 else 544) + 5440 ≤ (streamed (word1 (fecOn 0 0))
      zeroLevels).stream.length ∧ (word1 (fecOn 0 0)).on F.LANE_FEC_STAT_OUTER_LOCKED 191 = false ∧ rsDecode
      (symbolsOf 544 (List.take 5440 (List.drop (((streamed (word1 (fecOn 0 0)) zeroLevels).cand + (word1 (fecOn 0
      0)).outerCands 191 - (streamed (word1 (fecOn 0 0)) zeroLevels).blk) % (word1 (fecOn 0 0)).outerCands 191 * if
      decide ((word1 (fecOn 0 0)).laneMode 191 = 3) = true then 2 else 544) (streamed (word1 (fecOn 0 0))
      zeroLevels).stream))) ≠ none ∧ (streamed (word1 (fecOn 0 0)) zeroLevels).oPass < 2) ∧
    ((((word1 (fecOn 0 0)).on F.LANE_STAT_PAYLOAD 191 = false ∨ (word1 (fecOn 0 0)).on F.HSL_CFG_PRBS_GEN (if
      (((word1 (fecOn 0 0)).laneh 191).nextB && decide ((word1 (fecOn 0 0)).laneMode 191 ≤ 1)) = true then (word1
      (fecOn 0 0)).r F.XBAR_MAP_B 191 else (word1 (fecOn 0 0)).r F.XBAR_MAP_A 191) = true))) ∧
    ((word1 (fecOn 0 0)).r F.LANE_STAT_LOOPBACK 191 ≠ 2) ∧
    ((((streamed (word1 (fecOn 0 0)) badLevels).cand + (word1 (fecOn 0 0)).outerCands 191 - (streamed (word1
      (fecOn 0 0)) badLevels).blk) % (word1 (fecOn 0 0)).outerCands 191 * if decide ((word1 (fecOn 0 0)).laneMode
      191 = 3) = true then 2 else 544) + 5440 ≤ (streamed (word1 (fecOn 0 0)) badLevels).stream.length ∧ rsDecode
      (symbolsOf 544 (List.take 5440 (List.drop (((streamed (word1 (fecOn 0 0)) badLevels).cand + (word1 (fecOn 0
      0)).outerCands 191 - (streamed (word1 (fecOn 0 0)) badLevels).blk) % (word1 (fecOn 0 0)).outerCands 191 * if
      decide ((word1 (fecOn 0 0)).laneMode 191 = 3) = true then 2 else 544) (streamed (word1 (fecOn 0 0))
      badLevels).stream))) = none) ∧
    ((word1 (fecOn 1 0 { oPass := 2 })).live = true ∧ (word1 (fecOn 1 0 { oPass := 2 })).outerRuns 191 = true ∧
      ((word1 (fecOn 1 0 { oPass := 2 })).fech 191).pendMode = none ∧ (((streamed (word1 (fecOn 1 0 { oPass := 2 }))
      zeroLevels).cand + (word1 (fecOn 1 0 { oPass := 2 })).outerCands 191 - (streamed (word1 (fecOn 1 0
      { oPass := 2 })) zeroLevels).blk) % (word1 (fecOn 1 0 { oPass := 2 })).outerCands 191 * if decide ((word1
      (fecOn 1 0 { oPass := 2 })).laneMode 191 = 3) = true then 2 else 544) + 5440 ≤ (streamed (word1 (fecOn 1 0
      { oPass := 2 })) zeroLevels).stream.length ∧ (word1 (fecOn 1 0 { oPass := 2 })).on
      F.LANE_FEC_STAT_OUTER_LOCKED 191 = false ∧ rsDecode (symbolsOf 544 (List.take 5440 (List.drop (((streamed
      (word1 (fecOn 1 0 { oPass := 2 })) zeroLevels).cand + (word1 (fecOn 1 0 { oPass := 2 })).outerCands 191 -
      (streamed (word1 (fecOn 1 0 { oPass := 2 })) zeroLevels).blk) % (word1 (fecOn 1 0 { oPass := 2 })).outerCands
      191 * if decide ((word1 (fecOn 1 0 { oPass := 2 })).laneMode 191 = 3) = true then 2 else 544) (streamed (word1
      (fecOn 1 0 { oPass := 2 })) zeroLevels).stream))) ≠ none ∧ 2 ≤ (streamed (word1 (fecOn 1 0 { oPass := 2 }))
      zeroLevels).oPass) ∧
    ((outer 0 (fecOn 1 1)).live = true ∧ (outer 0 (fecOn 1 1)).outerRuns 191 = true ∧ ((outer 0 (fecOn 1 1)).fech
      191).pendMode = none ∧ (((streamed (outer 0 (fecOn 1 1)) zeroLevels).cand + (outer 0 (fecOn 1 1)).outerCands
      191 - (streamed (outer 0 (fecOn 1 1)) zeroLevels).blk) % (outer 0 (fecOn 1 1)).outerCands 191 * if decide
      ((outer 0 (fecOn 1 1)).laneMode 191 = 3) = true then 2 else 544) + 5440 ≤ (streamed (outer 0 (fecOn 1 1))
      zeroLevels).stream.length ∧ (outer 0 (fecOn 1 1)).on F.LANE_FEC_STAT_OUTER_LOCKED 191 = true ∧ (outer 0 (fecOn
      1 1)).r F.LANE_FEC_STAT_OUTER_MODE 191 = 0) := by
  have h1 := hunts_fact1
  have h2 := hunts_fact2
  have h3 := hunts_fact3
  have h4 := hunts_fact4
  have h5 := hunts_fact5
  have h6 := hunts_fact6
  have h7 := hunts_fact7
  have h8 := hunts_fact8
  and_intros <;> first | with_reducible assumption | (simp only [streaming_length, modeWaits_length, clean_count (s := fecOn 0 0) rfl, dirty_count (s := fecOn 0 0) rfl, clean_count (s := fecOn 0 0 { offset := 287, pass := 3 }) rfl, clean_count (s := fecOn 1 1 { fail := 2 }) rfl, dirty_count (s := fecOn 1 1 { fail := 2 }) rfl, dirty_count (s := fecOn 1 1 { fail := 3 }) rfl] <;> decide +kernel) | decide +kernel
theorem witness_Hunts_3 :
    (rsDecode (symbolsOf 544 (List.take 5440 (List.drop (((streamed (outer 0 (fecOn 1 1)) zeroLevels).cand +
      (outer 0 (fecOn 1 1)).outerCands 191 - (streamed (outer 0 (fecOn 1 1)) zeroLevels).blk) % (outer 0 (fecOn 1
      1)).outerCands 191 * if decide ((outer 0 (fecOn 1 1)).laneMode 191 = 3) = true then 2 else 544) (streamed
      (outer 0 (fecOn 1 1)) zeroLevels).stream))) ≠ none) ∧
    ((outer 1 (fecOn 1 1 { oFail := 15 })).live = true ∧ (outer 1 (fecOn 1 1 { oFail := 15 })).outerRuns 191 =
      true ∧ ((outer 1 (fecOn 1 1 { oFail := 15 })).fech 191).pendMode = none ∧ (((streamed (outer 1 (fecOn 1 1
      { oFail := 15 })) zeroLevels).cand + (outer 1 (fecOn 1 1 { oFail := 15 })).outerCands 191 - (streamed (outer 1
      (fecOn 1 1 { oFail := 15 })) zeroLevels).blk) % (outer 1 (fecOn 1 1 { oFail := 15 })).outerCands 191 * if
      decide ((outer 1 (fecOn 1 1 { oFail := 15 })).laneMode 191 = 3) = true then 2 else 544) + 5440 ≤ (streamed
      (outer 1 (fecOn 1 1 { oFail := 15 })) zeroLevels).stream.length ∧ (outer 1 (fecOn 1 1 { oFail := 15 })).on
      F.LANE_FEC_STAT_OUTER_LOCKED 191 = true ∧ (outer 1 (fecOn 1 1 { oFail := 15 })).r F.LANE_FEC_STAT_OUTER_MODE
      191 ≠ 0 ∧ rsDecode (symbolsOf 544 (List.take 5440 (List.drop (((streamed (outer 1 (fecOn 1 1 { oFail := 15 }))
      zeroLevels).cand + (outer 1 (fecOn 1 1 { oFail := 15 })).outerCands 191 - (streamed (outer 1 (fecOn 1 1
      { oFail := 15 })) zeroLevels).blk) % (outer 1 (fecOn 1 1 { oFail := 15 })).outerCands 191 * if decide ((outer
      1 (fecOn 1 1 { oFail := 15 })).laneMode 191 = 3) = true then 2 else 544) (streamed (outer 1 (fecOn 1 1
      { oFail := 15 })) zeroLevels).stream))) = some (List.replicate 544 0, 0)) ∧
    ((((streamed (outer 1 (fecOn 1 1 { oFail := 15 })) badLevels).cand + (outer 1 (fecOn 1 1
      { oFail := 15 })).outerCands 191 - (streamed (outer 1 (fecOn 1 1 { oFail := 15 })) badLevels).blk) % (outer 1
      (fecOn 1 1 { oFail := 15 })).outerCands 191 * if decide ((outer 1 (fecOn 1 1 { oFail := 15 })).laneMode 191 =
      3) = true then 2 else 544) + 5440 ≤ (streamed (outer 1 (fecOn 1 1 { oFail := 15 })) badLevels).stream.length ∧
      rsDecode (symbolsOf 544 (List.take 5440 (List.drop (((streamed (outer 1 (fecOn 1 1 { oFail := 15 }))
      badLevels).cand + (outer 1 (fecOn 1 1 { oFail := 15 })).outerCands 191 - (streamed (outer 1 (fecOn 1 1
      { oFail := 15 })) badLevels).blk) % (outer 1 (fecOn 1 1 { oFail := 15 })).outerCands 191 * if decide ((outer 1
      (fecOn 1 1 { oFail := 15 })).laneMode 191 = 3) = true then 2 else 544) (streamed (outer 1 (fecOn 1 1
      { oFail := 15 })) badLevels).stream))) = none) ∧
    (15 ≤ (streamed (outer 1 (fecOn 1 1 { oFail := 15 })) badLevels).oFail) ∧
    ((word1 (payload (fecOn 1 0))).live = true ∧ (word1 (payload (fecOn 1 0))).outerRuns 191 = true ∧ ((word1
      (payload (fecOn 1 0))).fech 191).pendMode = none ∧ (((streamed (word1 (payload (fecOn 1 0))) zeroLevels).cand
      + (word1 (payload (fecOn 1 0))).outerCands 191 - (streamed (word1 (payload (fecOn 1 0))) zeroLevels).blk) %
      (word1 (payload (fecOn 1 0))).outerCands 191 * if decide ((word1 (payload (fecOn 1 0))).laneMode 191 = 3) =
      true then 2 else 544) + 5440 ≤ (streamed (word1 (payload (fecOn 1 0))) zeroLevels).stream.length ∧ (word1
      (payload (fecOn 1 0))).on F.LANE_STAT_PAYLOAD 191 = true ∧ (word1 (payload (fecOn 1 0))).r
      F.LANE_STAT_LOOPBACK 191 ≠ 1 ∧ (word1 (payload (fecOn 1 0))).on F.HSL_CFG_PRBS_GEN (if (((word1 (payload
      (fecOn 1 0))).laneh 191).nextB && decide ((word1 (payload (fecOn 1 0))).laneMode 191 ≤ 1)) = true then (word1
      (payload (fecOn 1 0))).r F.XBAR_MAP_B 191 else (word1 (payload (fecOn 1 0))).r F.XBAR_MAP_A 191) = false ∧
      (word1 (payload (fecOn 1 0))).on F.LANE_FEC_STAT_OUTER_LOCKED 191 = false) ∧
    ((outer 1 (payload (fecOn 1 1))).live = true ∧ (outer 1 (payload (fecOn 1 1))).outerRuns 191 = true ∧ ((outer
      1 (payload (fecOn 1 1))).fech 191).pendMode = none ∧ (((streamed (outer 1 (payload (fecOn 1 1)))
      zeroLevels).cand + (outer 1 (payload (fecOn 1 1))).outerCands 191 - (streamed (outer 1 (payload (fecOn 1 1)))
      zeroLevels).blk) % (outer 1 (payload (fecOn 1 1))).outerCands 191 * if decide ((outer 1 (payload (fecOn 1
      1))).laneMode 191 = 3) = true then 2 else 544) + 5440 ≤ (streamed (outer 1 (payload (fecOn 1 1)))
      zeroLevels).stream.length ∧ (outer 1 (payload (fecOn 1 1))).on F.LANE_STAT_PAYLOAD 191 = true ∧ (outer 1
      (payload (fecOn 1 1))).r F.LANE_STAT_LOOPBACK 191 ≠ 1 ∧ (outer 1 (payload (fecOn 1 1))).on F.HSL_CFG_PRBS_GEN
      (if (((outer 1 (payload (fecOn 1 1))).laneh 191).nextB && decide ((outer 1 (payload (fecOn 1 1))).laneMode 191
      ≤ 1)) = true then (outer 1 (payload (fecOn 1 1))).r F.XBAR_MAP_B 191 else (outer 1 (payload (fecOn 1 1))).r
      F.XBAR_MAP_A 191) = false ∧ (outer 1 (payload (fecOn 1 1))).on F.LANE_FEC_STAT_OUTER_LOCKED 191 = true ∧
      (((outer 1 (payload (fecOn 1 1))).r F.LANE_FEC_STAT_OUTER_MODE 191 ≠ 2 ∨ rsDecode (symbolsOf 544 (List.take
      5440 (List.drop (((streamed (outer 1 (payload (fecOn 1 1))) zeroLevels).cand + (outer 1 (payload (fecOn 1
      1))).outerCands 191 - (streamed (outer 1 (payload (fecOn 1 1))) zeroLevels).blk) % (outer 1 (payload (fecOn 1
      1))).outerCands 191 * if decide ((outer 1 (payload (fecOn 1 1))).laneMode 191 = 3) = true then 2 else 544)
      (streamed (outer 1 (payload (fecOn 1 1))) zeroLevels).stream))) = none))) ∧
    ((outer 2 (payload (fecOn 1 1))).live = true ∧ (outer 2 (payload (fecOn 1 1))).outerRuns 191 = true ∧ ((outer
      2 (payload (fecOn 1 1))).fech 191).pendMode = none ∧ (((streamed (outer 2 (payload (fecOn 1 1)))
      zeroLevels).cand + (outer 2 (payload (fecOn 1 1))).outerCands 191 - (streamed (outer 2 (payload (fecOn 1 1)))
      zeroLevels).blk) % (outer 2 (payload (fecOn 1 1))).outerCands 191 * if decide ((outer 2 (payload (fecOn 1
      1))).laneMode 191 = 3) = true then 2 else 544) + 5440 ≤ (streamed (outer 2 (payload (fecOn 1 1)))
      zeroLevels).stream.length ∧ (outer 2 (payload (fecOn 1 1))).on F.LANE_STAT_PAYLOAD 191 = true ∧ (outer 2
      (payload (fecOn 1 1))).r F.LANE_STAT_LOOPBACK 191 ≠ 1 ∧ (outer 2 (payload (fecOn 1 1))).on F.HSL_CFG_PRBS_GEN
      (if (((outer 2 (payload (fecOn 1 1))).laneh 191).nextB && decide ((outer 2 (payload (fecOn 1 1))).laneMode 191
      ≤ 1)) = true then (outer 2 (payload (fecOn 1 1))).r F.XBAR_MAP_B 191 else (outer 2 (payload (fecOn 1 1))).r
      F.XBAR_MAP_A 191) = false ∧ (outer 2 (payload (fecOn 1 1))).on F.LANE_FEC_STAT_OUTER_LOCKED 191 = true ∧
      (outer 2 (payload (fecOn 1 1))).r F.LANE_FEC_STAT_OUTER_MODE 191 = 2 ∧ rsDecode (symbolsOf 544 (List.take 5440
      (List.drop (((streamed (outer 2 (payload (fecOn 1 1))) zeroLevels).cand + (outer 2 (payload (fecOn 1
      1))).outerCands 191 - (streamed (outer 2 (payload (fecOn 1 1))) zeroLevels).blk) % (outer 2 (payload (fecOn 1
      1))).outerCands 191 * if decide ((outer 2 (payload (fecOn 1 1))).laneMode 191 = 3) = true then 2 else 544)
      (streamed (outer 2 (payload (fecOn 1 1))) zeroLevels).stream))) = some (List.replicate 544 0, 0)) := by
  have h1 := hunts_fact1
  have h2 := hunts_fact2
  have h3 := hunts_fact3
  have h4 := hunts_fact4
  have h5 := hunts_fact5
  have h6 := hunts_fact6
  have h7 := hunts_fact7
  have h8 := hunts_fact8
  and_intros <;> first | with_reducible assumption | (simp only [streaming_length, modeWaits_length, clean_count (s := fecOn 0 0) rfl, dirty_count (s := fecOn 0 0) rfl, clean_count (s := fecOn 0 0 { offset := 287, pass := 3 }) rfl, clean_count (s := fecOn 1 1 { fail := 2 }) rfl, dirty_count (s := fecOn 1 1 { fail := 2 }) rfl, dirty_count (s := fecOn 1 1 { fail := 3 }) rfl] <;> decide +kernel) | decide +kernel
theorem witness_Hunts_4 :
    ((word1 (looped (fecOn 1 0))).live = true ∧ (word1 (looped (fecOn 1 0))).outerRuns 191 = true ∧ ((word1
      (looped (fecOn 1 0))).fech 191).pendMode = none ∧ (((streamed (word1 (looped (fecOn 1 0))) zeroLevels).cand +
      (word1 (looped (fecOn 1 0))).outerCands 191 - (streamed (word1 (looped (fecOn 1 0))) zeroLevels).blk) % (word1
      (looped (fecOn 1 0))).outerCands 191 * if decide ((word1 (looped (fecOn 1 0))).laneMode 191 = 3) = true then 2
      else 544) + 5440 ≤ (streamed (word1 (looped (fecOn 1 0))) zeroLevels).stream.length ∧ (word1 (looped (fecOn 1
      0))).r F.LANE_STAT_LOOPBACK 191 = 2 ∧ (word1 (looped (fecOn 1 0))).on F.LANE_FEC_STAT_OUTER_LOCKED 191 =
      false) ∧
    (short.live = true ∧ short.outerRuns 191 = true ∧ (short.fech 191).pendMode = none ∧ (streamed short
      noLevels).stream.length < (((streamed short noLevels).cand + short.outerCands 191 - (streamed short
      noLevels).blk) % short.outerCands 191 * if decide (short.laneMode 191 = 3) = true then 2 else 544) + 5440) ∧
    (modeWaits.live = true ∧ modeWaits.outerRuns 191 = true ∧ (modeWaits.fech 191).pendMode = some 2 ∧ 2 ≤ 2 ∧ if
      modeWaits.laneMode 191 = 3 then 5440 + 2719 * 2 ≤ (modeWaits.fech 191).stream.length + 2 * noLevels.run.length
      else 5440 + 9 * 544 ≤ (modeWaits.fech 191).stream.length) := by
  have h1 := hunts_fact1
  have h2 := hunts_fact2
  have h3 := hunts_fact3
  have h4 := hunts_fact4
  have h5 := hunts_fact5
  have h6 := hunts_fact6
  have h7 := hunts_fact7
  have h8 := hunts_fact8
  and_intros <;> first | with_reducible assumption | (simp only [streaming_length, modeWaits_length, clean_count (s := fecOn 0 0) rfl, dirty_count (s := fecOn 0 0) rfl, clean_count (s := fecOn 0 0 { offset := 287, pass := 3 }) rfl, clean_count (s := fecOn 1 1 { fail := 2 }) rfl, dirty_count (s := fecOn 1 1 { fail := 2 }) rfl, dirty_count (s := fecOn 1 1 { fail := 3 }) rfl] <;> decide +kernel) | decide +kernel

def epochIn : List EpochIn := [⟨3, sym5, dirtySyms⟩, ⟨7, sym5, dirtySyms⟩, ⟨95, sym5, cleanSyms⟩]
def poolOn : State := [3, 7, 95].foldl (fun s l => (put s [(F.LANE_FEC_STAT_INNER_ON, 96 + l, 1),
  (F.LANE_FEC_STAT_SOFT_EN, 96 + l, 1)]).setFec (96 + l) { active := true }) ((dv 4).setPool 1 { res := [(3, 5)] })
def pool (h : PoolH) (s : State := dv 4) : State := s.setPool 1 h
def oneEpoch : EpochRes := { lanes := [{ lane := 3, cw := 9, uncorr := 4 }, { lane := 95, cw := 1 }], demand := 77, full := 3, reduced := 2, starved := 1 }

def fecCfg (sel mode zmin : Nat) : Job := jb 0x1C [191, 0, 1, 0, sel, mode, 1, zmin]
def poolCfg (n k : Nat) : Job := jb 0x1D [96, 0, n, 0, k]

/-! ### Calibration -/

def calOn (st : Nat) (h : CalH) (s : State := dv 4) : State :=
  (put (lanes [191] st s) [(F.LANE_ADC_STAT_RUNNING, 191, 1), (F.LANE_FE_STAT_SIG_PRESENT, 191, 1), (F.LANE_CAL_CFG_CARD_EN, 191, 1)]).setCal 191 h
/-- Six measurements, one of which disagrees. -/
def measured : List Meas :=
  [.cell false 3 [(1, 1)], .group false 2 [(10, 12)] [(3, 4)] [(7, 9)], .cell false 4 [(1, 10), (1, 10), (1, 10), (1, 10)],
    .subSlice false 1 2 [] [] [] [(1, 3)] [(2, 2)], .cell false 4 [(1, 10), (1, 10), (1, 10), (1, 10)],
    .cell false 4 [(1, 10), (1, 10), (1, 10), (1, 10)]]
def busyPlaces (n : Nat) (s : State) : State := (List.range n).foldl (fun s k => s.setCal (96 + k) { running := true }) s

def passDone (st noisy : Nat) : State := (calOn st { running := true, measured := true }).w F.LANE_CAL_STAT_NOISY 191 noisy

theorem witness_DecoderPool :
    (poolOn.live = true ∧ List.foldl (fun x1 x2 => x1 + x2) 0 (List.map (fun x => (poolOn.poolh 1).res.get
      (x.lane.val) 0) epochIn) ≤ 3840) ∧
    ((poolOn.poolh 1).level ≤ 2) ∧
    ((pool { due := [oneEpoch] }).live = true ∧ ((pool { due := [oneEpoch] }).poolh 1).due = [oneEpoch] ∧
      (List.map (fun x => x.lane) oneEpoch.lanes).Nodup) ∧
    ((pool { level := 1 }).live = true ∧ ((pool { level := 1 }).poolh 1).level ≤ 2 ∧ (pool { level := 1 }).r
      F.POOL_STAT_LEVEL 1 < ((pool { level := 1 }).poolh 1).level ∧ ((pool { level := 1 }).poolh 1).level = 1) ∧
    (0 < ((pool { level := 1 }).poolh 1).level) ∧
    ((pool { level := 2 }).live = true ∧ ((pool { level := 2 }).poolh 1).level ≤ 2 ∧ (pool { level := 2 }).r
      F.POOL_STAT_LEVEL 1 < ((pool { level := 2 }).poolh 1).level ∧ ((pool { level := 2 }).poolh 1).level = 2) ∧
    ((pool { episodeAt := some 4, quiet := 63 }).live = true ∧ ((pool { episodeAt := some 4, quiet := 63 }).poolh
      1).level ≤ 2 ∧ ((pool { episodeAt := some 4, quiet := 63 }).poolh 1).level = 0 ∧ ((pool
      { episodeAt := some 4, quiet := 63 }).poolh 1).episodeAt ≠ none ∧ 63 ≤ ((pool
      { episodeAt := some 4, quiet := 63 }).poolh 1).quiet) ∧
    ((pool { episodeAt := some 4, quiet := 62 }).live = true ∧ ((pool { episodeAt := some 4, quiet := 62 }).poolh
      1).level ≤ 2 ∧ ((pool { episodeAt := some 4, quiet := 62 }).poolh 1).level = 0 ∧ ((pool
      { episodeAt := some 4, quiet := 62 }).poolh 1).episodeAt ≠ none ∧ ((pool
      { episodeAt := some 4, quiet := 62 }).poolh 1).quiet < 63) := by
  and_intros <;> decide +kernel

theorem witness_FecCommands :
    ((wj (fecCfg 4 2 9) (fecOn 1 0)).bistHolds (fecCfg 4 2 9) = false ∧ (wj (fecCfg 4 2 9) (fecOn 1 0)).started?
      28 5 7 = some (fecCfg 4 2 9) ∧ State.fecConfigOk (fecCfg 4 2 9) = true ∧ (fecCfg 4 2 9).items.all ((wj (fecCfg
      4 2 9) (fecOn 1 0)).fecAllowed (fecCfg 4 2 9)) = true ∧ 191 ∈ (fecCfg 4 2 9).items ∧ (((wj (fecCfg 4 2 9)
      (fecOn 1 0)).fusedOdd 191 = true ∨ (wj (fecCfg 4 2 9) (fecOn 1 0)).laneState 191 = 6 ∨ bitAt ((fecCfg 4 2 9).p
      4 1) 0 = false))) ∧
    ((fecCfg 4 2 9).items = [191] ∧ (wj (fecCfg 4 2 9) (fecOn 1 0)).fusedOdd 191 = false ∧ ((wj (fecCfg 4 2 9)
      (fecOn 1 0)).fech 191).pendMode = none ∧ ((if (bitAt ((fecCfg 4 2 9).p 4 1) 0 && (wj (fecCfg 4 2 9) (fecOn 1
      0)).on F.LANE_FEC_STAT_OUTER_LOCKED 191 && (wj (fecCfg 4 2 9) (fecOn 1 0)).laneState 191 != 6) = true then
      [Wait.fecMode 191] else []) ++ if (bitAt ((fecCfg 4 2 9).p 4 1) 1 && (wj (fecCfg 4 2 9) (fecOn 1 0)).softTakes
      191) = true then [Wait.poolEpoch (191 / 96)] else []) = []) ∧
    ((wj (fecCfg 7 2 9) (fecOn 1 1)).bistHolds (fecCfg 7 2 9) = false ∧ (wj (fecCfg 7 2 9) (fecOn 1 1)).started?
      28 5 7 = some (fecCfg 7 2 9) ∧ State.fecConfigOk (fecCfg 7 2 9) = true ∧ (fecCfg 7 2 9).items.all ((wj (fecCfg
      7 2 9) (fecOn 1 1)).fecAllowed (fecCfg 7 2 9)) = false) ∧
    ((wj (fecCfg 7 0 9) (fecOn 1 1)).bistHolds (fecCfg 7 0 9) = false ∧ (wj (fecCfg 7 0 9) (fecOn 1 1)).started?
      28 5 7 = some (fecCfg 7 0 9) ∧ State.fecConfigOk (fecCfg 7 0 9) = true ∧ (fecCfg 7 0 9).items.all ((wj (fecCfg
      7 0 9) (fecOn 1 1)).fecAllowed (fecCfg 7 0 9)) = true ∧ 191 ∈ (fecCfg 7 0 9).items ∧ bitAt ((fecCfg 7 0 9).p 4
      1) 0 = true ∧ (wj (fecCfg 7 0 9) (fecOn 1 1)).fusedOdd 191 = false ∧ (wj (fecCfg 7 0 9) (fecOn 1 1)).laneState
      191 ≠ 6 ∧ (wj (fecCfg 7 0 9) (fecOn 1 1)).on F.LANE_FEC_STAT_OUTER_LOCKED 191 = true) ∧
    ((fecCfg 7 0 9).items = [191] ∧ ((wj (fecCfg 7 0 9) (fecOn 1 1)).fech 191).pendMode = none ∧ ((if (bitAt
      ((fecCfg 7 0 9).p 4 1) 0 && (wj (fecCfg 7 0 9) (fecOn 1 1)).on F.LANE_FEC_STAT_OUTER_LOCKED 191 && (wj (fecCfg
      7 0 9) (fecOn 1 1)).laneState 191 != 6) = true then [Wait.fecMode 191] else []) ++ if (bitAt ((fecCfg 7 0 9).p
      4 1) 1 && (wj (fecCfg 7 0 9) (fecOn 1 1)).softTakes 191) = true then [Wait.poolEpoch (191 / 96)] else []) ≠
      []) ∧
    ((wj (fecCfg 7 0 9) (fecOn 1 0)).bistHolds (fecCfg 7 0 9) = false ∧ (wj (fecCfg 7 0 9) (fecOn 1 0)).started?
      28 5 7 = some (fecCfg 7 0 9) ∧ (fecCfg 7 0 9).items.all ((wj (fecCfg 7 0 9) (fecOn 1 0)).fecAllowed (fecCfg 7
      0 9)) = true ∧ (wj (fecCfg 7 0 9) (fecOn 1 0)).fusedOdd 191 = false ∧ (wj (fecCfg 7 0 9) (fecOn 1
      0)).laneState 191 ≠ 6 ∧ (wj (fecCfg 7 0 9) (fecOn 1 0)).on F.LANE_FEC_STAT_OUTER_LOCKED 191 = false) ∧
    ((wj (fecCfg 7 3 9) (fecOn 1 0)).bistHolds (fecCfg 7 3 9) = false ∧ (wj (fecCfg 7 3 9) (fecOn 1 0)).started?
      28 5 7 = some (fecCfg 7 3 9) ∧ State.fecConfigOk (fecCfg 7 3 9) = false) ∧
    ((wj (poolCfg 96 40) (dv 4)).bistHolds (poolCfg 96 40) = false ∧ (wj (poolCfg 96 40) (dv 4)).started? 29 5 7 =
      some (poolCfg 96 40) ∧ (poolCfg 96 40).spanOk 192 = true ∧ (poolCfg 96 40).p 4 1 ≤ 100 ∧ (poolCfg 96 40).pz 5
      27 = true ∧ ((wj (poolCfg 96 40) (dv 4)).each (poolCfg 96 40).items fun s n => s.w F.LANE_POOL_CFG_RES n
      ((poolCfg 96 40).p 4 1)).resSum 0 ≤ 3840 ∧ ((wj (poolCfg 96 40) (dv 4)).each (poolCfg 96 40).items fun s n =>
      s.w F.LANE_POOL_CFG_RES n ((poolCfg 96 40).p 4 1)).resSum 1 ≤ 3840 ∧ 191 ∈ (poolCfg 96 40).items) ∧
    ((wj (poolCfg 96 41) (dv 4)).bistHolds (poolCfg 96 41) = false ∧ (wj (poolCfg 96 41) (dv 4)).started? 29 5 7 =
      some (poolCfg 96 41) ∧ (poolCfg 96 41).spanOk 192 = true ∧ (poolCfg 96 41).p 4 1 ≤ 100 ∧ (poolCfg 96 41).pz 5
      27 = true ∧ ((3840 < ((wj (poolCfg 96 41) (dv 4)).each (poolCfg 96 41).items fun s n => s.w
      F.LANE_POOL_CFG_RES n ((poolCfg 96 41).p 4 1)).resSum 0 ∨ 3840 < ((wj (poolCfg 96 41) (dv 4)).each (poolCfg 96
      41).items fun s n => s.w F.LANE_POOL_CFG_RES n ((poolCfg 96 41).p 4 1)).resSum 1))) ∧
    ((wj (poolCfg 80 101) (dv 4)).bistHolds (poolCfg 80 101) = false ∧ (wj (poolCfg 80 101) (dv 4)).started? 29 5
      7 = some (poolCfg 80 101) ∧ (¬((poolCfg 80 101).spanOk 192 = true ∧ (poolCfg 80 101).p 4 1 ≤ 100 ∧ (poolCfg 80
      101).pz 5 27 = true))) := by
  and_intros <;> decide +kernel

theorem witness_ForegroundPasses :
    ((calOn 1 { want := true }).live = true ∧ 191 < 192 ∧ 191 / 96 = 1 ∧ (calOn 1 { want := true }).fgWaits 191 =
      true ∧ ((∀ (k : Nat), k < 191 → k / 96 = 1 → (calOn 1 { want := true }).fgWaits k = false)) ∧ (calOn 1
      { want := true }).placesUsed 1 + ((calOn 1 { want := true }).members 191).length ≤ 24 ∧ 5 ≠ 191) ∧
    ((busyPlaces 24 (calOn 1 { want := true })).live = true ∧ (busyPlaces 24 (calOn 1 { want := true })).fgWaits
      191 = true ∧ ((∀ (k : Nat), k < 191 → k / 96 = 1 → (busyPlaces 24 (calOn 1 { want := true })).fgWaits k =
      false)) ∧ 24 < (busyPlaces 24 (calOn 1 { want := true })).placesUsed 1 + ((busyPlaces 24 (calOn 1
      { want := true })).members 191).length) ∧
    ((passDone 1 0).live = true ∧ ((passDone 1 0).calh 191).running = true ∧ ((passDone 1 0).calh 191).measured =
      true ∧ (passDone 1 0).lead 191 = 191 ∧ (((passDone 1 0).laneState 191 = 1 ∨ (passDone 1 0).laneState 191 = 2))
      ∧ (((passDone 1 0).on F.LANE_CAL_STAT_NOISY 191 = false ∨ ((List.filter ((passDone 1 0).measures 191 true
      false false) (measured ++ measured)).any fun x => (State.measDisagree x).snd) = false)) ∧ (passDone 1 0).held?
      191 = false) ∧
    ((passDone 1 1).live = true ∧ ((passDone 1 1).calh 191).running = true ∧ ((passDone 1 1).calh 191).measured =
      true ∧ (passDone 1 1).lead 191 = 191 ∧ (((passDone 1 1).laneState 191 = 1 ∨ (passDone 1 1).laneState 191 = 2))
      ∧ (passDone 1 1).on F.LANE_CAL_STAT_NOISY 191 = true ∧ ((List.filter ((passDone 1 1).measures 191 true false
      false) (measured ++ measured)).any fun x => (State.measDisagree x).snd) = true ∧ (passDone 1 1).on
      F.LANE_CAL_CFG_ACCEPT_STORED 191 = false ∧ (passDone 1 1).laneState 191 = 1) ∧
    ((passDone 2 1).live = true ∧ ((passDone 2 1).calh 191).running = true ∧ ((passDone 2 1).calh 191).measured =
      true ∧ (passDone 2 1).lead 191 = 191 ∧ (((passDone 2 1).laneState 191 = 1 ∨ (passDone 2 1).laneState 191 = 2))
      ∧ (passDone 2 1).on F.LANE_CAL_STAT_NOISY 191 = true ∧ ((List.filter ((passDone 2 1).measures 191 true false
      false) (measured ++ measured)).any fun x => (State.measDisagree x).snd) = true ∧ (passDone 2 1).on
      F.LANE_CAL_CFG_ACCEPT_STORED 191 = false ∧ (passDone 2 1).laneState 191 = 2) ∧
    ((calOn 2 { }).live = true ∧ (calOn 2 { }).laneState 191 = 2 ∧ (calOn 2 { }).fusedOdd 191 = false ∧ (calOn 2
      { }).dev = DevState.run ∧ ((calOn 2 { }).calh 191).running = false) := by
  and_intros <;> decide +kernel

def calRun (m : Nat) : Job := jb 0x20 [191, 0, 1, 0, m, 1]
def policy (step : Nat) : Job := jb 0x21 [190, 0, 2, 0, 15, 2, 0, 1, step, 0, 100, 0]

def commitJob : Job := jb 0x22 []
def commitBad : Job := jb 0x22 [1]
def myCommit : Commit := { explicit := true, ring := 5, idx := 7 }
def withNvm (m : NvmH) (s : State := dv 4) : State := { s with nvm := m }
def queued : State := wj commitJob (withNvm { queue := [myCommit, { explicit := false }] })
def fullLog : NvmH := (List.range 8).foldl (fun m i => m.write (bankBytes + logBase + 8 * i) [0, 0, 0, 0, 2, 0, 0, 0x5A]) {}
def deferred : Running := { commit := myCommit, phase := .waitTemp, deadline := 0, deferred := true }
def waiting : State := wj commitJob (withNvm { running := some deferred })

def heldRun : Running := { deferred with phase := .held }
def heldCommit : State := withNvm { running := some heldRun }
def early : Running := { deferred with deadline := 900 }

def rateFull : State := wj commitJob (withNvm { fullLog with queue := [myCommit, { explicit := false }] })

theorem witness_CardingAndPolicy :
    ((calOn 4 { }).live = true ∧ (calOn 4 { }).lead 191 = 191 ∧ (calOn 4 { }).cardRuns 191 = true ∧ ((calOn 4
      { }).calh 191).slotOpen = false) ∧
    ((calOn 4 { slotOpen := true, full := some 3 }).live = true ∧ (calOn 4
      { slotOpen := true, full := some 3 }).lead 191 = 191 ∧ (calOn 4 { slotOpen := true, full := some 3 }).cardRuns
      191 = true ∧ ((calOn 4 { slotOpen := true, full := some 3 }).calh 191).slotOpen = true ∧ ((calOn 4
      { slotOpen := true, full := some 3 }).calh 191).pending = false ∧ ((calOn 4
      { slotOpen := true, full := some 3 }).calh 191).full = some 3 ∧ 3 < 15) ∧
    ((calOn 4 { slotOpen := true, full := some 15 }).live = true ∧ (calOn 4
      { slotOpen := true, full := some 15 }).lead 191 = 191 ∧ (calOn 4
      { slotOpen := true, full := some 15 }).cardRuns 191 = true ∧ ((calOn 4
      { slotOpen := true, full := some 15 }).calh 191).slotOpen = true ∧ ((calOn 4
      { slotOpen := true, full := some 15 }).calh 191).pending = false ∧ ((calOn 4
      { slotOpen := true, full := some 15 }).calh 191).full = some 15 ∧ 15 ≤ 15) ∧
    ((calOn 4 { }).serviced = true ∧ (calOn 4 { }).fusedOdd 191 = false ∧ (¬((calOn 4 { }).tracking 191 = true ∧
      ((calOn 4 { }).calh 191).full = none ∧ ((calOn 4 { }).calh 191).pending = false ∧ 4 * (calOn 4 { }).r
      F.LANE_CAL_CFG_TEMP_STEP 191 ≤ (sint 16 ((calOn 4 { }).laneTemp 191) - (calOn 4 { }).ri F.LANE_CAL_TEMP_TEMP
      191).natAbs))) ∧
    (((calOn 4 { }).w F.LANE_CAL_TEMP_TEMP 191 3000).live = true ∧ ((calOn 4 { }).w F.LANE_CAL_TEMP_TEMP 191
      3000).serviced = true ∧ ((calOn 4 { }).w F.LANE_CAL_TEMP_TEMP 191 3000).fusedOdd 191 = false ∧ ((calOn 4
      { }).w F.LANE_CAL_TEMP_TEMP 191 3000).tracking 191 = true ∧ (((calOn 4 { }).w F.LANE_CAL_TEMP_TEMP 191
      3000).calh 191).full = none ∧ (((calOn 4 { }).w F.LANE_CAL_TEMP_TEMP 191 3000).calh 191).pending = false ∧ 4 *
      ((calOn 4 { }).w F.LANE_CAL_TEMP_TEMP 191 3000).r F.LANE_CAL_CFG_TEMP_STEP 191 ≤ (sint 16 (((calOn 4 { }).w
      F.LANE_CAL_TEMP_TEMP 191 3000).laneTemp 191) - ((calOn 4 { }).w F.LANE_CAL_TEMP_TEMP 191 3000).ri
      F.LANE_CAL_TEMP_TEMP 191).natAbs) ∧
    ((wj (calRun 0) (calOn 4 { })).started? 32 5 7 = some (calRun 0) ∧ (wj (calRun 0) (calOn 4 { })).bistHolds
      (calRun 0) = false ∧ (calRun 0).spanOk 192 = true ∧ (calRun 0).p 4 1 ≤ 2 ∧ (calRun 0).p 5 1 ≤ 1 ∧ (calRun
      0).pz 6 26 = true ∧ (((calRun 0).p 4 1 ≠ 0 ∨ (wj (calRun 0) (calOn 4 { })).dev ≠ DevState.safe)) ∧ (calRun
      0).items.all ((wj (calRun 0) (calOn 4 { })).calAllowed (calRun 0)) = true ∧ (calRun 0).p 4 1 = 0 ∧ 191 ∈ (wj
      (calRun 0) (calOn 4 { })).leads (calRun 0).items ∧ 3 ≤ (wj (calRun 0) (calOn 4 { })).laneState 191) ∧
    ((wj (calRun 0) (calOn 2 { })).started? 32 5 7 = some (calRun 0) ∧ (wj (calRun 0) (calOn 2 { })).bistHolds
      (calRun 0) = false ∧ (((calRun 0).p 4 1 ≠ 0 ∨ (wj (calRun 0) (calOn 2 { })).dev ≠ DevState.safe)) ∧ (calRun
      0).items.all ((wj (calRun 0) (calOn 2 { })).calAllowed (calRun 0)) = true ∧ 191 ∈ (wj (calRun 0) (calOn 2
      { })).leads (calRun 0).items ∧ (wj (calRun 0) (calOn 2 { })).laneState 191 = 2) ∧
    (((∀ (n : Nat), n ∈ (wj (calRun 0) (calOn 2 { })).leads (calRun 0).items → (wj (calRun 0) (calOn 2
      { })).laneState n ≤ 2))) ∧
    ((wj (calRun 0) (calOn 1 { })).started? 32 5 7 = some (calRun 0) ∧ (wj (calRun 0) (calOn 1 { })).bistHolds
      (calRun 0) = false ∧ (((calRun 0).p 4 1 ≠ 0 ∨ (wj (calRun 0) (calOn 1 { })).dev ≠ DevState.safe)) ∧ (calRun
      0).items.all ((wj (calRun 0) (calOn 1 { })).calAllowed (calRun 0)) = true ∧ 191 ∈ (wj (calRun 0) (calOn 1
      { })).leads (calRun 0).items ∧ (wj (calRun 0) (calOn 1 { })).laneState 191 = 1) ∧
    ((wj (calRun 0) (calOn 6 { })).started? 32 5 7 = some (calRun 0) ∧ (wj (calRun 0) (calOn 6 { })).bistHolds
      (calRun 0) = false ∧ (¬(((calRun 0).p 4 1 ≠ 0 ∨ (wj (calRun 0) (calOn 6 { })).dev ≠ DevState.safe) ∧ (calRun
      0).items.all ((wj (calRun 0) (calOn 6 { })).calAllowed (calRun 0)) = true))) ∧
    ((wj (calRun 1) (calOn 4 { })).started? 32 5 7 = some (calRun 1) ∧ (wj (calRun 1) (calOn 4 { })).bistHolds
      (calRun 1) = false ∧ (calRun 1).spanOk 192 = true ∧ (calRun 1).p 4 1 ≤ 2 ∧ (calRun 1).p 5 1 ≤ 1 ∧ (calRun
      1).pz 6 26 = true ∧ (((calRun 1).p 4 1 ≠ 0 ∨ (wj (calRun 1) (calOn 4 { })).dev ≠ DevState.safe)) ∧ (calRun
      1).items.all ((wj (calRun 1) (calOn 4 { })).calAllowed (calRun 1)) = true ∧ (calRun 1).p 4 1 = 1 ∧ 191 ∈ (wj
      (calRun 1) (calOn 4 { })).leads (calRun 1).items) ∧
    ((wj (calRun 2) (calOn 4 { })).started? 32 5 7 = some (calRun 2) ∧ (wj (calRun 2) (calOn 4 { })).bistHolds
      (calRun 2) = false ∧ (calRun 2).spanOk 192 = true ∧ (calRun 2).p 4 1 ≤ 2 ∧ (calRun 2).p 5 1 ≤ 1 ∧ (calRun
      2).pz 6 26 = true ∧ (((calRun 2).p 4 1 ≠ 0 ∨ (wj (calRun 2) (calOn 4 { })).dev ≠ DevState.safe)) ∧ (calRun
      2).items.all ((wj (calRun 2) (calOn 4 { })).calAllowed (calRun 2)) = true ∧ (calRun 2).p 4 1 = 2 ∧ 191 ∈ (wj
      (calRun 2) (calOn 4 { })).leads (calRun 2).items) ∧
    ((wj (calRun 3) (calOn 4 { })).started? 32 5 7 = some (calRun 3) ∧ (wj (calRun 3) (calOn 4 { })).bistHolds
      (calRun 3) = false ∧ (¬((calRun 3).spanOk 192 = true ∧ (calRun 3).p 4 1 ≤ 2 ∧ (calRun 3).p 5 1 ≤ 1 ∧ (calRun
      3).pz 6 26 = true))) ∧
    ((wj (policy 9) (calOn 4 { })).started? 33 5 7 = some (policy 9) ∧ (wj (policy 9) (calOn 4 { })).bistHolds
      (policy 9) = false ∧ State.calPolicyOk (policy 9) = true ∧ 191 ∈ (policy 9).items) ∧
    ((wj (policy 1) (calOn 4 { })).started? 33 5 7 = some (policy 1) ∧ (wj (policy 1) (calOn 4 { })).bistHolds
      (policy 1) = false ∧ State.calPolicyOk (policy 1) = false) := by
  and_intros <;> decide +kernel

theorem commits_fact1 : heldCommit.scheduledReady = false :=
  by rw [State.scheduledReady, State.scheduledMay, State.recent, State.programs_upTo heldCommit 0 (by decide) (by decide +kernel)]; decide +kernel
theorem commits_fact2 : (withNvm { running := some early }).rateRefuses early.commit.explicit = false :=
  by rw [State.rateRefuses, State.recent, State.programs_upTo (withNvm { running := some early }) 0 (by decide) (by decide +kernel)]; decide +kernel
theorem commits_fact3 : ((withNvm { running := some early }).activeValid = true ∨ (withNvm { running := some early }).nvm.logDirty 1 = false) :=
  .inr (NvmH.logDirty_none _ _ (by decide +kernel))
theorem commits_fact4 : (withNvm { running := some early }).nvm.nextSlot (withNvm { running := some early }).logBank < logSlots :=
  Nat.lt_of_le_of_lt (NvmH.nextSlot_upTo _ _ 0 (by decide) (by decide +kernel)) (by decide)
theorem commits_fact5 : ((withNvm { passed := true }).w F.CAL_CFG_SCHED_EN 0 1).scheduledReady = true :=
  by rw [State.scheduledReady, State.scheduledMay, State.recent, State.programs_upTo ((withNvm { passed := true }).w F.CAL_CFG_SCHED_EN 0 1) 0 (by decide) (by decide +kernel)]; decide +kernel
theorem commits_fact6 : queued.rateRefuses myCommit.explicit = false :=
  by rw [State.rateRefuses, State.recent, State.programs_upTo queued 0 (by decide) (by decide +kernel)]; decide +kernel
theorem commits_fact7 : (queued.activeValid = true ∨ queued.nvm.logDirty 1 = false) :=
  .inr (NvmH.logDirty_none _ _ (by decide +kernel))
theorem commits_fact8 : queued.nvm.nextSlot queued.logBank < logSlots :=
  Nat.lt_of_le_of_lt (NvmH.nextSlot_upTo _ _ 0 (by decide) (by decide +kernel)) (by decide)
theorem commits_fact9 : (queued.w F.THM_STAT_COLD_INHIBIT 0 1).rateRefuses myCommit.explicit = false :=
  by rw [State.rateRefuses, State.recent, State.programs_upTo (queued.w F.THM_STAT_COLD_INHIBIT 0 1) 0 (by decide) (by decide +kernel)]; decide +kernel
theorem commits_fact10 : rateFull.rateRefuses myCommit.explicit = true :=
  by rw [State.rateRefuses, State.recent, State.programs_upTo rateFull 8 (by decide) (by decide +kernel)]; decide +kernel
theorem commits_fact11 : waiting.rateRefuses deferred.commit.explicit = false :=
  by rw [State.rateRefuses, State.recent, State.programs_upTo waiting 0 (by decide) (by decide +kernel)]; decide +kernel
theorem witness_Commits :
    ((wj commitJob (dv 4)).started? 34 5 7 = some commitJob ∧ (wj commitJob (dv 4)).bistHolds commitJob = false ∧
      commitJob.pz 0 32 = true) ∧
    ((wj commitBad (dv 4)).started? 34 5 7 = some commitBad ∧ (wj commitBad (dv 4)).bistHolds commitBad = false ∧
      commitBad.pz 0 32 = false) ∧
    (heldCommit.live = true ∧ heldCommit.scheduledReady = false) ∧
    (heldCommit.nvm.running = some heldRun ∧ heldRun.phase = CommitPhase.held ∧ heldCommit.nvmTempBad = false ∧
      ((heldCommit.dev = DevState.run ∨ heldCommit.dev = DevState.safe ∧ heldRun.commit.explicit = true))) ∧
    ((withNvm { running := some early }).live = true ∧ (withNvm { running := some early }).nvm.running = some
      early ∧ early.phase = CommitPhase.waitTemp ∧ (withNvm { running := some early }).nvmTempBad = false ∧
      (((withNvm { running := some early }).dev = DevState.run ∨ (withNvm { running := some early }).dev =
      DevState.safe ∧ early.commit.explicit = true)) ∧ (withNvm { running := some early }).rateRefuses
      early.commit.explicit = false ∧ (withNvm { running := some early }).now < early.deadline ∧ (((withNvm
      { running := some early }).activeValid = true ∨ (withNvm { running := some early }).nvm.logDirty 1 = false)) ∧
      (withNvm { running := some early }).nvm.nextSlot (withNvm { running := some early }).logBank < logSlots) ∧
    (((withNvm { passed := true }).w F.CAL_CFG_SCHED_EN 0 1).live = true ∧ ((withNvm { passed := true }).w
      F.CAL_CFG_SCHED_EN 0 1).scheduledReady = true) ∧
    (queued.live = true ∧ myCommit ∈ queued.nvm.queue ∧ myCommit.explicit = true ∧ queued.nextCommit = some
      myCommit) ∧
    (((queued.dev = DevState.run ∨ queued.dev = DevState.safe)) ∧ queued.bistRunning = false ∧ queued.nvm.running
      = none ∧ queued.rateRefuses myCommit.explicit = false ∧ queued.nvmTempBad = false ∧ ((queued.activeValid =
      true ∨ queued.nvm.logDirty 1 = false)) ∧ queued.nvm.nextSlot queued.logBank < logSlots) ∧
    ((queued.w F.THM_STAT_COLD_INHIBIT 0 1).live = true ∧ (((queued.w F.THM_STAT_COLD_INHIBIT 0 1).dev =
      DevState.run ∨ (queued.w F.THM_STAT_COLD_INHIBIT 0 1).dev = DevState.safe)) ∧ (queued.w
      F.THM_STAT_COLD_INHIBIT 0 1).bistRunning = false ∧ (queued.w F.THM_STAT_COLD_INHIBIT 0 1).nvm.running = none ∧
      (queued.w F.THM_STAT_COLD_INHIBIT 0 1).nextCommit = some myCommit ∧ (queued.w F.THM_STAT_COLD_INHIBIT 0
      1).rateRefuses myCommit.explicit = false ∧ (queued.w F.THM_STAT_COLD_INHIBIT 0 1).nvmTempBad = true) ∧
    ((dv 3).live = true ∧ (((dv 3).dev = DevState.setup ∨ (dv 3).bistRunning = true))) ∧
    (rateFull.live = true ∧ ((rateFull.dev = DevState.run ∨ rateFull.dev = DevState.safe)) ∧ rateFull.bistRunning
      = false ∧ rateFull.nvm.running = none ∧ rateFull.nextCommit = some myCommit ∧ rateFull.rateRefuses
      myCommit.explicit = true ∧ rateFull.job? myCommit.ring myCommit.idx = some commitJob) ∧
    (waiting.live = true ∧ waiting.nvm.running = some deferred ∧ deferred.phase = CommitPhase.waitTemp ∧
      waiting.nvmTempBad = false ∧ ((waiting.dev = DevState.run ∨ waiting.dev = DevState.safe ∧
      deferred.commit.explicit = true)) ∧ waiting.rateRefuses deferred.commit.explicit = false ∧ deferred.deadline ≤
      waiting.now) ∧
    (deferred.commit.explicit = true ∧ waiting.job? deferred.commit.ring deferred.commit.idx = some commitJob) ∧
    ((waiting.w F.THM_STAT_COLD_INHIBIT 0 1).live = true ∧ (waiting.w F.THM_STAT_COLD_INHIBIT 0 1).nvm.running =
      some deferred ∧ (((waiting.w F.THM_STAT_COLD_INHIBIT 0 1).nvmTempBad = true ∨ (waiting.w
      F.THM_STAT_COLD_INHIBIT 0 1).dev = DevState.setup ∨ deferred.commit.explicit = false ∧ (waiting.w
      F.THM_STAT_COLD_INHIBIT 0 1).dev ≠ DevState.run))) := by
  have h1 := commits_fact1
  have h2 := commits_fact2
  have h3 := commits_fact3
  have h4 := commits_fact4
  have h5 := commits_fact5
  have h6 := commits_fact6
  have h7 := commits_fact7
  have h8 := commits_fact8
  have h9 := commits_fact9
  have h10 := commits_fact10
  have h11 := commits_fact11
  and_intros <;> first | with_reducible assumption | decide +kernel

def programming (st : List Nat) (fails : Nat) : Running := { deferred with phase := .programming, staging := st, target := 1, fails := fails }
def onProgram (r : Running) : State := wj commitJob (withNvm { running := some r })
def erasing : Running := { deferred with phase := .erasing, target := 1 }
def atErase : State := wj commitJob (withNvm { fullLog with running := some erasing })
def eraseWanted : State := withNvm { fullLog with eraseNow := true }
def sections : NvmH := ({} : NvmH).write (0x100 + 191 * 0xA00) ([191, 0, 1] ++ (List.range 40).map fun k => (k * k * 7 + k) % 256)
def withSections (st : Nat) : State := (withNvm sections (lanes [191] st)).w F.CAL_NVM_STAT_ACTIVE_VALID 0 1
def restoreJob : Job := jb 0x23 [191, 0, 1, 0]
def restoreBad : Job := jb 0x23 [191, 0, 1, 0, 9]
def midWord : State :=
  (wj restoreJob (withSections 0)).w F.LANE_ADC_STAT_RUNNING 191 1 |>.setAdc 191 { k := 5 }

theorem witness_NvmArray_erase_and_restore :
    (atErase.live = true ∧ atErase.nvm.running = some erasing ∧ erasing.phase = CommitPhase.erasing ∧ 191 /
      bankBytes ≠ erasing.target) ∧
    (eraseWanted.live = true ∧ eraseWanted.nvm.running = none ∧ eraseWanted.nvm.eraseNow = true ∧
      eraseWanted.nvmTempBad = false ∧ 191 / bankBytes ≠ 1 - eraseWanted.activeBank) ∧
    (midWord.started? 35 5 7 = some restoreJob ∧ midWord.bistHolds restoreJob = false ∧ restoreJob.spanOk 192 =
      true ∧ restoreJob.pz 4 28 = true ∧ (¬∃ n, n ∈ restoreJob.items ∧ (midWord.laneState n = 1 ∨ midWord.laneState
      n = 2) ∧ midWord.activeValid = true ∧ ∀ (n : Nat), n ∈ restoreJob.items → bitAt (leAt (midWord.activeSection
      n) 2 1) 0 = true ∧ (∀ (n : Nat), n ∈ restoreJob.items → midWord.laneState n = 0 ∧ midWord.rampsOf n = []) ∧
      191 ∈ restoreJob.items ∧ 0 < 108 ∧ (81 ≤ 0 ∨ midWord.r F.LANE_CAL_SS_COMP_RET (State.elemIdx 191 0) = 0 ∧
      midWord.r F.LANE_CAL_SS_CAP (State.elemIdx 191 0) = 0) ∧ midWord.atBoundary 191 0 = false)) ∧
    ((¬∃ n, n ∈ restoreJob.items ∧ (midWord.laneState n = 1 ∨ midWord.laneState n = 2) ∧ midWord.activeValid =
      true ∧ ∀ (n : Nat), n ∈ restoreJob.items → bitAt (leAt (midWord.activeSection n) 2 1) 0 = true ∧ (∀ (n : Nat),
      n ∈ restoreJob.items → midWord.laneState n = 0 ∧ midWord.rampsOf n = []) ∧ 191 ∈ restoreJob.items ∧ 0 < 108 ∧
      0 < 81)) ∧
    ((wj restoreJob (withSections 0)).started? 35 5 7 = some restoreJob ∧ (wj restoreJob (withSections
      0)).bistHolds restoreJob = false ∧ (¬∃ n, n ∈ restoreJob.items ∧ ((wj restoreJob (withSections 0)).laneState n
      = 1 ∨ (wj restoreJob (withSections 0)).laneState n = 2) ∧ (wj restoreJob (withSections 0)).activeValid = true
      ∧ ∀ (n : Nat), n ∈ restoreJob.items → bitAt (leAt ((wj restoreJob (withSections 0)).activeSection n) 2 1) 0 =
      true ∧ (∀ (n : Nat), n ∈ restoreJob.items → (wj restoreJob (withSections 0)).laneState n = 0 ∧ (wj restoreJob
      (withSections 0)).rampsOf n = []) ∧ 191 ∈ restoreJob.items ∧ 0 < 108 ∧ (81 ≤ 0 ∨ (wj restoreJob (withSections
      0)).r F.LANE_CAL_SS_COMP_RET (State.elemIdx 191 0) = 0 ∧ (wj restoreJob (withSections 0)).r F.LANE_CAL_SS_CAP
      (State.elemIdx 191 0) = 0) ∧ (wj restoreJob (withSections 0)).atBoundary 191 0 = true)) ∧
    ((wj restoreJob (withSections 1)).started? 35 5 7 = some restoreJob ∧ (wj restoreJob (withSections
      1)).bistHolds restoreJob = false ∧ (∃ n, n ∈ restoreJob.items ∧ ((wj restoreJob (withSections 1)).laneState n
      = 1 ∨ (wj restoreJob (withSections 1)).laneState n = 2))) ∧
    ((wj restoreJob (lanes [191] 0)).started? 35 5 7 = some restoreJob ∧ (wj restoreJob (lanes [191] 0)).bistHolds
      restoreJob = false ∧ (¬∃ n, n ∈ restoreJob.items ∧ ((wj restoreJob (lanes [191] 0)).laneState n = 1 ∨ (wj
      restoreJob (lanes [191] 0)).laneState n = 2) ∧ ¬((wj restoreJob (lanes [191] 0)).activeValid = true ∧ ∀ (n :
      Nat), n ∈ restoreJob.items → bitAt (leAt ((wj restoreJob (lanes [191] 0)).activeSection n) 2 1) 0 = true))) ∧
    ((wj restoreBad (lanes [191] 0)).started? 35 5 7 = some restoreBad ∧ (wj restoreBad (lanes [191] 0)).bistHolds
      restoreBad = false ∧ (¬(restoreBad.spanOk 192 = true ∧ restoreBad.pz 4 28 = true))) := by
  and_intros <;> decide +kernel

/-! ### Slots, capture and Plank -/

def slotLanes : State := put (lanes [184, 185] 4 (lanes [186] 3 (lanes [187] 1))) [(F.LANE_EQ_STAT_ACQ_STEP, 184, 5), (F.LANE_EQ_STAT_ACQ_STEP, 186, 5)]
def pinAt (low pulse : Bool) (s : State) : State := s.setSlot 23 { low := low, pulse := pulse }
def inFault : State := put slotLanes [(F.SLOT_STAT_FLT, 0, 2 ^ 23)]

/-- A started job with buffer lengths, addresses and parameter bytes. -/
def job2 (op len0 addr0 addr1 len1 : Nat) (ps : List Nat) : Job :=
  { ring := 5, idx := 7, desc := descOf op len0 addr0 addr1 len1 ps, phase := .started }
def armJob (cl pre post : Nat) : Job := jb 0x30 ([255, cl, 191, 0, 3, 11, 0, 0] ++ leBytes 4 pre ++ leBytes 4 post)
/-- Batt 255 in a state, with one record of lane 191. -/
def battIn (st : Nat) : State :=
  (put (dv 4) [(F.CAP_BATT_STAT_STATE, 255, st), (F.CAP_BATT_INFO_TYPE, 255, 3), (F.CAP_BATT_INFO_LANE, 255, 191),
    (F.CAP_BATT_STAT_TRIGGERED, 255, 1), (F.LANE_EQ_STAT_ACQ_STEP, 191, 8)]).setBatt 255
    { pre := 0, post := 4, timeout := 5, unit := some 5, last := some 5,
      recs := [{ lost := false, flags := 3, mode := 0, unit := 5, time := 9, data := List.replicate 128 7 }] }
def abortJob (free : Nat) : Job := jb 0x31 [255, free]
def readJob (off : Nat) : Job := job2 0x32 0 0 0x2000 70 ([255, 0, 0, 0, 0, 0, 0, 0] ++ leBytes 8 off ++ leBytes 8 60)
def oneRead : CapRead := { ring := 5, idx := 7, batt := 255, offset := 250, count := 60, addr := 0x2000 }
def reading (st : Nat) : State := { battIn st with cap := { (battIn st).cap with reads := [oneRead] } }

/-- `s` while the host may not be asked. -/
def unasked (s : State) : State := { s with pcie := { s.pcie with bme := false } }
/-- The same with the batt's copy of an earlier descriptor of ring 5 waiting for the link. -/
def outrun (s : State) : State :=
  { s with cap := { s.cap with reads := s.cap.reads ++ [{ ring := 5, idx := 3, batt := 254, offset := 0, count := 1, addr := 0, ready := true }] } }

/-- Batt 255 armed with the trigger at once, of a class, with opportunistic rate `r` in use. -/
def armed (opp r : Nat) : State :=
  (put (dv 4) [(F.CAP_BATT_STAT_STATE, 255, 1), (F.CAP_BATT_STAT_CLASS, 255, opp), (F.CAP_BATT_INFO_TYPE, 255, 3),
    (F.CAP_BATT_INFO_LANE, 255, 191), (F.LANE_EQ_STAT_ACQ_STEP, 191, 8), (F.CAP_OPP_RATE_RATE, 0, r)]).setBatt 255
    { pre := 0, post := 4, trig := 0, armTime := 77, timeout := 4, maxD := 2 }
/-- A raw batt whose converter offers unit `u`, and what is recorded of it. -/
def offering (u : Nat) (s : State) : State :=
  (put s [(F.CAP_BATT_INFO_TYPE, 255, 2), (F.LANE_ADC_STAT_RUNNING, 191, 1)]).setAdc 191
    { units := [{ no := u, seen := { time := 77 }, clip := true, iso := true, raw := [1, 2, 3] }] }
def recorded (u : Nat) : Rec := { lost := false, flags := 9, mode := 0, unit := u, time := 77, data := [1, 2, 3] }
def noUnit : State := (battIn 2).setBatt 255 { post := 1 }
def dram (hot cool ext : Nat) : State := { (dv 4).w F.CAP_STAT_EXT_REFRESH 0 ext with cap := { hot := hot, cool := cool } }

def bytes9 : State := { dv 4 with hostMem := (dv 4).hostMem.writeBytes 0x1000 [1, 2, 3, 4, 5, 6, 7, 8, 9] }
/-- The stored frame of those nine bytes (R317, R318, R319). -/
def frame9 : List Nat :=
  [80, 76, 78, 75, 1, 1, 16, 0, 9, 0, 0, 0, 14, 0, 0, 0, 158, 171, 239, 64, 0, 0, 0, 0, 0, 0, 0, 0, 136, 57, 128, 223, 1,
    9, 0, 246, 255, 1, 2, 3, 4, 5, 6, 7, 8, 9]
def framed : State := { dv 4 with hostMem := (dv 4).hostMem.writeBytes 0x1000 frame9 }
def compress (len1 : Nat) : Job := job2 0x38 9 0x1000 0x2000 len1 [0, 0, 16, 2]
def compressBad : Job := job2 0x38 9 0x1000 0x2000 100 [0, 0, 16, 3]
def compressBatt : Job := job2 0x38 0 0 0x2000 100 ([1, 0, 16, 2, 0, 0, 255, 0] ++ leBytes 8 0 ++ leBytes 8 10)
def expand (len0 len1 : Nat) : Job := job2 0x39 len0 0x1000 0x4000 len1 [0, 0, 0, 0, 1]
def pj (j : Job) : PlankJob := { job := j }
def plankWaits (s : State) (j : Job) : State := { wj j s with plank := { waiting := [pj j] } }
def inEngine (s : State) (j : Job) : State := { (wj j s).w F.PLK_ENG_STAT_BUSY 7 1 with plank := { engines := [(7, [pj j])] } }
def noEngine (s : State) : State := put s ((List.range 8).map fun e => (F.PLK_ENG_STAT_OUT_OF_SERVICE, e, 1))

theorem witness_SlotFaults :
    ((pinAt true true slotLanes).powered = true ∧ (pinAt true true slotLanes).frozen = false ∧ ((pinAt true true
      slotLanes).sloth 23).pulse = true ∧ (pinAt true true slotLanes).slotFaulted 23 = false ∧ 22 < 24 ∧ 22 ≠ 23) ∧
    (184 / 8 = 23 ∧ (pinAt true true slotLanes).fusedOdd 184 = false ∧ (((pinAt true true slotLanes).laneState 184
      = 3 ∨ (pinAt true true slotLanes).laneState 184 = 4 ∨ (pinAt true true slotLanes).laneState 184 = 5))) ∧
    (187 / 8 = 23 ∧ (pinAt true true slotLanes).fusedOdd 187 = false ∧ (((pinAt true true slotLanes).laneState 187
      < 3 ∨ (pinAt true true slotLanes).laneState 187 = 6))) ∧
    ((pinAt true true inFault).powered = true ∧ (pinAt true true inFault).frozen = false ∧ ((pinAt true true
      inFault).sloth 23).pulse = true ∧ (pinAt true true inFault).slotFaulted 23 = true) ∧
    ((pinAt false true inFault).powered = true ∧ (pinAt false true inFault).frozen = false ∧ (pinAt false true
      inFault).slotFaulted 23 = true ∧ ((pinAt false true inFault).sloth 23).low = false) ∧
    (186 / 8 = 23 ∧ (pinAt false true inFault).fusedOdd 186 = false ∧ (pinAt false true inFault).laneState 186 =
      3) := by
  and_intros <;> decide +kernel

theorem witness_CaptureCommands :
    ((wj (armJob 0 10 20) (dv 4)).bistHolds (armJob 0 10 20) = false ∧ (wj (armJob 0 10 20) (dv 4)).started? 48 5
      7 = some (armJob 0 10 20) ∧ State.armOk (armJob 0 10 20) = true ∧ (wj (armJob 0 10 20) (dv 4)).armAllowed
      (armJob 0 10 20) = true ∧ (wj (armJob 0 10 20) (dv 4)).r F.CAP_STAT_FREE_PAGES < 2 ^ 14 ∧ battPages ((armJob 0
      10 20).p 4 1) ((armJob 0 10 20).p 8 4) ((armJob 0 10 20).p 12 4) ≤ (wj (armJob 0 10 20) (dv 4)).r
      F.CAP_STAT_FREE_PAGES ∧ (armJob 0 10 20).p 1 1 = 0 ∧ (wj (armJob 0 10 20) (dv 4)).admission (armJob 0 10 20) =
      some 0 ∧ (wj (armJob 0 10 20) (dv 4)).budget < 2 ^ 32 ∧ 254 ≠ (armJob 0 10 20).p 0 1) ∧
    ((wj (armJob 1 0 20) (dv 4)).bistHolds (armJob 1 0 20) = false ∧ (wj (armJob 1 0 20) (dv 4)).started? 48 5 7 =
      some (armJob 1 0 20) ∧ State.armOk (armJob 1 0 20) = true ∧ (wj (armJob 1 0 20) (dv 4)).armAllowed (armJob 1 0
      20) = true ∧ (wj (armJob 1 0 20) (dv 4)).r F.CAP_STAT_FREE_PAGES < 2 ^ 14 ∧ battPages ((armJob 1 0 20).p 4 1)
      ((armJob 1 0 20).p 8 4) ((armJob 1 0 20).p 12 4) ≤ (wj (armJob 1 0 20) (dv 4)).r F.CAP_STAT_FREE_PAGES ∧
      (armJob 1 0 20).p 1 1 = 1 ∧ 254 ≠ (armJob 1 0 20).p 0 1) ∧
    ((wj (armJob 1 10 20) (dv 4)).bistHolds (armJob 1 10 20) = false ∧ (wj (armJob 1 10 20) (dv 4)).started? 48 5
      7 = some (armJob 1 10 20) ∧ State.armOk (armJob 1 10 20) = false) ∧
    ((wj (armJob 1 0 20) ((dv 4).w F.CAP_STAT_FREE_PAGES 0 0)).bistHolds (armJob 1 0 20) = false ∧ (wj (armJob 1 0
      20) ((dv 4).w F.CAP_STAT_FREE_PAGES 0 0)).started? 48 5 7 = some (armJob 1 0 20) ∧ (wj (armJob 1 0 20) ((dv
      4).w F.CAP_STAT_FREE_PAGES 0 0)).armAllowed (armJob 1 0 20) = true ∧ (wj (armJob 1 0 20) ((dv 4).w
      F.CAP_STAT_FREE_PAGES 0 0)).r F.CAP_STAT_FREE_PAGES < 2 ^ 14 ∧ (((wj (armJob 1 0 20) ((dv 4).w
      F.CAP_STAT_FREE_PAGES 0 0)).r F.CAP_STAT_FREE_PAGES < battPages ((armJob 1 0 20).p 4 1) ((armJob 1 0 20).p 8
      4) ((armJob 1 0 20).p 12 4) ∨ (armJob 1 0 20).p 1 1 = 0 ∧ (wj (armJob 1 0 20) ((dv 4).w F.CAP_STAT_FREE_PAGES
      0 0)).admission (armJob 1 0 20) = none))) ∧
    ((wj (armJob 0 10 20) (battIn 3)).bistHolds (armJob 0 10 20) = false ∧ (wj (armJob 0 10 20) (battIn
      3)).started? 48 5 7 = some (armJob 0 10 20) ∧ (wj (armJob 0 10 20) (battIn 3)).armAllowed (armJob 0 10 20) =
      false) ∧
    ((wj (abortJob 0) (battIn 2)).bistHolds (abortJob 0) = false ∧ (wj (abortJob 0) (battIn 2)).started? 49 5 7 =
      some (abortJob 0) ∧ (abortJob 0).p 1 1 ≤ 1 ∧ (abortJob 0).pz 2 30 = true ∧ (((wj (abortJob 0) (battIn
      2)).battState ((abortJob 0).p 0 1) = 1 ∨ (wj (abortJob 0) (battIn 2)).battState ((abortJob 0).p 0 1) = 2)) ∧
      (abortJob 0).p 1 1 = 0) ∧
    ((wj (abortJob 1) (battIn 3)).bistHolds (abortJob 1) = false ∧ (wj (abortJob 1) (battIn 3)).started? 49 5 7 =
      some (abortJob 1) ∧ (abortJob 1).p 1 1 ≤ 1 ∧ (abortJob 1).pz 2 30 = true ∧ (wj (abortJob 1) (battIn
      3)).battState ((abortJob 1).p 0 1) = 3 ∧ (abortJob 1).p 1 1 = 1 ∧ (wj (abortJob 1) (battIn 3)).battReads
      ((abortJob 1).p 0 1) = false) ∧
    ((wj (abortJob 1) (reading 3)).bistHolds (abortJob 1) = false ∧ (wj (abortJob 1) (reading 3)).started? 49 5 7
      = some (abortJob 1) ∧ (wj (abortJob 1) (reading 3)).battState ((abortJob 1).p 0 1) = 3 ∧ (wj (abortJob 1)
      (reading 3)).battReads ((abortJob 1).p 0 1) = true) ∧
    ((wj (abortJob 1) (battIn 4)).bistHolds (abortJob 1) = false ∧ (wj (abortJob 1) (battIn 4)).started? 49 5 7 =
      some (abortJob 1) ∧ (((wj (abortJob 1) (battIn 4)).battState ((abortJob 1).p 0 1) = 0 ∨ (wj (abortJob 1)
      (battIn 4)).battState ((abortJob 1).p 0 1) = 4))) ∧
    ((wj (abortJob 2) (battIn 4)).bistHolds (abortJob 2) = false ∧ (wj (abortJob 2) (battIn 4)).started? 49 5 7 =
      some (abortJob 2) ∧ (¬((abortJob 2).p 1 1 ≤ 1 ∧ (abortJob 2).pz 2 30 = true))) ∧
    ((wj (readJob 250) (battIn 3)).bistHolds (readJob 250) = false ∧ (wj (readJob 250) (battIn 3)).started? 50 5 7
      = some (readJob 250) ∧ (readJob 250).pz 1 7 = true ∧ (readJob 250).pz 24 8 = true ∧ 1 ≤ (readJob 250).p 16 8 ∧
      (readJob 250).p 16 8 ≤ (readJob 250).len1 ∧ (wj (readJob 250) (battIn 3)).battState ((readJob 250).p 0 1) = 3
      ∧ (readJob 250).p 8 8 < (wj (readJob 250) (battIn 3)).imageSize ((readJob 250).p 0 1)) ∧
    ((wj (readJob 250) (battIn 2)).bistHolds (readJob 250) = false ∧ (wj (readJob 250) (battIn 2)).started? 50 5 7
      = some (readJob 250) ∧ (wj (readJob 250) (battIn 2)).battState ((readJob 250).p 0 1) ≠ 3) ∧
    ((wj (readJob 100000) (battIn 3)).bistHolds (readJob 100000) = false ∧ (wj (readJob 100000) (battIn
      3)).started? 50 5 7 = some (readJob 100000) ∧ ((¬((readJob 100000).pz 1 7 = true ∧ (readJob 100000).pz 24 8 =
      true ∧ 1 ≤ (readJob 100000).p 16 8 ∧ (readJob 100000).p 16 8 ≤ (readJob 100000).len1) ∨ (wj (readJob 100000)
      (battIn 3)).battState ((readJob 100000).p 0 1) = 3 ∧ (wj (readJob 100000) (battIn 3)).imageSize ((readJob
      100000).p 0 1) ≤ (readJob 100000).p 8 8))) ∧
    ((wj (abortJob 1) (reading 3)).live = true ∧ (wj (abortJob 1) (reading 3)).bistTests 1 = false ∧ (wj (abortJob
      1) (reading 3)).cap.reads[0]? = some oneRead ∧ oneRead.lost = false ∧ (wj (abortJob 1) (reading 3)).canIssue =
      true ∧ (wj (abortJob 1) (reading 3)).outTurn oneRead.ring oneRead.idx = true ∧ (wj (abortJob 1) (reading
      3)).battState oneRead.batt = 3) ∧
    ((unasked (reading 3)).live = true ∧ (unasked (reading 3)).bistTests 1 = false ∧ (unasked (reading
      3)).cap.reads[0]? = some oneRead ∧ (unasked (reading 3)).canIssue = false) ∧
    ((outrun (reading 3)).live = true ∧ (outrun (reading 3)).bistTests 1 = false ∧ (outrun (reading
      3)).cap.reads[0]? = some oneRead ∧ (outrun (reading 3)).canIssue = true ∧ (outrun (reading 3)).outTurn
      oneRead.ring oneRead.idx = false) := by
  and_intros <;> decide +kernel

theorem witness_CaptureStore :
    ((armed 0 0).live = true ∧ 255 < 256 ∧ List.filterMap (fun c => Option.map (fun t => (c, t)) ((armed 0
      0).trigger? 256 c)) State.allBatts = [(255, 77)] ∧ (armed 0 0).battState 255 = 1 ∧ ((2 ≤ ((armed 0 0).batt
      255).trig ∨ (armed 0 0).tapOffers ((armed 0 0).battLane 255) ((armed 0 0).battType 255) = true)) ∧ (armed 0
      0).battOpp 255 = false ∧ ((armed 0 0).batt 255).recs = []) ∧
    ((armed 0 0).unitRec 255 3 ((armed 0 0).rxIn ((armed 0 0).battLane 255) ([] ++ [] ++ [])) = none) ∧
    (((armed 0 0).batt 255).timeout ≠ 0) ∧
    (1312 ≤ sint 16 1330 ∧ sint 16 1330 < 1360) ∧
    ((armed 1 0).live = true ∧ List.filterMap (fun c => Option.map (fun t => (c, t)) ((armed 1 0).trigger? 256 c))
      State.allBatts = [(255, 77)] ∧ (armed 1 0).battState 255 = 1 ∧ ((2 ≤ ((armed 1 0).batt 255).trig ∨ (armed 1
      0).tapOffers ((armed 1 0).battLane 255) ((armed 1 0).battType 255) = true)) ∧ (armed 1 0).battOpp 255 = true ∧
      (armed 1 0).budget < 2 ^ 32 ∧ fitFrom ((armed 1 0).battType 255) ((armed 1 0).laneMode ((armed 1 0).battLane
      255)) ((armed 1 0).budget - (armed 1 0).resRate - (armed 1 0).oppRate) ((armed 1 0).batt 255).maxD 0 = some 0
      ∧ 0 < 8) ∧
    ((armed 1 999999).live = true ∧ List.filterMap (fun c => Option.map (fun t => (c, t)) ((armed 1
      999999).trigger? 256 c)) State.allBatts = [(255, 77)] ∧ (armed 1 999999).battState 255 = 1 ∧ ((2 ≤ ((armed 1
      999999).batt 255).trig ∨ (armed 1 999999).tapOffers ((armed 1 999999).battLane 255) ((armed 1 999999).battType
      255) = true)) ∧ (armed 1 999999).battOpp 255 = true ∧ (armed 1 999999).budget < 2 ^ 32 ∧ fitFrom ((armed 1
      999999).battType 255) ((armed 1 999999).laneMode ((armed 1 999999).battLane 255)) ((armed 1 999999).budget -
      (armed 1 999999).resRate - (armed 1 999999).oppRate) ((armed 1 999999).batt 255).maxD 0 = none) ∧
    ((offering 6 (armed 0 0)).live = true ∧ (offering 6 (armed 0 0)).unitRec 255 3 ((offering 6 (armed 0 0)).rxIn
      ((offering 6 (armed 0 0)).battLane 255) ([] ++ [] ++ [])) = some (recorded 6) ∧ (offering 6 (armed 0
      0)).unitFor 255 (recorded 6).unit = true ∧ (offering 6 (armed 0 0)).battState 255 = 1 ∧ ((offering 6 (armed 0
      0)).batt 255).pre = 0 ∧ 77 ≠ 255) ∧
    ((offering 6 (battIn 2)).live = true ∧ (offering 6 (battIn 2)).unitRec 255 3 ((offering 6 (battIn 2)).rxIn
      ((offering 6 (battIn 2)).battLane 255) ([] ++ [] ++ [])) = some (recorded 6) ∧ (offering 6 (battIn 2)).unitFor
      255 (recorded 6).unit = true ∧ (offering 6 (battIn 2)).battState 255 = 2 ∧ (((offering 6 (battIn 2)).battOpp
      255 = true ∨ (offering 6 (battIn 2)).resRate ≤ (offering 6 (battIn 2)).budget)) ∧ ((∀ (x : Nat), ((offering 6
      (battIn 2)).batt 255).unit = some x → State.unitDiff ((offering 6 (battIn 2)).battType 255) x (recorded
      6).unit ≤ (offering 6 (battIn 2)).postSpan 255)) ∧ (offering 6 (battIn 2)).r F.CAP_BATT_INFO_RECORDS 255 < 2 ^
      30 ∧ true = true ∧ ((((offering 6 (battIn 2)).batt 255).unit ≠ none ∨ ((offering 6 (battIn 2)).batt 255).recs
      = []))) ∧
    (((offering 6 (battIn 2)).batt 255).unit = some 5 ∧ State.unitDiff ((offering 6 (battIn 2)).battType 255) 5
      (recorded 6).unit < (offering 6 (battIn 2)).postSpan 255) ∧
    (false = false ∧ ((offering 6 (battIn 2)).batt 255).unit ≠ none ∧ (offering 6 (battIn 2)).on
      F.CAP_BATT_STAT_TRIGGERED 255 = true) ∧
    ((offering 8 (battIn 2)).live = true ∧ (offering 8 (battIn 2)).unitRec 255 3 ((offering 8 (battIn 2)).rxIn
      ((offering 8 (battIn 2)).battLane 255) ([] ++ [] ++ [])) = some (recorded 8) ∧ (offering 8 (battIn 2)).unitFor
      255 (recorded 8).unit = true ∧ (offering 8 (battIn 2)).battState 255 = 2 ∧ (((offering 8 (battIn 2)).battOpp
      255 = true ∨ (offering 8 (battIn 2)).resRate ≤ (offering 8 (battIn 2)).budget)) ∧ ((∀ (x : Nat), ((offering 8
      (battIn 2)).batt 255).unit = some x → State.unitDiff ((offering 8 (battIn 2)).battType 255) x (recorded
      8).unit ≤ (offering 8 (battIn 2)).postSpan 255)) ∧ (offering 8 (battIn 2)).r F.CAP_BATT_INFO_RECORDS 255 < 2 ^
      30 ∧ ((offering 8 (battIn 2)).batt 255).unit = some 5 ∧ State.unitDiff ((offering 8 (battIn 2)).battType 255)
      5 (recorded 8).unit = (offering 8 (battIn 2)).postSpan 255) ∧
    ((offering 5 (battIn 2)).live = true ∧ (offering 5 (battIn 2)).unitRec 255 3 ((offering 5 (battIn 2)).rxIn
      ((offering 5 (battIn 2)).battLane 255) ([] ++ [] ++ [])) = some (recorded 5) ∧ ((offering 5 (battIn 2)).adch
      ((offering 5 (battIn 2)).battLane 255)).units =
      [{ no := 5, seen := { time := 77 }, clip := true, iso := true, raw := [1, 2, 3] }] ∧ (offering 5 (battIn
      2)).battType 255 ≤ 2) ∧
    ((offering 5 (battIn 2)).unitFor 255 (recorded 5).unit = false) ∧
    ((offering 8 noUnit).live = true ∧ (offering 8 noUnit).unitRec 255 3 ((offering 8 noUnit).rxIn ((offering 8
      noUnit).battLane 255) ([] ++ [] ++ [])) = some (recorded 8) ∧ (offering 8 noUnit).unitFor 255 (recorded
      8).unit = true ∧ (offering 8 noUnit).battState 255 = 2 ∧ (((offering 8 noUnit).battOpp 255 = true ∨ (offering
      8 noUnit).resRate ≤ (offering 8 noUnit).budget)) ∧ ((∀ (x : Nat), ((offering 8 noUnit).batt 255).unit = some x
      → State.unitDiff ((offering 8 noUnit).battType 255) x (recorded 8).unit ≤ (offering 8 noUnit).postSpan 255)) ∧
      (offering 8 noUnit).r F.CAP_BATT_INFO_RECORDS 255 < 2 ^ 30 ∧ ((offering 8 noUnit).batt 255).unit = none) ∧
    ((dram 2 0 0).live = true ∧ 1360 ≤ sint 16 1400 ∧ 2 ≤ (dram 2 0 0).cap.hot ∧ (dram 2 0 0).on
      F.CAP_STAT_EXT_REFRESH = false) ∧
    ((dram 0 2 1).live = true ∧ sint 16 1300 < 1312 ∧ 2 ≤ (dram 0 2 1).cap.cool ∧ (dram 0 2 1).on
      F.CAP_STAT_EXT_REFRESH = true) := by
  and_intros <;> decide +kernel

theorem witness_Plank :
    ((wj (compress 100) bytes9).bistHolds (compress 100) = false ∧ (wj (compress 100) bytes9).started? 56 5 7 =
      some (compress 100) ∧ State.compressOk (compress 100) = true ∧ (((compress 100).p 0 1 = 0 ∨ (wj (compress 100)
      bytes9).battState ((compress 100).p 6 1) = 3 ∧ (compress 100).p 8 8 + (compress 100).p 16 8 ≤ (wj (compress
      100) bytes9).imageSize ((compress 100).p 6 1))) ∧ (wj (compress 100) bytes9).engineLeft = true) ∧
    ((wj compressBad bytes9).bistHolds compressBad = false ∧ (wj compressBad bytes9).started? 56 5 7 = some
      compressBad ∧ ((State.compressOk compressBad = false ∨ compressBad.p 0 1 = 1 ∧ (wj compressBad
      bytes9).battState (compressBad.p 6 1) = 3 ∧ ¬((wj compressBad bytes9).battState (compressBad.p 6 1) = 3 ∧
      compressBad.p 8 8 + compressBad.p 16 8 ≤ (wj compressBad bytes9).imageSize (compressBad.p 6 1))))) ∧
    ((wj compressBatt (battIn 2)).bistHolds compressBatt = false ∧ (wj compressBatt (battIn 2)).started? 56 5 7 =
      some compressBatt ∧ State.compressOk compressBatt = true ∧ compressBatt.p 0 1 = 1 ∧ (wj compressBatt (battIn
      2)).battState (compressBatt.p 6 1) ≠ 3) ∧
    ((wj (compress 100) (noEngine bytes9)).bistHolds (compress 100) = false ∧ (wj (compress 100) (noEngine
      bytes9)).started? 56 5 7 = some (compress 100) ∧ (((compress 100).p 0 1 = 0 ∨ (wj (compress 100) (noEngine
      bytes9)).battState ((compress 100).p 6 1) = 3 ∧ (compress 100).p 8 8 + (compress 100).p 16 8 ≤ (wj (compress
      100) (noEngine bytes9)).imageSize ((compress 100).p 6 1))) ∧ (wj (compress 100) (noEngine bytes9)).engineLeft
      = false) ∧
    ((wj (expand 46 100) framed).bistHolds (expand 46 100) = false ∧ (wj (expand 46 100) framed).started? 57 5 7 =
      some (expand 46 100) ∧ State.decompressOk (expand 46 100) = true ∧ (wj (expand 46 100) framed).engineLeft =
      true) ∧
    ((wj (expand 46 100) (noEngine framed)).bistHolds (expand 46 100) = false ∧ (wj (expand 46 100) (noEngine
      framed)).started? 57 5 7 = some (expand 46 100) ∧ (wj (expand 46 100) (noEngine framed)).engineLeft = false) ∧
    ((wj (expand 10 100) framed).bistHolds (expand 10 100) = false ∧ (wj (expand 10 100) framed).started? 57 5 7 =
      some (expand 10 100) ∧ State.decompressOk (expand 10 100) = false) ∧
    ((wj (compress 100) bytes9).live = true ∧ (wj (compress 100) bytes9).on F.PLK_ENG_STAT_OUT_OF_SERVICE 7 =
      false) ∧
    ((plankWaits bytes9 (compress 100)).live = true ∧ (plankWaits bytes9 (compress 100)).plank.waiting = [pj
      (compress 100)] ∧ (plankWaits bytes9 (compress 100)).freeEngine = some 0 ∧ (plankWaits bytes9 (compress
      100)).bistTests 1 = false) ∧
    ((inEngine bytes9 (compress 100)).live = true ∧ (inEngine bytes9 (compress 100)).engineJob 7 = some (pj
      (compress 100)) ∧ (pj (compress 100)).lost = false ∧ (inEngine bytes9 (compress 100)).job? (pj (compress
      100)).job.ring (pj (compress 100)).job.idx = some (compress 100) ∧ (inEngine bytes9 (compress 100)).canIssue =
      true ∧ (inEngine bytes9 (compress 100)).outTurn (pj (compress 100)).job.ring (pj (compress 100)).job.idx =
      true ∧ byteAt (pj (compress 100)).job.desc 0 = 56 ∧ (framesFrom (pj (compress 100)).job (((inEngine bytes9
      (compress 100)).plankInput (pj (compress 100)).job).length / 65536 + 1) 0 ((inEngine bytes9 (compress
      100)).plankInput (pj (compress 100)).job)).snd.length ≤ (pj (compress 100)).job.len1) ∧
    ((inEngine bytes9 (compress 100)).on F.PLK_ENG_STAT_OUT_OF_SERVICE 7 = false) ∧
    ((unasked (inEngine bytes9 (compress 100))).live = true ∧ (unasked (inEngine bytes9 (compress 100))).engineJob
      7 = some (pj (compress 100)) ∧ (unasked (inEngine bytes9 (compress 100))).job? (pj (compress 100)).job.ring
      (pj (compress 100)).job.idx = some (compress 100) ∧ (unasked (inEngine bytes9 (compress 100))).canIssue =
      false) ∧
    ((outrun (inEngine bytes9 (compress 100))).live = true ∧ (outrun (inEngine bytes9 (compress 100))).engineJob 7
      = some (pj (compress 100)) ∧ (outrun (inEngine bytes9 (compress 100))).job? (pj (compress 100)).job.ring (pj
      (compress 100)).job.idx = some (compress 100) ∧ (outrun (inEngine bytes9 (compress 100))).canIssue = true ∧
      (outrun (inEngine bytes9 (compress 100))).outTurn (pj (compress 100)).job.ring (pj (compress 100)).job.idx =
      false) ∧
    ((inEngine bytes9 (compress 40)).live = true ∧ (inEngine bytes9 (compress 40)).engineJob 7 = some (pj
      (compress 40)) ∧ (pj (compress 40)).lost = false ∧ (inEngine bytes9 (compress 40)).job? (pj (compress
      40)).job.ring (pj (compress 40)).job.idx = some (compress 40) ∧ (inEngine bytes9 (compress 40)).canIssue =
      true ∧ (inEngine bytes9 (compress 40)).outTurn (pj (compress 40)).job.ring (pj (compress 40)).job.idx = true ∧
      byteAt (pj (compress 40)).job.desc 0 = 56 ∧ (pj (compress 40)).job.len1 < (framesFrom (pj (compress 40)).job
      (((inEngine bytes9 (compress 40)).plankInput (pj (compress 40)).job).length / 65536 + 1) 0 ((inEngine bytes9
      (compress 40)).plankInput (pj (compress 40)).job)).snd.length) ∧
    ((inEngine framed (expand 46 100)).live = true ∧ (inEngine framed (expand 46 100)).engineJob 7 = some (pj
      (expand 46 100)) ∧ (pj (expand 46 100)).lost = false ∧ (inEngine framed (expand 46 100)).job? (pj (expand 46
      100)).job.ring (pj (expand 46 100)).job.idx = some (expand 46 100) ∧ (inEngine framed (expand 46
      100)).canIssue = true ∧ (inEngine framed (expand 46 100)).outTurn (pj (expand 46 100)).job.ring (pj (expand 46
      100)).job.idx = true ∧ byteAt (pj (expand 46 100)).job.desc 0 ≠ 56 ∧ (inflateFrames (pj (expand 46 100)).job
      (((inEngine framed (expand 46 100)).plankInput (pj (expand 46 100)).job).length + 1) 0 0 (pj (expand 46
      100)).job.len1 ((inEngine framed (expand 46 100)).plankInput (pj (expand 46 100)).job)).err = 0) ∧
    ((inEngine framed (expand 46 5)).live = true ∧ (inEngine framed (expand 46 5)).engineJob 7 = some (pj (expand
      46 5)) ∧ (pj (expand 46 5)).lost = false ∧ (inEngine framed (expand 46 5)).job? (pj (expand 46 5)).job.ring
      (pj (expand 46 5)).job.idx = some (expand 46 5) ∧ (inEngine framed (expand 46 5)).canIssue = true ∧ (inEngine
      framed (expand 46 5)).outTurn (pj (expand 46 5)).job.ring (pj (expand 46 5)).job.idx = true ∧ byteAt (pj
      (expand 46 5)).job.desc 0 ≠ 56 ∧ (inflateFrames (pj (expand 46 5)).job (((inEngine framed (expand 46
      5)).plankInput (pj (expand 46 5)).job).length + 1) 0 0 (pj (expand 46 5)).job.len1 ((inEngine framed (expand
      46 5)).plankInput (pj (expand 46 5)).job)).err = 255) ∧
    ((inEngine framed (expand 44 100)).live = true ∧ (inEngine framed (expand 44 100)).engineJob 7 = some (pj
      (expand 44 100)) ∧ (pj (expand 44 100)).lost = false ∧ (inEngine framed (expand 44 100)).job? (pj (expand 44
      100)).job.ring (pj (expand 44 100)).job.idx = some (expand 44 100) ∧ (inEngine framed (expand 44
      100)).canIssue = true ∧ (inEngine framed (expand 44 100)).outTurn (pj (expand 44 100)).job.ring (pj (expand 44
      100)).job.idx = true ∧ byteAt (pj (expand 44 100)).job.desc 0 ≠ 56 ∧ (inflateFrames (pj (expand 44 100)).job
      (((inEngine framed (expand 44 100)).plankInput (pj (expand 44 100)).job).length + 1) 0 0 (pj (expand 44
      100)).job.len1 ((inEngine framed (expand 44 100)).plankInput (pj (expand 44 100)).job)).err ≠ 0 ∧
      (inflateFrames (pj (expand 44 100)).job (((inEngine framed (expand 44 100)).plankInput (pj (expand 44
      100)).job).length + 1) 0 0 (pj (expand 44 100)).job.len1 ((inEngine framed (expand 44 100)).plankInput (pj
      (expand 44 100)).job)).err ≠ 255) := by
  and_intros <;> decide +kernel

/-! ### Hatband -/

def conv (h : ConvH) (s : State) : State := s.setConv 1 h
/-- Converter 1 in a state, its list 40, 63, 80, its trigger the timer. -/
def hat (st : Nat) : State :=
  put (dv 4) [(F.HB_CONV_STAT_STATE, 1, st), (F.HB_SCAN_CFG_LEN, 1, 3), (F.HB_SCAN_LIST_STEP_LO, 128, 40),
    (F.HB_SCAN_LIST_STEP_HI, 128, 63), (F.HB_SCAN_LIST_STEP_LO, 129, 80), (F.HB_SCAN_CFG_TRIG, 1, 1), (F.HB_PT_CFG_AVG, 40, 1)]
def visit0 : Visit := { point := 40, cfg := 1024, range := 2 }
def visiting (v : Visit) : State := conv { visit := some v, cycle := true } (hat 1)
def busVisit : Visit := { visit0 with point := 80, waitBus := true, discard := true }
def discarding : Visit := { visit0 with discard := true }
def checking : Visit := { visit0 with check := true }
def almost : Visit := { visit0 with kept := 1, sum := 9000 }
def urgent40 : Urgent := { ring := 5, idx := 7, point := 40, noQueue := false }
def urgentVisit : Visit := { almost with urgent := some { ring := 5, idx := 7, point := 40, noQueue := false } }
def urgentRuns : State := wj (jb 0x43 [40, 0, 1]) (visiting urgentVisit)
def selfCal (step attempt : Nat) : SelfCal := { runs := true, step := step, attempt := attempt }
def calibrating (k : SelfCal) : State := conv { cal := some k } (hat 1)
def excited : State := put (dv 4) [(F.HB_EXC_CFG_EN, 7, 1), (F.HB_EXC_CFG_MV, 7, 1000), (F.HB_EXC_STAT_ON, 0, 128), (F.HB_EXC_STAT_IN_RANGE, 0, 129)]
def entryA : Nat := 0x123456789abcdef0
def filled : State := conv { queue := [entryA, 9] } (hat 1)

theorem only_visit : ∀ (d : Nat) (u : Visit), d ≠ 1 → ((visiting busVisit).convh d).visit = some u → u.waitBus = false := by
  intro d u hd h
  have h0 : ((visiting busVisit).convh d).visit = none := by
    simp [visiting, conv, State.setConv, State.convh, Tab.get_set, hd]
    rfl
  rw [h0] at h
  cases h

theorem witness_HatbandEvents :
    ((hat 1).live = true ∧ (hat 1).convState 1 = 1 ∧ (hat 1).hbMode = 0 ∧ (hat 1).r F.HB_SCAN_CFG_TRIG 1 = 1 ∧
      (hat 1).cycleBusy 1 = false ∧ ((hat 1).convh 1).visit = none ∧ ((hat 1).convh 1).urgents = []) ∧
    (((hat 1).convh 1).delay = false) ∧
    ((conv { cycle := true, delay := true } (hat 1)).live = true ∧ (conv { cycle := true, delay := true } (hat
      1)).convState 1 = 1 ∧ (conv { cycle := true, delay := true } (hat 1)).hbMode = 0 ∧ (conv
      { cycle := true, delay := true } (hat 1)).r F.HB_SCAN_CFG_TRIG 1 = 1 ∧ (conv { cycle := true, delay := true }
      (hat 1)).cycleBusy 1 = true) ∧
    (((conv { cycle := true, delay := true } (hat 1)).convh 1).delay = true) ∧
    ((conv { delay := true } ((hat 1).w F.HB_SCAN_CFG_TRIG 1 2)).live = true ∧ (conv { delay := true } ((hat 1).w
      F.HB_SCAN_CFG_TRIG 1 2)).r F.HB_SCAN_CFG_TRIG 1 ≠ 1) ∧
    ((conv { delay := true } ((hat 1).w F.HB_SCAN_CFG_TRIG 1 2)).convState 1 = 1 ∧ (conv { delay := true } ((hat
      1).w F.HB_SCAN_CFG_TRIG 1 2)).hbMode = 0 ∧ ((conv { delay := true } ((hat 1).w F.HB_SCAN_CFG_TRIG 1 2)).convh
      1).delay = true ∧ (conv { delay := true } ((hat 1).w F.HB_SCAN_CFG_TRIG 1 2)).cycleBusy 1 = false ∧ ((conv
      { delay := true } ((hat 1).w F.HB_SCAN_CFG_TRIG 1 2)).convh 1).visit = none ∧ ((conv { delay := true } ((hat
      1).w F.HB_SCAN_CFG_TRIG 1 2)).convh 1).urgents = []) ∧
    ((visiting visit0).live = true ∧ ((visiting visit0).convh 1).visit = some visit0 ∧ (visiting visit0).busWaits
      1 visit0 = false ∧ (visiting visit0).convState 1 ≠ 2 ∧ visit0.discard = false ∧ visit0.check = false ∧
      visit0.kept + 1 < ptN visit0.cfg) ∧
    (((visiting visit0).w F.HB_CONV_STAT_STATE 1 2).live = true ∧ (((visiting visit0).w F.HB_CONV_STAT_STATE 1
      2).convh 1).visit = some visit0 ∧ ((visiting visit0).w F.HB_CONV_STAT_STATE 1 2).busWaits 1 visit0 = false ∧
      ((visiting visit0).w F.HB_CONV_STAT_STATE 1 2).convState 1 = 2) ∧
    ((visiting busVisit).live = true ∧ ((visiting busVisit).convh 1).visit = some busVisit ∧ (visiting
      busVisit).hbBus = 0 ∧ busVisit.waitBus = true ∧ ((∀ (d : Nat) (u : Visit), d ≠ 1 → ((visiting busVisit).convh
      d).visit = some u → u.waitBus = false)) ∧ busVisit.discard = true) ∧
    ((visiting busVisit).busWaits 1 busVisit = true) ∧
    ((visiting discarding).live = true ∧ ((visiting discarding).convh 1).visit = some discarding ∧ (visiting
      discarding).busWaits 1 discarding = false ∧ (visiting discarding).convState 1 ≠ 2 ∧ discarding.discard = true)
      ∧
    ((visiting checking).live = true ∧ ((visiting checking).convh 1).visit = some checking ∧ (visiting
      checking).busWaits 1 checking = false ∧ (visiting checking).convState 1 ≠ 2 ∧ checking.discard = false ∧
      checking.check = true ∧ ((visiting checking).hbCode 1 checking.range checking.cfg (sint 20 77)).snd.snd =
      false) ∧
    ((visiting almost).live = true ∧ ((visiting almost).convh 1).visit = some almost ∧ (visiting almost).busWaits
      1 almost = false ∧ almost.discard = false ∧ almost.check = false ∧ ptN almost.cfg ≤ almost.kept + 1 ∧ ptExcUse
      almost.cfg = false ∧ (visiting almost).on F.HB_PT_STAT_SETTLE almost.point = false ∧ almost.settling = false ∧
      almost.urgent = none ∧ ((visiting almost).convh ((visiting almost).queueOf 1)).queue.length < 2048) ∧
    (urgentRuns.live = true ∧ (urgentRuns.convh 1).visit = some urgentVisit ∧ urgentRuns.busWaits 1 urgentVisit =
      false ∧ urgentVisit.discard = false ∧ urgentVisit.check = false ∧ ptN urgentVisit.cfg ≤ urgentVisit.kept + 1 ∧
      ptExcUse urgentVisit.cfg = false ∧ urgentRuns.on F.HB_PT_STAT_SETTLE urgentVisit.point = false ∧
      urgentVisit.settling = false ∧ urgentVisit.urgent = some urgent40 ∧ urgent40.lost = false ∧ urgentRuns.job?
      urgent40.ring urgent40.idx = some (jb 67 [40, 0, 1])) ∧
    ((calibrating (selfCal 3 1)).live = true ∧ ((calibrating (selfCal 3 1)).convh 1).cal = some (selfCal 3 1) ∧
      (selfCal 3 1).runs = true ∧ (selfCal 3 1).step < 15 ∧ ((calibrating (selfCal 3 1)).convh 1).visit = none ∧
      ((calibrating (selfCal 3 1)).convh 1).urgents = [] ∧ (calibrating (selfCal 3 1)).convState 1 ≠ 2 ∧
      State.calAgree (selfCal 3 1).step 1000 2200000 = false ∧ (selfCal 3 1).attempt < 4) ∧
    ((calibrating (selfCal 3 1)).calOne 1 (selfCal 3 1).step 0 = some 0 ∧ State.calAgree (selfCal 3 1).step 0 0 =
      true ∧ -32768 ≤ min 0 0 ∧ max 0 0 < 32767) ∧
    ((calibrating (selfCal 14 4)).live = true ∧ ((calibrating (selfCal 14 4)).convh 1).cal = some (selfCal 14 4) ∧
      (selfCal 14 4).runs = true ∧ (selfCal 14 4).step < 15 ∧ ((calibrating (selfCal 14 4)).convh 1).visit = none ∧
      ((calibrating (selfCal 14 4)).convh 1).urgents = [] ∧ (calibrating (selfCal 14 4)).convState 1 ≠ 2 ∧
      State.calAgree (selfCal 14 4).step 1000 2200000 = false ∧ 4 ≤ (selfCal 14 4).attempt) ∧
    ((hat 2).live = true ∧ (hat 2).convState 1 = 2) ∧
    (1 < 8 ∧ 1 ≠ 7) ∧
    ((((hat 1).on F.HB_EXC_CFG_EN 7 = true ∧ 50 * ((1000 : Int) - ((hat 1).r F.HB_EXC_CFG_MV 7 : Nat)).natAbs ≤
      (hat 1).r F.HB_EXC_CFG_MV 7 ∧ true = false ∨ (hat 1).on F.HB_EXC_CFG_EN 7 = false ∨ 1 + 100000 ≤ (hat
      1).now))) ∧
    (excited.live = true ∧ excited.excOk 7 = true ∧ (¬(excited.on F.HB_EXC_CFG_EN 7 = true ∧ 50 * ((1000 : Int) -
      (excited.r F.HB_EXC_CFG_MV 7 : Nat)).natAbs ≤ excited.r F.HB_EXC_CFG_MV 7 ∧ true = false))) ∧
    (((hat 1).convh 1).queue = []) ∧
    (filled.live = true ∧ (filled.convh 1).queue = [entryA, 9]) := by
  and_intros <;> first | exact only_visit | decide +kernel

def bytesAt (a : Nat) (l : List Nat) (s : State) : State := { s with hostMem := s.hostMem.writeBytes a l }
def goodWord : Nat := 2 + 8 + 16 + 7 * 128 + 2 * 1024 + 3 * 16384 + 0x40000 + 0x400000 + 5 * 0x80000
def ptJob : Job := jb 0x40 ([0, 0, 253, 3, 3, 0, 0, 0] ++ leBytes 4 goodWord)
def listJob : Job := job2 0x40 6 0x1000 0 0 [1, 1, 3, 0]
def trigJob : Job := jb 0x40 ([2, 1, 3, 7, 23, 9, 0, 0] ++ leBytes 4 1000000 ++ [4, 1])
def modeJob : Job := jb 0x40 [3, 2]
def selJob : Job := jb 0x40 [4]
def listHost (st : Nat) : State := bytesAt 0x1000 [40, 0, 63, 0, 80, 0] (hat st)
def hatStart (keep : Nat) : Job := jb 0x41 [2, keep]
def startable (st : Nat) : State := conv { queue := [1, 2] } ((hat st).w F.HB_SCAN_CFG_TRIG 1 2)
def hatStop : Job := jb 0x42 [2]
def hatUrgent : Job := jb 0x43 [40, 0, 1]
def hatSelfcal (m : Nat) : Job := jb 0x44 [m]
def hatNone (op : Nat) : Job := jb op [0, 9]
def hatExcite (sel : Nat) : Job := jb 0x45 [0x86, sel, 1, 0, 0xE8, 3, 9]

theorem witness_HatbandCommands :
    ((wj ptJob (hat 0)).bistHolds ptJob = false ∧ (wj ptJob (hat 0)).started? 64 5 7 = some ptJob ∧ ptJob.p 0 1 =
      0 ∧ (ptJob.len0 = 0 ∧ ptJob.addr0 = 0) ∧ ptJob.pz 1 1 = true ∧ ptJob.pz 6 2 = true ∧ ptJob.pz 12 20 = true ∧ 1
      ≤ ptJob.p 4 2 ∧ ptJob.p 2 2 + ptJob.p 4 2 ≤ 1024 ∧ ptOk (ptJob.p 8 4) = true ∧ (((wj ptJob (hat 0)).hbRuns =
      false ∨ ((wj ptJob (hat 0)).each (span (ptJob.p 2 2) (ptJob.p 4 2)) fun s p => s.setPoint (ptJob.p 8 4)
      p).modeOk (wj ptJob (hat 0)).hbMode = true)) ∧ ptJob.p 2 2 ≤ 1021 ∧ 1021 < ptJob.p 2 2 + ptJob.p 4 2) ∧
    (((1 < ptJob.p 2 2 ∨ ptJob.p 2 2 + ptJob.p 4 2 ≤ 1))) ∧
    ((wj listJob (listHost 0)).bistHolds listJob = false ∧ (wj listJob (listHost 0)).started? 64 5 7 = some
      listJob ∧ listJob.p 0 1 = 1 ∧ (wj listJob (listHost 0)).canIssue = true ∧ listJob.p 1 1 ≤ 1 ∧ 1 ≤ listJob.p 2
      2 ∧ listJob.p 2 2 ≤ 256 ∧ listJob.pz 4 28 = true ∧ listJob.len0 = 2 * listJob.p 2 2 ∧ listJob.addr0 % 2 = 0 ∧
      (∀ (k : Nat), k < listJob.p 2 2 → (fun k => (wj listJob (listHost 0)).hostMem.readLE (listJob.addr0 + 2 * k)
      2) k < 1024 ∧ reaches (listJob.p 1 1) ((fun k => (wj listJob (listHost 0)).hostMem.readLE (listJob.addr0 + 2 *
      k) 2) k) = true ∧ (wj listJob (listHost 0)).convState (listJob.p 1 1) = 0 ∧ 1 < listJob.p 2 2)) ∧
    ((wj listJob (listHost 1)).bistHolds listJob = false ∧ (wj listJob (listHost 1)).started? 64 5 7 = some
      listJob ∧ ((listJob.p 0 1 = 0 ∧ ((listJob.len0 = 0 ∧ listJob.addr0 = 0) ∧ listJob.pz 1 1 = true ∧ listJob.pz 6
      2 = true ∧ listJob.pz 12 20 = true ∧ 1 ≤ listJob.p 4 2 ∧ listJob.p 2 2 + listJob.p 4 2 ≤ 1024 ∧ ptOk
      (listJob.p 8 4) = true) ∧ (wj listJob (listHost 1)).hbRuns = true ∧ ((wj listJob (listHost 1)).each (span
      (listJob.p 2 2) (listJob.p 4 2)) fun s p => s.setPoint (listJob.p 8 4) p).modeOk (wj listJob (listHost
      1)).hbMode = false ∨ listJob.p 0 1 = 1 ∧ (wj listJob (listHost 1)).canIssue = true ∧ (listJob.p 1 1 ≤ 1 ∧ 1 ≤
      listJob.p 2 2 ∧ listJob.p 2 2 ≤ 256 ∧ listJob.pz 4 28 = true ∧ listJob.len0 = 2 * listJob.p 2 2 ∧
      listJob.addr0 % 2 = 0 ∧ ∀ (k : Nat), k < listJob.p 2 2 → (fun k => (wj listJob (listHost 1)).hostMem.readLE
      (listJob.addr0 + 2 * k) 2) k < 1024 ∧ reaches (listJob.p 1 1) ((fun k => (wj listJob (listHost
      1)).hostMem.readLE (listJob.addr0 + 2 * k) 2) k) = true) ∧ (wj listJob (listHost 1)).convState (listJob.p 1 1)
      ≠ 0 ∨ listJob.p 0 1 = 2 ∧ ((listJob.len0 = 0 ∧ listJob.addr0 = 0) ∧ listJob.p 1 1 ≤ 1 ∧ listJob.p 2 1 ≤ 3 ∧
      listJob.p 3 1 < 8 ∧ 2 ≤ listJob.p 3 1 ∧ listJob.p 4 1 ≤ 23 ∧ 1 ≤ listJob.p 5 1 ∧ listJob.pz 6 2 = true ∧ 1 ≤
      listJob.p 8 4 ∧ listJob.p 8 4 ≤ 1000000 ∧ listJob.pz 14 18 = true) ∧ (wj listJob (listHost 1)).convState
      (listJob.p 1 1) ≠ 0 ∨ listJob.p 0 1 = 3 ∧ ((listJob.len0 = 0 ∧ listJob.addr0 = 0) ∧ listJob.p 1 1 ≤ 2 ∧
      listJob.pz 2 30 = true) ∧ (wj listJob (listHost 1)).hbRuns = true))) ∧
    ((wj listJob (unasked (listHost 0))).bistHolds listJob = false ∧ (wj listJob (unasked (listHost 0))).started?
      64 5 7 = some listJob ∧ (wj listJob (unasked (listHost 0))).canIssue = false) ∧
    ((wj trigJob (hat 0)).bistHolds trigJob = false ∧ (wj trigJob (hat 0)).started? 64 5 7 = some trigJob ∧
      trigJob.p 0 1 = 2 ∧ (trigJob.len0 = 0 ∧ trigJob.addr0 = 0) ∧ trigJob.p 1 1 ≤ 1 ∧ trigJob.p 2 1 ≤ 3 ∧ trigJob.p
      3 1 < 8 ∧ 2 ≤ trigJob.p 3 1 ∧ trigJob.p 4 1 ≤ 23 ∧ 1 ≤ trigJob.p 5 1 ∧ trigJob.pz 6 2 = true ∧ 1 ≤ trigJob.p 8
      4 ∧ trigJob.p 8 4 ≤ 1000000 ∧ trigJob.pz 14 18 = true ∧ (wj trigJob (hat 0)).convState (trigJob.p 1 1) = 0) ∧
    ((wj modeJob (hat 0)).bistHolds modeJob = false ∧ (wj modeJob (hat 0)).started? 64 5 7 = some modeJob ∧
      modeJob.p 0 1 = 3 ∧ (modeJob.len0 = 0 ∧ modeJob.addr0 = 0) ∧ modeJob.p 1 1 ≤ 2 ∧ modeJob.pz 2 30 = true ∧ (wj
      modeJob (hat 0)).hbRuns = false) ∧
    ((wj selJob (hat 0)).bistHolds selJob = false ∧ (wj selJob (hat 0)).started? 64 5 7 = some selJob ∧ ((selJob.p
      0 1 = 0 ∧ ¬((selJob.len0 = 0 ∧ selJob.addr0 = 0) ∧ selJob.pz 1 1 = true ∧ selJob.pz 6 2 = true ∧ selJob.pz 12
      20 = true ∧ 1 ≤ selJob.p 4 2 ∧ selJob.p 2 2 + selJob.p 4 2 ≤ 1024 ∧ ptOk (selJob.p 8 4) = true) ∨ selJob.p 0 1
      = 1 ∧ (wj selJob (hat 0)).canIssue = true ∧ ¬(selJob.p 1 1 ≤ 1 ∧ 1 ≤ selJob.p 2 2 ∧ selJob.p 2 2 ≤ 256 ∧
      selJob.pz 4 28 = true ∧ selJob.len0 = 2 * selJob.p 2 2 ∧ selJob.addr0 % 2 = 0 ∧ ∀ (k : Nat), k < selJob.p 2 2
      → (fun k => (wj selJob (hat 0)).hostMem.readLE (selJob.addr0 + 2 * k) 2) k < 1024 ∧ reaches (selJob.p 1 1)
      ((fun k => (wj selJob (hat 0)).hostMem.readLE (selJob.addr0 + 2 * k) 2) k) = true) ∨ selJob.p 0 1 = 2 ∧
      ¬((selJob.len0 = 0 ∧ selJob.addr0 = 0) ∧ selJob.p 1 1 ≤ 1 ∧ selJob.p 2 1 ≤ 3 ∧ selJob.p 3 1 < 8 ∧ 2 ≤ selJob.p
      3 1 ∧ selJob.p 4 1 ≤ 23 ∧ 1 ≤ selJob.p 5 1 ∧ selJob.pz 6 2 = true ∧ 1 ≤ selJob.p 8 4 ∧ selJob.p 8 4 ≤ 1000000
      ∧ selJob.pz 14 18 = true) ∨ selJob.p 0 1 = 3 ∧ ¬((selJob.len0 = 0 ∧ selJob.addr0 = 0) ∧ selJob.p 1 1 ≤ 2 ∧
      selJob.pz 2 30 = true) ∨ 4 ≤ selJob.p 0 1))) ∧
    ((wj (hatNone 65) (hat 0)).bistHolds (hatNone 65) = false ∧ (wj (hatNone 65) (hat 0)).started? 65 5 7 = some
      (hatNone 65) ∧ (¬(1 ≤ (hatNone 65).p 0 1 ∧ (hatNone 65).p 0 1 ≤ 3 ∧ (hatNone 65).p 1 1 ≤ 1 ∧ (hatNone 65).pz 2
      30 = true ∧ (State.maskConvs ((hatNone 65).p 0 1)).all ((wj (hatNone 65) (hat 0)).listOk (if (wj (hatNone 65)
      (hat 0)).convState 0 = 0 ∧ (wj (hatNone 65) (hat 0)).convState 1 = 0 then (wj (hatNone 65) (hat 0)).r
      F.HB_CFG_MODE else (wj (hatNone 65) (hat 0)).hbMode)) = true ∧ (wj (hatNone 65) (hat 0)).modeOk (if (wj
      (hatNone 65) (hat 0)).convState 0 = 0 ∧ (wj (hatNone 65) (hat 0)).convState 1 = 0 then (wj (hatNone 65) (hat
      0)).r F.HB_CFG_MODE else (wj (hatNone 65) (hat 0)).hbMode) = true ∧ ((if (wj (hatNone 65) (hat 0)).convState 0
      = 0 ∧ (wj (hatNone 65) (hat 0)).convState 1 = 0 then (wj (hatNone 65) (hat 0)).r F.HB_CFG_MODE else (wj
      (hatNone 65) (hat 0)).hbMode) ≠ 0 → (hatNone 65).p 0 1 = 3)))) ∧
    ((wj (hatStart 0) (startable 0)).bistHolds (hatStart 0) = false ∧ (wj (hatStart 0) (startable 0)).started? 65
      5 7 = some (hatStart 0) ∧ 1 ≤ (hatStart 0).p 0 1 ∧ (hatStart 0).p 0 1 ≤ 3 ∧ (hatStart 0).p 1 1 ≤ 1 ∧ (hatStart
      0).pz 2 30 = true ∧ (State.maskConvs ((hatStart 0).p 0 1)).all ((wj (hatStart 0) (startable 0)).listOk (if (wj
      (hatStart 0) (startable 0)).convState 0 = 0 ∧ (wj (hatStart 0) (startable 0)).convState 1 = 0 then (wj
      (hatStart 0) (startable 0)).r F.HB_CFG_MODE else (wj (hatStart 0) (startable 0)).hbMode)) = true ∧ (wj
      (hatStart 0) (startable 0)).modeOk (if (wj (hatStart 0) (startable 0)).convState 0 = 0 ∧ (wj (hatStart 0)
      (startable 0)).convState 1 = 0 then (wj (hatStart 0) (startable 0)).r F.HB_CFG_MODE else (wj (hatStart 0)
      (startable 0)).hbMode) = true ∧ (((if (wj (hatStart 0) (startable 0)).convState 0 = 0 ∧ (wj (hatStart 0)
      (startable 0)).convState 1 = 0 then (wj (hatStart 0) (startable 0)).r F.HB_CFG_MODE else (wj (hatStart 0)
      (startable 0)).hbMode) ≠ 0 → (hatStart 0).p 0 1 = 3)) ∧ ((∀ (c : Nat), c ∈ State.maskConvs ((hatStart 0).p 0
      1) → (wj (hatStart 0) (startable 0)).convState c ≠ 2))) ∧
    (1 ∈ State.maskConvs ((hatStart 0).p 0 1) ∧ (wj (hatStart 0) (startable 0)).convState 1 = 0) ∧
    (0 < 2 ∧ (¬0 ∈ State.maskConvs ((hatStart 0).p 0 1))) ∧
    (1 < 2 ∧ (hatStart 0).p 0 1 = 2 ^ 1 ∧ (if (wj (hatStart 0) (startable 0)).convState 0 = 0 ∧ (wj (hatStart 0)
      (startable 0)).convState 1 = 0 then (wj (hatStart 0) (startable 0)).r F.HB_CFG_MODE else (wj (hatStart 0)
      (startable 0)).hbMode) = 0 ∧ (((wj (hatStart 0) (startable 0)).r F.HB_SCAN_CFG_TRIG 1 = 2 ∨ (wj (hatStart 0)
      (startable 0)).r F.HB_SCAN_CFG_TRIG 1 = 3)) ∧ (hatStart 0).p 1 1 = 0) ∧
    ((wj (hatStart 1) (startable 0)).bistHolds (hatStart 1) = false ∧ (wj (hatStart 1) (startable 0)).started? 65
      5 7 = some (hatStart 1) ∧ (hatStart 1).p 0 1 = 2 ^ 1 ∧ 1 ≤ (hatStart 1).p 0 1 ∧ (hatStart 1).p 0 1 ≤ 3 ∧
      (hatStart 1).p 1 1 ≤ 1 ∧ (hatStart 1).pz 2 30 = true ∧ (State.maskConvs ((hatStart 1).p 0 1)).all ((wj
      (hatStart 1) (startable 0)).listOk (if (wj (hatStart 1) (startable 0)).convState 0 = 0 ∧ (wj (hatStart 1)
      (startable 0)).convState 1 = 0 then (wj (hatStart 1) (startable 0)).r F.HB_CFG_MODE else (wj (hatStart 1)
      (startable 0)).hbMode)) = true ∧ (wj (hatStart 1) (startable 0)).modeOk (if (wj (hatStart 1) (startable
      0)).convState 0 = 0 ∧ (wj (hatStart 1) (startable 0)).convState 1 = 0 then (wj (hatStart 1) (startable 0)).r
      F.HB_CFG_MODE else (wj (hatStart 1) (startable 0)).hbMode) = true ∧ (((if (wj (hatStart 1) (startable
      0)).convState 0 = 0 ∧ (wj (hatStart 1) (startable 0)).convState 1 = 0 then (wj (hatStart 1) (startable 0)).r
      F.HB_CFG_MODE else (wj (hatStart 1) (startable 0)).hbMode) ≠ 0 → (hatStart 1).p 0 1 = 3)) ∧ (if (wj (hatStart
      1) (startable 0)).convState 0 = 0 ∧ (wj (hatStart 1) (startable 0)).convState 1 = 0 then (wj (hatStart 1)
      (startable 0)).r F.HB_CFG_MODE else (wj (hatStart 1) (startable 0)).hbMode) = 0 ∧ (wj (hatStart 1) (startable
      0)).convState 1 = 0 ∧ (((wj (hatStart 1) (startable 0)).r F.HB_SCAN_CFG_TRIG 1 = 2 ∨ (wj (hatStart 1)
      (startable 0)).r F.HB_SCAN_CFG_TRIG 1 = 3)) ∧ (hatStart 1).p 1 1 = 1) ∧
    ((wj (hatStart 1) (startable 1)).bistHolds (hatStart 1) = false ∧ (wj (hatStart 1) (startable 1)).started? 65
      5 7 = some (hatStart 1) ∧ (State.maskConvs ((hatStart 1).p 0 1)).all ((wj (hatStart 1) (startable 1)).listOk
      (if (wj (hatStart 1) (startable 1)).convState 0 = 0 ∧ (wj (hatStart 1) (startable 1)).convState 1 = 0 then (wj
      (hatStart 1) (startable 1)).r F.HB_CFG_MODE else (wj (hatStart 1) (startable 1)).hbMode)) = true ∧ (wj
      (hatStart 1) (startable 1)).modeOk (if (wj (hatStart 1) (startable 1)).convState 0 = 0 ∧ (wj (hatStart 1)
      (startable 1)).convState 1 = 0 then (wj (hatStart 1) (startable 1)).r F.HB_CFG_MODE else (wj (hatStart 1)
      (startable 1)).hbMode) = true ∧ (((if (wj (hatStart 1) (startable 1)).convState 0 = 0 ∧ (wj (hatStart 1)
      (startable 1)).convState 1 = 0 then (wj (hatStart 1) (startable 1)).r F.HB_CFG_MODE else (wj (hatStart 1)
      (startable 1)).hbMode) ≠ 0 → (hatStart 1).p 0 1 = 3)) ∧ 1 ∈ State.maskConvs ((hatStart 1).p 0 1) ∧ (wj
      (hatStart 1) (startable 1)).convState 1 = 1) ∧
    ((wj (hatStart 1) (startable 2)).bistHolds (hatStart 1) = false ∧ (wj (hatStart 1) (startable 2)).started? 65
      5 7 = some (hatStart 1) ∧ (State.maskConvs ((hatStart 1).p 0 1)).all ((wj (hatStart 1) (startable 2)).listOk
      (if (wj (hatStart 1) (startable 2)).convState 0 = 0 ∧ (wj (hatStart 1) (startable 2)).convState 1 = 0 then (wj
      (hatStart 1) (startable 2)).r F.HB_CFG_MODE else (wj (hatStart 1) (startable 2)).hbMode)) = true ∧ (wj
      (hatStart 1) (startable 2)).modeOk (if (wj (hatStart 1) (startable 2)).convState 0 = 0 ∧ (wj (hatStart 1)
      (startable 2)).convState 1 = 0 then (wj (hatStart 1) (startable 2)).r F.HB_CFG_MODE else (wj (hatStart 1)
      (startable 2)).hbMode) = true ∧ (((if (wj (hatStart 1) (startable 2)).convState 0 = 0 ∧ (wj (hatStart 1)
      (startable 2)).convState 1 = 0 then (wj (hatStart 1) (startable 2)).r F.HB_CFG_MODE else (wj (hatStart 1)
      (startable 2)).hbMode) ≠ 0 → (hatStart 1).p 0 1 = 3)) ∧ (wj (hatStart 1) (startable 2)).convState 1 = 2) ∧
    ((if (wj (hatStart 1) (startable 2)).convState 0 = 0 ∧ (wj (hatStart 1) (startable 2)).convState 1 = 0 then
      (wj (hatStart 1) (startable 2)).r F.HB_CFG_MODE else (wj (hatStart 1) (startable 2)).hbMode) = 0) ∧
    ((wj (hatNone 66) (hat 0)).bistHolds (hatNone 66) = false ∧ (wj (hatNone 66) (hat 0)).started? 66 5 7 = some
      (hatNone 66) ∧ (¬(1 ≤ (hatNone 66).p 0 1 ∧ (hatNone 66).p 0 1 ≤ 3 ∧ (hatNone 66).pz 1 31 = true))) ∧
    ((wj (hatNone 67) (hat 0)).bistHolds (hatNone 67) = false ∧ (wj (hatNone 67) (hat 0)).started? 67 5 7 = some
      (hatNone 67) ∧ (¬((hatNone 67).p 0 2 < 1024 ∧ (hatNone 67).p 2 1 ≤ 1 ∧ (hatNone 67).p 3 1 ≤ 1 ∧ (hatNone
      67).pz 4 28 = true ∧ reaches ((hatNone 67).p 2 1) ((hatNone 67).p 0 2) = true))) ∧
    ((wj hatStop (hat 2)).bistHolds hatStop = false ∧ (wj hatStop (hat 2)).started? 66 5 7 = some hatStop ∧ 1 ≤
      hatStop.p 0 1 ∧ hatStop.p 0 1 ≤ 3 ∧ hatStop.pz 1 31 = true ∧ List.map Wait.conv (List.filter (fun c => (wj
      hatStop (hat 2)).convState c != 0) (State.maskConvs (if (wj hatStop (hat 2)).hbMode = 0 then hatStop.p 0 1
      else 3))) ≠ []) ∧
    (1 ∈ State.maskConvs (if (wj hatStop (hat 2)).hbMode = 0 then hatStop.p 0 1 else 3) ∧ (wj hatStop (hat
      2)).convState 1 = 2) ∧
    ((¬0 ∈ State.maskConvs (if (wj hatStop (hat 2)).hbMode = 0 then hatStop.p 0 1 else 3))) ∧
    ((wj hatStop (hat 1)).bistHolds hatStop = false ∧ (wj hatStop (hat 1)).started? 66 5 7 = some hatStop ∧ 1 ∈
      State.maskConvs (if (wj hatStop (hat 1)).hbMode = 0 then hatStop.p 0 1 else 3) ∧ (wj hatStop (hat
      1)).convState 1 = 1) ∧
    ((wj hatStop (hat 0)).bistHolds hatStop = false ∧ (wj hatStop (hat 0)).started? 66 5 7 = some hatStop ∧
      List.map Wait.conv (List.filter (fun c => (wj hatStop (hat 0)).convState c != 0) (State.maskConvs (if (wj
      hatStop (hat 0)).hbMode = 0 then hatStop.p 0 1 else 3))) = []) ∧
    (1 ∈ State.maskConvs (if (wj hatStop (hat 0)).hbMode = 0 then hatStop.p 0 1 else 3) ∧ (wj hatStop (hat
      0)).convState 1 = 0) ∧
    ((wj hatUrgent (hat 0)).bistHolds hatUrgent = false ∧ (wj hatUrgent (hat 0)).started? 67 5 7 = some hatUrgent
      ∧ hatUrgent.p 0 2 < 1024 ∧ hatUrgent.p 2 1 ≤ 1 ∧ hatUrgent.p 3 1 ≤ 1 ∧ hatUrgent.pz 4 28 = true ∧ reaches
      (hatUrgent.p 2 1) (hatUrgent.p 0 2) = true ∧ ((wj hatUrgent (hat 0)).convh (hatUrgent.p 2 1)).visit = none ∧
      ((wj hatUrgent (hat 0)).convh (hatUrgent.p 2 1)).cal = none ∧ ((wj hatUrgent (hat 0)).convh (hatUrgent.p 2
      1)).urgents = [] ∧ (wj hatUrgent (hat 0)).convState (hatUrgent.p 2 1) ≠ 2 ∧ (wj hatUrgent (hat 0)).meetsVisit
      (hatUrgent.p 2 1) = false) ∧
    ((wj hatUrgent (visiting visit0)).bistHolds hatUrgent = false ∧ (wj hatUrgent (visiting visit0)).started? 67 5
      7 = some hatUrgent ∧ (wj hatUrgent (visiting visit0)).dev = DevState.run ∧ ((wj hatUrgent (visiting
      visit0)).convh (hatUrgent.p 2 1)).cal = none ∧ (wj hatUrgent (visiting visit0)).convState (hatUrgent.p 2 1) ≠
      2 ∧ ((wj hatUrgent (visiting visit0)).convh (hatUrgent.p 2 1)).visit ≠ none) ∧
    ((wj (hatSelfcal 2) (hat 1)).bistHolds (hatSelfcal 2) = false ∧ (wj (hatSelfcal 2) (hat 1)).started? 68 5 7 =
      some (hatSelfcal 2) ∧ 1 ≤ (hatSelfcal 2).p 0 1 ∧ (hatSelfcal 2).p 0 1 ≤ 3 ∧ (hatSelfcal 2).pz 1 31 = true ∧ 1
      ∈ State.maskConvs ((hatSelfcal 2).p 0 1) ∧ ((wj (hatSelfcal 2) (hat 1)).convh 1).cal = none) ∧
    ((wj (hatSelfcal 4) (hat 1)).bistHolds (hatSelfcal 4) = false ∧ (wj (hatSelfcal 4) (hat 1)).started? 68 5 7 =
      some (hatSelfcal 4) ∧ (((hatSelfcal 4).p 0 1 = 0 ∨ 3 < (hatSelfcal 4).p 0 1 ∨ (hatSelfcal 4).pz 1 31 =
      false))) ∧
    ((wj (hatExcite 7) (hat 1)).bistHolds (hatExcite 7) = false ∧ (wj (hatExcite 7) (hat 1)).started? 69 5 7 =
      some (hatExcite 7) ∧ State.exciteOk (hatExcite 7) = true ∧ 1 < 8 ∧ bitAt ((hatExcite 7).p 0 1) 1 = true ∧
      bitAt ((hatExcite 7).p 1 1) 0 = true) ∧
    (bitAt ((hatExcite 7).p 1 1) 1 = true) ∧
    (bitAt ((hatExcite 7).p 1 1) 2 = true) ∧
    ((wj (hatExcite 8) (hat 1)).bistHolds (hatExcite 8) = false ∧ (wj (hatExcite 8) (hat 1)).started? 69 5 7 =
      some (hatExcite 8) ∧ State.exciteOk (hatExcite 8) = false) := by
  and_intros <;> decide +kernel

/-! ### Outputs -/

def slewing (out : Nat) : State :=
  (put (dv 4) [(F.HK_DAC_STAT_SLEWING, 47, 1), (F.HK_DAC_STAT_OUT, 47, out), (F.HK_DAC_TARGET_TARGET, 47, 130),
    (F.HK_DAC_CFG_STEP, 47, 20), (F.HK_DAC_CFG_CLEAR, 47, 77)]).setDac 47 { clampTo := 2 }
def clamping : State := (slewing 100).w F.HK_DAC_STAT_CLAMP 47 1
def pinned : State := put (slewing 77) ((F.HK_STAT_CLR_PIN, 0, 1) :: (List.range 48).map fun c => (F.HK_DAC_STAT_FORCE_CLR, c, 1))
def pwm (st : Nat) : State := put (dv 4) [(F.HK_PWM_STAT_STATE, 23, st), (F.HK_PWM_CFG_PERIOD, 23, 100), (F.HK_PWM_CFG_HIGH, 23, 30)]
def activePwm : State := (pwm 1).setPwm 23 { period := 100, high := 30 }

def dacSet (last sel : Nat) : Job := jb 0x48 [46, 0, 2, 0, sel, last, 9, 0, 8, 0, 33, 0, 0, 0, 0, 0, 1, 1, 2, 2]
def dacRange (r : Nat) : Job := jb 0x49 [47, 0, 1, 0, r, 1, 9, 0]
def pwmSet (sel hi : Nat) : Job := jb 0x4A [23, 0, 1, 0, sel, 3, hi, 0, 100, 0, 30, 0]
def pwmStop : Job := jb 0x4A [23, 0, 1, 0, 8, 0]

theorem witness_OutputEvents :
    ((slewing 100).live = true ∧ (slewing 100).on F.HK_DAC_STAT_SLEWING 47 = true ∧ (slewing 100).r
      F.HK_DAC_STAT_OUT 47 < 65536 ∧ (slewing 100).r F.HK_DAC_TARGET_TARGET 47 < 65536) ∧
    ((slewing 100).dacClamped 47 = false) ∧
    (((slewing 100).w F.HK_DAC_STAT_SLEWING 47 0).live = true ∧ ((slewing 100).w F.HK_DAC_STAT_SLEWING 47 0).on
      F.HK_DAC_STAT_SLEWING 47 = false) ∧
    (clamping.live = true ∧ clamping.dacClamped 47 = true ∧ (clamping.dach 47).clampTo < 4 ∧ ((clamping.dacForced
      47 = true ∨ clamping.dacHeld 47 = true))) ∧
    ((clamping.w F.HK_DAC_STAT_HELD 47 0).live = true ∧ (clamping.w F.HK_DAC_STAT_HELD 47 0).dacClamped 47 = true
      ∧ ((clamping.w F.HK_DAC_STAT_HELD 47 0).dach 47).clampTo < 4 ∧ (clamping.w F.HK_DAC_STAT_HELD 47 0).dacForced
      47 = false ∧ (clamping.w F.HK_DAC_STAT_HELD 47 0).dacHeld 47 = false) ∧
    ((slewing 100).on F.HK_STAT_CLR_PIN = false ∧ 47 < 48 ∧ (slewing 100).dacForced 47 = false) ∧
    (pinned.live = true ∧ pinned.on F.HK_STAT_CLR_PIN = true) ∧
    ((((slewing 100).r F.HK_PWM_STAT_STATE 23 = 0 ∨ (slewing 100).r F.HK_PWM_STAT_STATE 23 = 1 ∧ (slewing
      100).pwmForced 23 = true))) ∧
    ((((slewing 100).r F.HK_PWM_STAT_STATE 23 = 0 ∨ (slewing 100).pwmForced 23 = true ∨ ((slewing 100).pwmh
      23).high = 0 ∨ ((slewing 100).pwmh 23).period ≤ ((slewing 100).pwmh 23).high))) ∧
    ((pwm 1).live = true ∧ (pwm 1).r F.HK_PWM_STAT_STATE 23 = 1 ∧ (pwm 1).pwmForced 23 = false) ∧
    ((pwm 2).live = true ∧ (pwm 2).r F.HK_PWM_STAT_STATE 23 = 2) ∧
    (activePwm.live = true ∧ activePwm.r F.HK_PWM_STAT_STATE 23 ≠ 0 ∧ activePwm.pwmForced 23 = false ∧ 0 <
      (activePwm.pwmh 23).high ∧ (activePwm.pwmh 23).high < (activePwm.pwmh 23).period ∧ activePwm.r
      F.HK_PWM_STAT_PIN 23 ≤ 1 ∧ activePwm.r F.HK_PWM_CFG_POL 23 ≤ 1) := by
  and_intros <;> decide +kernel

theorem witness_OutputCommands :
    ((wj (dacSet 7 15) (slewing 100)).bistHolds (dacSet 7 15) = false ∧ (wj (dacSet 7 15) (slewing 100)).started?
      72 5 7 = some (dacSet 7 15) ∧ State.dacSetOk (dacSet 7 15) = true ∧ 47 ∈ (dacSet 7 15).items ∧ bitAt ((dacSet
      7 15).p 4 1) 0 = true) ∧
    (bitAt ((dacSet 7 15).p 4 1) 1 = true) ∧
    (bitAt ((dacSet 7 15).p 4 1) 2 = true) ∧
    (bitAt ((dacSet 7 15).p 4 1) 3 = true) ∧
    ((wj (dacSet 0 3) pinned).bistHolds (dacSet 0 3) = false ∧ (wj (dacSet 0 3) pinned).started? 72 5 7 = some
      (dacSet 0 3) ∧ State.dacSetOk (dacSet 0 3) = true ∧ 47 ∈ (dacSet 0 3).items ∧ bitAt ((dacSet 0 3).p 4 1) 3 =
      false ∧ bitAt ((dacSet 0 3).p 4 1) 2 = false) ∧
    ((wj (dacSet 0 16) pinned).bistHolds (dacSet 0 16) = false ∧ (wj (dacSet 0 16) pinned).started? 72 5 7 = some
      (dacSet 0 16) ∧ State.dacSetOk (dacSet 0 16) = false) ∧
    ((wj (dacRange 1) (slewing 100)).bistHolds (dacRange 1) = false ∧ (wj (dacRange 1) (slewing 100)).started? 73
      5 7 = some (dacRange 1) ∧ (dacRange 1).spanOk 48 = true ∧ (dacRange 1).p 4 1 ≤ 2 ∧ (dacRange 1).p 5 1 ≤ 1 ∧
      (dacRange 1).pz 8 24 = true ∧ 47 ∈ (dacRange 1).items ∧ (wj (dacRange 1) (slewing 100)).dacForced 47 = false ∧
      (((wj (dacRange 1) (slewing 100)).dacClamped 47 = true ∨ (wj (dacRange 1) (slewing 100)).r F.HK_DAC_STAT_RANGE
      47 ≠ (dacRange 1).p 4 1))) ∧
    ((dacRange 1).items = [47] ∧ (wj (dacRange 1) (slewing 100)).dacClamped 47 = false ∧ (wj (dacRange 1) (slewing
      100)).r F.HK_DAC_STAT_RANGE 47 ≠ (dacRange 1).p 4 1) ∧
    ((wj (dacRange 1) pinned).bistHolds (dacRange 1) = false ∧ (wj (dacRange 1) pinned).started? 73 5 7 = some
      (dacRange 1) ∧ (wj (dacRange 1) pinned).dacForced 47 = true) ∧
    ((wj (dacRange 1) ((slewing 100).w F.HK_DAC_STAT_RANGE 47 1)).bistHolds (dacRange 1) = false ∧ (wj (dacRange
      1) ((slewing 100).w F.HK_DAC_STAT_RANGE 47 1)).started? 73 5 7 = some (dacRange 1) ∧ (wj (dacRange 1)
      ((slewing 100).w F.HK_DAC_STAT_RANGE 47 1)).dacForced 47 = false ∧ (wj (dacRange 1) ((slewing 100).w
      F.HK_DAC_STAT_RANGE 47 1)).dacClamped 47 = false ∧ (wj (dacRange 1) ((slewing 100).w F.HK_DAC_STAT_RANGE 47
      1)).r F.HK_DAC_STAT_RANGE 47 = (dacRange 1).p 4 1) ∧
    ((wj (dacRange 1) ((slewing 100).w F.HK_DAC_STAT_RANGE 47 1)).on F.HK_DAC_STAT_RANGE_PENDING 47 = false) ∧
    ((wj (dacRange 3) (slewing 100)).bistHolds (dacRange 3) = false ∧ (wj (dacRange 3) (slewing 100)).started? 73
      5 7 = some (dacRange 3) ∧ (¬((dacRange 3).spanOk 48 = true ∧ (dacRange 3).p 4 1 ≤ 2 ∧ (dacRange 3).p 5 1 ≤ 1 ∧
      (dacRange 3).pz 8 24 = true))) ∧
    ((wj (pwmSet 11 2) (pwm 0)).bistHolds (pwmSet 11 2) = false ∧ (wj (pwmSet 11 2) (pwm 0)).started? 74 5 7 =
      some (pwmSet 11 2) ∧ State.pwmSetOk (pwmSet 11 2) = true ∧ (pwmSet 11 2).items.any ((wj (pwmSet 11 2) (pwm
      0)).polClash (pwmSet 11 2)) = false ∧ 23 ∈ (pwmSet 11 2).items ∧ (fun k => bitAt ((pwmSet 11 2).p 4 1) k) 0 =
      true) ∧
    ((fun k => bitAt ((pwmSet 11 2).p 4 1) k) 1 = true) ∧
    ((pwmSet 11 2).items = [23] ∧ (wj (pwmSet 11 2) (pwm 0)).polClash (pwmSet 11 2) 23 = false ∧ bitAt ((pwmSet 11
      2).p 4 1) 2 = false ∧ (wj (pwmSet 11 2) (pwm 0)).r F.HK_PWM_STAT_STATE 23 = 0 ∧ (wj (pwmSet 11 2) (pwm 0)).on
      F.HK_PWM_STAT_ENABLE_PENDING 23 = false) ∧
    (bitAt ((pwmSet 11 2).p 4 1) 0 = true) ∧
    (bitAt ((pwmSet 11 2).p 4 1) 1 = true) ∧
    ((wj (pwmSet 11 2) (pwm 1)).bistHolds (pwmSet 11 2) = false ∧ (wj (pwmSet 11 2) (pwm 1)).started? 74 5 7 =
      some (pwmSet 11 2) ∧ (pwmSet 11 2).items.any ((wj (pwmSet 11 2) (pwm 1)).polClash (pwmSet 11 2)) = true) ∧
    ((wj (pwmSet 11 9) (pwm 1)).bistHolds (pwmSet 11 9) = false ∧ (wj (pwmSet 11 9) (pwm 1)).started? 74 5 7 =
      some (pwmSet 11 9) ∧ State.pwmSetOk (pwmSet 11 9) = false) ∧
    ((wj pwmStop (pwm 1)).bistHolds pwmStop = false ∧ (wj pwmStop (pwm 1)).started? 74 5 7 = some pwmStop ∧
      State.pwmSetOk pwmStop = true ∧ pwmStop.items = [23] ∧ (wj pwmStop (pwm 1)).polClash pwmStop 23 = false ∧
      bitAt (pwmStop.p 4 1) 2 = false ∧ (wj pwmStop (pwm 1)).r F.HK_PWM_STAT_STATE 23 = 1 ∧ bitAt (pwmStop.p 4 1) 0
      = false ∧ bitAt (pwmStop.p 4 1) 3 = true ∧ bitAt (pwmStop.p 5 1) 0 = false) ∧
    ((wj pwmStop (pwm 2)).bistHolds pwmStop = false ∧ (wj pwmStop (pwm 2)).started? 74 5 7 = some pwmStop ∧
      pwmStop.items.any ((wj pwmStop (pwm 2)).polClash pwmStop) = false ∧ 23 ∈ pwmStop.items ∧ (wj pwmStop (pwm
      2)).r F.HK_PWM_STAT_STATE 23 = 2 ∧ (fun k => bitAt (pwmStop.p 4 1) k) 3 = true) ∧
    ((wj (pwmSet 15 2) (pwm 0)).bistHolds (pwmSet 15 2) = false ∧ (wj (pwmSet 15 2) (pwm 0)).started? 74 5 7 =
      some (pwmSet 15 2) ∧ State.pwmSetOk (pwmSet 15 2) = true ∧ (pwmSet 15 2).items.any ((wj (pwmSet 15 2) (pwm
      0)).polClash (pwmSet 15 2)) = false ∧ 23 ∈ (pwmSet 15 2).items ∧ (fun k => bitAt ((pwmSet 15 2).p 4 1) k) 2 =
      true) := by
  and_intros <;> decide +kernel

/-! ### Thermal and serial port -/

def coolReading : Reading := ⟨9, 700⟩
def wildReading : Reading := ⟨9, 2500⟩
/-- Conversions of the last three sensors: one past the range, none, and a cool one. -/
def readings : List (Option Reading) := List.replicate 125 none ++ [some wildReading, none, some coolReading]
/-- Zone 29 is past its throttle level, and its shutdown threshold has been reached. -/
def shutting : State :=
  ((dv 4).w F.THM_ZONE_LEVEL 29 2).setZone 29 { has := true, throttle := { on := true }, shut := { on := true } }
def failing : State := ((dv 4).setSensor 126 { noConv := 3 }).w F.THM_SENSOR_FAILED 127 1

def limits (hyst : Nat) : Job :=
  jb 0x50 [255, 0, 0, 32, 0x7F, hyst, 16, 0, 0x40, 6, 0x80, 6, 0x20, 7, 0x40, 0, 0xF0, 0xFF, 20, 0, 50, 0, 100, 0]
def limitsBad : Job :=
  jb 0x50 [255, 0, 0, 32, 0x7F, 8, 16, 3, 0x40, 6, 0x80, 6, 0x20, 7, 0x40, 0, 0xF0, 0xFF, 20, 0, 50, 0, 100, 0]

def order (k : Nat) : Job := jb 0x51 [3, 0, 0, 0, 0, 0, 0, 0, 5, k, 1]
def hotZone : State := put (dv 4) [(F.THM_ZONE_LEVEL, 7, 2), (F.THM_SHED_SLOT, 0, 32)]

def fw (t : Fin 32) (read ddr : Bool) : FwFrame := { tgt := t, read := read, phData := if ddr then 4 else 0 }
def xip : State :=
  put (dv 4) [(F.MSPM_XIP_CFG0_EN, 0, 1), (F.MSPM_XIP_CFG0_XIP_TGT, 0, 16), (F.MSPM_STAT_CONT_ACTIVE, 0, 1),
    (F.MSPM_XIP_CFG0_PREFETCH_EN, 0, 1), (F.MSPM_XIP_CFG0_CONT_EN, 0, 1)]
def withMsp (m : MspH) (s : State) : State := { s with msp := m }
def fill7 : Fill := { line := 7, prefetch := false }
def fill9 : Fill := { line := 9, prefetch := true }
def fill6 : Fill := { line := 6, prefetch := false, reader := true }
def filling (l : List Fill) : State := withMsp { cont := true, fills := l, lines := [(1, []), (7, []), (2, []), (1048575, [])] } xip
/-- A started transfer: flags, length. -/
def xferJob (flags len : Nat) : Job :=
  job2 0x58 0 0 0x1000 64 [1, flags, 1, 0, 0, 0, 0, 4, 0, 0, 0, 0, 0, 0, 0, 0, len, 0, 0, 0,
    if flags ≥ 4 then 3 else 0, if flags ≥ 4 then 1 else 0, if flags ≥ 4 then 5 else 0, 0, if flags ≥ 4 then 9 else 0]
def xfer (flags len frames : Nat) : Xfer := { job := xferJob flags len, frames := frames }
def moving (flags len frames : Nat) : State := wj (xferJob flags len) (withMsp { xfers := [xfer flags len frames] } xip)

def contXip : State := withMsp { cont := true } xip
def single : State := filling [fill9] |>.w F.MSPM_XIP_CFG0_CONT_EN 0 0 |>.setMsp { fills := [fill7], lines := [] }
def lostMoving : State :=
  withMsp { xfers := [{ xfer 5 1 1 with job := { (xferJob 5 1) with ring := 32773, lost := true }, waits := true }] } xip

theorem witness_ThermalTick :
    (failing.powered = true ∧ (failing.thermalSense readings).shutZones failing = [] ∧ 127 < 128 ∧ readings.getD
      127 none = some coolReading) ∧
    (125 < 128 ∧ readings.getD 125 none = some wildReading ∧ failing.sensorFailed 125 = false ∧
      ((wildReading.temp.toInt < -880 ∨ 2400 < wildReading.temp.toInt)) ∧ (((failing.sensorh 125).first = true ∨
      (failing.sensorh 125).same < 63))) ∧
    (126 < 128 ∧ readings.getD 126 none = none ∧ failing.sensorFailed 126 = false ∧ 3 ≤ (failing.sensorh
      126).noConv) ∧
    (failing.sensorFailed 127 = true) ∧
    (0 < 30) ∧
    (failing.dev ≠ DevState.reset) ∧
    ((dv 0).powered = false) ∧
    ((dv 1).powered = true ∧ ((dv 1).thermalSense readings).shutZones (dv 1) = [] ∧ (dv 1).dev = DevState.reset) ∧
    (shutting.powered = true ∧ (shutting.thermalSense readings).shutZones shutting ≠ [] ∧ shutting.sys.thermalHold
      = false ∧ 29 ∈ (shutting.thermalSense readings).shutZones shutting) := by
  and_intros <;> decide +kernel

theorem witness_ThermLimits :
    ((wj (limits 8) (dv 4)).bistHolds (limits 8) = false ∧ (wj (limits 8) (dv 4)).started? 80 5 7 = some (limits
      8) ∧ (wj (limits 8) (dv 4)).limitsOk (limits 8) = true ∧ 29 < 30 ∧ bitAt ((limits 8).p 0 4) 29 = true ∧ bitAt
      ((limits 8).p 4 1) 0 = true) ∧
    (bitAt ((limits 8).p 4 1) 1 = true) ∧
    (bitAt ((limits 8).p 4 1) 2 = true) ∧
    (bitAt ((limits 8).p 4 1) 3 = true) ∧
    (bitAt ((limits 8).p 4 1) 4 = true) ∧
    (F.THM_ZONE_LIM_WARN ∈ [F.THM_ZONE_LIM_WARN, F.THM_ZONE_LIM_THROTTLE, F.THM_ZONE_LIM_SHUTDOWN,
      F.THM_ZONE_LIM_HYST, F.THM_ZONE_LIM_OFFSET] ∧ bitAt ((limits 8).p 0 4) 28 = false) ∧
    (bitAt ((limits 8).p 4 1) 5 = true) ∧
    (bitAt ((limits 8).p 4 1) 6 = true) ∧
    ((wj limitsBad (dv 4)).bistHolds limitsBad = false ∧ (wj limitsBad (dv 4)).started? 80 5 7 = some limitsBad ∧
      (wj limitsBad (dv 4)).limitsOk limitsBad = false) := by
  and_intros <;> decide +kernel

theorem witness_ShedOrder :
    ((wj (order 23) hotZone).started? 81 5 7 = some (order 23) ∧ (wj (order 23) hotZone).bistHolds (order 23) =
      false ∧ (order 23).p 0 1 ≤ 24 ∧ (order 23).pz 1 7 = true ∧ (order 23).pz (8 + (order 23).p 0 1) (24 - (order
      23).p 0 1) = true ∧ ((∀ (k : Nat), k ∈ List.map (fun k => (order 23).p (8 + k) 1) (List.range ((order 23).p 0
      1)) → k ≤ 23)) ∧ (List.map (fun k => (order 23).p (8 + k) 1) (List.range ((order 23).p 0 1))).Nodup ∧ 2 <
      (order 23).p 0 1) ∧
    ((wj (order 23) hotZone).hottest (wj (order 23) hotZone).hotZones = some 7) ∧
    ((wj (order 5) hotZone).started? 81 5 7 = some (order 5) ∧ (wj (order 5) hotZone).bistHolds (order 5) = false
      ∧ (¬((order 5).p 0 1 ≤ 24 ∧ (order 5).pz 1 7 = true ∧ (order 5).pz (8 + (order 5).p 0 1) (24 - (order 5).p 0
      1) = true ∧ (∀ (k : Nat), k ∈ List.map (fun k => (order 5).p (8 + k) 1) (List.range ((order 5).p 0 1)) → k ≤
      23) ∧ (List.map (fun k => (order 5).p (8 + k) 1) (List.range ((order 5).p 0 1))).Nodup))) := by
  and_intros <;> decide +kernel

theorem witness_SerialMaster :
    (xip.live = true ∧ ((targetOk (fw 5 true true).tgt.val = false ∨ xip.dev = DevState.boot ∧ (fw 5 true
      true).read = false))) ∧
    (targetOk (fw 16 true true).tgt.val = true ∧ ((xip.dev = DevState.boot → (fw 16 true true).read = true)) ∧
      ((¬(fw 16 true true).tgt.val = xip.r F.MSPM_XIP_CFG0_XIP_TGT ∨ xip.msp.cont = false))) ∧
    ((((fw 16 true true).read = false ∨ (fw 16 true true).ddr = false ∨ true = true))) ∧
    (contXip.live = true ∧ ((contXip.dev = DevState.boot → (fw 16 true true).read = true)) ∧ (fw 16 true
      true).tgt.val = contXip.r F.MSPM_XIP_CFG0_XIP_TGT ∧ contXip.msp.cont = true) ∧
    ((fw 16 true true).read = true ∧ (fw 16 true true).ddr = true ∧ false = false) ∧
    (xip.msp.fills = [] ∧ xip.msp.xfers = []) ∧
    ((filling [fill7, fill9]).live = true ∧ (filling [fill7, fill9]).msp.fills = [fill7, fill9] ∧ ((bitAt
      ((filling [fill7, fill9]).r F.MSPM_XIP_CFG0_PH_DATA) 2 = false ∨ true = true)) ∧ fill7.prefetch = false) ∧
    (fill7.reader = true) ∧
    ((filling [fill9]).live = true ∧ (filling [fill9]).msp.fills = [fill9] ∧ ((bitAt ((filling [fill9]).r
      F.MSPM_XIP_CFG0_PH_DATA) 2 = false ∨ true = true)) ∧ fill9.prefetch = true) ∧
    (fill9.reader = false) ∧
    (((filling [fill7, fill9]).w F.MSPM_XIP_CFG0_PH_DATA 0 4).live = true ∧ ((filling [fill7, fill9]).w
      F.MSPM_XIP_CFG0_PH_DATA 0 4).msp.fills = [fill7, fill9] ∧ bitAt (((filling [fill7, fill9]).w
      F.MSPM_XIP_CFG0_PH_DATA 0 4).r F.MSPM_XIP_CFG0_PH_DATA) 2 = true) ∧
    ((filling [fill7, fill9]).on F.MSPM_XIP_CFG0_EN = true ∧ (filling [fill7, fill9]).xipValid 7 = true) ∧
    (single.live = true ∧ single.on F.MSPM_XIP_CFG0_EN = true ∧ single.xipValid 7 = false ∧ single.xipAsked 7 =
      true) ∧
    (xip.on F.MSPM_XIP_CFG0_EN = true ∧ xip.xipValid 7 = false ∧ xip.xipAsked 7 = false) ∧
    ((xip.w F.MSPM_XIP_CFG0_EN 0 0).live = true ∧ (xip.w F.MSPM_XIP_CFG0_EN 0 0).on F.MSPM_XIP_CFG0_EN = false) ∧
    ((moving 0 10 0).live = true ∧ (moving 0 10 0).msp.fills = [] ∧ (moving 0 10 0).xferNext = some (xfer 0 10 0)
      ∧ (moving 0 10 0).serviced = true ∧ ((State.Job.xNvw (xfer 0 10 0).job = false ∨ (xfer 0 10 0).frames ≠ 0 ∨
      (moving 0 10 0).nvmTempBad = false)) ∧ (¬((State.Job.xRead (xfer 0 10 0).job = true ∧ State.Job.xLen (xfer 0
      10 0).job ≠ 0) ∧ bitAt ((xfer 0 10 0).job.p 7 1) 2 = true ∧ true = false)) ∧ State.Job.xPoll (xfer 0 10 0).job
      = false) ∧
    (((State.Job.xRead (xfer 0 10 0).job = false ∨ (xfer 0 10 0).job.lost = true))) ∧
    ((moving 1 10 0).live = true ∧ (moving 1 10 0).msp.fills = [] ∧ (moving 1 10 0).xferNext = some (xfer 1 10 0)
      ∧ (moving 1 10 0).serviced = true ∧ ((State.Job.xNvw (xfer 1 10 0).job = false ∨ (xfer 1 10 0).frames ≠ 0 ∨
      (moving 1 10 0).nvmTempBad = false)) ∧ (¬((State.Job.xRead (xfer 1 10 0).job = true ∧ State.Job.xLen (xfer 1
      10 0).job ≠ 0) ∧ bitAt ((xfer 1 10 0).job.p 7 1) 2 = true ∧ true = false)) ∧ State.Job.xRead (xfer 1 10 0).job
      = true ∧ (xfer 1 10 0).job.lost = false ∧ 9 < State.Job.xLen (xfer 1 10 0).job) ∧
    (((moving 2 10 0).w F.THM_STAT_COLD_INHIBIT 0 1).live = true ∧ ((moving 2 10 0).w F.THM_STAT_COLD_INHIBIT 0
      1).msp.fills = [] ∧ ((moving 2 10 0).w F.THM_STAT_COLD_INHIBIT 0 1).xferNext = some (xfer 2 10 0) ∧ ((moving 2
      10 0).w F.THM_STAT_COLD_INHIBIT 0 1).serviced = true ∧ State.Job.xNvw (xfer 2 10 0).job = true ∧ (xfer 2 10
      0).frames = 0 ∧ ((moving 2 10 0).w F.THM_STAT_COLD_INHIBIT 0 1).nvmTempBad = true) ∧
    ((moving 5 1 0).live = true ∧ (moving 5 1 0).msp.fills = [] ∧ (moving 5 1 0).xferNext = some (xfer 5 1 0) ∧
      (moving 5 1 0).serviced = true ∧ ((State.Job.xNvw (xfer 5 1 0).job = false ∨ (xfer 5 1 0).frames ≠ 0 ∨ (moving
      5 1 0).nvmTempBad = false)) ∧ (¬((State.Job.xRead (xfer 5 1 0).job = true ∧ State.Job.xLen (xfer 5 1 0).job ≠
      0) ∧ bitAt ((xfer 5 1 0).job.p 7 1) 2 = true ∧ true = false)) ∧ State.Job.xPoll (xfer 5 1 0).job = true ∧
      byteAt ([1, 2, 3]) 0 &&& (xfer 5 1 0).job.p 20 1 = (xfer 5 1 0).job.p 21 1) ∧
    ((State.Job.xRead (xfer 1 10 0).job = true ∧ State.Job.xLen (xfer 1 10 0).job ≠ 0) ∧ bitAt ((xfer 1 10
      0).job.p 7 1) 2 = true) ∧
    (byteAt ([2, 2, 3]) 0 &&& (xfer 5 1 0).job.p 20 1 ≠ (xfer 5 1 0).job.p 21 1) ∧
    ((moving 0 10 0).pollOf 5 7 = none) ∧
    ((moving 5 1 0).pollOf 5 7 = some (xfer 5 1 0) ∧ (xfer 5 1 0).frames = 0) ∧
    (xfer 5 1 0 ∈ (moving 5 1 0).msp.xfers ∧ (xfer 5 1 0).job.ring = 5 ∧ (xfer 5 1 0).job.idx = 7) ∧
    ((moving 5 1 1).serviced = true ∧ (moving 5 1 1).pollOf 5 7 = some (xfer 5 1 1) ∧ (xfer 5 1 1).frames ≠ 0) ∧
    ((moving 1 10 0).started? 88 5 7 = some (xferJob 1 10) ∧ (moving 1 10 0).bistHolds (xferJob 1 10) = false ∧
      State.xferOk (xferJob 1 10) = true) ∧
    ((moving 5 1 1).job? (xfer 5 1 1).job.ring (xfer 5 1 1).job.idx = some (xferJob 5 1)) ∧
    ((wj (xferJob 9 1) (dv 4)).started? 88 5 7 = some (xferJob 9 1) ∧ (wj (xferJob 9 1) (dv 4)).bistHolds (xferJob
      9 1) = false ∧ State.xferOk (xferJob 9 1) = false) := by
  and_intros <;> decide +kernel

def addressed (d : Nat) : State := (dv d).w F.MSPS_STAT_MODE 0 0
def chained (d : Nat) : State := (dv d).w F.MSPS_STAT_MODE 0 1
/-- The register at an address: its specification, instance and word. -/
def at_ (o : Nat) : RegSpec × Nat × Nat := (locate o).getD (⟨0, 0, [], []⟩, 0, 0)
def fetching (st : Nat) (l : List Nat) : State := withMsp { fetched := l, fetch := l } ((addressed 4).w F.MSPS_STAT_FETCH 0 st)
/-- A chain word: trigger, operation, address, data. -/
def chainWord (op a d : Nat) : BitVec 512 := BitVec.ofNat 512 (op * 2 ^ 60 + 2 * 2 ^ 58 + a * 2 ^ 32 + d)
/-- The word at `o + 4 k` answers a frame at once and reads without effect. -/
def plainFast (s : State) (o k : Nat) : Bool :=
  match locate (o + 4 * k) with
  | some (sp, i, w) => fastClass (o + 4 * k) && !s.bistTested sp i &&
      (sp.word w).all fun f => !f.multi && f.acc != Acc.rc && f.id != F.MSPS_STAT_SHAPE.id
  | none => false

theorem witness_SlavePort :
    ((((addressed 1).live = false ∧ (addressed 1).frozen = false ∨ (addressed 1).r F.MSPS_STAT_MODE ≠ 0)) ∧
      Instr.slaveFetchDone ∈ [Instr.slaveRead true 327688 true 1, Instr.slaveWrite true 327688 true [2, 3] true,
      Instr.slaveStatus true 1, Instr.slaveFetch true 1, Instr.slaveFetchDone, Instr.slaveUndefinedCommand true
      (some 7)]) ∧
    ((addressed 6).frozen = true ∧ (addressed 6).r F.MSPS_STAT_MODE = 0 ∧ frameAddrOk 327688 = true ∧ ((327688 ≠
      F.SYS_SWRST_KEY.base ∨ 327688 ≠ 53650)) ∧ (locate 327688).isSome = true) ∧
    (frameAddrOk 327728 = true ∧ ((327728 ≠ F.SYS_SWRST_KEY.base ∨ 327688 ≠ 53650)) ∧ locate 327728 = none) ∧
    ((addressed 4).live = true ∧ (addressed 4).r F.MSPS_STAT_MODE = 0 ∧ locate 327688 = some ((at_ 327688).fst,
      (at_ 327688).snd.fst, (at_ 327688).snd.fst) ∧ fastClass 327688 = true ∧ (addressed 4).bistTested (at_
      327688).fst (at_ 327688).snd.fst = false ∧ (((at_ 327688).fst.word (at_ 327688).snd.fst).all fun f => !f.multi
      && f.id != F.MSPS_STAT_SHAPE.id) = true ∧ F.MSPM_FRAMES_COUNT ∈ (at_ 327688).fst.word (at_ 327688).snd.fst ∧
      F.MSPM_FRAMES_COUNT.acc = Acc.rc) ∧
    (327688 + 4 * (at_ 327688).snd.fst ≤ 2 ^ 26 ∧ ((List.range (at_ 327688).snd.fst).all fun k => plainFast
      (addressed 4) 327688 k) = true) ∧
    (frameAddrOk 327690 = false ∧ (addressed 4).isHeld 760 37121 = false) ∧
    (frameAddrOk 331776 = true ∧ 0 < 1 ∧ 1 ≤ 16 ∧ 331776 + 4 * 1 ≤ 2 ^ 26 ∧ (locate 331776).isSome = true ∧
      fastClass 331776 = false ∧ (addressed 4).r F.MSPS_STAT_FETCH = 0) ∧
    ((addressed 4).r F.MSPS_STAT_FETCH ≠ 1) ∧
    (((addressed 4).w F.MSPS_STAT_FETCH 0 2).live = true ∧ ((addressed 4).w F.MSPS_STAT_FETCH 0 2).r
      F.MSPS_STAT_MODE = 0 ∧ ((addressed 4).w F.MSPS_STAT_FETCH 0 2).r F.MSPS_STAT_FETCH ≠ 0) ∧
    (((addressed 4).w F.MSPS_STAT_FETCH 0 2).r F.MSPS_STAT_FETCH = 2 ∧ (at_ 327688).snd.fst < 1) ∧
    (((addressed 4).w F.MSPS_STAT_FETCH 0 2).msp.fetched.length ≤ 1) ∧
    ((addressed 3).live = true ∧ (addressed 3).r F.MSPS_STAT_MODE = 0 ∧ (addressed 3).dev = DevState.setup ∧
      frameAddrOk 69896 = true ∧ locate 69896 = some ((at_ 69896).fst, 0, 0) ∧ plainRegister (at_ 69896).fst = true
      ∧ (addressed 3).writeIgnored (at_ 69896).fst 0 = false ∧ (((at_ 69896).fst.word 0).all fun f => !f.multi) =
      true ∧ (addressed 3).encAccepted 0 ((addressed 3).newValues Master.serial (at_ 69896).fst 0 0 69896 none) =
      (addressed 3).newValues Master.serial (at_ 69896).fst 0 0 69896 none ∧ F.THM_TIMING_HI_RETREAT_MS ∈ (at_
      69896).fst.word 0 ∧ ((F.THM_TIMING_HI_RETREAT_MS.acc = Acc.rw ∨ F.THM_TIMING_HI_RETREAT_MS.acc = Acc.lk))) ∧
    ((fetching 0 [7, 8, 9]).live = true ∧ (fetching 0 [7, 8, 9]).r F.MSPS_STAT_MODE = 0 ∧ 119 ≠ 161 ∧ 119 ≠ 162 ∧
      119 ≠ 165 ∧ 119 ≠ 166 ∧ (fetching 0 [7, 8, 9]).isHeld 760 37121 = false) ∧
    ((fetching 1 [69896]).live = true ∧ (fetching 1 [69896]).r F.MSPS_STAT_MODE = 0 ∧ (fetching 1 [69896]).r
      F.MSPS_STAT_FETCH = 1 ∧ (fetching 1 [69896]).msp.fetch.length ≤ 16 ∧ (fetching 1 [69896]).msp.fetch = [69896]
      ∧ (at_ 69896).fst.word 0 = [F.THM_TIMING_HI_RETREAT_MS] ∧ F.THM_TIMING_HI_RETREAT_MS.multi = false ∧ (fetching
      1 [69896]).bistTested (at_ 69896).fst 0 = false ∧ F.THM_TIMING_HI_RETREAT_MS.base / 65536 ≠ 5) ∧
    ((fetching 2 [7, 8, 9]).live = true ∧ (fetching 2 [7, 8, 9]).r F.MSPS_STAT_MODE = 0 ∧ (fetching 2 [7, 8, 9]).r
      F.MSPS_STAT_FETCH = 2 ∧ 1 < (fetching 2 [7, 8, 9]).msp.fetched.length) ∧
    ((chained 3).live = true ∧ (chained 3).r F.MSPS_STAT_MODE = 1 ∧ 0 < 128 ∧ 128 % 64 = 0 ∧ bits (chainWord 2
      327728 0).toNat 58 2 = 2 ∧ bits (chainWord 2 327728 0).toNat 32 26 % 4 = 0 ∧ bitAt (chainWord 2 327728
      0).toNat 63 = false ∧ bits (chainWord 2 327728 0).toNat 60 3 = 2 ∧ locate (bits (chainWord 2 327728 0).toNat
      32 26) = none ∧ (chained 3).msp.chain < 2 ^ 64) ∧
    ((chained 6).frozen = true ∧ (chained 6).r F.MSPS_STAT_MODE = 1 ∧ ((bits (chainWord 2 327728 0).toNat 32 26 ≠
      F.SYS_SWRST_KEY.base ∨ bits (chainWord 2 327728 0).toNat 0 32 ≠ 53650))) ∧
    ((chained 6).msp.chain < 2 ^ 64) ∧
    (bits (chainWord 2 327688 0).toNat 58 2 = 2 ∧ bits (chainWord 2 327688 0).toNat 32 26 % 4 = 0 ∧ bits
      (chainWord 2 327688 0).toNat 60 3 = 2 ∧ ((bits (chainWord 2 327688 0).toNat 32 26 ≠ F.SYS_SWRST_KEY.base ∨
      bits (chainWord 2 327688 0).toNat 0 32 ≠ 53650)) ∧ (locate (bits (chainWord 2 327688 0).toNat 32 26)).isSome =
      true) ∧
    ((addressed 3).r F.MSPS_STAT_FETCH = 0) ∧
    (((1 = 0 ∨ 1 % 64 ≠ 0))) ∧
    ((((addressed 3).r F.MSPS_STAT_MODE ≠ 1 ∨ (addressed 3).live = false ∧ (addressed 3).frozen = false))) ∧
    (bits (chainWord 0 4 0).toNat 58 2 = 2 ∧ bits (chainWord 0 4 0).toNat 32 26 % 4 = 0 ∧ bitAt (chainWord 0 4
      0).toNat 63 = false ∧ bits (chainWord 0 4 0).toNat 60 3 = 0) ∧
    (bits (chainWord 8 327688 0).toNat 58 2 = 2 ∧ bits (chainWord 8 327688 0).toNat 32 26 % 4 = 0 ∧ bitAt
      (chainWord 8 327688 0).toNat 63 = true ∧ bits (chainWord 8 327688 0).toNat 60 3 = 0) ∧
    (((bits (chainWord 0 5 0).toNat 58 2 ≠ 2 ∨ 3 ≤ bits (chainWord 0 5 0).toNat 60 3 ∨ bits (chainWord 0 5
      0).toNat 32 26 % 4 ≠ 0))) ∧
    (bits (chainWord 1 327728 0).toNat 58 2 = 2 ∧ bits (chainWord 1 327728 0).toNat 32 26 % 4 = 0 ∧ bitAt
      (chainWord 1 327728 0).toNat 63 = false ∧ bits (chainWord 1 327728 0).toNat 60 3 = 1 ∧ locate (bits (chainWord
      1 327728 0).toNat 32 26) = none) ∧
    (bits (chainWord 1 327688 0).toNat 58 2 = 2 ∧ bits (chainWord 1 327688 0).toNat 32 26 % 4 = 0 ∧ bitAt
      (chainWord 1 327688 0).toNat 63 = false ∧ bits (chainWord 1 327688 0).toNat 60 3 = 1 ∧ locate (bits (chainWord
      1 327688 0).toNat 32 26) = some ((at_ 327688).fst, 0, 0) ∧ fastClass (bits (chainWord 1 327688 0).toNat 32 26)
      = true ∧ (at_ 327688).fst.word 0 = [F.MSPM_FRAMES_COUNT] ∧ F.MSPM_FRAMES_COUNT.multi = false ∧ (chained
      3).bistTested (at_ 327688).fst 0 = false ∧ F.MSPM_FRAMES_COUNT.id ≠ F.MSPS_STAT_SHAPE.id) ∧
    (bits (chainWord 2 69896 119).toNat 58 2 = 2 ∧ bits (chainWord 2 69896 119).toNat 32 26 % 4 = 0 ∧ bitAt
      (chainWord 2 69896 119).toNat 63 = false ∧ bits (chainWord 2 69896 119).toNat 60 3 = 2 ∧ (chained 3).dev =
      DevState.setup ∧ locate (bits (chainWord 2 69896 119).toNat 32 26) = some ((at_ 69896).fst, 0, 0) ∧ (chained
      3).writeIgnored (at_ 69896).fst 0 = false ∧ (chained 3).encAccepted 0 ((chained 3).newValues Master.serial
      (at_ 69896).fst 0 0 (bits (chainWord 2 69896 119).toNat 0 32) none) = (chained 3).newValues Master.serial (at_
      69896).fst 0 0 (bits (chainWord 2 69896 119).toNat 0 32) none) ∧
    (bits (chainWord 1 69896 0).toNat 58 2 = 2 ∧ bits (chainWord 1 69896 0).toNat 32 26 % 4 = 0 ∧ bitAt (chainWord
      1 69896 0).toNat 63 = false ∧ bits (chainWord 1 69896 0).toNat 60 3 = 1 ∧ locate (bits (chainWord 1 69896
      0).toNat 32 26) = some ((at_ 69896).fst, 0, 0) ∧ fastClass (bits (chainWord 1 69896 0).toNat 32 26) = false)
      := by
  and_intros <;> decide +kernel

/-! ### The chip as a whole -/

def busyChip : State :=
  { put (dv 4) [(F.HK_DAC_CFG_CLEAR, 47, 99), (F.HK_PWM_STAT_STATE, 23, 1), (F.SYS_TLM_STAT_STATE, 63, 1),
      (F.HB_CONV_STAT_STATE, 1, 2), (F.CAP_BATT_STAT_STATE, 255, 2)] with sys := { lrefAbsent := true } }

/-- FAULT entered at this instant, for the PLL. -/
def justFaulted : State := put (dv 6) [(F.SYS_FAULT_CAUSE_CAUSE, 0, 5), (F.SYS_FAULT_TIME_TIME, 0, (dv 6).sysTime)]

def dumpJob (b : Nat) : Job := jb 0x71 [0x92, 0xD1, 0, 0, b, 0, 0, 0, 5, 6, 7]

def faultState (size : Nat) : State := put (dv 6) [(F.SYS_DUMP_BUF_SIZE_SIZE, 0, size), (F.SYS_DUMP_BUF_ADDR, 0, 0x40000)]
def dumping (d : DumpTo) : State := { put (dv 7) [(F.SYS_DUMP_BUF_SIZE_SIZE, 0, 0x3000), (F.SYS_DUMP_BUF_ADDR, 0, 0x40000)] with sys := { dump := some d } }

/-- A firmware body of zeros but for its first byte, and a header that fits it, with sequence
number 3 or 5 (R431). -/
def fwBody : List (BitVec 8) := [0x12]
def fwHeader (seq : Nat) : List (BitVec 8) :=
  let h := leBytes 4 0x465A4C52 ++ leBytes 2 1 ++ leBytes 2 0x100 ++ leBytes 4 4096 ++ leBytes 4 seq ++ leBytes 4 0x01020304 ++
    [0, 255, 0, 0, 8, 3, 1, 0, 0, 3, 8, 1, 1, 1, 0, 0, 0, 0, 0, 12] ++
    leBytes 4 181883496
  let h := h ++ List.replicate (252 - h.length) 0
  (h ++ leBytes 4 (if seq = 3 then 4168116542 else 4084820552)).map (BitVec.ofNat 8)
/-- Boot phase `p`, on silicon step 3. -/
def booting (p : Nat) : State :=
  let s := (dv 2).w F.SYS_BOOT_STAT_PHASE 0 p
  { s with regs := Tab.put s.regs F.SYS_ID_SILICON.id [(0, 3)] }
def slotsKnown (order : List Nat) : State :=
  { booting 2 with sys := { headers := [(fwHeader 3).map BitVec.toNat, (fwHeader 5).map BitVec.toNat], order := order } }
/-- Header 3 and the body, at 0x1000. -/
def imageCells : Mem :=
  [(4096, 82), (4097, 76), (4098, 90), (4099, 70), (4100, 1), (4103, 1), (4105, 16), (4108, 3), (4112, 4),
   (4113, 3), (4114, 2), (4115, 1), (4117, 255), (4120, 8), (4121, 3), (4122, 1), (4125, 3), (4126, 8), (4127,
   1), (4128, 1), (4129, 1), (4135, 12), (4136, 104), (4137, 82), (4138, 215), (4139, 10), (4348, 62), (4349,
   105), (4350, 112), (4351, 248), (4352, 18)]
def hostImage (n : Nat) : State :=
  { put (booting 5) [(F.SYS_HBOOT_LEN_VALUE, 0, n), (F.SYS_HBOOT_ADDR_VALUE, 0, 0x1000)] with hostMem := imageCells }
def image3 : List Nat := exactly ((fwHeader 3).map BitVec.toNat) 256
def image5 : List Nat := exactly ((fwHeader 5).map BitVec.toNat) 256
theorem head_ok {v k : Nat} (hv : v = 3) (hk : k = 3 ∨ k = 5) :
    hdrOk v (exactly ((fwHeader k).map BitVec.toNat) 256) = true := by
  subst hv
  obtain rfl | rfl := hk
  · show hdrOk 3 image3 = true
    rw [hdrOk, crc32c_strict]
    decide +kernel
  · show hdrOk 3 image5 = true
    rw [hdrOk, crc32c_strict]
    decide +kernel
def imageHead : List Nat := imageCells.readN 0x1000 256
def imageBody : List Nat := imageCells.readN 0x1100 4096
theorem imageBody_zeros : imageBody = 0x12 :: List.replicate 4095 0 := by
  have h (k : Nat) : (imageCells.read (0x1101 + k)).toNat = 0 := by
    rw [Mem.read, Tab.get_above imageCells 0x1101 _ (by decide +kernel) _ (Nat.le_add_right _ k)]
    rfl
  have e (n : Nat) : imageCells.readN 0x1100 (1 + n) = 0x12 :: List.replicate n 0 := by
    have hm : (List.range n).map ((fun k => (imageCells.read (0x1100 + k)).toNat) ∘ (1 + ·)) = List.replicate n 0 := by
      rw [List.map_congr_left (g := fun _ => 0) (fun k _ => by rw [← h k, Function.comp, ← Nat.add_assoc]), List.map_const',
        List.length_range]
    rw [Mem.readN, List.range_add, List.map_append, List.map_map, hm]
    rfl
  exact e 4095
theorem image_ok : (hostImage 4352).hostImageOk = true := by
  have hl : (hostImage 4352).r F.SYS_HBOOT_LEN_VALUE = 4352 := by decide +kernel
  have ha : (hostImage 4352).r F.SYS_HBOOT_ADDR_VALUE = 0x1000 := by decide +kernel
  have hs : (hostImage 4352).r F.SYS_ID_SILICON = 3 := by decide +kernel
  have hb : hdrLen imageHead = 4096 := by decide +kernel
  rw [State.hostImageOk, hl, ha, hs, show (hostImage 4352).hostMem = imageCells from rfl, ← imageHead, hb, show 0x1000 + 256 = 0x1100 from rfl, ← imageBody,
    imageBody_zeros, hdrOk, crc32c_strict, crc32c_strict]
  decide +kernel
theorem image_short : (hostImage 4351).hostImageOk = false := by
  rw [Bool.eq_false_iff]
  intro h
  simp only [State.hostImageOk, Bool.and_eq_true, decide_eq_true_eq] at h
  exact absurd h.1.2 (by decide +kernel)
def bootEnd : State := { booting 6 with nvm := { loaded := true }, sys := { shutPost := true } }

def noSlots : List Nat := []
/-- FAULT entered from BOOT in this instant, for the supply, in boot phase `p`. -/
def bootFault (p : Nat) (order : List Nat) : State :=
  let s := put (dv 6) [(F.SYS_FAULT_CAUSE_PREV_STATE, 0, DevState.boot.code), (F.SYS_FAULT_CAUSE_CAUSE, 0, 3),
    (F.SYS_FAULT_TIME_TIME, 0, (dv 6).sysTime), (F.SYS_BOOT_STAT_PHASE, 0, p)]
  { s with regs := Tab.put s.regs F.SYS_ID_SILICON.id [(0, 3)],
           sys := { headers := [(fwHeader 3).map BitVec.toNat, (fwHeader 5).map BitVec.toNat], order := order } }

theorem witness_FaultEntry :
    (busyChip.live = true ∧ 15 ≠ 0 ∧ busyChip.sys.trans = [] ∧ 47 < 48) ∧
    (23 < 24) ∧
    (1 < 2) ∧
    (47 < 64) ∧
    ((dv 4).live = true ∧ (dv 4).sys.trans = [] ∧ State.allBatts.any (dv 4).battActive = false) ∧
    ((dv 6).live = false ∧ (Instr.bridgeTimeout true, 4, 2) ∈ [(Instr.bridgeTimeout true, 4, if true = true then 2
      else 0), (Instr.fwMemoryError, 3, 1), (Instr.fwCheckFail 255, 6, 255), (Instr.pllLockTimeout 15, 5, (if bitAt
      15 0 = true then 0 else if bitAt 15 1 = true then 1 else if bitAt 15 2 = true then 2 else 3) + 4 * (dv
      6).sys.lrefAbsent.toNat)] ∧ (¬((dv 6).dev = DevState.fault ∧ (dv 6).r F.SYS_FAULT_TIME_TIME = (dv 6).sysTime ∧
      (dv 6).sys.dumped = false ∧ (Instr.bridgeTimeout true, 4, 2).snd.fst < (dv 6).r F.SYS_FAULT_CAUSE_CAUSE))) ∧
    (justFaulted.live = false ∧ (Instr.bridgeTimeout true, 4, 2) ∈ [(Instr.bridgeTimeout true, 4, if true = true
      then 2 else 0), (Instr.fwMemoryError, 3, 1), (Instr.fwCheckFail 255, 6, 255), (Instr.pllLockTimeout 15, 5, (if
      bitAt 15 0 = true then 0 else if bitAt 15 1 = true then 1 else if bitAt 15 2 = true then 2 else 3) + 4 *
      justFaulted.sys.lrefAbsent.toNat)] ∧ justFaulted.dev = DevState.fault ∧ justFaulted.r F.SYS_FAULT_TIME_TIME =
      justFaulted.sysTime ∧ justFaulted.sys.dumped = false ∧ (Instr.bridgeTimeout true, 4, 2).snd.fst <
      justFaulted.r F.SYS_FAULT_CAUSE_CAUSE) := by
  and_intros <;> decide +kernel

theorem witness_DumpRequest :
    ((wj (dumpJob 0) (dv 5)).started? 113 5 7 = some (dumpJob 0) ∧ (wj (dumpJob 0) (dv 5)).bistHolds (dumpJob 0) =
      false ∧ (dumpJob 0).p 0 4 = 53650 ∧ (dumpJob 0).pz 4 4 = true ∧ (dumpJob 0).pz 16 16 = true ∧ (wj (dumpJob 0)
      (dv 5)).sys.trans = []) ∧
    ((wj (dumpJob 1) (dv 5)).started? 113 5 7 = some (dumpJob 1) ∧ (wj (dumpJob 1) (dv 5)).bistHolds (dumpJob 1) =
      false ∧ (¬((dumpJob 1).p 0 4 = 53650 ∧ (dumpJob 1).pz 4 4 = true ∧ (dumpJob 1).pz 16 16 = true))) := by
  and_intros <;> decide +kernel

theorem witness_Dump :
    ((((dv 4).dev ≠ DevState.fault ∨ (dv 4).sys.dumped = true))) ∧
    ((faultState 12288).dev = DevState.fault ∧ (faultState 12288).sys.dumped = false ∧ (faultState 12288).r
      F.SYS_DUMP_BUF_SIZE_SIZE ≠ 0 ∧ (faultState 12288).canIssue = true) ∧
    ((faultState 0).dev = DevState.fault ∧ (faultState 0).sys.dumped = false ∧ (((faultState 0).r
      F.SYS_DUMP_BUF_SIZE_SIZE = 0 ∨ (faultState 0).canIssue = false)) ∧ (faultState 0).nvmTempBad = false) ∧
    (((faultState 0).w F.THM_STAT_COLD_INHIBIT 0 1).dev = DevState.fault ∧ ((faultState 0).w
      F.THM_STAT_COLD_INHIBIT 0 1).sys.dumped = false ∧ ((((faultState 0).w F.THM_STAT_COLD_INHIBIT 0 1).r
      F.SYS_DUMP_BUF_SIZE_SIZE = 0 ∨ ((faultState 0).w F.THM_STAT_COLD_INHIBIT 0 1).canIssue = false)) ∧
      ((faultState 0).w F.THM_STAT_COLD_INHIBIT 0 1).nvmTempBad = true) ∧
    ((((dv 4).dev ≠ DevState.dump ∨ (dv 4).sys.dump = none)) ∧ Instr.hostDumpLinkLost ∈ [Instr.hostDumpLinkLost,
      Instr.dumpFlashTimeout, Instr.dumpComplete [1, 2, 3]]) ∧
    ((dumping DumpTo.host).dev = DevState.dump ∧ (dumping DumpTo.host).sys.dump ≠ some DumpTo.flash) ∧
    ((dumping DumpTo.host).sys.dump = some DumpTo.host ∧ (dumping DumpTo.host).nvmTempBad = false) ∧
    ((dumping DumpTo.host).canIssue = true) ∧
    ((dumping DumpTo.flash).dev = DevState.dump ∧ (dumping DumpTo.flash).sys.dump ≠ some DumpTo.host) ∧
    ((dumping DumpTo.flash).sys.dump = some DumpTo.flash ∧ (dumping DumpTo.flash).nvmTempBad = false) ∧
    ((dumping DumpTo.ended).dev = DevState.dump ∧ (dumping DumpTo.ended).sys.dump = some DumpTo.ended) ∧
    ((unasked (dumping DumpTo.host)).dev = DevState.dump ∧ (unasked (dumping DumpTo.host)).sys.dump = some
      DumpTo.host ∧ (unasked (dumping DumpTo.host)).canIssue = false) ∧
    (((dumping DumpTo.host).w F.THM_STAT_COLD_INHIBIT 0 1).dev = DevState.dump ∧ ((dumping DumpTo.host).w
      F.THM_STAT_COLD_INHIBIT 0 1).sys.dump = some DumpTo.host ∧ ((dumping DumpTo.host).w F.THM_STAT_COLD_INHIBIT 0
      1).nvmTempBad = true) ∧
    (((dumping DumpTo.flash).w F.THM_STAT_COLD_INHIBIT 0 1).dev = DevState.dump ∧ ((dumping DumpTo.flash).w
      F.THM_STAT_COLD_INHIBIT 0 1).sys.dump = some DumpTo.flash ∧ ((dumping DumpTo.flash).w F.THM_STAT_COLD_INHIBIT
      0 1).nvmTempBad = true) := by
  and_intros <;> decide +kernel

theorem boot_fact1 : crc32c (exactly (List.map BitVec.toNat (fwHeader 3)) (hdrLen ((bootFault 2 [2]).slotHeader 2))) ≠ hdrCrc ((bootFault 2 [2]).slotHeader 2) :=
  by rw [crc32c_strict]; decide +kernel
theorem boot_fact2 : ¬(((bootFault 4 [2]).r F.SYS_FAULT_CAUSE_PREV_STATE = DevState.boot.code ∧ (bootFault 4 [2]).r F.SYS_BOOT_STAT_STRAP ≠ 3 ∧ (bootFault 4 [2]).r F.SYS_FAULT_TIME_TIME = (bootFault 4 [2]).sysTime ∧ (bootFault 4 [2]).sys.dumped = false ∧ 2 < (bootFault 4 [2]).r F.SYS_FAULT_CAUSE_CAUSE) ∧ (bootFault 4 [2]).r F.SYS_BOOT_STAT_PHASE = 2 ∧ noSlots = [] ∧ crc32c (exactly (List.map BitVec.toNat (fwHeader 3)) (hdrLen ((bootFault 4 [2]).slotHeader 2))) ≠ hdrCrc ((bootFault 4 [2]).slotHeader 2)) :=
  by rw [crc32c_strict]; decide +kernel
theorem boot_fact3 : ((hdrOk ((booting 0).r F.SYS_ID_SILICON) (exactly (List.map BitVec.toNat (fwHeader 3)) 256) && hdrReadOk (exactly (List.map BitVec.toNat (fwHeader 3)) 256)) = true ∨ (hdrOk ((booting 0).r F.SYS_ID_SILICON) (exactly (List.map BitVec.toNat (fwHeader 3)) 256) && hdrReadOk (exactly (List.map BitVec.toNat (fwHeader 3)) 256)) = true) :=
  by rw [head_ok (v := (booting 0).r F.SYS_ID_SILICON) rfl (k := 3) (by decide)]; decide +kernel
theorem boot_fact4 : (hdrOk ((booting 0).r F.SYS_ID_SILICON) (exactly (List.map BitVec.toNat (fwHeader 3)) 256) && hdrReadOk (exactly (List.map BitVec.toNat (fwHeader 3)) 256)) = true :=
  by rw [head_ok (v := (booting 0).r F.SYS_ID_SILICON) rfl (k := 3) (by decide)]; decide +kernel
theorem boot_fact5 : (hdrOk (((booting 0).w F.SYS_BOOT_STAT_LAST_FAIL 0 2).r F.SYS_ID_SILICON) (exactly (List.map BitVec.toNat (fwHeader 3)) 256) && hdrReadOk (exactly (List.map BitVec.toNat (fwHeader 3)) 256)) = true :=
  by rw [head_ok (v := ((booting 0).w F.SYS_BOOT_STAT_LAST_FAIL 0 2).r F.SYS_ID_SILICON) rfl (k := 3) (by decide)]; decide +kernel
theorem boot_fact6 : (hdrOk (((booting 0).w F.SYS_BOOT_STAT_LAST_FAIL 0 2).r F.SYS_ID_SILICON) (exactly (List.map BitVec.toNat (fwHeader 5)) 256) && hdrReadOk (exactly (List.map BitVec.toNat (fwHeader 5)) 256)) = true :=
  by rw [head_ok (v := ((booting 0).w F.SYS_BOOT_STAT_LAST_FAIL 0 2).r F.SYS_ID_SILICON) rfl (k := 5) (by decide)]; decide +kernel
theorem boot_fact7 : crc32c (exactly ([]) (hdrLen ((slotsKnown [2, 1]).slotHeader 2))) ≠ hdrCrc ((slotsKnown [2, 1]).slotHeader 2) :=
  by rw [crc32c_strict]; decide +kernel
theorem boot_fact8 : crc32c (exactly ([]) (hdrLen ((slotsKnown [1]).slotHeader 1))) ≠ hdrCrc ((slotsKnown [1]).slotHeader 1) :=
  by rw [crc32c_strict]; decide +kernel
theorem boot_fact9 : crc32c (exactly ([]) (hdrLen (((slotsKnown [1]).w F.SYS_BOOT_STAT_STRAP 0 3).slotHeader 1))) ≠ hdrCrc (((slotsKnown [1]).w F.SYS_BOOT_STAT_STRAP 0 3).slotHeader 1) :=
  by rw [crc32c_strict]; decide +kernel
theorem boot_fact10 : crc32c (exactly (List.map BitVec.toNat fwBody) (hdrLen ((slotsKnown [2, 1]).slotHeader 2))) = hdrCrc ((slotsKnown [2, 1]).slotHeader 2) :=
  by rw [crc32c_strict]; decide +kernel
theorem boot_fact11 : (hostImage 4351).hostImageOk = false :=
  image_short
theorem boot_fact12 : (hostImage 4352).hostImageOk = true :=
  image_ok
theorem witness_Boot :
    ((bootFault 0 []).dev = DevState.fault ∧ (¬(((bootFault 0 []).r F.SYS_FAULT_CAUSE_PREV_STATE =
      DevState.boot.code ∧ (bootFault 0 []).r F.SYS_BOOT_STAT_STRAP ≠ 3 ∧ (bootFault 0 []).r F.SYS_FAULT_TIME_TIME =
      (bootFault 0 []).sysTime ∧ (bootFault 0 []).sys.dumped = false ∧ 2 < (bootFault 0 []).r
      F.SYS_FAULT_CAUSE_CAUSE) ∧ (bootFault 0 []).r F.SYS_BOOT_STAT_PHASE ≤ 1 ∧ ∀ (x : List (BitVec 8)), x ∈
      [fwHeader 3, fwHeader 3] → (bootFault 0 []).hdrValid (exactly (List.map BitVec.toNat x) 256) = false))) ∧
    ((bootFault 2 [2]).dev = DevState.fault ∧ (bootFault 2 [2]).sys.order = 2 :: noSlots ∧ (bootFault 2 [2]).r
      F.SYS_FAULT_CAUSE_PREV_STATE = DevState.boot.code ∧ (bootFault 2 [2]).r F.SYS_BOOT_STAT_STRAP ≠ 3 ∧ (bootFault
      2 [2]).r F.SYS_FAULT_TIME_TIME = (bootFault 2 [2]).sysTime ∧ (bootFault 2 [2]).sys.dumped = false ∧ 2 <
      (bootFault 2 [2]).r F.SYS_FAULT_CAUSE_CAUSE ∧ (bootFault 2 [2]).r F.SYS_BOOT_STAT_PHASE = 2 ∧ noSlots = [] ∧
      crc32c (exactly (List.map BitVec.toNat (fwHeader 3)) (hdrLen ((bootFault 2 [2]).slotHeader 2))) ≠ hdrCrc
      ((bootFault 2 [2]).slotHeader 2)) ∧
    ((bootFault 4 [2]).dev = DevState.fault ∧ (bootFault 4 [2]).sys.order = 2 :: noSlots ∧ (¬(((bootFault 4 [2]).r
      F.SYS_FAULT_CAUSE_PREV_STATE = DevState.boot.code ∧ (bootFault 4 [2]).r F.SYS_BOOT_STAT_STRAP ≠ 3 ∧ (bootFault
      4 [2]).r F.SYS_FAULT_TIME_TIME = (bootFault 4 [2]).sysTime ∧ (bootFault 4 [2]).sys.dumped = false ∧ 2 <
      (bootFault 4 [2]).r F.SYS_FAULT_CAUSE_CAUSE) ∧ (bootFault 4 [2]).r F.SYS_BOOT_STAT_PHASE = 2 ∧ noSlots = [] ∧
      crc32c (exactly (List.map BitVec.toNat (fwHeader 3)) (hdrLen ((bootFault 4 [2]).slotHeader 2))) ≠ hdrCrc
      ((bootFault 4 [2]).slotHeader 2)))) ∧
    ((bootFault 0 []).r F.SYS_FAULT_CAUSE_PREV_STATE = DevState.boot.code ∧ (bootFault 0 []).r
      F.SYS_BOOT_STAT_STRAP ≠ 3 ∧ (bootFault 0 []).r F.SYS_FAULT_TIME_TIME = (bootFault 0 []).sysTime ∧ (bootFault 0
      []).sys.dumped = false ∧ 2 < (bootFault 0 []).r F.SYS_FAULT_CAUSE_CAUSE ∧ (bootFault 0 []).r
      F.SYS_BOOT_STAT_PHASE ≤ 1 ∧ (∀ (x : List (BitVec 8)), x ∈ [[], []] → (bootFault 0 []).hdrValid (exactly
      (List.map BitVec.toNat x) 256) = false)) ∧
    ((((bootFault 0 []).bootPhase 2 = false ∧ (bootFault 0 []).dev ≠ DevState.fault ∨ (bootFault 0 []).sys.order =
      []))) ∧
    ((bootFault 0 []).bootDone = false) ∧
    ((((booting 0).bootPhase 0 = true ∨ (booting 0).bootPhase 1 = true)) ∧ (((hdrOk ((booting 0).r
      F.SYS_ID_SILICON) (exactly (List.map BitVec.toNat (fwHeader 3)) 256) && hdrReadOk (exactly (List.map
      BitVec.toNat (fwHeader 3)) 256)) = true ∨ (hdrOk ((booting 0).r F.SYS_ID_SILICON) (exactly (List.map
      BitVec.toNat (fwHeader 3)) 256) && hdrReadOk (exactly (List.map BitVec.toNat (fwHeader 3)) 256)) = true))) ∧
    ((hdrOk ((booting 0).r F.SYS_ID_SILICON) (exactly (List.map BitVec.toNat (fwHeader 3)) 256) && hdrReadOk
      (exactly (List.map BitVec.toNat (fwHeader 3)) 256)) = true ∧ (booting 0).r F.SYS_BOOT_STAT_LAST_FAIL ≠ if
      hdrSeq (exactly (List.map BitVec.toNat (fwHeader 3)) 256) < hdrSeq (exactly (List.map BitVec.toNat (fwHeader
      3)) 256) then 2 else 1) ∧
    (((((booting 0).w F.SYS_BOOT_STAT_LAST_FAIL 0 2).bootPhase 0 = true ∨ ((booting 0).w F.SYS_BOOT_STAT_LAST_FAIL
      0 2).bootPhase 1 = true)) ∧ (hdrOk (((booting 0).w F.SYS_BOOT_STAT_LAST_FAIL 0 2).r F.SYS_ID_SILICON) (exactly
      (List.map BitVec.toNat (fwHeader 3)) 256) && hdrReadOk (exactly (List.map BitVec.toNat (fwHeader 3)) 256)) =
      true ∧ (hdrOk (((booting 0).w F.SYS_BOOT_STAT_LAST_FAIL 0 2).r F.SYS_ID_SILICON) (exactly (List.map
      BitVec.toNat (fwHeader 5)) 256) && hdrReadOk (exactly (List.map BitVec.toNat (fwHeader 5)) 256)) = true ∧
      ((booting 0).w F.SYS_BOOT_STAT_LAST_FAIL 0 2).r F.SYS_BOOT_STAT_LAST_FAIL = if hdrSeq (exactly (List.map
      BitVec.toNat (fwHeader 3)) 256) < hdrSeq (exactly (List.map BitVec.toNat (fwHeader 5)) 256) then 2 else 1) ∧
    ((hdrOk ((booting 0).r F.SYS_ID_SILICON) (exactly ([]) 256) && hdrReadOk (exactly ([]) 256)) = false) ∧
    ((booting 0).r F.SYS_BOOT_STAT_STRAP ≠ 3) ∧
    (((((booting 0).w F.SYS_BOOT_STAT_STRAP 0 3).bootPhase 0 = true ∨ ((booting 0).w F.SYS_BOOT_STAT_STRAP 0
      3).bootPhase 1 = true)) ∧ (hdrOk (((booting 0).w F.SYS_BOOT_STAT_STRAP 0 3).r F.SYS_ID_SILICON) (exactly ([])
      256) && hdrReadOk (exactly ([]) 256)) = false ∧ ((booting 0).w F.SYS_BOOT_STAT_STRAP 0 3).r
      F.SYS_BOOT_STAT_STRAP = 3) ∧
    ((slotsKnown [2, 1]).bootPhase 0 = false ∧ (slotsKnown [2, 1]).bootPhase 1 = false ∧ (slotsKnown [2, 1]).dev ≠
      DevState.fault) ∧
    ((slotsKnown [2, 1]).bootPhase 2 = true ∧ (slotsKnown [2, 1]).sys.order = [2, 1] ∧ 1 ≤ 2 ∧ 2 ≤ 2 ∧ crc32c
      (exactly ([]) (hdrLen ((slotsKnown [2, 1]).slotHeader 2))) ≠ hdrCrc ((slotsKnown [2, 1]).slotHeader 2) ∧ [1] ≠
      []) ∧
    ((slotsKnown [1]).bootPhase 2 = true ∧ (slotsKnown [1]).sys.order = 1 :: noSlots ∧ 1 ≤ 1 ∧ crc32c (exactly
      ([]) (hdrLen ((slotsKnown [1]).slotHeader 1))) ≠ hdrCrc ((slotsKnown [1]).slotHeader 1) ∧ (slotsKnown [1]).r
      F.SYS_BOOT_STAT_STRAP ≠ 3) ∧
    (((slotsKnown [1]).w F.SYS_BOOT_STAT_STRAP 0 3).bootPhase 2 = true ∧ ((slotsKnown [1]).w F.SYS_BOOT_STAT_STRAP
      0 3).sys.order = 1 :: noSlots ∧ crc32c (exactly ([]) (hdrLen (((slotsKnown [1]).w F.SYS_BOOT_STAT_STRAP 0
      3).slotHeader 1))) ≠ hdrCrc (((slotsKnown [1]).w F.SYS_BOOT_STAT_STRAP 0 3).slotHeader 1) ∧ ((slotsKnown
      [1]).w F.SYS_BOOT_STAT_STRAP 0 3).r F.SYS_BOOT_STAT_STRAP = 3) ∧
    (crc32c (exactly (List.map BitVec.toNat fwBody) (hdrLen ((slotsKnown [2, 1]).slotHeader 2))) = hdrCrc
      ((slotsKnown [2, 1]).slotHeader 2) ∧ 1 < 2) ∧
    ((booting 4).live = true ∧ (booting 4).bootPhase 4 = true ∧ (booting 4).on F.SYS_BIST_STAT_RUNNING = false) ∧
    ((booting 5).live = true ∧ (booting 5).bootPhase 4 = false ∧ (booting 5).accErrLow = 0) ∧
    ((booting 4).bootPhase 5 = false) ∧
    ((booting 5).bootPhase 5 = true ∧ (booting 5).r F.SYS_HBOOT_LEN_VALUE < 256) ∧
    ((unasked (hostImage 4351)).bootPhase 5 = true ∧ 256 ≤ (unasked (hostImage 4351)).r F.SYS_HBOOT_LEN_VALUE ∧
      (unasked (hostImage 4351)).canIssue = false) ∧
    ((hostImage 4351).bootPhase 5 = true ∧ 256 ≤ (hostImage 4351).r F.SYS_HBOOT_LEN_VALUE ∧ (hostImage
      4351).canIssue = true ∧ true = true ∧ (hostImage 4351).hostImageOk = false) ∧
    ((hostImage 4352).bootPhase 5 = true ∧ 256 ≤ (hostImage 4352).r F.SYS_HBOOT_LEN_VALUE ∧ (hostImage
      4352).canIssue = true ∧ (hostImage 4352).hostImageOk = true) ∧
    (false = false) ∧
    (bootEnd.bootDone = true) := by
  have h1 := boot_fact1
  have h2 := boot_fact2
  have h3 := boot_fact3
  have h4 := boot_fact4
  have h5 := boot_fact5
  have h6 := boot_fact6
  have h7 := boot_fact7
  have h8 := boot_fact8
  have h9 := boot_fact9
  have h10 := boot_fact10
  have h11 := boot_fact11
  have h12 := boot_fact12
  and_intros <;> first | with_reducible assumption | decide +kernel

def bistJob (m : Nat) : Job := jb 0x70 [m]
def bistRaise : Raise := { change := .bist 5 7 7, islands := [], from_ := 0, started := true }
def bistWaits (m : Nat) : Job := { bistJob m with phase := .running, waits := [.bist] }
/-- A BIST run with a mask, its job waiting. -/
def inBist (m : Nat) : State :=
  wj (bistWaits m) { put (dv 3) [(F.SYS_BIST_STAT_RUNNING, 0, 1), (F.SYS_BIST_STAT_LAST_MASK, 0, m)] with fab := { raises := [bistRaise] } }
def timeJob (mode : Nat) : Job := jb 0x72 [5, 0, 0, 0, 0, 0, 0, 1, mode]
def scanList : Job := jb 0x40 [1]

def sub (st : Nat) (h : SubH) (s : State := dv 4) : State := (s.w F.SYS_TLM_STAT_STATE 63 st).setSub 63 h
def regSub : SubH := { op := 1, ranges := [(0, 3), (0x50008, 1)], base := 0x1000, size := 64, count := 4, seq := 5 }
def regTailed : SubH := { regSub with tail := 0x8000 }
def regWaits : SubH := { regSub with waiting := some [1] }
def hatSub : SubH := { op := 2, conv := 1, base := 0x1000, size := 288, count := 4, seq := 5 }
def queue (n : Nat) (s : State) : State := conv { queue := (List.range n).map fun k => 2 ^ 40 * k + 7 } s
def subJob (op cv n per a0 l0 a1 l1 : Nat) : Job := job2 0x60 l0 a0 a1 l1 ([63, op, cv, n] ++ leBytes 4 per)
def stopSub : Job := subJob 0 0 0 0 0 0 0 0
def startReg (len1 : Nat) : Job := subJob 1 0 1 100 0x1000 8 0x2000 len1
def startHat : Job := subJob 2 1 0 100 0 0 0x2000 576
def badSub : Job := subJob 3 0 0 0 0 0 0 0
def ranges (s : State) : State := bytesAt 0x1000 (leBytes 4 0x50000 ++ leBytes 4 3) s

theorem witness_BistAndTime :
    ((wj (bistJob 0) (dv 3)).started? 112 5 7 = some (bistJob 0) ∧ (wj (bistJob 0) (dv 3)).bistHolds (bistJob 0) =
      false ∧ (¬((bistJob 0).p 0 1 ≠ 0 ∧ (bistJob 0).p 0 1 < 64 ∧ (bistJob 0).pz 1 31 = true))) ∧
    ((wj (bistJob 63) (dv 3)).started? 112 5 7 = some (bistJob 63) ∧ (wj (bistJob 63) (dv 3)).bistHolds (bistJob
      63) = false ∧ (bistJob 63).p 0 1 ≠ 0 ∧ (bistJob 63).p 0 1 < 64 ∧ (bistJob 63).pz 1 31 = true ∧ ((∀ (n : Nat),
      n < 192 → (wj (bistJob 63) (dv 3)).laneState n = 0)) ∧ State.allBatts.any (wj (bistJob 63) (dv 3)).battActive
      = false) ∧
    ((wj (bistJob 9) (lanes [191] 3 (dv 3))).started? 112 5 7 = some (bistJob 9) ∧ (wj (bistJob 9) (lanes [191] 3
      (dv 3))).bistHolds (bistJob 9) = false ∧ (bistJob 9).p 0 1 ≠ 0 ∧ (bistJob 9).p 0 1 < 64 ∧ (bistJob 9).pz 1 31
      = true ∧ (¬((∀ (n : Nat), n < 192 → (wj (bistJob 9) (lanes [191] 3 (dv 3))).laneState n = 0) ∧
      State.allBatts.any (wj (bistJob 9) (lanes [191] 3 (dv 3))).battActive = false))) ∧
    ((wj (bistJob 0) (dv 3)).live = true ∧ (wj (bistJob 0) (dv 3)).bistRaise true = none) ∧
    ((inBist 63).live = true ∧ (inBist 63).bistRaise true ≠ none ∧ 0 < 3 ∧ bitAt ((inBist 63).r
      F.SYS_BIST_STAT_LAST_MASK) 0 = true) ∧
    ((inBist 63).job? 5 7 = some (bistWaits 63) ∧ (bistWaits 63).phase = JobPhase.running ∧ (bistWaits 63).waits =
      [Wait.bist] ∧ (fun d => if bitAt ((inBist 63).r F.SYS_BIST_STAT_LAST_MASK) (3 + d) = true then (fun d => (if d
      = 0 then 7 else 0)) d &&& if d = 1 then 511 else 65535 else 0) 1 = 0) ∧
    ((wj (timeJob 0) (dv 4)).started? 114 5 7 = some (timeJob 0) ∧ (wj (timeJob 0) (dv 4)).bistHolds (timeJob 0) =
      false ∧ (timeJob 0).p 8 1 ≤ 1 ∧ (timeJob 0).pz 9 23 = true) ∧
    ((wj (timeJob 2) (dv 4)).started? 114 5 7 = some (timeJob 2) ∧ (wj (timeJob 2) (dv 4)).bistHolds (timeJob 2) =
      false ∧ (¬((timeJob 2).p 8 1 ≤ 1 ∧ (timeJob 2).pz 9 23 = true))) ∧
    ((wj scanList (dv 4)).job? 5 7 = some scanList ∧ ((byteAt scanList.desc 0 = 64 ∧ scanList.p 0 1 = 1 ∨ byteAt
      scanList.desc 0 = 96 ∧ scanList.p 1 1 = 1)) ∧ scanList.phase = JobPhase.started ∧ (wj scanList (dv
      4)).serviced = true ∧ (wj scanList (dv 4)).canIssue = true) ∧
    ((((dv 4).job? 5 7 = none ∨ (dv 4).serviced = false ∨ (dv 4).canIssue = false))) ∧
    ((moving 0 10 0).job? 5 7 = some (xferJob 0 10) ∧ (moving 0 10 0).serviced = true ∧ (moving 0 10 0).canIssue =
      true ∧ byteAt (xferJob 0 10).desc 0 = 88 ∧ State.Job.xRead (xferJob 0 10) = false ∧ State.Job.xLen (xferJob 0
      10) ≠ 0 ∧ (moving 0 10 0).msp.xfers.any (State.Xfer.isOf 5 7) = true) ∧
    ((inEngine bytes9 (compress 100)).job? 5 7 = some (compress 100) ∧ (inEngine bytes9 (compress 100)).serviced =
      true ∧ (inEngine bytes9 (compress 100)).canIssue = true ∧ ((byteAt (compress 100).desc 0 = 56 ∨ byteAt
      (compress 100).desc 0 = 57)) ∧ (compress 100).len0 ≠ 0 ∧ ((List.range 8).any fun e => Option.any (fun p =>
      p.job.ring == 5 && p.job.idx == 7) ((inEngine bytes9 (compress 100)).engineJob e)) = true) := by
  and_intros <;> decide +kernel

theorem witness_Telemetry :
    ((dv 4).serviced = true ∧ ((dv 4).subh 63).stopping = false ∧ (dv 4).r F.SYS_TLM_STAT_STATE 63 = 0) ∧
    ((sub 1 regSub).serviced = true ∧ ((sub 1 regSub).subh 63).stopping = false ∧ (sub 1 regSub).r
      F.SYS_TLM_STAT_STATE 63 = 1 ∧ ((sub 1 regSub).subh 63).waiting = none ∧ (sub 1 regSub).canIssue = true ∧ (∀ (r
      : State.Req), r ∈ (sub 1 regSub).upRequests → 2 < r.cls ∧ ((sub 1 regSub).subh 63).tail = 0 ∧ 32 + 4 *
      State.rangeWords ((sub 1 regSub).subh 63).ranges ≤ ((sub 1 regSub).subh 63).size)) ∧
    ((unasked (sub 1 regSub)).serviced = true ∧ ((unasked (sub 1 regSub)).subh 63).stopping = false ∧ (unasked
      (sub 1 regSub)).r F.SYS_TLM_STAT_STATE 63 = 1 ∧ ((unasked (sub 1 regSub)).subh 63).waiting = none ∧ (((unasked
      (sub 1 regSub)).canIssue = false ∨ ∃ r, r ∈ (unasked (sub 1 regSub)).upRequests ∧ r.cls = 1))) ∧
    ((sub 1 regTailed).serviced = true ∧ ((sub 1 regTailed).subh 63).stopping = false ∧ (sub 1 regTailed).r
      F.SYS_TLM_STAT_STATE 63 = 1 ∧ ((sub 1 regTailed).subh 63).waiting = none ∧ (sub 1 regTailed).canIssue = true ∧
      (∀ (r : State.Req), r ∈ (sub 1 regTailed).upRequests → 2 < r.cls ∧ ((sub 1 regTailed).subh 63).tail ≠ 0 ∧ 32 +
      4 * State.rangeWords ((sub 1 regTailed).subh 63).ranges ≤ ((sub 1 regTailed).subh 63).size)) ∧
    ((sub 1 regWaits).serviced = true ∧ ((sub 1 regWaits).subh 63).stopping = false ∧ (sub 1 regWaits).r
      F.SYS_TLM_STAT_STATE 63 = 1 ∧ ((sub 1 regWaits).subh 63).waiting.isSome = true) ∧
    ((sub 2 hatSub).serviced = true ∧ ((sub 2 hatSub).subh 63).stopping = false ∧ (sub 2 hatSub).r
      F.SYS_TLM_STAT_STATE 63 = 2 ∧ ((((sub 2 hatSub).subh 63).waiting.isSome = true ∨ ((sub 2 hatSub).convh ((sub 2
      hatSub).subh 63).conv).queue = []))) ∧
    ((queue 5 (sub 2 hatSub)).serviced = true ∧ ((queue 5 (sub 2 hatSub)).subh 63).stopping = false ∧ (queue 5
      (sub 2 hatSub)).r F.SYS_TLM_STAT_STATE 63 = 2 ∧ ((queue 5 (sub 2 hatSub)).subh 63).op = 2 ∧ ((queue 5 (sub 2
      hatSub)).subh 63).waiting = none ∧ (queue 5 (sub 2 hatSub)).canIssue = true ∧ (∀ (r : State.Req), r ∈ (queue 5
      (sub 2 hatSub)).upRequests → 2 < r.cls ∧ ((queue 5 (sub 2 hatSub)).subh 63).tail = 0 ∧ ((queue 5 (sub 2
      hatSub)).subh 63).size = 288 ∧ (min 32 ((queue 5 (sub 2 hatSub)).convh ((queue 5 (sub 2 hatSub)).subh
      63).conv).queue.length < 32 → true = true) ∧ 0 < min 32 ((queue 5 (sub 2 hatSub)).convh ((queue 5 (sub 2
      hatSub)).subh 63).conv).queue.length)) ∧
    ((wj stopSub (dv 4)).started? 96 5 7 = some stopSub ∧ (wj stopSub (dv 4)).bistHolds stopSub = false ∧
      State.subParamsOk stopSub = true ∧ stopSub.p 1 1 = 0 ∧ (wj stopSub (dv 4)).r F.SYS_TLM_STAT_STATE (stopSub.p 0
      1) = 0) ∧
    ((wj stopSub (sub 1 regSub)).started? 96 5 7 = some stopSub ∧ (wj stopSub (sub 1 regSub)).bistHolds stopSub =
      false ∧ (wj stopSub (sub 1 regSub)).r F.SYS_TLM_STAT_STATE (stopSub.p 0 1) ≠ 0 ∧ ((wj stopSub (sub 1
      regSub)).subh (stopSub.p 0 1)).waiting = none) ∧
    ((wj stopSub (sub 1 regWaits)).started? 96 5 7 = some stopSub ∧ (wj stopSub (sub 1 regWaits)).bistHolds
      stopSub = false ∧ (wj stopSub (sub 1 regWaits)).r F.SYS_TLM_STAT_STATE (stopSub.p 0 1) ≠ 0 ∧ ((wj stopSub (sub
      1 regWaits)).subh (stopSub.p 0 1)).waiting.isSome = true) ∧
    ((wj badSub (dv 4)).started? 96 5 7 = some badSub ∧ (wj badSub (dv 4)).bistHolds badSub = false ∧
      State.subParamsOk badSub = false) ∧
    ((wj (startReg 128) (ranges (dv 4))).started? 96 5 7 = some (startReg 128) ∧ (wj (startReg 128) (ranges (dv
      4))).bistHolds (startReg 128) = false ∧ State.subParamsOk (startReg 128) = true ∧ (startReg 128).p 1 1 ≠ 0 ∧
      (((startReg 128).p 1 1 = 1 → (wj (startReg 128) (ranges (dv 4))).canIssue = true)) ∧ State.rangesOk ((wj
      (startReg 128) (ranges (dv 4))).subRanges (startReg 128)) = true ∧ State.subBufferOk (startReg 128)
      (State.recordSize ((startReg 128).p 1 1) ((wj (startReg 128) (ranges (dv 4))).subRanges (startReg 128))) =
      true ∧ (wj (startReg 128) (ranges (dv 4))).r F.SYS_TLM_STAT_STATE ((startReg 128).p 0 1) = 0 ∧ (((startReg
      128).p 1 1 = 2 → (wj (startReg 128) (ranges (dv 4))).streamed ((startReg 128).p 2 1) = false))) ∧
    ((wj (startReg 130) (ranges (dv 4))).started? 96 5 7 = some (startReg 130) ∧ (wj (startReg 130) (ranges (dv
      4))).bistHolds (startReg 130) = false ∧ State.subParamsOk (startReg 130) = true ∧ (startReg 130).p 1 1 ≠ 0 ∧
      (((startReg 130).p 1 1 = 1 → (wj (startReg 130) (ranges (dv 4))).canIssue = true)) ∧ ((State.rangesOk ((wj
      (startReg 130) (ranges (dv 4))).subRanges (startReg 130)) = false ∨ State.subBufferOk (startReg 130)
      (State.recordSize ((startReg 130).p 1 1) ((wj (startReg 130) (ranges (dv 4))).subRanges (startReg 130))) =
      false))) ∧
    ((wj (startReg 128) (ranges (sub 1 regSub))).started? 96 5 7 = some (startReg 128) ∧ (wj (startReg 128)
      (ranges (sub 1 regSub))).bistHolds (startReg 128) = false ∧ (((startReg 128).p 1 1 = 1 → (wj (startReg 128)
      (ranges (sub 1 regSub))).canIssue = true)) ∧ State.rangesOk ((wj (startReg 128) (ranges (sub 1
      regSub))).subRanges (startReg 128)) = true ∧ State.subBufferOk (startReg 128) (State.recordSize ((startReg
      128).p 1 1) ((wj (startReg 128) (ranges (sub 1 regSub))).subRanges (startReg 128))) = true ∧ (wj (startReg
      128) (ranges (sub 1 regSub))).r F.SYS_TLM_STAT_STATE ((startReg 128).p 0 1) ≠ 0) ∧
    ((unasked (wj (startReg 128) (ranges (dv 4)))).started? 96 5 7 = some (startReg 128) ∧ (unasked (wj (startReg
      128) (ranges (dv 4)))).bistHolds (startReg 128) = false ∧ (startReg 128).p 1 1 = 1 ∧ (unasked (wj (startReg
      128) (ranges (dv 4)))).canIssue = false) := by
  and_intros <;> decide +kernel

/-! ### Witnesses about the calibration array, proved from its laws -/

/-- The erased record staged for bank 1, and a started commit about to end. -/
def blankStaging : Running := programming (List.replicate recordLen 255) 1
def atProgram : State := onProgram blankStaging
theorem blank_reads : (atProgram.nvm.write (1 * bankBytes) (List.replicate recordLen 255)).read (1 * bankBytes) recordLen =
    List.replicate recordLen 255 := by
  have h := NvmH.read_write atProgram.nvm (1 * bankBytes) (List.replicate recordLen 255)
    (fun b hb => by rw [List.eq_of_mem_replicate hb]; decide)
  rwa [List.length_replicate] at h
theorem short_differs (m : NvmH) : m.read (1 * bankBytes) recordLen ≠ [1, 2, 3] := by
  intro h
  have := congrArg List.length h
  rw [NvmH.read_length] at this
  exact absurd this (by unfold recordLen; decide)

/-- A boot with nothing in the array, and one with a valid record in bank 1. -/
def bootEmpty : State := dv 2
def head5 : List Nat := headBytes 5 (List.replicate 236 0)
def record5 : List Nat := recordOf head5 (List.replicate 0x78000 0)
def recordNvm : NvmH := ({} : NvmH).write (1 * bankBytes) record5
def bootRecord : State := withNvm recordNvm (dv 2)
theorem withNvm_nvm (m : NvmH) (s : State) : (withNvm m s).nvm = m := rfl
theorem bootRecord_nvm : bootRecord.nvm = recordNvm := withNvm_nvm recordNvm (dv 2)
theorem bytes_head5 : ∀ b ∈ head5, b < 256 := by decide +kernel
theorem length_head5 : head5.length = 0xFC := by decide +kernel
theorem bytes_record5 : ∀ b ∈ record5, b < 256 := by
  intro b hb
  simp only [record5, recordOf, List.mem_append] at hb
  rcases hb with (hb | hb | hb) | hb | hb
  · exact bytes_head5 b hb
  · exact leBytes_lt _ _ b hb
  · rw [List.eq_of_mem_replicate hb]; decide
  · exact leBytes_lt _ _ b hb
  · exact leBytes_lt _ _ b hb
theorem length_record5 : record5.length = recordLen := recordOf_length _ _ length_head5 List.length_replicate
theorem bank1_valid : bootRecord.nvm.valid 1 = true := by
  rw [bootRecord_nvm]
  refine NvmH.valid_of_read _ 1 5 (List.replicate 236 0) (List.replicate 0x78000 0) List.length_replicate
    List.length_replicate (fun b hb => ?_) (fun b hb => ?_) (by decide) ?_
  · rw [List.eq_of_mem_replicate hb]; decide
  · rw [List.eq_of_mem_replicate hb]; decide
  · have h := NvmH.read_write ({} : NvmH) (1 * bankBytes) record5 bytes_record5
    rw [length_record5] at h
    rw [recordNvm, h, record5, head5]
theorem bank0_other (m : NvmH) (h : ∀ k < 4, m.byte k = Nvm.blank) : m.valid 0 = false := by
  apply NvmH.not_valid
  have : m.read (0 * bankBytes) 4 = [255, 255, 255, 255] := by
    simp only [NvmH.read, List.range, List.range.loop, List.map, Nat.zero_mul, Nat.zero_add, h 0 (by decide), h 1 (by decide),
      h 2 (by decide), h 3 (by decide)]
    rfl
  rw [this]
  decide
theorem bank1_empty : bootEmpty.nvm.valid 1 = false := by
  apply NvmH.not_valid
  decide +kernel
theorem bank0_empty : bootEmpty.nvm.valid 0 = false := bank0_other _ (by decide +kernel)
theorem bank0_blank : bootRecord.nvm.valid 0 = false := by
  rw [bootRecord_nvm]
  apply bank0_other
  intro k hk
  rw [recordNvm, NvmH.byte_write, if_neg (by unfold bankBytes; omega)]
  rfl

theorem witness_NvmArray :
    (atProgram.live = true ∧ atProgram.nvm.running = some blankStaging ∧ blankStaging.phase = .programming ∧
      (atProgram.nvm.write (blankStaging.target * bankBytes) blankStaging.staging).read (blankStaging.target * bankBytes) recordLen =
        blankStaging.staging ∧ blankStaging.target < 2 ∧ blankStaging.commit.explicit = true ∧
      atProgram.job? blankStaging.commit.ring blankStaging.commit.idx = some commitJob) ∧
    ((onProgram (programming [1, 2, 3] 1)).live = true ∧
      (onProgram (programming [1, 2, 3] 1)).nvm.running = some (programming [1, 2, 3] 1) ∧
      (programming [1, 2, 3] 1).phase = .programming ∧ 1 ≤ (programming [1, 2, 3] 1).fails ∧
      ((onProgram (programming [1, 2, 3] 1)).nvm.write (1 * bankBytes) [1, 2, 3]).read (1 * bankBytes) recordLen ≠ [1, 2, 3]) ∧
    (bootEmpty.dev = .boot ∧ bootEmpty.nvm.loaded = false ∧ bootEmpty.nvm.valid 0 = false ∧ bootEmpty.nvm.valid 1 = false) ∧
    (bootRecord.dev = .boot ∧ bootRecord.nvm.loaded = false ∧ bootRecord.nvm.valid 1 = true ∧
      (bootRecord.nvm.valid (1 - 1) = true → leVal (bootRecord.nvm.read ((1 - 1) * bankBytes + 0xC) 4) <
        leVal (bootRecord.nvm.read (1 * bankBytes + 0xC) 4))) := by
  refine ⟨⟨by decide +kernel, rfl, rfl, blank_reads, by decide, rfl, by decide +kernel⟩,
    ⟨by decide +kernel, rfl, rfl, by decide, short_differs _⟩,
    ⟨by decide +kernel, rfl, bank0_empty, bank1_empty⟩, ⟨?_, ?_, bank1_valid, fun h => ?_⟩⟩
  · decide +kernel
  · rw [bootRecord_nvm, recordNvm, NvmH.write_frame]
  · exact absurd h (by rw [show bootRecord.nvm.valid (1 - 1) = false from bank0_blank]; decide)

/-! ### The clauses of ThermalTick on the zones after the tick -/

/-- Zone 29 is past its throttle level; the last step change was `n` milliseconds ago. -/
def heating (n : Nat) : State :=
  ({ (dv 4).w F.THM_ZONE_LEVEL 29 2 with thm := { since := n } }).setZone 29 { has := true, throttle := { on := true } }
def ticked (s : State) : State := match exec (.thermalTick readings) s with | .next t => t | _ => s
def afterHot : State := ticked (heating 50)
def afterWarm : State := ticked (heating 0)
def afterCalm : State := ticked (dv 4)
theorem witness_ThermalTick_after :
    (afterHot.hotZones ≠ [] ∧ (heating 50).r F.THM_STAT_STEP < 6 ∧ (heating 50).r F.THM_TIMING_LO_STEP_MS ≤ 50 + 1) ∧
    (afterWarm.hotZones ≠ [] ∧ (heating 0).r F.THM_STAT_STEP < 6 ∧ 0 + 1 < (heating 0).r F.THM_TIMING_LO_STEP_MS) ∧
    (afterCalm.hotZones = [] ∧ afterCalm.thm.calm < (dv 4).r F.THM_TIMING_HI_RETREAT_MS ∧
      (dv 4).r F.THM_STAT_STEP ≤ afterCalm.r F.THM_STAT_FLOOR) := by
  and_intros <;> decide +kernel

/-! ### Well-formed commands -/

def nine : WeightTry := { w1 := List.replicate 10 0, w2 := List.replicate 9 0, hi := 0, lo := 0 }
def twice : List (Int × Int) := List.replicate 5 (0, 0)
/-- Measurements that break a count of R120, one each. -/
def badMeas : List Meas :=
  [.subSlice false 0 0 (List.replicate 4 (0, 0, 0)) [] [] [] [], .subSlice false 0 0 [] [nine] [] [] [],
    .subSlice false 0 0 [] (List.replicate 5 { nine with w2 := nine.w1 }) [] [] [],
    .subSlice false 0 0 [] [] (List.replicate 4 (0, 0)) [] [], .subSlice false 0 0 [] [] [] twice [],
    .subSlice false 0 0 [] [] [] [] twice, .group false 0 twice [] [], .group false 0 [] twice [], .group false 0 [] [] twice,
    .pair twice, .cell false 0 twice]

/-- The check refuses each of these. -/
theorem test_wf_refuses_measurements : badMeas.all (fun m => !(Instr.fgDone 0 [m] []).wf && !(Instr.fgDone 0 [] [m]).wf && !(Instr.cardingSlot 0 [m]).wf) = true := by
  decide +kernel
theorem test_wf_refuses : (([.registerWrite .pcie 0 8 true [0], .adaptationStep 0 0 1 [], .timingUpdate 0 0 [],
    .ctleTryEnd 0 0 [], .eqWindow 0 0 [], .innerHuntTest 0 sym5 (List.replicate 4607 sym5), .poolEpoch 0 [⟨3, sym5, []⟩, ⟨3, sym5, []⟩],
    .hostAlignTest 0 ⟨0, List.replicate 2721 0⟩ 0, .hostAlignTest 0 noLevels 0, .nvmProgramDone [(491784, 0)],
    .rateRaiseReady (.bist 0 0 0), .rateRaiseTimeout (.bist 0 0 0), .captureUnitWrite 0 0 [] [0x80] [] false, .captureUnitWrite 0 0 [0] (List.replicate 4095 0) [0] false,
    .adaptationStep 0 0 1 [0x80, 0], .eqWindow 0 0 [0x80],
    .hbSelfcalStep 0 (2 ^ 26 + 1) 0, .hbSelfcalStep 0 0 (-2 ^ 26 - 1), .thermalTick (List.replicate 127 none),
    .bootHeadersRead (List.replicate 255 0) (List.replicate 256 0), .bootHeadersRead (List.replicate 256 0) [],
    .slaveRead false 0 false 1, .slaveWrite false 0 false [1] false, .slaveWrite false 0 false [] true,
    .slaveUndefinedCommand false (some 0xA1), .dumpComplete []] : List Instr).all fun c => !c.wf) = true := by decide +kernel
theorem test_wf_refuses_long : (Instr.txSatWindow 0 (225001, noLevels, noLevels)).wf = false ∧ (Instr.txSatWindow 0 (0, ⟨0, List.replicate 225001 0⟩, noLevels)).wf = false ∧
    (Instr.adcWindow 0 (List.replicate 450002 0)).wf = false ∧
    (Instr.mspmFrame none (List.replicate 65537 0) false).wf = false ∧
    (Instr.bootImageLoaded (List.replicate 3145729 0) ⟨0, 0, 0⟩).wf = false := by
  simp only [Instr.wf, List.length_replicate]
  decide
theorem test_wf_accepts : (([.registerWrite .pcie 0 8 true [0, 0], .innerHuntTest 0 sym5 cleanSyms, .poolEpoch 0 epochIn, .fgDone 0 measured [],
    .rsCodeword 0 zeroLevels, .hostAlignTest 0 zeroLevels 0, .slaveRead false 0 false 0, .slaveUndefinedCommand false (some 7), .laneDisable 0 0] : List Instr).all
    Instr.wf) = true := by decide +kernel

/-! ### The spec's worked examples and stated values -/

/-- The bytes of the ASCII digits 1 to 9. -/
def digits : List Nat := [49, 50, 51, 52, 53, 54, 55, 56, 57]

/-- The check values that R141 and R318 state. -/
theorem test_crc32c_check : crc32c digits = 0xE3069283 := by decide +kernel
theorem test_crc32_check : crc32 digits = 0xCBF43926 := by decide +kernel

/-- The worked example of R185: 17 information bytes, and their parity byte 0xB7. -/
def infoBits : List Bool :=
  ([0x80, 1, 0, 0, 0, 0x10, 0, 0, 8, 0, 0, 4, 0, 0, 0x40, 0, 1] : List Nat).flatMap fun b => (List.range 8).map fun k => bitAt b (7 - k)
theorem test_inner_parity : (innerEncode infoBits).drop 136 = [true, false, true, true, false, true, true, true] ∧
    syndrome (innerEncode infoBits) = 0 := by decide +kernel

/-- R192: with bits 142 and 143 in error the syndrome is 3. -/
theorem test_two_errors : syndrome (flip (flip (innerEncode infoBits) 142) 143) = 3 := by decide +kernel

/-- The worked example of R187: bit 0 of codeword 1 is the MSB of symbol 1, bit 1 the LSB of symbol 3, bit 143 the LSB of
symbol 287. -/
def symbolsAt (m l : List Nat) : Array BitPair := ((List.range 288).map fun t => (⟨m.contains t, l.contains t, 15, 15⟩ : BitPair)).toArray
theorem test_interleave : ((codewordOf (symbolsAt [1, 285] [3, 287]) 1).map (·.1)) =
    [true, true] ++ List.replicate 140 false ++ [true, true] := by decide +kernel

/-- The worked example of R160: levels -63, -21.5, 20.5, 62 and h1 0.25; y = 50.5 after level 3 gives level 2, reliabilities
15 and 4 and e = 14.5. -/
def lane41 : EqCoef := { c := [], h1 := 1024, l := [-1008, -344, 328, 992] }
theorem test_dfe : (lane41.dfe 3 3309568).a = 2 ∧ (lane41.dfe 3 3309568).relM = 15 ∧ (lane41.dfe 3 3309568).relL = 4 ∧
    (lane41.dfe 3 3309568).e = 950272 ∧ (lane41.thr 0, lane41.thr 1, lane41.thr 2) = (-2768896, -32768, 2703360) := by decide

/-- The worked example of R217: symbols +1/3, -1/3, -1 through taps -0.125, 0.75, -0.125 give -21, unary positions 0 to 5
and binary 10. -/
def lane20 : State := put (dv 4) [(F.LANE_TX_FIR_COEF, 16 * 20 + 3, 0xF80), (F.LANE_TX_FIR_COEF, 16 * 20 + 4, 0x300), (F.LANE_TX_FIR_COEF, 16 * 20 + 5, 0xF80)]
theorem test_fir : lane20.firCode 20 [3, 3, 3, 0, 1, 2, 3, 3, 3, 3, 3, 3, 3, 3, 3, 3] = -21 ∧ dacUnary (-21) = 6 ∧
    dacBinary (-21) = 10 := by decide +kernel
theorem test_gray : ([3, 2, 1] : List Nat).map gray = [2, 3, 1] := by decide

/-- The worked example of R105: positions 0 to 7 filled by groups 0, 1, 2, 4, 5, 6, 7, 8. -/
theorem test_map : ((List.range 8).map (State.mapAt 0x87654210)) = [0, 1, 2, 4, 5, 6, 7, 8] ∧ State.mapOut 0x87654210 = 3 := by decide +kernel

/-- The worked example of R310: rates and pages. -/
theorem test_rates : rateAt 1 0 0 = 239063 ∧ rateAt 1 1 0 = 478125 ∧ rateAt 4 0 0 = 464063 ∧ rateAt 4 0 1 = 232032 ∧
    battPages 1 100000 400000 = 130 := by decide

/-- The worked example of R320: a frame of 262,144 bytes takes at most 32 + 262,144 + 25. -/
theorem test_stream_max : streamMax 262144 = 262144 + 25 := by decide

/-- The worked example of R351: the entries of points 5 and 6. -/
theorem test_entries : hbEntry 5 5 true false false false false 0 0 524287 = 0x016C00000007FFFF ∧
    hbEntry 6 2 false false true false false 0 1 (800412 / 4) = 0x0191000100030DA7 := by decide

/-- The worked example of R43: the link's grants to a completion, a telemetry record and two bulk writes with the class-3
pointer at 20, and to the last of them with the pointer at 26. -/
def linkPtr (p : Nat) : Nat → Nat := fun c => if c = 3 then p else 0
theorem test_link_grants : State.arbitrate (linkPtr 20) [⟨3, 12⟩, ⟨2, 7⟩, ⟨1, 5⟩, ⟨3, 40⟩, ⟨3, 25⟩] = some ⟨1, 5⟩ ∧
    State.arbitrate (linkPtr 20) [⟨3, 12⟩, ⟨2, 7⟩, ⟨3, 40⟩, ⟨3, 25⟩] = some ⟨2, 7⟩ ∧
    State.arbitrate (linkPtr 20) [⟨3, 12⟩, ⟨3, 40⟩, ⟨3, 25⟩] = some ⟨3, 25⟩ ∧
    State.arbitrate (linkPtr 26) [⟨3, 12⟩, ⟨3, 40⟩] = some ⟨3, 40⟩ := by decide

/-- R78: a frame passes as many tokens as TS_PASS says. -/
theorem test_tokens : ((List.range 17).all fun p => ((List.range 16).filter (State.tokenPass p)).length == p) = true := by decide

/-- The order of R234: an explicit disable comes before a slot fault, and that before a window's loss of signal. -/
theorem test_ranks : ({} : State).rankOrder [.adcWindow 0 [], .slotFault 0, .laneDisable 0 0] =
    [.laneDisable 0 0, .slotFault 0, .adcWindow 0 []] := by decide

/-- The line fill of R411's example takes 42 clocks. -/
def xipFrame : Frame :=
  { cls := 2, tgt := 16, addr := [0, 0, 0, 0], dummy := 8, read := true, data := List.replicate 64 0, phAddr := 7, phData := 7 }
theorem test_fill_clocks : xipFrame.clocks = 42 := by decide

/-- The worked example of R471 and R472: the balls of lane 137 and of host lane 274. -/
theorem test_balls : [lineBall 137 false false, lineBall 137 false true, lineBall 137 true false, lineBall 137 true true] =
    [(61, 80), (61, 79), (61, 77), (61, 76)] ∧ [hostBall 274 false false, hostBall 274 false true,
    hostBall 274 true false, hostBall 274 true true] = [(35, 55), (35, 54), (36, 67), (36, 66)] := by decide

/-- R219: the reset code 40 is a swing of 700 mV. -/
theorem test_swing : (dv 4).swing16 20 = 16 * 700 := by decide +kernel

/-- One step on a waiting command: what `f` reads of the state it leaves. -/
def after (c : Instr) (s : State) (f : State → List Nat) : List Nat :=
  match step { s with pending := [c] } with
  | .next t => f t
  | _ => []

/-- The worked example of R58: the low word read over PCIe takes the latch; with SYS_TIME gone on, the serial port's read
of the upper word answers the live value. -/
theorem test_time_low : after (.multiwordLowRead .pcie 0x10 false) ((dv 4).w F.SYS_TIME_TIME 0 0x1FFFFFFF0) (fun t =>
    t.readData ++ [((keyed t.latches (0, F.SYS_TIME_TIME.id, 0)).getD 0) / 2 ^ 32]) = [0xFFFFFFF0, 1] ∧
    after (.slaveRead false 0x14 true 1) ((addressed 4).w F.SYS_TIME_TIME 0 0x200000022) (·.readData) = [2] := by decide +kernel

/-- The worked example of R370: the first step of a slew by 64 from 0 towards 0xB852 gives 0x40. -/
theorem test_slew : after (.dacSlewTick 34) (put (dv 4) [(F.HK_DAC_STAT_SLEWING, 34, 1), (F.HK_DAC_TARGET_TARGET, 34, 0xB852),
    (F.HK_DAC_CFG_STEP, 34, 64)]) (fun t => [t.r F.HK_DAC_STAT_OUT 34]) = [0x40] := by decide +kernel

/-- The worked example of R420: four words from 0x22FE000 end in an unmapped one, and a STATUS frame then answers
0x00010000. -/
theorem test_end_of_map : after (.slaveRead false 0x22FE000 true 4) (addressed 4) (fun t =>
    [t.readData.getD 3 1, t.r F.SYS_ACC_ERR_UNMAPPED] ++ after (.slaveStatus false 1) t (·.readData)) = [0, 1, 0x10000] := by
  decide +kernel

/-- The worked example of R149: with bank 0 active the target is bank 1. -/
theorem test_target_bank : ((dv 4).w F.CAL_NVM_STAT_ACTIVE_VALID 0 1).targetBank = 1 ∧ (dv 4).targetBank = 0 := by decide +kernel

/-- An empty queue idles for a nanosecond (log 2). -/
theorem test_idle : (match step (dv 4) with | .next t => [t.now, t.pending.length] | _ => []) = [(dv 4).now + 1, 0] := by
  decide +kernel

/-- The table gives no row bits, so no word spells a command. -/
theorem test_no_words : decodeTableWord 32 0 = none ∧ (dv 4).withFetchWord 32 0 = dv 4 := by decide

/-- The front command leaves the queue, the rest waits. -/
theorem test_queue : after (.dacSlewTick 3) { dv 4 with pending := [] } (fun t => [t.pending.length]) = [0] ∧
    (match step { dv 4 with pending := [.dacSlewTick 3, .dacSlewTick 4] } with | .next t => t.pending | _ => []) = [.dacSlewTick 4] := by
  decide +kernel

end Sys2Proof.Tests
end

section
/-! PROOF. The capture commands (R303, R308, R312, R313, R315): what a started job and a wait become, what arming, ending,
releasing and copying a batt do, and the statement about the four commands. -/

namespace Sys2Proof.Machine

open Sys2Proof

/-! ### Jobs that a ring command ends or leaves waiting -/

namespace State

theorem job_congr {s t : State} (h : t.jobs = s.jobs) (q i : Nat) : t.job? q i = s.job? q i := by rw [job?, h, job?]

/-- A started job ends with the results given. -/
theorem finish_started_due {s : State} {op q i : Nat} {j : Job} (h : s.started? op q i = some j) {t : State}
    (ht : t.job? q i = s.job? q i) (st : Status) (r0 r1 : Nat) :
    (t.finish j.ring j.idx st r0 r1).due q i st (r0 % 2 ^ 64) (r1 % 2 ^ 64) := by
  obtain ⟨hj, -, hphase, -⟩ := started_job h
  obtain ⟨rfl, rfl⟩ := job_place hj
  exact finish_due (ht.trans hj) (by simp [hphase]) st r0 r1 0

/-- A started job that waits for something runs on. -/
theorem await_started_waits {s : State} {op q i : Nat} {j : Job} (h : s.started? op q i = some j) {t : State}
    (ht : t.job? q i = s.job? q i) {ws : List Wait} (hw : ws ≠ []) (st : Status) (r0 r1 : Nat) :
    (t.await j.ring j.idx ws st r0 r1).waits q i ws := by
  obtain ⟨hj, -, -, -⟩ := started_job h
  obtain ⟨rfl, rfl⟩ := job_place hj
  refine ⟨{ j with phase := .running, waits := ws, status := st, r0 := r0, r1 := r1 }, ?_, rfl, rfl⟩
  rw [await, if_neg (by simpa using hw), job_mapJob]
  · rw [if_pos ⟨rfl, rfl⟩, ht, hj]
    rfl
  · exact fun _ => ⟨rfl, rfl⟩

theorem resolved_place (x : Wait) (st : Status) (now time : Nat) (j : Job) :
    (Job.resolved x st now time j).ring = j.ring ∧ (Job.resolved x st now time j).idx = j.idx := by
  unfold Job.resolved
  dsimp only
  split
  · split <;> exact ⟨rfl, rfl⟩
  · exact ⟨rfl, rfl⟩

/-- Resolving leaves a job that has only started alone. -/
theorem job_resolve_started {s : State} {op q i : Nat} {j : Job} (h : s.started? op q i = some j) {t : State}
    (ht : t.jobs = s.jobs) (x : Wait) (st : Status) : (t.resolve x st).job? q i = s.job? q i := by
  obtain ⟨hj, -, hphase, -⟩ := started_job h
  have hmap := find_map_job t.jobs (Job.resolved x st t.now (t.dieTime (waitDie x))) q i
    fun _ => resolved_place ..
  have hj' : t.jobs.find? (fun j => j.ring == q && j.idx == i) = some j := by rw [ht]; exact hj
  rw [hj, job?, resolve, hmap, hj', Option.map_some, Job.resolved, if_neg (by simp [hphase])]

/-- The command completes its job and leaves everything else. -/
theorem completes_only {s : State} {op q i : Nat} {j : Job} (h : s.started? op q i = some j) {c : Instr} {st : Status}
    (hc : exec c s = .next (s.finish j.ring j.idx st)) :
    ∃ t, exec c s = .next t ∧ t.due q i st 0 0 ∧ t = { s with jobs := t.jobs } :=
  ⟨_, hc, finish_started_due h rfl st 0 0, rfl⟩

/-- What is resolved is awaited no longer. -/
theorem awaited_resolve (s : State) (x : Wait) (st : Status) : (s.resolve x st).awaited x = false := by
  unfold awaited resolve
  rw [List.any_eq_false]
  intro k hk
  obtain ⟨j, -, rfl⟩ := List.mem_map.1 hk
  unfold Job.resolved
  dsimp only
  split
  · split <;> simp [Job.finished]
  · assumption

/-- Resolving makes no job wait. -/
theorem awaited_resolve_of_not {s : State} {x : Wait} (h : s.awaited x = false) (y : Wait) (st : Status) :
    (s.resolve y st).awaited x = false := by
  unfold awaited resolve at *
  rw [List.any_eq_false] at *
  intro k hk
  obtain ⟨j, hj, rfl⟩ := List.mem_map.1 hk
  have hx := h j hj
  unfold Job.resolved
  dsimp only
  split
  · rename_i hrun
    simp only [Bool.and_eq_true, beq_iff_eq, List.contains_iff_mem] at hrun hx
    split
    · simp [Job.finished]
    · simp only [Bool.and_eq_true, beq_iff_eq, List.contains_iff_mem, List.mem_filter]
      exact fun hm => hx ⟨hm.1, hm.2.1⟩
  · exact hx

/-- `t` is `s` but for the registers. -/
def RegsOnly (s t : State) : Prop := ∃ r, t = { s with regs := r }

theorem RegsOnly.refl (s : State) : RegsOnly s s := ⟨s.regs, rfl⟩

theorem RegsOnly.w {s t : State} (h : RegsOnly s t) (f : Fld) (i v : Nat) : RegsOnly s (t.w f i v) := by
  obtain ⟨r, rfl⟩ := h
  exact ⟨r.set f i v, rfl⟩

theorem RegsOnly.each_w {s t : State} (h : RegsOnly s t) (l : List Fld) (i v : Nat) :
    RegsOnly s (t.each l fun t f => t.w f i v) := by
  induction l generalizing t with
  | nil => exact h
  | cons f l ih => exact ih (h.w f i v)

/-! ### Batts -/

@[simp] theorem setBatt_regs (s : State) (b : Nat) (h : BattH) : (s.setBatt b h).regs = s.regs := rfl
theorem batt_congr {s t : State} (h : t.cap = s.cap) (b : Nat) : t.batt b = s.batt b := by rw [batt, h, batt]

theorem setBatt_batt (s : State) (b c : Nat) (h : BattH) : (s.setBatt b h).batt c = if c = b then h else s.batt c :=
  Tab.get_set _ _ _ _ _

/-- Replacing batts one after the other changes the table of batts alone. -/
theorem each_setBatt (l : List Nat) (g : State → Nat → BattH) (s : State) :
    ∃ bt, s.each l (fun s c => s.setBatt c (g s c)) = { s with cap := { s.cap with batts := bt } } := by
  induction l generalizing s with
  | nil => exact ⟨_, rfl⟩
  | cons c l ih =>
    obtain ⟨bt, h⟩ := ih (s.setBatt c (g s c))
    exact ⟨bt, h⟩

end State

/-! ### Rates and pages, R299, R302, R308 -/

theorem ceilDiv_pos {a b : Nat} (ha : 0 < a) (hb : 0 < b) : 0 < ceilDiv a b :=
  Nat.div_pos (by omega) hb

theorem rate512_pos (ty mode : Nat) : 0 < rate512 ty mode := by
  have hsize : 0 < recSize ty := by unfold recSize; omega
  unfold rate512
  dsimp only
  split
  · decide
  · split
    · exact Nat.mul_pos (Nat.mul_pos (by decide) (by split <;> decide)) hsize
    · exact Nat.mul_pos (by split <;> decide) hsize

/-- Every TYPE has a rate. -/
theorem rateAt_pos (ty mode k : Nat) : 0 < rateAt ty mode k :=
  ceilDiv_pos (rate512_pos ty mode) (Nat.mul_pos (by decide) (Nat.two_pow_pos k))

/-- The exponent that fits is the first or one of the `n` after it, and its rate fits. -/
theorem fitFrom_some {ty mode free n k0 k : Nat} (h : fitFrom ty mode free n k0 = some k) :
    k0 ≤ k ∧ k ≤ k0 + n ∧ rateAt ty mode k ≤ free := by
  induction n generalizing k0 with
  | zero =>
    rw [fitFrom] at h
    split at h
    · cases h; exact ⟨Nat.le_refl _, by omega, ‹_›⟩
    · cases h
  | succ n ih =>
    rw [fitFrom] at h
    split at h
    · cases h; exact ⟨Nat.le_refl _, by omega, ‹_›⟩
    · obtain ⟨hlo, hhi, hfit⟩ := ih h
      exact ⟨by omega, by omega, hfit⟩

namespace State

/-- An admitted rate fits in what the budget leaves, at an exponent of three bits. -/
theorem admission_fits {s : State} {j : Job} {k : Nat} (h : s.admission j = some k) :
    k < 8 ∧ s.resRate + rateAt (j.p 4 1) (s.laneMode (j.p 2 2)) k ≤ s.budget := by
  obtain ⟨-, hk, hfit⟩ := fitFrom_some h
  have hpos := rateAt_pos (j.p 4 1) (s.laneMode (j.p 2 2)) k
  omega

/-! ### CAPTURE_ARM, R303, R308 -/

theorem exec_captureArm {q : Fin 32768} {i : Fin 65536} {s : State} {j : Job} (h : s.started? 0x30 q i = some j)
    (hb : s.bistHolds j = false) : exec (.captureArm q i) s = .next (s.captureArm j) :=
  actJob_started (act := fun j s => s.captureArm j) h hb

theorem captureArm_bad {s : State} {j : Job} (h : armOk j = false) :
    s.captureArm j = s.finish j.ring j.idx .badParam := by simp [captureArm, h]

theorem captureArm_notAllowed {s : State} {j : Job} (h : armOk j = true) (ha : s.armAllowed j = false) :
    s.captureArm j = s.finish j.ring j.idx .notAllowed := by simp [captureArm, h, ha]

section
variable {s : State} {j : Job} (h : armOk j = true) (ha : s.armAllowed j = true)
include h ha

theorem captureArm_exhausted (hx : s.r F.CAP_STAT_FREE_PAGES < battPages (j.p 4 1) (j.p 8 4) (j.p 12 4) ∨
    (j.p 1 1 = 0 ∧ s.admission j = none)) : s.captureArm j = s.finish j.ring j.idx .exhausted := by
  rcases hx with hp | ⟨hc, hn⟩
  · simp [captureArm, h, ha, hp]
  · simp [captureArm, h, ha, hc, hn]

theorem captureArm_opportunistic (hp : battPages (j.p 4 1) (j.p 8 4) (j.p 12 4) ≤ s.r F.CAP_STAT_FREE_PAGES)
    (hc : j.p 1 1 = 1) : s.captureArm j =
      (s.armAs j 0 0).finish j.ring j.idx .ok 0 (battPages (j.p 4 1) (j.p 8 4) (j.p 12 4)) := by
  simp [captureArm, h, ha, Nat.not_lt.2 hp, hc]

theorem captureArm_reserved (hp : battPages (j.p 4 1) (j.p 8 4) (j.p 12 4) ≤ s.r F.CAP_STAT_FREE_PAGES)
    (hc : j.p 1 1 = 0) {k : Nat} (hk : s.admission j = some k) : s.captureArm j =
      (s.armAs j k (rateAt (j.p 4 1) (s.laneMode (j.p 2 2)) k)).finish j.ring j.idx .ok
        (k + rateAt (j.p 4 1) (s.laneMode (j.p 2 2)) k * 2 ^ 32) (battPages (j.p 4 1) (j.p 8 4) (j.p 12 4)) := by
  simp [captureArm, h, ha, Nat.not_lt.2 hp, hc, hk]

end

/-- What CAPTURE_ARM takes from the store: the pages, and for a reserved batt its rate. -/
def armTaken (s : State) (j : Job) (rate : Nat) : State :=
  let s := s.w F.CAP_STAT_FREE_PAGES 0 (s.r F.CAP_STAT_FREE_PAGES - battPages (j.p 4 1) (j.p 8 4) (j.p 12 4))
  if j.p 1 1 = 0 then s.w F.CAP_RES_RATE_RATE 0 (s.resRate + rate) else s

/-- Batt b as CAPTURE_ARM shows it: TYPE, lane, class, pages and decimation of the job, ARMED. -/
def armShown (s : State) (j : Job) (k mode : Nat) : State :=
  let b := j.p 0 1
  let s := ((s.w F.CAP_BATT_STAT_STATE b 1).w F.CAP_BATT_STAT_CLASS b (j.p 1 1)).w F.CAP_BATT_STAT_LOG2_D b k
  let s := (s.w F.CAP_BATT_STAT_PAGES b (battPages (j.p 4 1) (j.p 8 4) (j.p 12 4))).w F.CAP_BATT_INFO_TYPE b (j.p 4 1)
  ((s.w F.CAP_BATT_INFO_MODE b mode).w F.CAP_BATT_INFO_LANE b (j.p 2 2)).w F.CAP_BATT_INFO_ARM_RING b (j.ring % 32768)

theorem armAs_eq (s : State) (j : Job) (k rate : Nat) : ∃ (mode : Nat) (h : BattH),
    s.armAs j k rate = ((s.armTaken j rate).armShown j k mode).setBatt (j.p 0 1) h ∧
      h.pre = j.p 8 4 ∧ h.post = j.p 12 4 ∧ h.trig = j.p 6 1 ∧ h.recs = [] :=
  ⟨_, _, rfl, rfl, rfl, rfl, rfl⟩

theorem armTaken_frame (s : State) (j : Job) (rate : Nat) : RegsOnly s (s.armTaken j rate) := by
  unfold armTaken
  dsimp only
  split
  · exact ((RegsOnly.refl s).w ..).w ..
  · exact (RegsOnly.refl s).w ..

theorem armShown_frame {s t : State} (h : RegsOnly s t) (j : Job) (k mode : Nat) : RegsOnly s (t.armShown j k mode) :=
  (((((((h.w ..).w ..).w ..).w ..).w ..).w ..).w ..).w ..

theorem armAs_frame (s : State) (j : Job) (k rate : Nat) :
    ∃ r bt, s.armAs j k rate = { s with regs := r, cap := { s.cap with batts := bt } } := by
  obtain ⟨mode, h, he, -⟩ := armAs_eq s j k rate
  obtain ⟨r, hr⟩ := armShown_frame (armTaken_frame s j rate) j k mode
  rw [he, hr]
  exact ⟨_, _, rfl⟩

theorem armTaken_pages {s : State} {j : Job} (rate : Nat) (hfree : s.r F.CAP_STAT_FREE_PAGES < 2 ^ 14)
    (hp : battPages (j.p 4 1) (j.p 8 4) (j.p 12 4) ≤ s.r F.CAP_STAT_FREE_PAGES) :
    (s.armTaken j rate).r F.CAP_STAT_FREE_PAGES + battPages (j.p 4 1) (j.p 8 4) (j.p 12 4) = s.r F.CAP_STAT_FREE_PAGES := by
  have h : (s.armTaken j rate).r F.CAP_STAT_FREE_PAGES =
      (s.r F.CAP_STAT_FREE_PAGES - battPages (j.p 4 1) (j.p 8 4) (j.p 12 4)) % 2 ^ 14 := by
    unfold armTaken
    dsimp only
    split
    · rw [r_w_ne _ _ (by decide), r_w_same]; rfl
    · rw [r_w_same]; rfl
  rw [h, Nat.mod_eq_of_lt (by omega)]
  omega

theorem armTaken_resRate_opportunistic {s : State} {j : Job} (hc : j.p 1 1 = 1) :
    (s.armTaken j 0).resRate = s.resRate := by
  simp (disch := decide) [armTaken, hc, resRate, r_w_ne]

theorem armTaken_resRate_reserved {s : State} {j : Job} {rate : Nat} (hc : j.p 1 1 = 0)
    (hr : s.resRate + rate < 2 ^ 32) : (s.armTaken j rate).resRate = s.resRate + rate := by
  have hsame : (s.w F.CAP_STAT_FREE_PAGES 0
      (s.r F.CAP_STAT_FREE_PAGES - battPages (j.p 4 1) (j.p 8 4) (j.p 12 4))).resRate = s.resRate := r_w_ne _ _ (by decide)
  unfold armTaken
  dsimp only
  rw [if_pos hc, hsame]
  exact (r_w_same ..).trans (Nat.mod_eq_of_lt hr)

/-- The registers that arming batt b writes. -/
def armRegs (b : Nat) : List (Fld × Nat) :=
  [(F.CAP_STAT_FREE_PAGES, 0), (F.CAP_RES_RATE_RATE, 0), (F.CAP_BATT_STAT_STATE, b), (F.CAP_BATT_STAT_CLASS, b),
    (F.CAP_BATT_STAT_LOG2_D, b), (F.CAP_BATT_STAT_PAGES, b), (F.CAP_BATT_INFO_TYPE, b), (F.CAP_BATT_INFO_MODE, b),
    (F.CAP_BATT_INFO_LANE, b), (F.CAP_BATT_INFO_ARM_RING, b)]

theorem armTaken_onlyRegs (s : State) (j : Job) (rate : Nat) : onlyRegs (armRegs (j.p 0 1)) s (s.armTaken j rate) := by
  have hfree := fun v => (onlyRegs.refl (armRegs (j.p 0 1)) s).w (f := F.CAP_STAT_FREE_PAGES) (i := 0) v (by simp [armRegs])
  exact ((hfree _).w _ (by simp [armRegs])).ite (hfree _)

theorem armShown_onlyRegs {s t : State} {j : Job} (h : onlyRegs (armRegs (j.p 0 1)) s t) (k mode : Nat) :
    onlyRegs (armRegs (j.p 0 1)) s (t.armShown j k mode) := by
  unfold armShown
  dsimp only
  iterate 8 refine onlyRegs.w ?_ _ (by simp [armRegs])
  exact h

/-- What the registers show of an armed batt. -/
theorem armShown_reads (t : State) (j : Job) (k mode : Nat) :
    (t.armShown j k mode).battState (j.p 0 1) = 1 ∧
    (t.armShown j k mode).battLane (j.p 0 1) = j.p 2 2 % 2 ^ F.CAP_BATT_INFO_LANE.width ∧
    (t.armShown j k mode).battType (j.p 0 1) = j.p 4 1 % 2 ^ F.CAP_BATT_INFO_TYPE.width ∧
    (t.armShown j k mode).r F.CAP_BATT_STAT_CLASS (j.p 0 1) = j.p 1 1 % 2 ^ F.CAP_BATT_STAT_CLASS.width ∧
    (t.armShown j k mode).r F.CAP_BATT_STAT_PAGES (j.p 0 1) =
      battPages (j.p 4 1) (j.p 8 4) (j.p 12 4) % 2 ^ F.CAP_BATT_STAT_PAGES.width ∧
    (t.armShown j k mode).r F.CAP_BATT_STAT_LOG2_D (j.p 0 1) = k % 2 ^ F.CAP_BATT_STAT_LOG2_D.width ∧
    (t.armShown j k mode).r F.CAP_STAT_FREE_PAGES = t.r F.CAP_STAT_FREE_PAGES ∧
    (t.armShown j k mode).resRate = t.resRate := by
  have hstate : 1 % 2 ^ F.CAP_BATT_STAT_STATE.width = 1 := rfl
  simp (disch := decide) [armShown, battState, battLane, battType, resRate, r_w_ne, hstate]

theorem armOk_bounds {j : Job} (h : armOk j = true) : j.p 1 1 ≤ 1 ∧ j.p 2 2 < 192 ∧ j.p 4 1 ≤ 5 := by
  simp only [armOk, Bool.and_eq_true, decide_eq_true_eq] at h
  obtain ⟨⟨⟨⟨⟨⟨⟨⟨⟨⟨⟨⟨⟨hclass, hlane⟩, -⟩, htype⟩, -⟩, -⟩, -⟩, -⟩, -⟩, -⟩, -⟩, -⟩, -⟩, -⟩ := h
  exact ⟨hclass, hlane, htype⟩

/-- An accepted CAPTURE_ARM of a batt whose pages are free: the job is done, the batt is ARMED as the job says and its
pages are taken (R303). -/
theorem armAs_armed {s t : State} {q i : Nat} {j : Job} {k rate r0 pages : Nat} (hj : s.started? 0x30 q i = some j)
    (hok : armOk j = true) (hfree : s.r F.CAP_STAT_FREE_PAGES < 2 ^ 14)
    (hpages : battPages (j.p 4 1) (j.p 8 4) (j.p 12 4) = pages) (hp : pages ≤ s.r F.CAP_STAT_FREE_PAGES)
    (hr0 : r0 < 2 ^ 64) (ht : t = (s.armAs j k rate).finish j.ring j.idx .ok r0 pages) :
    t.due q i .ok r0 pages ∧ t.battState (j.p 0 1) = 1 ∧ t.battLane (j.p 0 1) = j.p 2 2 ∧
      t.battType (j.p 0 1) = j.p 4 1 ∧ t.r F.CAP_BATT_STAT_CLASS (j.p 0 1) = j.p 1 1 ∧
      t.r F.CAP_BATT_STAT_PAGES (j.p 0 1) = pages ∧ t.r F.CAP_STAT_FREE_PAGES + pages = s.r F.CAP_STAT_FREE_PAGES ∧
      (t.batt (j.p 0 1)).pre = j.p 8 4 ∧ (t.batt (j.p 0 1)).post = j.p 12 4 ∧ (t.batt (j.p 0 1)).trig = j.p 6 1 ∧
      (t.batt (j.p 0 1)).recs = [] ∧ (∀ c, c ≠ j.p 0 1 → t.batt c = s.batt c) ∧
      t = { s with regs := t.regs, cap := { s.cap with batts := t.cap.batts }, jobs := t.jobs } ∧
      onlyRegs (armRegs (j.p 0 1)) s t := by
  obtain ⟨mode, h, he, hpre, hpost, htrig, hrecs⟩ := armAs_eq s j k rate
  obtain ⟨hclass, hlane, htype⟩ := armOk_bounds hok
  obtain ⟨r, bt, hframe⟩ := armAs_frame s j k rate
  obtain ⟨r', hr'⟩ := armShown_frame (armTaken_frame s j rate) j k mode
  obtain ⟨kstate, klane, ktype, kclass, kpages, -, kfree, -⟩ := armShown_reads (s.armTaken j rate) j k mode
  have ktaken := armTaken_pages (j := j) rate hfree (hpages ▸ hp)
  have konly := armShown_onlyRegs (armTaken_onlyRegs s j rate) k mode
  rw [hpages] at kpages ktaken
  generalize s.armAs j k rate = A at ht he hframe
  generalize (s.armTaken j rate).armShown j k mode = B at *
  have hregs : t.regs = B.regs := by rw [ht, he]; rfl
  have hr (f : Fld) (n : Nat) : t.r f n = B.r f n := r_congr hregs f n
  have hbatt (c : Nat) : t.batt c = if c = j.p 0 1 then h else s.batt c := by
    rw [ht, batt_congr (finish_cap ..), he, setBatt_batt, hr']
    rfl
  have hsame : t.batt (j.p 0 1) = h := by rw [hbatt, if_pos rfl]
  refine ⟨?_, (hr ..).trans kstate, ?_, ?_, ?_, ?_, ?_, by rw [hsame, hpre], by rw [hsame, hpost], by rw [hsame, htrig],
    by rw [hsame, hrecs], fun c hc => by rw [hbatt, if_neg hc], ?_, konly.regs hregs⟩
  · have hdue := finish_started_due hj (job_congr (t := A) (by rw [hframe]) q i) .ok r0 pages
    rwa [Nat.mod_eq_of_lt hr0, Nat.mod_eq_of_lt (show pages < 2 ^ 64 by omega), ← ht] at hdue
  · exact (hr ..).trans (klane.trans (Nat.mod_eq_of_lt (show j.p 2 2 < 2 ^ 16 by omega)))
  · exact (hr ..).trans (ktype.trans (Nat.mod_eq_of_lt (show j.p 4 1 < 2 ^ 8 by omega)))
  · exact (hr ..).trans (kclass.trans (Nat.mod_eq_of_lt (show j.p 1 1 < 2 ^ 1 by omega)))
  · exact (hr ..).trans (kpages.trans (Nat.mod_eq_of_lt (show pages < 2 ^ 14 by omega)))
  · rw [hr, kfree, ktaken]
  · rw [ht, hframe]
    rfl

/-- The decimation that an armed batt shows, and the rate in use after it was armed. -/
theorem armAs_rate {s t : State} {j : Job} {k rate : Nat} (ht : t.regs = (s.armAs j k rate).regs) (hk : k < 8) :
    t.r F.CAP_BATT_STAT_LOG2_D (j.p 0 1) = k ∧ t.resRate = (s.armTaken j rate).resRate := by
  obtain ⟨mode, h, he, -⟩ := armAs_eq s j k rate
  obtain ⟨-, -, -, -, -, kdec, -, krate⟩ := armShown_reads (s.armTaken j rate) j k mode
  rw [he, setBatt_regs] at ht
  exact ⟨(r_congr ht ..).trans (kdec.trans (Nat.mod_eq_of_lt hk)), (r_congr ht ..).trans krate⟩

/-! ### CAPTURE_ABORT, R312, R313 -/

theorem exec_captureAbort {q : Fin 32768} {i : Fin 65536} {s : State} {j : Job} (h : s.started? 0x31 q i = some j)
    (hb : s.bistHolds j = false) : exec (.captureAbort q i) s = .next (s.captureAbort j) :=
  actJob_started (act := fun j s => s.captureAbort j) h hb

/-- The end of a batt gives its rate back, shows it DONE with its cause, changes the batts and posts CAPTURE_DONE, unless
the batt missed its trigger. -/
theorem battEnd_eq (s : State) (b : Nat) {cause : Nat} (hc : cause ≠ 4) : ∃ f v bt items,
    (f = F.CAP_OPP_RATE_RATE ∨ f = F.CAP_RES_RATE_RATE) ∧
    s.battEnd b cause = (((({ s with cap := { s.cap with batts := bt } } : State).w f 0 v).w F.CAP_BATT_STAT_STATE b 3).w
      F.CAP_BATT_STAT_END_CAUSE b cause).post capSrc 0x4002 items := by
  unfold battEnd rateBack
  dsimp only
  rw [if_neg hc]
  generalize hf : (if s.battOpp b = true then F.CAP_OPP_RATE_RATE else F.CAP_RES_RATE_RATE) = f
  have hf' : f = F.CAP_OPP_RATE_RATE ∨ f = F.CAP_RES_RATE_RATE := by
    rw [← hf]
    split
    · exact .inl rfl
    · exact .inr rfl
  obtain ⟨bt, h⟩ := each_setBatt _ (fun s c => { s.batt c with dead := true }) _
  rw [h]
  exact ⟨f, _, bt, _, hf', rfl⟩

/-- The registers that the end of batt b writes. -/
def endRegs (b : Nat) : List (Fld × Nat) :=
  [(F.CAP_RES_RATE_RATE, 0), (F.CAP_OPP_RATE_RATE, 0), (F.CAP_BATT_STAT_STATE, b), (F.CAP_BATT_STAT_END_CAUSE, b)]

theorem endRegs_live {s t : State} {b : Nat} (h : onlyRegs (endRegs b) s t) : t.live = s.live :=
  live_congr (h _ _ (by simp (decide := true) [endRegs]))

/-- A batt that ends is DONE with its cause, and its end is posted (R312). -/
theorem battEnd_spec {s t : State} (hl : s.live = true) {b cause : Nat} (hc : cause ≠ 4) (ht : s.battEnd b cause = t) :
    t.battState b = 3 ∧ t.r F.CAP_BATT_STAT_END_CAUSE b = cause % 2 ^ F.CAP_BATT_STAT_END_CAUSE.width ∧
      t.isHeld capSrc 0x4002 = true ∧ t = { s with regs := t.regs, cap := t.cap, held := t.held, occ := t.occ } ∧
      onlyRegs (endRegs b) s t := by
  obtain ⟨f, v, bt, items, hf, he⟩ := battEnd_eq s b hc
  generalize hu : (({ s with cap := { s.cap with batts := bt } } : State).w f 0 v) = u at he
  have honly : onlyRegs (endRegs b) s u := by
    rw [← hu]
    refine onlyRegs.w ((onlyRegs.refl _ s).regs rfl) v ?_
    rcases hf with rfl | rfl <;> simp [endRegs]
  have hframe : u = { s with regs := u.regs, cap := u.cap } := by rw [← hu]; rfl
  have hends : onlyRegs (endRegs b) s ((u.w F.CAP_BATT_STAT_STATE b 3).w F.CAP_BATT_STAT_END_CAUSE b cause) :=
    (honly.w 3 (by simp [endRegs])).w cause (by simp [endRegs])
  obtain rfl : _ = t := he.symm.trans ht
  refine ⟨?_, ?_, post_isHeld ((endRegs_live hends).trans hl) .., ?_, hends.regs (post_regs ..)⟩
  · rw [battState, r_post, r_w_ne _ _ (by decide), r_w_same]
    rfl
  · rw [r_post, r_w_same]
  · rw [post_parts, hframe]
    rfl

/-! The cases of CAPTURE_ABORT. -/

section
variable {s : State} {j : Job}

theorem captureAbort_bad (h : ¬(j.p 1 1 ≤ 1 ∧ j.pz 2 30 = true)) :
    s.captureAbort j = s.finish j.ring j.idx .badParam := by
  simp [captureAbort, h]

theorem captureAbort_notAllowed (h : j.p 1 1 ≤ 1 ∧ j.pz 2 30 = true)
    (hb : s.battState (j.p 0 1) = 0 ∨ s.battState (j.p 0 1) = 4) :
    s.captureAbort j = s.finish j.ring j.idx .notAllowed := by
  rcases hb with hb | hb <;> simp [captureAbort, h, hb]

theorem captureAbort_end (h : j.p 1 1 ≤ 1 ∧ j.pz 2 30 = true)
    (hb : s.battState (j.p 0 1) = 1 ∨ s.battState (j.p 0 1) = 2) (hf : j.p 1 1 = 0) :
    s.captureAbort j = (s.battEnd (j.p 0 1) 3).finish j.ring j.idx .ok := by
  rcases hb with hb | hb <;> simp [captureAbort, battActive, h, hb, hf]

theorem captureAbort_free (h : j.p 1 1 ≤ 1 ∧ j.pz 2 30 = true) (hb : s.battState (j.p 0 1) = 3) (hf : j.p 1 1 = 1) :
    s.captureAbort j = (s.battRelease (j.p 0 1)).await j.ring j.idx
      (if (s.battRelease (j.p 0 1)).battState (j.p 0 1) = 4 then [.battFree (j.p 0 1)] else []) := by
  simp [captureAbort, battActive, h, hb, hf]

end

/-- STATE is the first of the fields that a free batt has at 0, and no other is the same field. -/
theorem battFields : ∃ rest, fieldsOf F.CAP_BATT_STAT_STATE.base ++ fieldsOf F.CAP_BATT_INFO_TYPE.base =
    F.CAP_BATT_STAT_STATE :: rest ∧ ∀ f ∈ rest, F.CAP_BATT_STAT_STATE.id ≠ f.id := ⟨_, rfl, by decide⟩

theorem r_each_w_ne {l : List Fld} {g : Fld} (h : ∀ f ∈ l, g.id ≠ f.id) (s : State) (i v k : Nat) :
    (s.each l fun s f => s.w f i v).r g k = s.r g k := by
  induction l generalizing s with
  | nil => rfl
  | cons f l ih =>
    obtain ⟨hf, hl⟩ := List.forall_mem_cons.1 h
    exact (ih hl (s.w f i v)).trans (r_w_ne s v hf)

/-- Batt b is shown FREEING, the cause of its end cleared. -/
def releasing (s : State) (b : Nat) : State := (s.w F.CAP_BATT_STAT_STATE b 4).w F.CAP_BATT_STAT_END_CAUSE b 0

theorem releasing_reads (s : State) (b : Nat) :
    (s.releasing b).battState b = 4 ∧ (s.releasing b).r F.CAP_BATT_STAT_END_CAUSE b = 0 := by
  refine ⟨?_, by rw [releasing, r_w_same]; rfl⟩
  rw [releasing, battState, r_w_ne _ _ (by decide), r_w_same]
  rfl

/-- A batt with reads in flight is left FREEING. -/
theorem battRelease_reads {s : State} {b : Nat} (h : s.battReads b = true) : s.battRelease b = s.releasing b := by
  have hr : (s.releasing b).battReads b = true := h
  rw [battRelease, battSettle, if_neg (by rw [← releasing, hr]; simp)]
  rfl

/-- A freed batt has STATE 0 and nothing of its last use; only its registers, its own entry and the jobs that wait for it
change. -/
theorem battFree_spec (s : State) (b : Nat) : ∃ r,
    s.battFree b = (({ s with regs := r } : State).setBatt b {}).resolve (.battFree b) .ok ∧ (s.battFree b).battState b = 0 := by
  obtain ⟨rest, hfields, hrest⟩ := battFields
  have hframe : RegsOnly s (((s.w F.CAP_STAT_FREE_PAGES 0 (s.r F.CAP_STAT_FREE_PAGES + s.r F.CAP_BATT_STAT_PAGES b))).each
      (F.CAP_BATT_STAT_STATE :: rest) fun s f => s.w f b 0) := ((RegsOnly.refl s).w ..).each_w ..
  have hzero (t : State) : (t.each (F.CAP_BATT_STAT_STATE :: rest) fun s f => s.w f b 0).battState b = 0 := by
    rw [battState]
    exact (r_each_w_ne hrest _ b 0 b).trans ((r_w_same ..).trans (Nat.zero_mod _))
  obtain ⟨r, hr⟩ := hframe
  have hstate := hzero (s.w F.CAP_STAT_FREE_PAGES 0 (s.r F.CAP_STAT_FREE_PAGES + s.r F.CAP_BATT_STAT_PAGES b))
  rw [hr] at hstate
  have he : s.battFree b = (({ s with regs := r } : State).setBatt b {}).resolve (.battFree b) := by
    unfold battFree
    dsimp only
    rw [hfields, hr]
  exact ⟨r, he, by rw [he]; exact hstate⟩

/-- A batt that nothing reads is free at once. -/
theorem battRelease_free {s : State} {b : Nat} (h : s.battReads b = false) : ∃ r,
    s.battRelease b = (({ s with regs := r } : State).setBatt b {}).resolve (.battFree b) .ok ∧
      (s.battRelease b).battState b = 0 := by
  have hr : (s.releasing b).battReads b = false := h
  have he : s.battRelease b = (s.releasing b).battFree b := by
    rw [battRelease, battSettle, ← releasing, if_pos (by simp [hr, releasing_reads])]
  obtain ⟨r', hr'⟩ : RegsOnly s (s.releasing b) := ((RegsOnly.refl s).w ..).w ..
  obtain ⟨r, hf, hzero⟩ := battFree_spec (s.releasing b) b
  rw [he]
  refine ⟨r, ?_, hzero⟩
  rw [hf, hr']

/-- What the settling of a batt may change, and that it makes no job wait. -/
theorem battSettle_frame (s : State) (b : Nat) : ∃ r bt js,
    s.battSettle b = { s with regs := r, cap := { s.cap with batts := bt }, jobs := js } ∧
    ∀ x, s.awaited x = false → (s.battSettle b).awaited x = false := by
  unfold battSettle
  split
  · obtain ⟨r, he, -⟩ := battFree_spec s b
    rw [he]
    exact ⟨r, _, _, rfl, fun x hx => awaited_resolve_of_not (s := ({ s with regs := r } : State).setBatt b {}) hx _ _⟩
  · exact ⟨_, _, _, rfl, fun _ hx => hx⟩

theorem battSettle_done {s : State} {b : Nat} (h : s.battState b = 3) : s.battSettle b = s := by
  rw [battSettle, if_neg (by simp [h])]

/-! ### CAPTURE_READ and CAPTURE_READ_DONE, R315 -/

theorem exec_captureRead {q : Fin 32768} {i : Fin 65536} {s : State} {j : Job} (h : s.started? 0x32 q i = some j)
    (hb : s.bistHolds j = false) : exec (.captureRead q i) s = .next (s.captureRead j) :=
  actJob_started (act := fun j s => s.captureRead j) h hb

/-- The parameters of CAPTURE_READ keep their rules. -/
def readOk (j : Job) : Prop := j.pz 1 7 = true ∧ j.pz 24 8 = true ∧ 1 ≤ j.p 16 8 ∧ j.p 16 8 ≤ j.len1

/-- The copy that CAPTURE_READ asks for. -/
def copyOf (s : State) (j : Job) : CapRead :=
  { ring := j.ring, idx := j.idx, batt := j.p 0 1, offset := j.p 8 8,
    count := min (j.p 16 8) (s.imageSize (j.p 0 1) - j.p 8 8), addr := j.addr1, lost := j.lost }

section
variable {s : State} {j : Job}

theorem captureRead_bad (h : ¬readOk j ∨ (s.battState (j.p 0 1) = 3 ∧ s.imageSize (j.p 0 1) ≤ j.p 8 8)) :
    s.captureRead j = s.finish j.ring j.idx .badParam := by
  by_cases hok : readOk j
  · obtain ⟨hb, hsize⟩ := h.resolve_left fun hbad => hbad hok
    obtain ⟨h1, h2, h3, h4⟩ := hok
    simp [captureRead, h1, h2, h3, h4, hb, hsize]
  · have hbad : (j.pz 1 7 && j.pz 24 8 && decide (1 ≤ j.p 16 8) && decide (j.p 16 8 ≤ j.len1)) = false := by
      simpa [readOk, and_assoc] using hok
    simp [captureRead, hbad]

theorem captureRead_notAllowed (h : readOk j) (hb : s.battState (j.p 0 1) ≠ 3) :
    s.captureRead j = s.finish j.ring j.idx .notAllowed := by
  obtain ⟨h1, h2, h3, h4⟩ := h
  simp [captureRead, h1, h2, h3, h4, hb]

theorem captureRead_copies (h : readOk j) (hb : s.battState (j.p 0 1) = 3) (ho : j.p 8 8 < s.imageSize (j.p 0 1)) :
    s.captureRead j = ({ s with cap := { s.cap with reads := s.cap.reads ++ [s.copyOf j] } } : State).await
      j.ring j.idx [.capRead j.ring j.idx] .ok (s.copyOf j).count := by
  obtain ⟨h1, h2, h3, h4⟩ := h
  simp [captureRead, copyOf, h1, h2, h3, h4, hb, Nat.not_le.2 ho]

end

/-- CAPTURE_READ of a DONE batt leaves a copy in flight, for which its job waits. -/
theorem captureRead_asked {s t : State} {q i : Nat} {j : Job} (hj : s.started? 0x32 q i = some j)
    (ht : ({ s with cap := { s.cap with reads := s.cap.reads ++ [s.copyOf j] } } : State).await
      j.ring j.idx [.capRead j.ring j.idx] .ok (s.copyOf j).count = t) :
    t.waits q i [.capRead q i] ∧
      t.cap.reads = s.cap.reads ++
        [{ ring := q, idx := i, batt := j.p 0 1, offset := j.p 8 8,
           count := min (j.p 16 8) (s.imageSize (j.p 0 1) - j.p 8 8), addr := j.addr1, lost := j.lost }] ∧
      t = { s with jobs := t.jobs, cap := { s.cap with reads := t.cap.reads } } := by
  obtain ⟨rfl, rfl⟩ := job_place (started_job hj).1
  have hwaits := await_started_waits hj
    (t := ({ s with cap := { s.cap with reads := s.cap.reads ++ [s.copyOf j] } } : State)) (job_congr rfl _ _)
    (ws := [.capRead j.ring j.idx]) (by simp) .ok (s.copyOf j).count 0
  rw [ht] at hwaits
  subst ht
  exact ⟨hwaits, rfl, rfl⟩

theorem exec_captureReadDone {s : State} (k : Fin 4096) (hl : s.live = true) (hb : s.bistTests 1 = false) :
    exec (.captureReadDone k) s = .next (s.captureReadDone k) := by
  show whenLive s (fun s => if !s.bistTests 1 then s.captureReadDone k else s) = _
  simp [whenLive, hl, hb]

/-- The state with the bytes of the copy in host memory and its job told. -/
def copied (s : State) (k : Nat) (r : CapRead) : State :=
  ({ s.granted 3 r.ring with
      cap := { s.cap with reads := s.cap.reads.eraseIdx k },
      hostMem := s.hostMem.writeBytes r.addr (((s.battImage r.batt).drop r.offset).take r.count) } : State).resolve
    (.capRead r.ring r.idx)

section
variable {s : State} {k : Nat} {r : CapRead} (h : s.cap.reads[k]? = some r) (hlost : r.lost = false)
include h hlost

theorem captureReadDone_blocked (hc : s.canIssue = false) : s.captureReadDone k = s := by
  simp [captureReadDone, h, hlost, hc]

theorem captureReadDone_waits (hc : s.canIssue = true) (ht : s.outTurn r.ring r.idx = false) : s.captureReadDone k =
    { s with cap := { s.cap with reads := s.cap.reads.set k { r with ready := true } } } := by
  simp [captureReadDone, h, hlost, hc, ht]

theorem captureReadDone_writes (hc : s.canIssue = true) (ht : s.outTurn r.ring r.idx = true) :
    s.captureReadDone k = (s.copied k r).battSettle r.batt := by
  simp only [captureReadDone, h, hlost, hc, ht]
  rfl

end

theorem onlyBytes_write {s t : State} {a n : Nat} {bs : List Nat} (h : t.hostMem = s.hostMem.writeBytes a bs)
    (hn : bs.length ≤ n) : onlyBytes a n s t := by
  intro x hx
  rw [h]
  exact Mem.read_writeBytes_of_lt _ _ _ _ (by omega)

/-- A copy that has its turn puts its bytes into host memory and is no longer awaited. -/
theorem captureReadDone_spec {s t : State} {k : Nat} {r : CapRead} (ht : (s.copied k r).battSettle r.batt = t) :
    t.cap.reads = s.cap.reads.eraseIdx k ∧
      t.hostMem = s.hostMem.writeBytes r.addr (((s.battImage r.batt).drop r.offset).take r.count) ∧
      onlyBytes r.addr r.count s t ∧ t.awaited (.capRead r.ring r.idx) = false ∧
      (s.battState r.batt = 3 → t.regs = s.regs) ∧ t.arb = s.arb.set 3 (r.ring + 1) 0 ∧
      t = { s with regs := t.regs, cap := t.cap, jobs := t.jobs, hostMem := t.hostMem, arb := t.arb } := by
  obtain ⟨rg, bt, js, he, hwait⟩ := battSettle_frame (s.copied k r) r.batt
  have hmem : t.hostMem = s.hostMem.writeBytes r.addr (((s.battImage r.batt).drop r.offset).take r.count) := by
    rw [← ht, he]
    rfl
  refine ⟨by rw [← ht, he]; rfl, hmem, onlyBytes_write hmem (List.length_take_le ..),
    ht ▸ hwait _ (awaited_resolve ..), fun hd => ?_, by rw [← ht, he]; rfl, ?_⟩
  · rw [← ht, battSettle_done (s := s.copied k r) hd]
    rfl
  · rw [← ht, he]
    rfl

/-- CAPTURE_ABORT of an armed or written batt ends it with cause 3. -/
theorem captureAbort_ended {s t : State} {q i : Nat} {j : Job} (hj : s.started? 0x31 q i = some j)
    (ht : (s.battEnd (j.p 0 1) 3).finish j.ring j.idx .ok = t) :
    t.due q i .ok 0 0 ∧ t.battState (j.p 0 1) = 3 ∧ t.r F.CAP_BATT_STAT_END_CAUSE (j.p 0 1) = 3 ∧
      t.isHeld capSrc 0x4002 = true ∧
      t = { s with regs := t.regs, cap := t.cap, held := t.held, occ := t.occ, jobs := t.jobs } ∧
      onlyRegs (endRegs (j.p 0 1)) s t := by
  obtain ⟨-, hserv, -, -⟩ := started_job hj
  generalize hu : s.battEnd (j.p 0 1) 3 = u at ht
  obtain ⟨hstate, hcause, hheld, hframe, honly⟩ := battEnd_spec (serviced_live hserv) (by decide) hu
  have hdue := finish_started_due hj (t := u) (job_congr (by rw [hframe]) q i) .ok 0 0
  subst ht
  exact ⟨hdue, hstate, hcause, hheld, by rw [hframe]; rfl, honly.regs (finish_regs ..)⟩

/-- CAPTURE_ABORT with FREE of a batt that nothing reads: it is FREE at once. -/
theorem captureAbort_freed {s t : State} {q i : Nat} {j : Job} (hj : s.started? 0x31 q i = some j)
    (hr : s.battReads (j.p 0 1) = false)
    (ht : (s.battRelease (j.p 0 1)).await j.ring j.idx
      (if (s.battRelease (j.p 0 1)).battState (j.p 0 1) = 4 then [.battFree (j.p 0 1)] else []) = t) :
    t.due q i .ok 0 0 ∧ t.battState (j.p 0 1) = 0 ∧ t.batt (j.p 0 1) = {} ∧
      t = { s with regs := t.regs, cap := t.cap, jobs := t.jobs } := by
  obtain ⟨r, he, hzero⟩ := battRelease_free hr
  rw [hzero, if_neg (by decide)] at ht
  have hjob : (s.battRelease (j.p 0 1)).job? q i = s.job? q i := by
    rw [he]
    exact job_resolve_started hj (t := ({ s with regs := r } : State).setBatt (j.p 0 1) {}) rfl _ _
  have hdue := finish_started_due hj hjob .ok 0 0
  generalize s.battRelease (j.p 0 1) = u at *
  have ht' : u.finish j.ring j.idx .ok = t := ht
  subst ht'
  refine ⟨hdue, hzero, ?_, ?_⟩
  · rw [batt_congr (finish_cap ..), he, batt_congr (resolve_cap ..), setBatt_batt, if_pos rfl]
  · rw [he]
    rfl

/-- CAPTURE_ABORT with FREE of a batt that is read: it is FREEING and the job waits. -/
theorem captureAbort_freeing {s t : State} {q i : Nat} {j : Job} (hj : s.started? 0x31 q i = some j)
    (hr : s.battReads (j.p 0 1) = true)
    (ht : (s.battRelease (j.p 0 1)).await j.ring j.idx
      (if (s.battRelease (j.p 0 1)).battState (j.p 0 1) = 4 then [.battFree (j.p 0 1)] else []) = t) :
    t.waits q i [.battFree (j.p 0 1)] ∧ t.battState (j.p 0 1) = 4 ∧ t.r F.CAP_BATT_STAT_END_CAUSE (j.p 0 1) = 0 ∧
      t = { s with regs := t.regs, jobs := t.jobs } ∧
      onlyRegs [(F.CAP_BATT_STAT_STATE, j.p 0 1), (F.CAP_BATT_STAT_END_CAUSE, j.p 0 1)] s t := by
  obtain ⟨hstate, hcause⟩ := releasing_reads s (j.p 0 1)
  rw [battRelease_reads hr, hstate, if_pos rfl] at ht
  have hwaits := await_started_waits hj (t := s.releasing (j.p 0 1)) rfl (ws := [.battFree (j.p 0 1)]) (by simp) .ok 0 0
  subst ht
  exact ⟨hwaits, hstate, hcause, rfl,
    (((onlyRegs.refl _ s).w 4 (by simp)).w 0 (by simp)).regs rfl⟩

end State

/-- Settles O43: case by case of the four commands, with the batt's arming, end and release as one lemma each. -/
theorem captureCommands : Obligations.CaptureCommands := by
  unfold Obligations.CaptureCommands
  refine ⟨fun q i s j hb => ⟨fun hj => ?arm, fun hj => ?abort, fun hj => ?read⟩, fun k s r hl hbist hr hlost => ?done⟩
  case arm =>
    have hexec := State.exec_captureArm hj hb
    refine ⟨fun hok => ?_, fun hok ha => ?_, fun hok ha hfree => ⟨fun hx => ?_, fun hp hc => ?_, fun hp hc k hk hbud => ?_⟩⟩
    · exact State.completes_only hj (hexec.trans (by rw [State.captureArm_bad hok]))
    · exact State.completes_only hj (hexec.trans (by rw [State.captureArm_notAllowed hok ha]))
    · exact State.completes_only hj (hexec.trans (by rw [State.captureArm_exhausted hok ha hx]))
    · rw [State.captureArm_opportunistic hok ha hp hc] at hexec
      refine ⟨_, hexec, State.armAs_armed hj hok hfree rfl hp (by decide) rfl, ?_⟩
      exact (State.armAs_rate (State.finish_regs ..) (by decide)).2.trans (State.armTaken_resRate_opportunistic hc)
    · obtain ⟨hk8, hfit⟩ := State.admission_fits hk
      rw [State.captureArm_reserved hok ha hp hc hk] at hexec
      obtain ⟨hdec, hrate⟩ := State.armAs_rate (State.finish_regs ..) hk8
      have hres := hrate.trans (State.armTaken_resRate_reserved hc (Nat.lt_of_le_of_lt hfit hbud))
      exact ⟨_, hexec, State.armAs_armed hj hok hfree rfl hp (by omega) rfl, hres, Nat.le_trans (Nat.le_of_eq hres) hfit, hdec⟩
  case abort =>
    have hexec := State.exec_captureAbort hj hb
    refine ⟨fun hok => ?_, fun hok hs => ?_, fun hok hs hf => ?_, fun hok hs hf hr => ?_, fun hok hs hf hr => ?_⟩
    · exact State.completes_only hj (hexec.trans (by rw [State.captureAbort_bad hok]))
    · exact State.completes_only hj (hexec.trans (by rw [State.captureAbort_notAllowed hok hs]))
    · rw [State.captureAbort_end hok hs hf] at hexec
      exact ⟨_, hexec, State.captureAbort_ended hj rfl⟩
    · rw [State.captureAbort_free hok hs hf] at hexec
      exact ⟨_, hexec, State.captureAbort_freed hj hr rfl⟩
    · rw [State.captureAbort_free hok hs hf] at hexec
      exact ⟨_, hexec, State.captureAbort_freeing hj hr rfl⟩
  case read =>
    have hexec := State.exec_captureRead hj hb
    refine ⟨fun hok hs => ?_, fun hbad => ?_, fun hok hs ho => ?_⟩
    · exact State.completes_only hj (hexec.trans (by rw [State.captureRead_notAllowed hok hs]))
    · exact State.completes_only hj (hexec.trans (by rw [State.captureRead_bad hbad]))
    · rw [State.captureRead_copies hok hs ho] at hexec
      exact ⟨_, hexec, State.captureRead_asked hj rfl⟩
  case done =>
    have hexec := State.exec_captureReadDone k hl hbist
    refine ⟨fun hc => ?_, fun hc ht => ?_, fun hc ht => ?_⟩
    · rw [hexec, State.captureReadDone_blocked hr hlost hc]
    · exact ⟨_, hexec, State.captureReadDone_waits hr hlost hc ht⟩
    · rw [State.captureReadDone_writes hr hlost hc ht] at hexec
      exact ⟨_, hexec, State.captureReadDone_spec rfl⟩

end Sys2Proof.Machine
end

section
/-! PROOF. Three statements that a state the model can hold refutes: two ask for the completion of a job that need not be
unfinished, the third for a result beyond 64 bits. -/

namespace Sys2Proof.Machine

open Sys2Proof

/-- The job at (q, i) in the state that a command answers with. -/
def jobAfter (c : Instr) (s : State) (q i : Nat) : Option Job :=
  match exec c s with
  | .next t => t.job? q i
  | _ => none

/-- What a job is due with after a command is what the command leaves at its place. -/
theorem due_jobAfter {c : Instr} {s t : State} {q i : Nat} {st : Status} {r0 r1 : Nat} (ht : exec c s = .next t)
    (h : t.due q i st r0 r1) : ∃ j, jobAfter c s q i = some j ∧ j.status = st ∧ j.r0 = r0 := by
  obtain ⟨j, hj, -, hst, hr0, -⟩ := h
  exact ⟨j, by rw [jobAfter, ht]; exact hj, hst, hr0⟩

/-- The job at ring index (0, 0), already due with OK. -/
def okJob : Job := { ring := 0, idx := 0, desc := [], phase := .due }

/-- In RUN an explicit commit waits for the temperatures although its job is due with OK already. -/
def commitOfDueJob : State :=
  { regs := Regs.set [] F.SYS_STATE_STATE 0 DevState.run.code, jobs := [okJob],
    nvm := { running := some { commit := { explicit := true }, phase := .waitTemp, deadline := 0 } } }

/-- The timeout leaves that job as it is. -/
theorem commitOfDueJob_stays_ok : jobAfter .nvmCommitTimeout commitOfDueJob 0 0 = some okJob := by decide

/-- Refutes O40: the statement asks that NVM_COMMIT_TIMEOUT leaves the commit's job due with THERMAL_INHIBIT whatever
the job's phase, but a job that is due already keeps the completion it has, here OK. -/
theorem not_commits : ¬ Obligations.Commits := by
  rintro ⟨-, h⟩
  obtain ⟨-, -, -, -, -, -, hport⟩ := h commitOfDueJob (by decide)
  obtain ⟨-, -, -, t, ht, -, -, -, -, -, -, hdue, -⟩ := hport _ rfl rfl
  obtain ⟨j, hj, hst, -⟩ := due_jobAfter ht (hdue rfl okJob (by decide))
  cases commitOfDueJob_stays_ok.symm.trans hj
  cases hst

/-- In RUN engine 0 still holds a job whose completion is due with OK already. -/
def engineOfDueJob : State :=
  { regs := Regs.set [] F.SYS_STATE_STATE 0 DevState.run.code, jobs := [okJob],
    plank := { engines := [(0, [{ job := okJob }])] } }

/-- The fault of the engine leaves that job as it is. -/
theorem engineOfDueJob_stays_ok : jobAfter (.plankEngineFault 0) engineOfDueJob 0 0 = some okJob := by decide

/-- Refutes O45: the statement asks that PLANK_ENGINE_FAULT leaves the engine's job due with INTERNAL whatever the job's
phase, but a job that is due already keeps the completion it has, here OK. -/
theorem not_plank : ¬ Obligations.Plank := by
  rintro ⟨-, h⟩
  obtain ⟨-, -, hfault⟩ := h engineOfDueJob (by decide)
  obtain ⟨t, ht, -, -, -, -, -, hdue, -⟩ := hfault 0 (by decide)
  obtain ⟨j, hj, hst, -⟩ := due_jobAfter ht (hdue { job := okJob } okJob (by decide) rfl (by decide))
  cases engineOfDueJob_stays_ok.symm.trans hj
  cases hst

/-- A started TELEMETRY_SUBSCRIBE that stops subscription 0. -/
def stopJob : Job := { ring := 0, idx := 0, desc := [0x60], phase := .started }

/-- In RUN subscription 0 of registers runs, its last SEQ being 2 ^ 64. -/
def seqBeyondResult : State :=
  { regs := (Regs.set [] F.SYS_STATE_STATE 0 DevState.run.code).set F.SYS_TLM_STAT_STATE 0 1, jobs := [stopJob],
    subs := [(0, { op := 1, seq := 2 ^ 64 })] }

/-- Its stop completes with OK and RESULT0 0. -/
theorem seqBeyondResult_completes_zero :
    jobAfter (.telemetrySubscribe 0 0) seqBeyondResult 0 0 = some { stopJob with phase := .due } := by decide

/-- Refutes O60: the statement asks that the stop of a subscription completes with its last SEQ, but RESULT0 has 64 bits
(R282) and the model's SEQ is not bounded by them: with a last SEQ of 2 ^ 64 the completion gives 0. -/
theorem not_telemetry : ¬ Obligations.Telemetry := by
  rintro ⟨-, h⟩
  obtain ⟨-, hstop, -⟩ := h 0 0 seqBeyondResult stopJob (by decide) (by decide)
  obtain ⟨-, hrun, -⟩ := hstop (by decide) (by decide)
  obtain ⟨t, ht, hdue, -⟩ := hrun (by decide) (by decide)
  obtain ⟨j, hj, -, hr0⟩ := due_jobAfter ht hdue
  cases seqBeyondResult_completes_zero.symm.trans hj
  exact absurd hr0 (by decide)

end Sys2Proof.Machine
end

section
/-! PROOF. The state after reset (R81, R84), the automatic causes of SAFE and the reference clock (R89, R90, R428, R460). -/

namespace Sys2Proof.Machine

open Sys2Proof

/-! ### The state after reset -/

/-- After reset every field but the cause of RESET holds its reset value. -/
theorem State.reset_r {f : Fld} {i : Nat} (h : f.id ≠ F.SYS_RST_CAUSE_POWER.id) : State.reset.r f i = f.resetAt i := by
  show (({} : State).w F.SYS_RST_CAUSE_POWER 0 1).r f i = _
  rw [State.r_w_ne _ _ h]
  rfl

/-- Settles O5: both memories are empty, and RESET is a legal state. -/
theorem resetMeetsInvariants : Obligations.ResetMeetsInvariants := by
  unfold Obligations.ResetMeetsInvariants
  refine ⟨⟨rfl, rfl⟩, ?_⟩
  show State.reset.r F.SYS_STATE_STATE ≤ 7
  rw [State.reset_r (by decide)]
  decide

/-- Settles O6: a field the reset does not write reads its reset value. -/
theorem resetState : Obligations.ResetState := by
  unfold Obligations.ResetState
  refine ⟨by decide, by decide, State.reset_r (by decide), rfl, rfl, rfl, rfl, fun q => ⟨?_, ?_⟩, fun n => ⟨?_, ?_, ?_, ?_⟩,
    fun b => ?_, fun c => ?_, State.reset_r (by decide), State.reset_r (by decide)⟩
  all_goals exact State.reset_r (by decide)

/-! ### The automatic causes of SAFE -/

namespace State

/-- With no transition under way no host request was accepted in this instant: a trigger simply acts. -/
theorem outranking_quiet {s : State} (h : s.sys.trans = []) (act : State → State) : s.outranking act = act s := by
  simp [outranking, reqNow, h]

theorem transAll_quiet {s : State} (h : s.sys.trans = []) : s.transAll = s := by
  have hstep : s.transStep = s := by simp [transStep, h]
  rw [transAll, hstep, hstep, hstep]

/-- The transition that an automatic cause puts under way where none is. -/
def safeNext (s : State) : List Trans := if s.dev = .run then [⟨.safe, s.now, none⟩] else []

theorem autoSafe_quiet {s : State} (h : s.sys.trans = []) :
    s.autoSafe = { s with sys := { s.sys with trans := s.safeNext } } := by
  have hcoming : s.comingState = s.dev := by simp [comingState, h]
  unfold autoSafe safeNext
  rw [hcoming]
  by_cases hrun : s.dev = .run
  · simp [hrun, changeState, changeTo, h]
  · simp [hrun, ← h]

theorem isHeld_congr {s t : State} (h : t.held = s.held) (src code : Nat) : t.isHeld src code = s.isHeld src code := by
  rw [isHeld, h, isHeld]

theorem safeNext_congr {s t : State} (hr : t.r F.SYS_STATE_STATE = s.r F.SYS_STATE_STATE) (hn : t.now = s.now) :
    t.safeNext = s.safeNext := by rw [safeNext, dev_congr hr, hn, safeNext]

theorem serviced_not_boot {s : State} (h : s.serviced = true) : s.dev ≠ .boot := by
  intro hd
  simp [serviced, hd] at h

/-- LINK_DOWN_TIMEOUT out of L0. -/
theorem exec_linkDownTimeout {s : State} (hs : s.serviced = true) (ht : s.sys.trans = []) (hl : s.pcie.linkL0 = false)
    (hr : s.pcie.ready = true) : exec .linkDownTimeout s =
      .next { s.w F.SYS_SAFE_CAUSE_LINK_DOWN 0 1 with pcie := { s.pcie with linkDown := true },
                                                      sys := { s.sys with trans := s.safeNext } } := by
  show whenLive s linkDownNow = _
  have hnext : (State.w { s with pcie := { s.pcie with linkDown := true } } F.SYS_SAFE_CAUSE_LINK_DOWN 0 1).safeNext =
      s.safeNext := safeNext_congr (r_w_ne _ _ (by decide)) rfl
  rw [whenLive, serviced_live hs, if_pos rfl, linkDownNow, if_neg (by simp [hl, hr]), outranking_quiet ht, ← hnext]
  exact congrArg Host.Outcome.next (autoSafe_quiet (s := State.w { s with pcie := { s.pcie with linkDown := true } }
    F.SYS_SAFE_CAUSE_LINK_DOWN 0 1) ht)

/-- The first expiry of the watchdog: its cause of SAFE and its event. -/
def watchdogMark (s : State) : State := (s.w F.SYS_SAFE_CAUSE_FW_WATCHDOG 0 1).post sysSrc 0xA004

/-- The same with SAFE on its way and the firmware anew. -/
def watchdogSafe (s : State) : State :=
  { s.watchdogMark with sys := { s.sys with wdAt := s.now, trans := s.safeNext } }

/-- What the first expiry with a good image leaves. -/
def watchdogFirst (s : State) : State := s.watchdogSafe.post sysSrc 0xA00B [(4, s.r F.SYS_FW_VER_VALUE)]

theorem watchdogMark_regs (s : State) : s.watchdogMark.regs = (s.w F.SYS_SAFE_CAUSE_FW_WATCHDOG 0 1).regs := by
  simp [watchdogMark]

theorem watchdogMark_r {s : State} {f : Fld} (h : f.id ≠ F.SYS_SAFE_CAUSE_FW_WATCHDOG.id) (i : Nat) :
    s.watchdogMark.r f i = s.r f i := (r_congr s.watchdogMark_regs f i).trans (r_w_ne _ _ h)

theorem watchdogMark_dev (s : State) : s.watchdogMark.dev = s.dev := dev_congr (watchdogMark_r (by decide) 0)

theorem watchdogMark_autoSafe {s : State} (h : s.sys.trans = []) :
    s.watchdogMark.autoSafe = { s.watchdogMark with sys := { s.sys with trans := s.safeNext } } := by
  have hsys : s.watchdogMark.sys = s.sys := by simp [watchdogMark]
  have hnow : s.watchdogMark.now = s.now := by simp [watchdogMark]
  rw [autoSafe_quiet (hsys ▸ h), safeNext_congr (watchdogMark_r (by decide) 0) hnow, hsys]

theorem watchdogExpired_first {s : State} (hs : s.serviced = true) (ht : s.sys.trans = [])
    (hw : s.r F.SYS_SAFE_CAUSE_FW_WATCHDOG = 0) : s.watchdogExpired true = s.watchdogFirst := by
  have hboot := serviced_not_boot hs
  have hnow : s.watchdogMark.now = s.now := by simp [watchdogMark]
  have hver : s.watchdogMark.r F.SYS_FW_VER_VALUE = s.r F.SYS_FW_VER_VALUE := watchdogMark_r (by decide) 0
  rw [watchdogExpired, outranking_quiet ht, transAll_quiet ht]
  show (if s.on F.SYS_SAFE_CAUSE_FW_WATCHDOG || s.watchdogMark.dev == .boot then s.watchdogMark.faultEnter 1 0
    else s.watchdogMark.autoSafe.firmwareRestart true) = _
  rw [if_neg (by simp [on, hw, watchdogMark_dev, hboot]), watchdogMark_autoSafe ht, watchdogFirst, watchdogSafe,
    ← hver, ← hnow]
  rfl

theorem exec_watchdogExpired {s : State} (hs : s.serviced = true) (ht : s.sys.trans = [])
    (hw : s.r F.SYS_SAFE_CAUSE_FW_WATCHDOG = 0) : exec (.watchdogExpired true) s = .next s.watchdogFirst := by
  have hboot := serviced_not_boot hs
  show Host.Outcome.next (if s.bootPhase 4 || s.bootPhase 5 then s else if s.live then s.watchdogExpired true
    else if s.dev == .fault then s.watchdogFatal else s) = _
  rw [if_neg (by simp [bootPhase, hboot]), serviced_live hs, if_pos rfl, watchdogExpired_first hs ht hw]

/-- Posting an event changes what is held and what occurred, and nothing else. -/
theorem post_exists (s : State) (src code : Nat) (l : List (Nat × Nat)) :
    ∃ held occ, s.post src code l = { s with held := held, occ := occ } := ⟨_, _, post_parts ..⟩

theorem watchdogFirst_parts (s : State) :
    s.watchdogFirst = { s with regs := s.watchdogFirst.regs, sys := { s.sys with wdAt := s.now, trans := s.safeNext },
                               held := s.watchdogFirst.held, occ := s.watchdogFirst.occ } := by
  obtain ⟨held, occ, hmark⟩ := post_exists (s.w F.SYS_SAFE_CAUSE_FW_WATCHDOG 0 1) sysSrc 0xA004 []
  obtain ⟨held', occ', hfirst⟩ := post_exists s.watchdogSafe sysSrc 0xA00B [(4, s.r F.SYS_FW_VER_VALUE)]
  rw [watchdogFirst, hfirst, watchdogSafe, watchdogMark, hmark]
  rfl

theorem watchdogFirst_regs (s : State) : s.watchdogFirst.regs = (s.w F.SYS_SAFE_CAUSE_FW_WATCHDOG 0 1).regs :=
  (post_regs ..).trans s.watchdogMark_regs

theorem watchdogFirst_isHeld {s : State} (h : s.live = true) :
    s.watchdogFirst.isHeld sysSrc 0xA004 = true ∧ s.watchdogFirst.isHeld sysSrc 0xA00B = true := by
  have hlive : (s.w F.SYS_SAFE_CAUSE_FW_WATCHDOG 0 1).live = true := (live_congr (r_w_ne _ _ (by decide))).trans h
  have hmark : s.watchdogMark.isHeld sysSrc 0xA004 = true := post_isHeld hlive ..
  have hsafe : s.watchdogSafe.live = true := (live_congr (watchdogMark_r (by decide) 0)).trans h
  have hheld : s.watchdogSafe.isHeld sysSrc 0xA004 = true := (isHeld_congr rfl ..).trans hmark
  exact ⟨post_held hheld, post_isHeld hsafe ..⟩

end State

/-- Settles O19: with no transition under way an automatic cause acts at once and puts SAFE on its way. -/
theorem safeAndClock : Obligations.SafeAndClock := by
  unfold Obligations.SafeAndClock
  refine ⟨fun s hs ht => ⟨fun hl hr => ⟨_, State.exec_linkDownTimeout hs ht hl hr, rfl, ?_, ?_, rfl⟩,
    fun hw => ⟨_, State.exec_watchdogExpired hs ht hw, ?_, ?_, ?_, ?_, State.watchdogFirst_parts s⟩,
    ⟨_, ?_, rfl⟩⟩, fun s => ⟨⟨_, rfl, rfl, rfl, rfl⟩, ⟨_, rfl, rfl, rfl, rfl⟩⟩⟩
  · exact State.r_w_same ..
  · exact ((onlyRegs.refl _ s).w 1 (List.mem_singleton_self _)).regs rfl
  · exact (State.r_congr (State.watchdogFirst_regs s) _ _).trans (State.r_w_same ..)
  · exact (State.watchdogFirst_isHeld (State.serviced_live hs)).1
  · exact (State.watchdogFirst_isHeld (State.serviced_live hs)).2
  · exact ((onlyRegs.refl _ s).w 1 (List.mem_singleton_self _)).regs (State.watchdogFirst_regs s)
  · show execWatchdogRestart s = _
    rw [execWatchdogRestart, whenLive, State.serviced_live hs, if_pos rfl]

end Sys2Proof.Machine
end

section
/-! PROOF. The dump (R440-R444): where the header of a flash summary holds its tag. -/

namespace Sys2Proof.Machine

open Sys2Proof

namespace State

/-- The header of a dump up to FW_SEQ, which stands at 0x30 (R442). -/
def headerStart (s e : State) (dest : Nat) (l : List Section) : List Nat :=
  leBytes 4 0x504D4452 ++ leBytes 2 1 ++ leBytes 2 (l.length + 1) ++ leBytes 8 (dumpSize l) ++
    leBytes 8 (e.r F.SYS_FAULT_TIME_TIME) ++ leBytes 8 s.sysTime ++ leBytes 8 e.poweredS ++
    [e.r F.SYS_FAULT_CAUSE_CAUSE, e.r F.SYS_FAULT_CAUSE_DETAIL, e.r F.SYS_FAULT_CAUSE_PREV_STATE, dest] ++
    leBytes 4 (e.r F.SYS_FW_VER_VALUE)

theorem headerStart_length (s e : State) (dest : Nat) (l : List Section) : (headerStart s e dest l).length = 0x30 := by
  simp [headerStart, leBytes_length]

theorem dumpHeader_fwSeq (s e : State) (dest : Nat) (l : List Section) :
    ∃ rest, s.dumpHeader e dest l = headerStart s e dest l ++ (leBytes 4 (e.r F.SYS_FW_SEQ_VALUE) ++ rest) := by
  simp only [dumpHeader, headerStart, List.append_assoc]
  exact ⟨_, rfl⟩

theorem dumpEnd_summary (s : State) : s.dumpEnd.sys.summary = s.sys.summary := rfl

theorem flashDumpWrite_summary (s : State) (fw : List Nat) : (s.flashDumpWrite fw).sys.summary =
    s.dumpHeader s.faultView 1 (s.faultView.flashSections fw) ++
      (s.faultView.flashSections fw).flatMap fun x => x.data := rfl

/-- A chip in DUMP that writes the flash summary of a FAULT with tag 1 and no firmware sequence. -/
def tagged : State :=
  let s := State.reset.w F.SYS_STATE_STATE 0 7
  { s with sys := { s.sys with dump := some .flash, tag := 1 } }

theorem tagged_dev : tagged.dev = .dump := by decide
theorem tagged_temp : tagged.nvmTempBad = false := by decide

theorem tagged_dumpComplete : exec (.dumpComplete []) tagged = .next (tagged.flashDumpWrite []).dumpEnd := by
  show Host.Outcome.next (tagged.dumpComplete []) = _
  rw [dumpComplete, if_neg (by simp [tagged_dev])]
  show Host.Outcome.next (tagged.summaryDone []).dumpEnd = _
  rw [summaryDone, tagged_temp]
  rfl

end State

/-- At 0x30 a summary holds FW_SEQ: where that is 0 the eight bytes there are a multiple of 2^32. -/
theorem leAt_eight_of_zero {start rest : List Nat} (h : start.length = 0x30) :
    leAt (start ++ (leBytes 4 0 ++ rest)) 0x30 8 = 2 ^ 32 * leVal (rest.take 4) := by
  have hdrop : (start ++ (leBytes 4 0 ++ rest)).drop 0x30 = leBytes 4 0 ++ rest := by rw [← h, List.drop_left]
  rw [leAt, hdrop]
  simp only [leBytes, leVal, List.cons_append, List.nil_append, List.take_succ_cons]
  omega

/-- Refutes O57: in the header of a dump HOST_TAG stands at 0x38 (R442), and at 0x30, where the statement looks for it, is
FW_SEQ. With tag 1 and FW_SEQ 0 the finished summary does not hold the tag there. -/
theorem not_dump : ¬ Obligations.Dump := by
  unfold Obligations.Dump
  rintro ⟨-, -, h⟩
  obtain ⟨-, -, -, -, hdone⟩ := h State.tagged State.tagged_dev
  obtain ⟨-, -, -, hflash, -⟩ := hdone []
  obtain ⟨t, ht, -, -, -, -, -, htag, -⟩ := hflash rfl State.tagged_temp
  cases State.tagged_dumpComplete.symm.trans ht
  obtain ⟨rest, hrest⟩ :=
    State.tagged.dumpHeader_fwSeq State.tagged.faultView 1 (State.tagged.faultView.flashSections [])
  have hseq : State.tagged.faultView.r F.SYS_FW_SEQ_VALUE = 0 := by decide
  have hone : State.tagged.sys.tag = 1 := rfl
  rw [State.dumpEnd_summary, State.flashDumpWrite_summary, hrest, hseq, List.append_assoc, List.append_assoc,
    leAt_eight_of_zero (State.headerStart_length ..), hone] at htag
  omega

end Sys2Proof.Machine
end

section
/-! PROOF. Margins (R70, R76): CRITICAL of an island whose register does not hold a value of its field. -/

namespace Sys2Proof.Machine

open Sys2Proof

namespace State

/-- A device in RUN with lane 0 in payload, rail 0 at its cap, and a register file that holds 2 in CRITICAL of island 0,
a field of one bit. -/
def criticalTwo : State :=
  let s := ((State.reset.w F.SYS_STATE_STATE 0 4).w F.LANE_STAT_STATE 0 4).w F.SYS_RAIL_STAT_SETPOINT 0 850
  { s with regs := Tab.set s.regs F.SYS_ISL_MARGIN_CRITICAL.id [(0, 2)] [] }

/-- What island 0 shows after a measurement that sustains nothing. -/
def criticalAfter : State := criticalTwo.marginMeasure 0 0

theorem criticalAfter_margin : criticalAfter.r F.SYS_ISL_MARGIN_MARGIN 0 = 0 := by decide

/-- The step to CRITICAL is not taken: the field is not 0. -/
theorem criticalAfter_critical : criticalAfter.r F.SYS_ISL_MARGIN_CRITICAL 0 = 2 := by decide

theorem exec_criticalTwo : exec (.marginMeasure 0 0) criticalTwo = .next criticalAfter := by
  have hrun : (criticalTwo.live || criticalTwo.frozen) = true := by decide
  show Host.Outcome.next (if criticalTwo.live || criticalTwo.frozen then criticalAfter else criticalTwo) = _
  rw [if_pos hrun]

end State

/-- Refutes O20: with its rail at the cap and no margin, an island whose CRITICAL holds 2 keeps that 2, and the statement
wants 1. The statement asks for no register file that holds only values of its fields. -/
theorem not_fabric : ¬ Obligations.Fabric := by
  unfold Obligations.Fabric
  rintro ⟨hmeasure, -⟩
  obtain ⟨t, ht, hclauses, -⟩ := hmeasure 0 0 State.criticalTwo (by decide)
  obtain ⟨-, -, -, -, hcapped, -⟩ := hclauses
  cases State.exec_criticalTwo.symm.trans ht
  have hlow : State.criticalAfter.r F.SYS_ISL_MARGIN_MARGIN 0 < State.criticalTwo.minMargin 0 := by
    rw [State.criticalAfter_margin]
    decide
  have hcap : State.criticalTwo.atCap (railOf 0) = true := by decide
  have hcritical := (hcapped hlow hcap).2 (by decide) (by rw [Fin.val_zero, State.criticalAfter_margin]; decide)
  exact absurd (State.criticalAfter_critical.symm.trans hcritical) (by decide)

end Sys2Proof.Machine
end

section
/-! PROOF. The link, bus mastering and the endpoint resets (R85, R90, R267, R292). -/

namespace Sys2Proof.Machine

open Sys2Proof

namespace State

/-! ### Requests become allowed -/

theorem subGrant_no_subs {s : State} (h : s.subs = []) : s.subGrant = s := by simp [subGrant, h]

/-- The messages that waited leave. -/
def issued (s : State) : State :=
  { s with msiSent := s.msiSent ++ s.pcie.msiWait.map s.message,
           pcie := { s.pcie with msiWait := [], tableWait := [], tableFail := s.pcie.tableFail.filter fun _ => true } }

/-- Where no ring table is waited for and no telemetry runs, requests that become allowed let the messages go, or nothing. -/
theorem requestsAllowed_eq {s : State} (hw : s.pcie.tableWait = []) (hs : s.subs = []) :
    s.requestsAllowed = if s.canIssue && s.serviced then s.issued else s := by
  have hflush : s.flushIssue = if s.canIssue && s.serviced then s.issued else s := by
    by_cases h : (s.canIssue && s.serviced) = true
    · simp only [flushIssue, h, hw, issued]
      rfl
    · simp [flushIssue, h]
  have hsubs : s.flushIssue.subs = [] := by
    rw [hflush]
    split <;> exact hs
  rw [requestsAllowed, subGrant_no_subs hsubs, hflush]

/-- What requests that become allowed send, and what they leave. -/
theorem requestsAllowed_sent {s : State} (hw : s.pcie.tableWait = []) (hs : s.subs = []) :
    s.requestsAllowed.msiSent =
        s.msiSent ++ (if s.requestsAllowed.canIssue && s.serviced then s.pcie.msiWait.map s.message else []) ∧
      s.requestsAllowed.pcie.msiWait = (if s.requestsAllowed.canIssue && s.serviced then [] else s.pcie.msiWait) ∧
      s.requestsAllowed = { s with pcie := s.requestsAllowed.pcie, msiSent := s.requestsAllowed.msiSent } ∧
      s.requestsAllowed.pcie.linkL0 = s.pcie.linkL0 ∧ s.requestsAllowed.pcie.linkDown = s.pcie.linkDown ∧
      s.requestsAllowed.pcie.bme = s.pcie.bme ∧ s.requestsAllowed.pcie.d3hot = s.pcie.d3hot := by
  rw [requestsAllowed_eq hw hs]
  by_cases h : (s.canIssue && s.serviced) = true
  · have hissued : (s.issued.canIssue && s.serviced) = true := h
    rw [if_pos h, if_pos hissued, if_pos hissued]
    exact ⟨rfl, rfl, rfl, rfl, rfl, rfl, rfl⟩
  · rw [if_neg h, if_neg h, if_neg h]
    exact ⟨(List.append_nil _).symm, rfl, rfl, rfl, rfl, rfl, rfl⟩

/-! ### The ring engine without RESET -/

theorem markDelayed_codes (s : State) : s.markDelayed.held.map Held.code = s.held.map Held.code := by
  simp [markDelayed, Function.comp_def]

/-- A deletion of fields gives them their reset values and keeps the others. -/
theorem get_foldl_del (l : List Fld) (r : Regs) (f : Fld) (i : Nat) :
    Regs.get (l.foldl (fun r g => Tab.del r g.id) r) f i = if f.id ∈ l.map Fld.id then f.resetAt i else r.get f i := by
  induction l generalizing r with
  | nil => simp
  | cons g l ih =>
    rw [List.foldl_cons, ih]
    by_cases hl : f.id ∈ l.map Fld.id
    · rw [if_pos hl, if_pos (by simp [hl])]
    · by_cases hg : f.id = g.id
      · rw [if_neg hl, if_pos (by simp [hg]), Regs.get, Tab.get_del, if_pos hg]
        rfl
      · rw [if_neg hl, if_neg (by simpa [hg] using hl), Regs.get, Tab.get_del, if_neg hg]
        rfl

/-- The fields of a ring that its reset clears. -/
def ringFields : List Fld :=
  [F.RNG_CTL_ENABLE, F.RNG_STAT_ERR, F.RNG_STAT_OVERFLOW, F.RNG_STAT_PHASE, F.RNG_STAT_ENABLE_PENDING,
    F.RNG_STAT_TYPE, F.RNG_STAT_STATE, F.RNG_IDX_HOST_IDX, F.RNG_IDX_DEV_IDX, F.RNG_CNT_COUNT]

theorem ringEngineReset_r (s : State) (f : Fld) (i : Nat) :
    s.ringEngineReset.r f i = if f.id ∈ ringFields.map Fld.id then f.resetAt i else s.r f i := get_foldl_del ..

theorem ringEngineReset_codes (s : State) : s.ringEngineReset.held.map Held.code = s.held.map Held.code :=
  markDelayed_codes _

/-- A fold whose every step leaves the state alone. -/
theorem each_fixed {α : Type} {s : State} {l : List α} {g : State → α → State} (h : ∀ a, g s a = s) : s.each l g = s := by
  induction l with
  | nil => rfl
  | cons a l ih =>
    show (g s a).each l g = s
    rw [h a, ih]

/-- Without a running subscription the endpoint's reset is that of the ring engine. -/
theorem endpointReset_eq {s : State} (hl : s.live = true) (hsub : ∀ k, s.r F.SYS_TLM_STAT_STATE k = 0) :
    s.endpointReset = s.jobsLost.ringEngineReset := by
  rw [endpointReset, if_neg (by simp [live_not_frozen hl]), each_fixed fun k => by simp [subStopped, on, hsub k]]

/-- The state after the ring engine's reset, with the function's configuration `p` and the system's record `y`. -/
def engineReset (s : State) (p : Pcie) (y : SysH) : State :=
  State.markDelayed { s.jobsLost.ringEngineReset with pcie := p, sys := y }

theorem engineReset_r (s : State) (p : Pcie) (y : SysH) (f : Fld) (i : Nat) :
    (s.engineReset p y).r f i = if f.id ∈ ringFields.map Fld.id then f.resetAt i else s.r f i :=
  s.jobsLost.ringEngineReset_r f i

theorem engineReset_rings (s : State) (p : Pcie) (y : SysH) (q : Nat) :
    (s.engineReset p y).r F.RNG_STAT_STATE q = 0 ∧ (s.engineReset p y).r F.RNG_STAT_TYPE q = 0 ∧
      (s.engineReset p y).r F.RNG_IDX_DEV_IDX q = 0 :=
  ⟨(s.engineReset_r p y _ q).trans (if_pos (by decide)), (s.engineReset_r p y _ q).trans (if_pos (by decide)),
    (s.engineReset_r p y _ q).trans (if_pos (by decide))⟩

theorem engineReset_dev (s : State) (p : Pcie) (y : SysH) : (s.engineReset p y).dev = s.dev :=
  dev_congr ((s.engineReset_r p y _ 0).trans (if_neg (by decide)))

theorem engineReset_codes (s : State) (p : Pcie) (y : SysH) :
    (s.engineReset p y).held.map Held.code = s.held.map Held.code :=
  (markDelayed_codes _).trans s.jobsLost.ringEngineReset_codes

theorem engineReset_only (s : State) (p : Pcie) (y : SysH) : onlyFields ringFields s (s.engineReset p y) :=
  fun f i h => (s.engineReset_r p y f i).trans (if_neg h)

theorem engineReset_parts (s : State) (p : Pcie) (y : SysH) :
    s.engineReset p y = { s with regs := (s.engineReset p y).regs, pcie := p, held := (s.engineReset p y).held, rings := [],
                                 jobs := [], grants := [], orphans := (s.engineReset p y).orphans,
                                 cap := (s.engineReset p y).cap, plank := (s.engineReset p y).plank,
                                 hb := (s.engineReset p y).hb, nvm := (s.engineReset p y).nvm,
                                 msp := (s.engineReset p y).msp, fab := (s.engineReset p y).fab, sys := y } := rfl

/-- What a reset of the ring engine leaves, O18's list. -/
def EngineReset (s t : State) : Prop :=
  (∀ q, t.r F.RNG_STAT_STATE q = 0 ∧ t.r F.RNG_STAT_TYPE q = 0 ∧ t.r F.RNG_IDX_DEV_IDX q = 0) ∧ t.jobs = [] ∧
    t.rings = [] ∧ t.pcie.msiWait = [] ∧ t.pcie.msixPend = [] ∧ t.dev = s.dev ∧
    t.held.map Held.code = s.held.map Held.code ∧ sameBytes s t ∧
    t = { s with regs := t.regs, pcie := t.pcie, held := t.held, rings := [], jobs := [], grants := [],
                 orphans := t.orphans, cap := t.cap, plank := t.plank, hb := t.hb, nvm := t.nvm, msp := t.msp, fab := t.fab,
                 sys := t.sys } ∧
    onlyFields ringFields s t

theorem engineReset_spec (s : State) {p : Pcie} (y : SysH) (hwait : p.msiWait = []) (hpend : p.msixPend = []) :
    EngineReset s (s.engineReset p y) :=
  ⟨s.engineReset_rings p y, rfl, rfl, hwait, hpend, s.engineReset_dev p y, s.engineReset_codes p y, fun _ => rfl,
    s.engineReset_parts p y, s.engineReset_only p y⟩

/-- The endpoint's record after the ring engine's reset. -/
def quietPcie (s : State) : Pcie := { s.pcie with msixPend := [], msiWait := [], tableWait := [], tableFail := [] }

end State

/-! ### The commands of the link and of the endpoint where the function is there -/

section
variable {s : State} (h : (s.live || s.frozen) = true)
include h

theorem whenBooted_next (t : State → State) : whenBooted s t = .next (t s) := by
  rw [whenBooted, State.booted, if_pos h]

theorem exec_endpointReady : exec .endpointReady s =
    .next { s with pcie := { s.pcie with ready := true }, sys := { s.sys with perstLow := false, perstUntil := 0 } } :=
  whenBooted_next h fun s => { s with pcie := { s.pcie with ready := true },
                                      sys := { s.sys with perstLow := false, perstUntil := 0 } }

theorem exec_linkL0Entry : exec .linkL0Entry s = .next s.linkEntry := whenBooted_next h _

theorem exec_linkL0Exit : exec .linkL0Exit s = .next s.linkExit := whenBooted_next h _

theorem exec_busMasterEnableWrite (b : Bool) : exec (.busMasterEnableWrite b) s =
    .next (State.markDelayed { s with pcie := { s.pcie with bme := b } }).requestsAllowed :=
  whenBooted_next h fun s => (State.markDelayed { s with pcie := { s.pcie with bme := b } }).requestsAllowed

theorem exec_d3hotExit : exec .d3hotExit s =
    .next (State.requestsAllowed { s with pcie := { s.pcie with d3hot := false } }) :=
  whenBooted_next h fun s => State.requestsAllowed { s with pcie := { s.pcie with d3hot := false } }

end

section
variable {s : State} (hl : s.live = true) (hsub : ∀ k, s.r F.SYS_TLM_STAT_STATE k = 0)
include hl hsub

theorem exec_perstEndpointReset (hm : s.r F.SYS_RESET_CFG_PERST_MODE ≠ 0) : exec .perstEndpointReset s = .next
    (s.engineReset { s.quietPcie with bme := false, d3hot := false, msix := [], unmasked := [], ready := false, linkL0 := false }
      { s.sys with perstLow := true, perstUntil := s.now + perstLength s }) := by
  refine (whenBooted_next (by rw [hl, Bool.true_or]) fun s =>
    if s.on F.SYS_RESET_CFG_PERST_MODE then s.perstEndpoint (perstLength s) else s).trans ?_
  rw [if_pos (by simp [State.on, hm]), State.perstEndpoint, State.endpointReset_eq hl hsub]
  rfl

theorem exec_functionLevelReset : exec .functionLevelReset s = .next
    (s.engineReset { s.quietPcie with bme := false, d3hot := false, msix := [], unmasked := [] } s.sys) := by
  refine (whenBooted_next (by rw [hl, Bool.true_or]) fun s => s.endpointReset.functionReset.markDelayed).trans ?_
  rw [State.endpointReset_eq hl hsub]
  rfl

theorem exec_d3hotEntry : exec .d3hotEntry s = .next (s.engineReset { s.quietPcie with d3hot := true } s.sys) := by
  refine (whenBooted_next (by rw [hl, Bool.true_or]) fun s =>
    State.markDelayed { s.endpointReset with pcie := { s.endpointReset.pcie with d3hot := true } }).trans ?_
  rw [State.endpointReset_eq hl hsub]
  rfl

end

/-- Settles O18: where nothing but messages waits, allowed requests send those; a reset of the endpoint is that of the ring
engine with the function's configuration set by the command. -/
theorem linkAndEndpoint : Obligations.LinkAndEndpoint := by
  unfold Obligations.LinkAndEndpoint
  constructor
  · intro s hb hw hs
    refine ⟨⟨_, exec_endpointReady hb, rfl, rfl, rfl⟩, fun hr => ?_, fun hd => ?_, fun b => ?_, ?_⟩
    · obtain ⟨hsent, hwait, hparts, hlink, hdown, -⟩ := State.requestsAllowed_sent
        (s := { s with pcie := { s.pcie with linkL0 := true, linkDown := false } }) hw hs
      refine ⟨_, (exec_linkL0Entry hb).trans (by rw [State.linkEntry, if_pos hr]), hlink, hdown, hsent, hwait, ?_⟩
      rw [hparts]
    · have hlost : s.hostDumpLost = s := by simp [State.hostDumpLost, hd]
      exact ⟨_, (exec_linkL0Exit hb).trans (by rw [State.linkExit, hlost]), rfl, rfl⟩
    · obtain ⟨hsent, hwait, hparts, -, -, hbme, -⟩ := State.requestsAllowed_sent
        (s := State.markDelayed { s with pcie := { s.pcie with bme := b } }) hw hs
      refine ⟨_, exec_busMasterEnableWrite hb b, hbme, hsent, hwait, ?_⟩
      rw [hparts]
      rfl
    · obtain ⟨hsent, hwait, hparts, -, -, -, hhot⟩ := State.requestsAllowed_sent
        (s := { s with pcie := { s.pcie with d3hot := false } }) hw hs
      refine ⟨_, exec_d3hotExit hb, hhot, hsent, hwait, ?_⟩
      rw [hparts]
  · intro s hl hsub
    exact ⟨fun hm => ⟨_, exec_perstEndpointReset hl hsub hm, s.engineReset_spec _ rfl rfl, rfl, rfl, rfl, rfl, rfl, rfl⟩,
      ⟨_, exec_functionLevelReset hl hsub, s.engineReset_spec _ rfl rfl, rfl, rfl, rfl, rfl⟩,
      ⟨_, exec_d3hotEntry hl hsub, s.engineReset_spec _ rfl rfl, rfl, rfl, rfl, rfl⟩⟩

end Sys2Proof.Machine
end

section
/-! PROOF. Entry into RESET and its end (R74, R81, R84, R429, R433). -/

namespace Sys2Proof.Machine

open Sys2Proof

theorem onlyRegs.trans {l : List (Fld × Nat)} {s t u : State} (h : onlyRegs l s t) (k : onlyRegs l t u) : onlyRegs l s u :=
  fun f i hf => (k f i hf).trans (h f i hf)

theorem onlyRegs.mono {l k : List (Fld × Nat)} {s t : State} (h : onlyRegs l s t) (hk : l ⊆ k) : onlyRegs k s t :=
  fun f i hf => h f i fun hm => hf (List.map_subset _ hk hm)

/-- An empty register file holds reset values. -/
theorem regs_get_nil (g : Fld) (i : Nat) : Regs.get [] g i = g.resetAt i := by
  unfold Regs.get Tab.get
  rfl

namespace State

/-! ### Programming stops -/

/-- A stop of the programming changes the NVM's own record, what the bank that is not active shows, and how many free
values were taken. -/
theorem nvmStop_exists (s : State) : ∃ regs nvm fresh, s.nvmStop false = { s with regs := regs, nvm := nvm, fresh := fresh } := by
  unfold nvmStop
  cases s.nvm.running with
  | none => exact ⟨s.regs, s.nvm, s.fresh, rfl⟩
  | some r =>
    obtain ⟨c, ph, st, dl, fl, tg⟩ := r
    cases ph <;> exact ⟨_, _, _, rfl⟩

theorem nvmStop_idle {s : State} (h : s.nvm.running = none) : s.nvmStop false = s := by simp [nvmStop, h]

/-! ### The registers in RESET -/

theorem get_foldl_copy_ne (l : List Fld) (r a : Regs) {f : Fld} (hf : f.id ∉ l.map Fld.id) (i : Nat) :
    Regs.get (l.foldl (fun a f => a.set f 0 (r.get f 0)) a) f i = a.get f i := by
  induction l generalizing a with
  | nil => rfl
  | cons g l ih =>
    rw [List.map_cons, List.mem_cons, not_or] at hf
    rw [List.foldl_cons, ih _ hf.2, Regs.get_set_ne hf.1]

/-- Copied one after the other, fields of different numbers hold what they held, cut to their widths. -/
theorem get_foldl_copy {l : List Fld} (hl : (l.map Fld.id).Nodup) (r a : Regs) {f : Fld} (hf : f ∈ l) :
    Regs.get (l.foldl (fun a f => a.set f 0 (r.get f 0)) a) f 0 = r.get f 0 % 2 ^ f.width := by
  induction l generalizing a with
  | nil => exact absurd hf List.not_mem_nil
  | cons g l ih =>
    rw [List.map_cons, List.nodup_cons] at hl
    rw [List.foldl_cons]
    obtain rfl | hf := List.mem_cons.1 hf
    · rw [get_foldl_copy_ne l _ _ hl.1, Regs.get_set_same]
    · exact ih hl.2 _ hf

/-- The causes of RESET. -/
def resetCauses : List Fld :=
  [F.SYS_RST_CAUSE_POWER, F.SYS_RST_CAUSE_PIN, F.SYS_RST_CAUSE_SOFT, F.SYS_RST_CAUSE_PCIE, F.SYS_RST_CAUSE_THERMAL]

theorem perstCause_r {s : State} {f : Fld} (h : f.id ≠ F.SYS_RST_CAUSE_PCIE.id) (i : Nat) : s.perstCause.r f i = s.r f i := by
  unfold perstCause
  split
  · exact r_w_ne _ _ h
  · rfl

theorem perstCause_pcie {s : State} (h : s.r F.SYS_RST_CAUSE_PCIE = 1) : s.perstCause.r F.SYS_RST_CAUSE_PCIE = 1 := by
  unfold perstCause
  split
  · exact r_w_same ..
  · exact h

/-- A cause of RESET recorded where PERST_N may add its own. -/
theorem cause_recorded (s : State) {f : Fld} (hf : f ∈ resetCauses) : (s.w f 0 1).perstCause.r f = 1 := by
  simp only [resetCauses, List.mem_cons, List.not_mem_nil, or_false] at hf
  obtain rfl | rfl | rfl | rfl | rfl := hf
  case inr.inr.inr.inl => exact perstCause_pcie (r_w_same ..)
  all_goals exact (perstCause_r (by decide) 0).trans (r_w_same ..)

/-- Recording a cause changes no other field. -/
theorem cause_keeps (s : State) {f g : Fld} (hf : f ∈ resetCauses) (hg : g.id ∉ resetCauses.map Fld.id) (i : Nat) :
    (s.w f 0 1).perstCause.r g i = s.r g i := by
  have hne : ∀ c ∈ resetCauses, g.id ≠ c.id := fun c hc e => by
    rw [e] at hg
    exact hg (List.mem_map_of_mem hc)
  rw [perstCause_r (hne _ (by simp [resetCauses])), r_w_ne _ _ (hne f hf)]

/-- What outlasts PERST_N being looked at: all but the registers. -/
theorem perstCause_exists (s : State) : ∃ regs, s.perstCause = { s with regs := regs } := by
  unfold perstCause
  split
  · exact ⟨_, rfl⟩
  · exact ⟨_, rfl⟩

/-! ### Entry into RESET -/

/-- A device in RESET for cause `f`, as O17 lists it. -/
def InReset (s : State) (f : Fld) (t : State) : Prop :=
  t.dev = .reset ∧ t.r f = 1 ∧ t.jobs = [] ∧ t.rings = [] ∧ t.held = [] ∧ t.ramps = [] ∧ t.subs = [] ∧
    t.hostMem = s.hostMem ∧ t.msiSent = s.msiSent ∧ t.arb = [] ∧ t.tx = [] ∧ t.fab = {} ∧ sameBytes s t

/-- Every field but the causes and the kept ones holds its reset value, and the kept ones what they held. -/
def Cleared (s : State) (kept : List Fld) (t : State) : Prop :=
  (∀ g i, g.id ∉ (kept ++ resetCauses).map Fld.id → t.r g i = g.resetAt i) ∧ ∀ g ∈ kept, t.r g = s.r g % 2 ^ g.width

/-- A state without jobs, rings and the rest, with reset values in its registers, is one in RESET once the cause is
recorded. -/
theorem inReset_of_blank {s u : State} {f : Fld} (hf : f ∈ resetCauses) (hstate : u.r F.SYS_STATE_STATE = 1)
    (hu : ∃ regs nvm fresh ns sys, u = { s.blank with regs := regs, nvm := nvm, fresh := fresh, poweredNs := ns, sys := sys }) :
    InReset s f (u.w f 0 1).perstCause := by
  obtain ⟨regs', hregs'⟩ := perstCause_exists (u.w f 0 1)
  have hdev : (u.w f 0 1).perstCause.dev = .reset := by
    rw [dev, cause_keeps u hf (by decide), hstate]
    rfl
  have hcause := cause_recorded u hf
  obtain ⟨regs, nvm, fresh, ns, sys, rfl⟩ := hu
  rw [hregs'] at hdev hcause ⊢
  exact ⟨hdev, hcause, rfl, rfl, rfl, rfl, rfl, rfl, rfl, rfl, rfl, rfl, fun _ => rfl⟩

theorem resetRegs_reset (r : Regs) {g : Fld} (hg : g.id ∉ keptFields.map Fld.id) (i : Nat) :
    Regs.get (resetRegs r) g i = g.resetAt i := get_foldl_copy_ne _ _ _ hg i

theorem resetRegs_kept (r : Regs) {g : Fld} (hg : g ∈ keptFields) : Regs.get (resetRegs r) g 0 = r.get g 0 % 2 ^ g.width :=
  get_foldl_copy (by decide) _ _ hg

/-- The state that enters RESET before its cause is recorded. -/
def resetBlank (s : State) : State :=
  let t := s.nvmStop false
  let u := { t.blank with regs := resetRegs t.regs }
  { u with sys := { u.sys with thermalHold := s.sys.thermalHold, shutPost := s.sys.shutPost } }

theorem enterReset_eq (s : State) (f : Fld) : s.enterReset f = (s.resetBlank.w f 0 1).perstCause := rfl

theorem resetBlank_reset (s : State) {g : Fld} (hg : g.id ∉ keptFields.map Fld.id) (i : Nat) :
    s.resetBlank.r g i = g.resetAt i := resetRegs_reset _ hg i

theorem enterReset_inReset (s : State) {f : Fld} (hf : f ∈ resetCauses) : InReset s f (s.enterReset f) := by
  rw [enterReset_eq]
  refine inReset_of_blank hf (s.resetBlank_reset (by decide) 0) ?_
  obtain ⟨regs, nvm, fresh, hstop⟩ := s.nvmStop_exists
  rw [resetBlank, hstop]
  exact ⟨_, _, _, _, _, rfl⟩

theorem enterReset_cleared {s : State} (h : s.nvm.running = none) {f : Fld} (hf : f ∈ resetCauses) :
    Cleared s keptFields (s.enterReset f) := by
  rw [enterReset_eq]
  refine ⟨fun g i hg => ?_, fun g hg => ?_⟩
  · rw [List.map_append, List.mem_append, not_or] at hg
    rw [cause_keeps _ hf hg.2, s.resetBlank_reset hg.1]
  · have hne : ∀ g ∈ keptFields, g.id ∉ resetCauses.map Fld.id := by decide
    rw [cause_keeps _ hf (hne g hg)]
    refine (resetRegs_kept _ hg).trans ?_
    rw [nvmStop_idle h]
    rfl

/-- A cause of RESET out of RESET enters it. -/
theorem resetCause_enters {s : State} (h : (s.live || s.frozen) = true) (f : Fld) : s.resetCause f = s.enterReset f := by
  unfold resetCause
  cases hd : s.dev <;> simp_all [live, frozen]

theorem resetCause_in {s : State} (h : s.dev = .reset) (f : Fld) : s.resetCause f = s.w f 0 1 := by
  rw [resetCause, h]

end State

/-! ### SYS_SWRST -/

/-- The word of SYS_SWRST. -/
theorem locate_swrst : locate 12 = some (⟨0xC, 1, [], [F.SYS_SWRST_KEY]⟩, 0, 0) := by decide

theorem State.wordDo_swrst (s : State) (m : Master) : s.wordDo m 12 0xD192 = s.resetCause F.SYS_RST_CAUSE_SOFT := by
  have hignored : s.writeIgnored ⟨0xC, 1, [], [F.SYS_SWRST_KEY]⟩ 0 = false := by
    rw [State.writeIgnored, if_neg (by decide), if_neg (by decide), State.bistLocks]
    simp (decide := true)
  rw [State.wordDo, locate_swrst]
  dsimp only
  rw [hignored]
  simp (decide := true)

theorem State.accessForm_swrst : State.accessForm 12 4 = true := by decide

/-- The key written to SYS_SWRST is a cause of RESET; the access leaves no error where it led there. -/
theorem State.busWrite_swrst {s : State} (m : Master) (h : s.booted = true)
    (hr : (s.resetCause F.SYS_RST_CAUSE_SOFT).booted = false) :
    s.busWrite m 12 4 true [0xD192] = s.resetCause F.SYS_RST_CAUSE_SOFT := by
  rw [State.busWrite, State.accessForm_swrst]
  show s.writeWords m 12 [(12, 0xD192)] = _
  rw [State.writeWords]
  simp only [List.foldl_cons, List.foldl_nil, State.busWriteWord, h, if_true, State.wordDo_swrst, hr]
  rfl

theorem State.InReset.booted {s t : State} {f : Fld} (h : State.InReset s f t) : t.booted = false := by
  obtain ⟨hdev, -⟩ := h
  simp [State.booted, State.live, State.frozen, hdev]

theorem exec_sysSwrst {s : State} (h : (s.live || s.frozen) = true) (m : Master) :
    exec (.sysSwrst m) s = .next (s.enterReset F.SYS_RST_CAUSE_SOFT) := by
  have henter := State.resetCause_enters h F.SYS_RST_CAUSE_SOFT
  refine (whenBooted_next h fun s => s.busWrite m 12 4 true [0xD192]).trans ?_
  rw [State.busWrite_swrst m h (henter ▸ (s.enterReset_inReset (by decide)).booted), henter]

/-! ### The pins -/

/-- RST_N is low for a time that is the host's choice. -/
def State.rstAsserted (s t : State) : State := { t with sys := { t.sys with rstUntil := s.now + Config.unstated 18 s.now } }

theorem exec_resetPin {s : State} (h : (s.live || s.frozen) = true) :
    exec .resetPin s = .next (s.rstAsserted (s.enterReset F.SYS_RST_CAUSE_PIN)) := by
  obtain ⟨hdev, -⟩ := s.enterReset_inReset (f := F.SYS_RST_CAUSE_PIN) (by decide)
  show Host.Outcome.next (rstPin s) = _
  rw [rstPin, State.resetCause_enters h]
  exact congrArg Host.Outcome.next (if_pos (by simp [State.powered, hdev]))

theorem exec_resetPin_reset {s : State} (h : s.dev = .reset) :
    exec .resetPin s = .next (s.rstAsserted (s.w F.SYS_RST_CAUSE_PIN 0 1)) := by
  have hdev : (s.w F.SYS_RST_CAUSE_PIN 0 1).dev = .reset := (State.dev_congr (State.r_w_ne _ _ (by decide))).trans h
  show Host.Outcome.next (rstPin s) = _
  rw [rstPin, State.resetCause_in h]
  exact congrArg Host.Outcome.next (if_pos (by simp [State.powered, hdev]))

/-- PERST_N is low. -/
def State.perstAsserted (s : State) : State := { s with sys := { s.sys with perstLow := true, perstUntil := 0 } }

theorem exec_pcieFundamentalReset {s : State} (hm : s.r F.SYS_RESET_CFG_PERST_MODE = 0) :
    exec .pcieFundamentalReset s = .next (s.perstAsserted.resetCause F.SYS_RST_CAUSE_PCIE) := by
  show Host.Outcome.next (if s.on F.SYS_RESET_CFG_PERST_MODE then s else s.perstAsserted.resetCause F.SYS_RST_CAUSE_PCIE) = _
  rw [if_neg (by simp [State.on, hm])]

/-! ### Power -/

/-- The state before the cause of a power-up is recorded. -/
def State.powerBlank (s : State) : State := { s.blank with poweredNs := 0, nvm := { bytes := s.nvm.bytes } }

theorem State.powerBlank_r (s : State) (g : Fld) (i : Nat) : s.powerBlank.r g i = g.resetAt i := by
  show Regs.get [] g i = _
  rw [regs_get_nil]

theorem exec_powerUp {s : State} (h : s.dev = .off) :
    exec .powerUp s = .next (s.powerBlank.w F.SYS_RST_CAUSE_POWER 0 1).perstCause := by
  show Host.Outcome.next s.powerUp = _
  rw [State.powerUp, if_neg (by simp [State.powered, h])]
  rfl

theorem State.powerUp_inReset (s : State) :
    State.InReset s F.SYS_RST_CAUSE_POWER (s.powerBlank.w F.SYS_RST_CAUSE_POWER 0 1).perstCause :=
  State.inReset_of_blank (by decide) ((s.powerBlank_r ..).trans (by decide)) ⟨_, _, _, _, _, rfl⟩

theorem State.powerUp_cleared (s : State) :
    State.Cleared s [] (s.powerBlank.w F.SYS_RST_CAUSE_POWER 0 1).perstCause :=
  ⟨fun g i hg => (State.cause_keeps _ (by decide) hg i).trans (s.powerBlank_r g i), fun g hg => absurd hg List.not_mem_nil⟩

theorem State.powerUp_ns (s : State) : (s.powerBlank.w F.SYS_RST_CAUSE_POWER 0 1).perstCause.poweredNs = 0 := by
  obtain ⟨regs, hregs⟩ := State.perstCause_exists (s.powerBlank.w F.SYS_RST_CAUSE_POWER 0 1)
  rw [hregs]
  rfl

/-- A device whose power is gone. -/
def State.darkened (s : State) : State :=
  { (s.nvmStop false).blank with
    regs := Regs.set [] F.SYS_STATE_STATE 0 DevState.off.code,
    hk := { (s.nvmStop false).blank.hk with
            offOut := (List.range 48).map fun c => (s.r F.HK_DAC_STAT_RANGE c, s.r F.HK_DAC_CFG_CLEAR c) } }

theorem exec_powerDown {s : State} (h : s.powered = true) : exec .powerDown s = .next s.darkened := by
  show Host.Outcome.next s.powerDown = _
  rw [State.powerDown, if_neg (by simp [h])]
  rfl

theorem State.darkened_r {s : State} {g : Fld} (hg : g.id ≠ F.SYS_STATE_STATE.id) (i : Nat) :
    s.darkened.r g i = g.resetAt i := by
  show Regs.get (Regs.set [] F.SYS_STATE_STATE 0 DevState.off.code) g i = _
  rw [Regs.get_set_ne hg, regs_get_nil]

theorem State.darkened_hostMem (s : State) : s.darkened.hostMem = s.hostMem := by
  obtain ⟨regs, nvm, fresh, hstop⟩ := s.nvmStop_exists
  show (s.nvmStop false).hostMem = s.hostMem
  rw [hstop]

/-! ### The end of RESET -/

namespace State

theorem railh_setRail (s : State) (r k : Nat) (h : RailH) :
    (s.setRail r h).railh k = if k = r then h else s.railh k := Tab.get_set ..

/-- Of the state only the fabric may differ, and of the supply loop only rail `r`. -/
def OnlyRail (r : Nat) (s t : State) : Prop := (∃ fab, t = { s with fab := fab }) ∧ ∀ k, k ≠ r → t.railh k = s.railh k

theorem OnlyRail.refl (r : Nat) (s : State) : OnlyRail r s s := ⟨⟨s.fab, rfl⟩, fun _ _ => rfl⟩

theorem OnlyRail.setRail {r : Nat} {s t : State} (h : OnlyRail r s t) (x : RailH) : OnlyRail r s (t.setRail r x) := by
  obtain ⟨⟨fab, rfl⟩, hk⟩ := h
  exact ⟨⟨_, rfl⟩, fun k hne => (railh_setRail _ r k x).trans ((if_neg hne).trans (hk k hne))⟩

/-- Fewer than three failures in a row are counted and nothing else. -/
theorem avsCount_few {s : State} {r : Nat} (h : (s.railh r).fails < 2) (ok : Bool) :
    s.avsCount r ok = s.setRail r { s.railh r with fails := if ok then 0 else (s.railh r).fails + 1 } := by
  refine if_neg ?_
  cases ok
  · simpa using h
  · simp

/-- The transition rate of rail r is written, or its first transaction fails. -/
theorem railSlew_spec {s : State} {r : Nat} (h : (s.railh r).fails = 0) (ok : Bool) :
    OnlyRail r s (s.railSlew r ok) ∧ ((s.railSlew r ok).railh r).fails < 2 ∧
      (ok = true → ((s.railSlew r ok).railh r).slew = 1) := by
  cases ok with
  | false =>
    have heq : s.railSlew r false = s.setRail r { s.railh r with fails := (s.railh r).fails + 1 } :=
      avsCount_few (s := s) (by rw [h]; exact Nat.two_pos) false
    rw [heq, railh_setRail, if_pos rfl, h]
    exact ⟨(OnlyRail.refl r s).setRail _, Nat.one_lt_two, fun hn => absurd hn (by decide)⟩
  | true =>
    have hr : (s.setRail r { s.railh r with slew := 1 }).railh r = { s.railh r with slew := 1 } := by
      rw [railh_setRail, if_pos rfl]
    have heq : s.railSlew r true = (s.setRail r { s.railh r with slew := 1 }).setRail r
        { s.railh r with slew := 1, fails := 0 } := by
      refine (avsCount_few (s := s.setRail r { s.railh r with slew := 1 }) (by rw [hr, h]; decide) true).trans ?_
      rw [hr]
      rfl
    rw [heq, railh_setRail, if_pos rfl]
    exact ⟨((OnlyRail.refl r s).setRail _).setRail _, Nat.two_pos, fun _ => rfl⟩

/-- The target read back is the setpoint; a failed read leaves it. -/
theorem railReadback_spec {s : State} {r : Nat} (h : (s.railh r).fails < 2) (mv : Option (BitVec 10)) :
    (∃ regs fab, s.railReadback r mv = { s with regs := regs, fab := fab }) ∧
      (s.railReadback r mv).r F.SYS_RAIL_STAT_SETPOINT r = (mv.map BitVec.toNat).getD (s.r F.SYS_RAIL_STAT_SETPOINT r) ∧
      onlyRegs [(F.SYS_RAIL_STAT_SETPOINT, r)] s (s.railReadback r mv) ∧
      ((s.railReadback r mv).railh r).slew = (s.railh r).slew ∧ ∀ k, k ≠ r → (s.railReadback r mv).railh k = s.railh k := by
  cases mv with
  | none =>
    have heq : s.railReadback r none = s.setRail r { s.railh r with fails := (s.railh r).fails + 1 } := avsCount_few h false
    rw [heq, railh_setRail, if_pos rfl]
    exact ⟨⟨_, _, rfl⟩, rfl, (onlyRegs.refl _ s).regs rfl, rfl, ((OnlyRail.refl r s).setRail _).2⟩
  | some v =>
    have hv : v.toNat % 2 ^ F.SYS_RAIL_STAT_SETPOINT.width = v.toNat := Nat.mod_eq_of_lt v.isLt
    have heq : s.railReadback r (some v) = (s.w F.SYS_RAIL_STAT_SETPOINT r v.toNat).setRail r
        { s.railh r with fails := 0 } := avsCount_few (s := s.w F.SYS_RAIL_STAT_SETPOINT r v.toNat) h true
    rw [heq, railh_setRail, if_pos rfl]
    refine ⟨⟨_, _, rfl⟩, (r_w_same ..).trans hv, ?_, rfl, ((OnlyRail.refl r _).setRail _).2⟩
    exact ((onlyRegs.refl _ s).w v.toNat (List.mem_singleton_self _)).regs rfl

/-- What BOOT entry makes of rail r: its transition rate and its readback. -/
def railBoot (s : State) (r : Nat) (ok : Bool) (mv : Option (BitVec 10)) : State := (s.railSlew r ok).railReadback r mv

theorem railBoot_spec {s : State} {r : Nat} (h : (s.railh r).fails = 0) (ok : Bool) (mv : Option (BitVec 10)) :
    (∃ regs fab, s.railBoot r ok mv = { s with regs := regs, fab := fab }) ∧
      (s.railBoot r ok mv).r F.SYS_RAIL_STAT_SETPOINT r = (mv.map BitVec.toNat).getD (s.r F.SYS_RAIL_STAT_SETPOINT r) ∧
      onlyRegs [(F.SYS_RAIL_STAT_SETPOINT, r)] s (s.railBoot r ok mv) ∧
      (ok = true → ((s.railBoot r ok mv).railh r).slew = 1) ∧ ∀ k, k ≠ r → (s.railBoot r ok mv).railh k = s.railh k := by
  obtain ⟨⟨⟨fab, hu⟩, hothers⟩, hfails, hslew⟩ := railSlew_spec h ok
  obtain ⟨⟨regs, fab', ht⟩, hset, honly, hslew', hothers'⟩ := railReadback_spec hfails mv
  have hregs : (s.railSlew r ok).regs = s.regs := by rw [hu]
  refine ⟨⟨regs, fab', ?_⟩, ?_, fun f i hf => (honly f i hf).trans (r_congr hregs f i), fun hok => hslew'.trans (hslew hok),
    fun k hk => (hothers' k hk).trans (hothers k hk)⟩
  · rw [railBoot, ht, hu]
  · rw [railBoot, hset, r_congr hregs]

/-- The three rails at BOOT entry. -/
def railsBoot (s : State) (ok : Bool × Bool × Bool) (mv : Option (BitVec 10) × Option (BitVec 10) × Option (BitVec 10)) :
    State := ((s.railBoot 0 ok.1 mv.1).railBoot 1 ok.2.1 mv.2.1).railBoot 2 ok.2.2 mv.2.2

theorem railsBoot_spec {s : State} (h : s.fab.rails = []) (ok : Bool × Bool × Bool)
    (mv : Option (BitVec 10) × Option (BitVec 10) × Option (BitVec 10)) :
    (∃ regs fab, s.railsBoot ok mv = { s with regs := regs, fab := fab }) ∧
      (s.railsBoot ok mv).r F.SYS_RAIL_STAT_SETPOINT 0 = (mv.1.map BitVec.toNat).getD (s.r F.SYS_RAIL_STAT_SETPOINT 0) ∧
      (s.railsBoot ok mv).r F.SYS_RAIL_STAT_SETPOINT 1 = (mv.2.1.map BitVec.toNat).getD (s.r F.SYS_RAIL_STAT_SETPOINT 1) ∧
      (s.railsBoot ok mv).r F.SYS_RAIL_STAT_SETPOINT 2 = (mv.2.2.map BitVec.toNat).getD (s.r F.SYS_RAIL_STAT_SETPOINT 2) ∧
      (ok.1 = true → ((s.railsBoot ok mv).railh 0).slew = 1) ∧ (ok.2.1 = true → ((s.railsBoot ok mv).railh 1).slew = 1) ∧
      (ok.2.2 = true → ((s.railsBoot ok mv).railh 2).slew = 1) ∧
      onlyRegs [(F.SYS_RAIL_STAT_SETPOINT, 0), (F.SYS_RAIL_STAT_SETPOINT, 1), (F.SYS_RAIL_STAT_SETPOINT, 2)] s
        (s.railsBoot ok mv) := by
  have hfails : ∀ r, (s.railh r).fails = 0 := fun r => by rw [railh, h]; rfl
  obtain ⟨⟨regs, fab, h0⟩, hset0, honly0, hslew0, hothers0⟩ := railBoot_spec (hfails 0) ok.1 mv.1
  have hfails1 : ((s.railBoot 0 ok.1 mv.1).railh 1).fails = 0 := by rw [hothers0 1 (by decide)]; exact hfails 1
  obtain ⟨⟨regs', fab', h1⟩, hset1, honly1, hslew1, hothers1⟩ := railBoot_spec hfails1 ok.2.1 mv.2.1
  have hfails2 : (((s.railBoot 0 ok.1 mv.1).railBoot 1 ok.2.1 mv.2.1).railh 2).fails = 0 := by
    rw [hothers1 2 (by decide), hothers0 2 (by decide)]
    exact hfails 2
  obtain ⟨⟨regs'', fab'', h2⟩, hset2, honly2, hslew2, hothers2⟩ := railBoot_spec hfails2 ok.2.2 mv.2.2
  refine ⟨⟨regs'', fab'', by rw [railsBoot, h2, h1, h0]⟩, ?_, ?_, ?_, ?_, ?_, hslew2, ?_⟩
  · rw [railsBoot, honly2 _ 0 (by decide), honly1 _ 0 (by decide), hset0]
  · rw [railsBoot, honly2 _ 1 (by decide), hset1, honly0 _ 1 (by decide)]
  · rw [railsBoot, hset2, honly1 _ 2 (by decide), honly0 _ 2 (by decide)]
  · rw [railsBoot, hothers2 0 (by decide), hothers1 0 (by decide)]
    exact hslew0
  · rw [railsBoot, hothers2 1 (by decide)]
    exact hslew1
  · exact ((honly0.mono (by simp)).trans (honly1.mono (by simp))).trans (honly2.mono (by simp))

/-- BOOT is entered from RESET with the straps sampled. -/
def strapped (s : State) (src : Nat) (chain : Bool) : State :=
  let s := { s with sys := { s.sys with perstLow := false, perstUntil := 0, thermalHold := false, bootAt := s.now,
                                        wdAt := s.now } }
  let s := (s.w F.SYS_BOOT_STAT_STRAP 0 src).wb F.MSPS_STAT_MODE 0 chain
  { s with fab := { s.fab with loopAt := s.now } }

/-- The host's boot waits at once. -/
def bootWaits (s : State) (src : Nat) : State := if src = 1 then s.w F.SYS_BOOT_STAT_PHASE 0 4 else s

theorem bootWaits_held (s : State) (src : Nat) : (s.bootWaits src).held = s.held := by
  unfold bootWaits
  split <;> rfl

/-- The registers of a device that enters BOOT. -/
def bootRegs (s : State) (src : Nat) (chain : Bool) : State :=
  ((s.strapped src chain).w F.SYS_STATE_PREV_STATE 0 1).w F.SYS_STATE_STATE 0 2

theorem strapped_sys {s : State} (h : s.sys.thermalHold = false) (src : Nat) (chain : Bool) :
    (s.strapped src chain).sys = { s.sys with perstLow := false, perstUntil := 0, bootAt := s.now, wdAt := s.now } := by
  have hsys : (s.strapped src chain).sys =
      { s.sys with perstLow := false, perstUntil := 0, thermalHold := false, bootAt := s.now, wdAt := s.now } := rfl
  rw [hsys, ← h]

theorem strapped_r {s : State} {src : Nat} {chain : Bool} {f : Fld} (hs : f.id ≠ F.SYS_BOOT_STAT_STRAP.id)
    (hm : f.id ≠ F.MSPS_STAT_MODE.id) (i : Nat) : (s.strapped src chain).r f i = s.r f i :=
  (r_w_ne _ _ hm).trans (r_w_ne _ _ hs)

theorem enterBoot_eq {s : State} (h : s.dev = .reset) (src : Nat) (chain : Bool) :
    (s.strapped src chain).enterState .boot = (s.bootRegs src chain).post sysSrc 0xA001
      [(1, 1), (1, 2), (4, (s.bootRegs src chain).safeCause)] := by
  have hdev : (s.strapped src chain).dev = .reset := (dev_congr (strapped_r (by decide) (by decide) 0)).trans h
  have hset : (s.strapped src chain).setDev .boot = s.bootRegs src chain := by
    rw [setDev, hdev, if_neg (by decide), hdev]
    rfl
  rw [enterState, hset, hdev]
  rfl

theorem bootRegs_live (s : State) (src : Nat) (chain : Bool) : (s.bootRegs src chain).live = true := by
  have hr : (s.bootRegs src chain).r F.SYS_STATE_STATE = 2 := r_w_same ..
  simp [live, dev, hr, DevState.ofCode]

theorem enterBoot_isHeld {s : State} (h : s.dev = .reset) (src : Nat) (chain : Bool) :
    ((s.strapped src chain).enterState .boot).isHeld sysSrc 0xA001 = true := by
  rw [enterBoot_eq h]
  exact post_isHeld (s.bootRegs_live src chain) ..

theorem enterBoot_exists {s : State} (h : s.dev = .reset) (src : Nat) (chain : Bool) :
    ∃ held occ, (s.strapped src chain).enterState .boot = { s.bootRegs src chain with held := held, occ := occ } := by
  rw [enterBoot_eq h]
  exact post_exists ..

/-- The end of RESET, step by step. -/
def endedReset (s : State) (src : Nat) (chain : Bool) (ok : Bool × Bool × Bool)
    (mv : Option (BitVec 10) × Option (BitVec 10) × Option (BitVec 10)) : State :=
  (((s.strapped src chain).enterState .boot).railsBoot ok mv).bootWaits src

theorem railsBoot_enterBoot {s : State} (h : s.dev = .reset) (hr : s.fab.rails = []) (src : Nat) (chain : Bool)
    (ok : Bool × Bool × Bool) (mv : Option (BitVec 10) × Option (BitVec 10) × Option (BitVec 10)) :
    ∃ regs fab held occ, ((s.strapped src chain).enterState .boot).railsBoot ok mv =
      { s.strapped src chain with regs := regs, fab := fab, held := held, occ := occ } := by
  obtain ⟨held, occ, henter⟩ := enterBoot_exists h src chain
  rw [henter]
  obtain ⟨⟨regs, fab, hrails⟩, -⟩ := railsBoot_spec (s := { s.bootRegs src chain with held := held, occ := occ }) hr ok mv
  rw [hrails]
  exact ⟨_, _, _, _, rfl⟩

theorem endedReset_exists {s : State} (h : s.dev = .reset) (hr : s.fab.rails = []) (src : Nat) (chain : Bool)
    (ok : Bool × Bool × Bool) (mv : Option (BitVec 10) × Option (BitVec 10) × Option (BitVec 10)) :
    ∃ regs fab held occ, s.endedReset src chain ok mv =
      { s.strapped src chain with regs := regs, fab := fab, held := held, occ := occ } := by
  obtain ⟨regs, fab, held, occ, hrails⟩ := railsBoot_enterBoot h hr src chain ok mv
  rw [endedReset, hrails, bootWaits]
  split
  · exact ⟨_, _, _, _, rfl⟩
  · exact ⟨_, _, _, _, rfl⟩

theorem resetEnd_eq {s : State} (h : s.dev = .reset) (hr : s.fab.rails = []) (hclr : s.hk.clrLow = false) (src : Nat)
    (chain : Bool) (ok : Bool × Bool × Bool) (mv : Option (BitVec 10) × Option (BitVec 10) × Option (BitVec 10)) :
    s.resetEnd src chain (fun r => if r = 0 then ok.1 else if r = 1 then ok.2.1 else ok.2.2)
        (fun r => if r = 0 then mv.1 else if r = 1 then mv.2.1 else mv.2.2) = s.endedReset src chain ok mv := by
  have hpin : (s.endedReset src chain ok mv).hk.clrLow = false := by
    obtain ⟨regs, fab, held, occ, hend⟩ := endedReset_exists h hr src chain ok mv
    rw [hend]
    exact hclr
  show (if (s.endedReset src chain ok mv).hk.clrLow then (s.endedReset src chain ok mv).clearPin
    else s.endedReset src chain ok mv) = _
  rw [hpin]
  rfl

theorem exec_resetEnd {s : State} (h : s.dev = .reset) (hp : s.sys.perstUntil ≤ s.now) (hu : s.sys.rstUntil ≤ s.now)
    (ht : s.sys.thermalHold = false) (hr : s.fab.rails = []) (hclr : s.hk.clrLow = false) (src : Fin 4) (chain : Bool)
    (ok : Bool × Bool × Bool) (mv : Option (BitVec 10) × Option (BitVec 10) × Option (BitVec 10)) :
    exec (.resetEnd src chain (ok, mv)) s = .next (s.endedReset src chain ok mv) := by
  rw [← resetEnd_eq h hr hclr]
  exact congrArg Host.Outcome.next (if_pos (by simp [resetMayEnd, h, hp, hu, ht]))

/-- The fields that BOOT entry writes. -/
def bootFields : List (Fld × Nat) :=
  [(F.SYS_STATE_STATE, 0), (F.SYS_STATE_PREV_STATE, 0), (F.SYS_BOOT_STAT_STRAP, 0), (F.MSPS_STAT_MODE, 0),
    (F.SYS_BOOT_STAT_PHASE, 0), (F.SYS_RAIL_STAT_SETPOINT, 0), (F.SYS_RAIL_STAT_SETPOINT, 1),
    (F.SYS_RAIL_STAT_SETPOINT, 2)]

theorem strapped_only (s : State) (src : Nat) (chain : Bool) : onlyRegs bootFields s (s.strapped src chain) :=
  (((onlyRegs.refl bootFields s).w src (by simp [bootFields])).w (i := 0) (f := F.MSPS_STAT_MODE) chain.toNat
    (by simp [bootFields])).regs rfl

theorem bootRegs_only (s : State) (src : Nat) (chain : Bool) : onlyRegs bootFields s (s.bootRegs src chain) :=
  ((s.strapped_only src chain).w 1 (by simp [bootFields])).w 2 (by simp [bootFields])

section
variable {s : State} (h : s.dev = .reset) (hr : s.fab.rails = [])
include h hr

/-- Before the rails are looked at their setpoints and their loops are those of RESET. -/
theorem enterBoot_rails (src : Nat) (chain : Bool) : ((s.strapped src chain).enterState .boot).fab.rails = [] := by
  obtain ⟨held, occ, henter⟩ := enterBoot_exists h src chain
  rw [henter]
  exact hr

omit hr in
theorem enterBoot_regs (src : Nat) (chain : Bool) :
    ((s.strapped src chain).enterState .boot).regs = (s.bootRegs src chain).regs := by
  rw [enterBoot_eq h]
  exact post_regs ..

theorem railsBoot_only (src : Nat) (chain : Bool) (ok : Bool × Bool × Bool)
    (mv : Option (BitVec 10) × Option (BitVec 10) × Option (BitVec 10)) :
    onlyRegs [(F.SYS_RAIL_STAT_SETPOINT, 0), (F.SYS_RAIL_STAT_SETPOINT, 1), (F.SYS_RAIL_STAT_SETPOINT, 2)]
      (s.bootRegs src chain) (((s.strapped src chain).enterState .boot).railsBoot ok mv) := by
  obtain ⟨-, -, -, -, -, -, -, honly⟩ := railsBoot_spec (enterBoot_rails h hr src chain) ok mv
  exact fun f i hf => (honly f i hf).trans (r_congr (enterBoot_regs h src chain) f i)

theorem endedReset_only (src : Nat) (chain : Bool) (ok : Bool × Bool × Bool)
    (mv : Option (BitVec 10) × Option (BitVec 10) × Option (BitVec 10)) :
    onlyRegs bootFields s (s.endedReset src chain ok mv) := by
  have hrails : onlyRegs bootFields s (((s.strapped src chain).enterState .boot).railsBoot ok mv) :=
    (s.bootRegs_only src chain).trans ((railsBoot_only h hr src chain ok mv).mono (by simp [bootFields]))
  exact onlyRegs.ite (hrails.w 4 (by simp [bootFields])) hrails

/-- What the end of RESET leaves in a field other than PHASE and the setpoints. -/
theorem endedReset_r {f : Fld} (hphase : f.id ≠ F.SYS_BOOT_STAT_PHASE.id) (hset : f.id ≠ F.SYS_RAIL_STAT_SETPOINT.id)
    (src : Nat) (chain : Bool) (ok : Bool × Bool × Bool)
    (mv : Option (BitVec 10) × Option (BitVec 10) × Option (BitVec 10)) (i : Nat) :
    (s.endedReset src chain ok mv).r f i = (s.bootRegs src chain).r f i := by
  refine Eq.trans ?_ (railsBoot_only h hr src chain ok mv f i (by simp [hset]))
  rw [endedReset, bootWaits]
  split
  · exact r_w_ne _ _ hphase
  · rfl

theorem endedReset_phase (hz : s.r F.SYS_BOOT_STAT_PHASE = 0) (src : Nat) (chain : Bool) (ok : Bool × Bool × Bool)
    (mv : Option (BitVec 10) × Option (BitVec 10) × Option (BitVec 10)) :
    (s.endedReset src chain ok mv).r F.SYS_BOOT_STAT_PHASE = if src = 1 then 4 else 0 := by
  rw [endedReset, bootWaits]
  split
  · exact r_w_same ..
  · rw [railsBoot_only h hr src chain ok mv _ 0 (by decide), bootRegs, r_w_ne _ _ (by decide), r_w_ne _ _ (by decide),
      strapped_r (by decide) (by decide), hz]

/-- The rails at the end of RESET: PHASE is written beside them. -/
theorem endedReset_rails (src : Nat) (chain : Bool) (ok : Bool × Bool × Bool)
    (mv : Option (BitVec 10) × Option (BitVec 10) × Option (BitVec 10)) :
    (s.endedReset src chain ok mv).r F.SYS_RAIL_STAT_SETPOINT 0 =
        (mv.1.map BitVec.toNat).getD (s.r F.SYS_RAIL_STAT_SETPOINT 0) ∧
      (s.endedReset src chain ok mv).r F.SYS_RAIL_STAT_SETPOINT 1 =
        (mv.2.1.map BitVec.toNat).getD (s.r F.SYS_RAIL_STAT_SETPOINT 1) ∧
      (s.endedReset src chain ok mv).r F.SYS_RAIL_STAT_SETPOINT 2 =
        (mv.2.2.map BitVec.toNat).getD (s.r F.SYS_RAIL_STAT_SETPOINT 2) ∧
      (ok.1 = true → ((s.endedReset src chain ok mv).railh 0).slew = 1) ∧
      (ok.2.1 = true → ((s.endedReset src chain ok mv).railh 1).slew = 1) ∧
      (ok.2.2 = true → ((s.endedReset src chain ok mv).railh 2).slew = 1) := by
  obtain ⟨-, hset0, hset1, hset2, hslew0, hslew1, hslew2, -⟩ := railsBoot_spec (enterBoot_rails h hr src chain) ok mv
  have hold : ∀ i, ((s.strapped src chain).enterState .boot).r F.SYS_RAIL_STAT_SETPOINT i = s.r F.SYS_RAIL_STAT_SETPOINT i := by
    intro i
    rw [r_congr (enterBoot_regs h src chain), bootRegs, r_w_ne _ _ (by decide), r_w_ne _ _ (by decide),
      strapped_r (by decide) (by decide)]
  have hread : ∀ i, (s.endedReset src chain ok mv).r F.SYS_RAIL_STAT_SETPOINT i =
      (((s.strapped src chain).enterState .boot).railsBoot ok mv).r F.SYS_RAIL_STAT_SETPOINT i := by
    intro i
    rw [endedReset, bootWaits]
    split
    · exact r_w_ne _ _ (by decide)
    · rfl
  have hloop : ∀ i, (s.endedReset src chain ok mv).railh i =
      (((s.strapped src chain).enterState .boot).railsBoot ok mv).railh i := by
    intro i
    rw [endedReset, bootWaits]
    split <;> rfl
  simp only [hread, hloop, hset0, hset1, hset2, hold]
  exact ⟨trivial, trivial, trivial, hslew0, hslew1, hslew2⟩

theorem endedReset_isHeld (src : Nat) (chain : Bool) (ok : Bool × Bool × Bool)
    (mv : Option (BitVec 10) × Option (BitVec 10) × Option (BitVec 10)) :
    (s.endedReset src chain ok mv).isHeld sysSrc 0xA001 = true := by
  have hheld : (s.endedReset src chain ok mv).held = ((s.strapped src chain).enterState .boot).held := by
    obtain ⟨⟨regs, fab, hrails⟩, -⟩ := railsBoot_spec (enterBoot_rails h hr src chain) ok mv
    rw [endedReset, bootWaits_held, hrails]
  exact (isHeld_congr hheld ..).trans (enterBoot_isHeld h src chain)

theorem endedReset_parts (ht : s.sys.thermalHold = false) (src : Nat) (chain : Bool) (ok : Bool × Bool × Bool)
    (mv : Option (BitVec 10) × Option (BitVec 10) × Option (BitVec 10)) :
    (s.endedReset src chain ok mv).sys =
        { s.sys with perstLow := false, perstUntil := 0, bootAt := s.now, wdAt := s.now } ∧
      s.endedReset src chain ok mv =
        { s with regs := (s.endedReset src chain ok mv).regs, sys := (s.endedReset src chain ok mv).sys,
                 fab := (s.endedReset src chain ok mv).fab, held := (s.endedReset src chain ok mv).held,
                 occ := (s.endedReset src chain ok mv).occ } := by
  obtain ⟨regs, fab, held, occ, hend⟩ := endedReset_exists h hr src chain ok mv
  have hsys := strapped_sys ht src chain
  rw [hend]
  exact ⟨hsys, rfl⟩

end

end State

/-- What the commands of RESET and of power do. -/
theorem resetEntry : ∀ (m : Master) (s : State),
    ((s.live || s.frozen) = true → ∃ t, exec (.sysSwrst m) s = .next t ∧ State.InReset s F.SYS_RST_CAUSE_SOFT t ∧
      (s.nvm.running = none → State.Cleared s keptFields t)) ∧
    ((s.live || s.frozen) = true → ∃ t, exec .resetPin s = .next t ∧ State.InReset s F.SYS_RST_CAUSE_PIN t ∧
      (s.nvm.running = none → State.Cleared s keptFields t)) ∧
    ((s.live || s.frozen) = true → s.r F.SYS_RESET_CFG_PERST_MODE = 0 →
      ∃ t, exec .pcieFundamentalReset s = .next t ∧ State.InReset s F.SYS_RST_CAUSE_PCIE t ∧
        (s.nvm.running = none → State.Cleared s keptFields t)) := by
  intro m s
  refine ⟨fun h => ⟨_, exec_sysSwrst h m, s.enterReset_inReset (by decide), fun hn => State.enterReset_cleared hn (by decide)⟩,
    fun h => ⟨_, exec_resetPin h, ?_, ?_⟩, fun h hm => ?_⟩
  · exact s.enterReset_inReset (f := F.SYS_RST_CAUSE_PIN) (by decide)
  · exact fun hn => State.enterReset_cleared (f := F.SYS_RST_CAUSE_PIN) hn (by decide)
  · have hnext := exec_pcieFundamentalReset hm
    rw [State.resetCause_enters (s := s.perstAsserted) h] at hnext
    exact ⟨_, hnext, s.perstAsserted.enterReset_inReset (by decide), fun hn =>
      State.enterReset_cleared (s := s.perstAsserted) hn (by decide)⟩


/-- What the pins do to a device in RESET. -/
theorem resetLasts {s : State} (h : s.dev = .reset) :
    (∃ t, exec .resetPin s = .next t ∧ t.r F.SYS_RST_CAUSE_PIN = 1 ∧
      t = { s with regs := t.regs, sys := { s.sys with rstUntil := s.now + Config.unstated 18 s.now } } ∧
      onlyRegs [(F.SYS_RST_CAUSE_PIN, 0)] s t) ∧
    (s.r F.SYS_RESET_CFG_PERST_MODE = 0 → ∃ t, exec .pcieFundamentalReset s = .next t ∧ t.r F.SYS_RST_CAUSE_PCIE = 1 ∧
      t = { s with regs := t.regs, sys := t.sys } ∧ onlyRegs [(F.SYS_RST_CAUSE_PCIE, 0)] s t) := by
  refine ⟨⟨_, exec_resetPin_reset h, State.r_w_same .., rfl,
    ((onlyRegs.refl _ s).w 1 (List.mem_singleton_self _)).regs rfl⟩, fun hm => ?_⟩
  have hnext := exec_pcieFundamentalReset hm
  rw [State.resetCause_in (s := s.perstAsserted) h] at hnext
  exact ⟨_, hnext, State.r_w_same .., rfl, ((onlyRegs.refl _ s).w 1 (List.mem_singleton_self _)).regs rfl⟩

/-- Settles O17: RESET keeps what `blank` and `resetRegs` keep, and its end writes the straps, the rails and PHASE. -/
theorem resetEntryAndEnd : Obligations.ResetEntryAndEnd := by
  unfold Obligations.ResetEntryAndEnd
  constructor
  · intro m s
    obtain ⟨hsoft, hpin, hpcie⟩ := resetEntry m s
    exact ⟨hsoft, hpin, hpcie, resetLasts,
      fun h => ⟨_, exec_powerUp h, s.powerUp_inReset, s.powerUp_cleared, s.powerUp_ns⟩,
      fun h => ⟨_, exec_powerDown h, rfl, rfl, rfl, rfl, fun g i hg => State.darkened_r hg i,
        fun x => by rw [State.darkened_hostMem]⟩⟩
  · intro src chain ok mv s h hp hu ht hclr hr hz
    obtain ⟨hset0, hset1, hset2, hslew0, hslew1, hslew2⟩ := State.endedReset_rails h hr src chain ok mv
    obtain ⟨hsys, hparts⟩ := State.endedReset_parts h hr ht src chain ok mv
    refine ⟨_, State.exec_resetEnd h hp hu ht hr hclr src chain ok mv, ?_, ?_, ?_, ?_, ?_, hset0, hset1, hset2, hslew0,
      hslew1, hslew2, State.endedReset_isHeld h hr src chain ok mv, hsys, hparts, State.endedReset_only h hr src chain ok mv⟩
    · have hstate : (s.endedReset src chain ok mv).r F.SYS_STATE_STATE = 2 :=
        (State.endedReset_r h hr (by decide) (by decide) ..).trans (State.r_w_same ..)
      rw [State.dev, hstate]
      rfl
    · rw [State.endedReset_r h hr (by decide) (by decide)]
      exact (State.r_w_ne _ _ (by decide)).trans (State.r_w_same ..)
    · rw [State.endedReset_r h hr (by decide) (by decide), State.bootRegs, State.r_w_ne _ _ (by decide),
        State.r_w_ne _ _ (by decide)]
      exact (State.r_w_ne _ _ (by decide)).trans ((State.r_w_same ..).trans (Nat.mod_eq_of_lt src.isLt))
    · rw [State.endedReset_r h hr (by decide) (by decide), State.bootRegs, State.r_w_ne _ _ (by decide),
        State.r_w_ne _ _ (by decide)]
      exact (State.r_w_same ..).trans (Nat.mod_eq_of_lt chain.toNat_lt)
    · exact State.endedReset_phase h hr hz src chain ok mv

end Sys2Proof.Machine
end

section
/-! PROOF. Which registers an operation leaves alone: a predicate on the fields' numbers that chains of operations carry along,
and the operations of a lane that leaves OFF or enters DRAIN. -/

namespace Sys2Proof.Machine

open Sys2Proof

/-- Every field whose number `K` accepts reads as before. -/
def Keeps (K : Nat → Bool) (z s : State) : Prop := ∀ f i, K f.id = true → s.r f i = z.r f i

namespace Keeps

variable {K L : Nat → Bool} {z s t : State}

theorem refl (K : Nat → Bool) (s : State) : Keeps K s s := fun _ _ _ => rfl

theorem trans (h : Keeps K z s) (k : Keeps K s t) : Keeps K z t := fun f i hf => (k f i hf).trans (h f i hf)

theorem mono (h : Keeps K z s) (hL : ∀ k, L k = true → K k = true) : Keeps L z s := fun f i hf => h f i (hL _ hf)

theorem regs (h : Keeps K z s) (e : t.regs = s.regs) : Keeps K z t := fun f i hf => (State.r_congr e f i).trans (h f i hf)

theorem w (h : Keeps K z s) {f : Fld} {i v : Nat} (hf : K f.id = false := by decide) : Keeps K z (s.w f i v) := by
  intro g j hg
  refine (State.r_w_ne s v fun e => ?_).trans (h g j hg)
  rw [e, hf] at hg
  exact Bool.noConfusion hg

theorem post (h : Keeps K z s) {src code : Nat} {l : List (Nat × Nat)} : Keeps K z (s.post src code l) :=
  h.regs (State.post_regs ..)

theorem ite (hs : Keeps K z s) (ht : Keeps K z t) {c : Prop} {_ : Decidable c} : Keeps K z (if c then s else t) := by
  split
  · exact hs
  · exact ht

theorem each {α : Type} {l : List α} {g : State → α → State} (h : Keeps K z s)
    (hg : ∀ u a, a ∈ l → Keeps K z u → Keeps K z (g u a)) : Keeps K z (s.each l g) := by
  induction l generalizing s with
  | nil => exact h
  | cons a l ih => exact ih (hg s a List.mem_cons_self h) fun u b hb hu => hg u b (List.mem_cons_of_mem a hb) hu

end Keeps

namespace State

/-- The fields that say which lane a host lane serves and how the lane stands on it. -/
def hostReads : List Fld :=
  [F.XBAR_MAP_A_VALID, F.XBAR_MAP_A, F.HSL_STAT_ROLE, F.HSL_STAT_OWNER, F.HSL_STAT_CDR_LOCK, F.HSL_STAT_ALIGNED,
    F.LANE_STAT_MODE, F.LANE_FE_STAT_FUSED_ROLE]

def steady (k : Nat) : Bool := (hostReads.map Fld.id).contains k

/-- The same fields and the state a lane came from. -/
def steadyPrev (k : Nat) : Bool := ((F.LANE_STAT_PREV_STATE :: hostReads).map Fld.id).contains k

theorem steadyPrev_of_steady (k : Nat) (h : steady k = true) : steadyPrev k = true := by
  rw [steady, List.contains_iff_mem] at h
  rw [steadyPrev, List.contains_iff_mem]
  exact List.mem_cons_of_mem _ h

section
variable {z s : State}

theorem dropOuter_keeps (h : Keeps steadyPrev z s) (n : Nat) (c : Bool) : Keeps steadyPrev z (s.dropOuter n c) := by
  have hmode : ∀ u, Keeps steadyPrev z u → Keeps steadyPrev z (u.outerModeNow n) := by
    intro u hu
    unfold outerModeNow
    split
    · exact hu
    · exact (Keeps.w (hu.regs rfl)).regs rfl
  have hdrop := hmode _ (Keeps.w (f := F.LANE_FEC_STAT_OUTER_LOCKED) (i := n) (v := 0)
    (h.regs (t := s.setFec n { s.fech n with cand := (s.fech n).lastCand, oPass := 0, oFail := 0 }) rfl))
  exact Keeps.ite (Keeps.post (Keeps.w (Keeps.w hdrop))) hdrop

theorem dropInner_keeps (h : Keeps steadyPrev z s) (n k : Nat) (c : Bool) : Keeps steadyPrev z (s.dropInner n k c) := by
  have hset := h.regs (t := s.setFec n { s.fech n with offset := (s.fech n).lastOffset, pass := 0, fail := 0, huntAt := s.now,
                                                       stream := [], blk := 0 }) rfl
  have hdrop := dropOuter_keeps (Keeps.w hset (f := F.LANE_FEC_STAT_INNER_LOCKED) (i := n) (v := 0)) n false
  exact Keeps.ite (Keeps.post (Keeps.w (Keeps.w hdrop))) hdrop

theorem acqIdle_keeps (h : Keeps steadyPrev z s) (n : Nat) : Keeps steadyPrev z (s.acqIdle n) :=
  dropInner_keeps (Keeps.w (Keeps.w (Keeps.w h))) n 0 false

theorem cancelFull_keeps (h : Keeps steadyPrev z s) (n : Nat) : Keeps steadyPrev z (s.cancelFull n) := h.regs rfl

theorem fgAbandon_keeps (h : Keeps steadyPrev z s) (n : Nat) : Keeps steadyPrev z (s.fgAbandon n) := h.regs rfl

/-- A set of values of an element is written to its own registers. -/
theorem setElem_keeps (h : Keeps steadyPrev z s) (n e : Nat) (vs : List Int) : Keeps steadyPrev z (s.setElem n e vs) := by
  have hfields : ∀ f ∈ elemFields e, steadyPrev f.id = false := by
    unfold elemFields
    split
    · decide
    · split
      · decide
      · split
        · decide
        · split <;> decide
  exact h.each fun u fv hm hu => Keeps.w hu (hfields _ (List.of_mem_zip hm).1)

theorem setSel_keeps (h : Keeps steadyPrev z s) (n e : Nat) (vs : List Nat) : Keeps steadyPrev z (s.setSel n e vs) := by
  have hfields : ∀ f ∈ selFields e, steadyPrev f.id = false := by
    unfold selFields
    split <;> decide
  exact h.each fun u fv hm hu => Keeps.w hu (hfields _ (List.of_mem_zip hm).1)

theorem putElem_keeps (h : Keeps steadyPrev z s) (n e : Nat) (vs : List Int) (sel : List Nat) :
    Keeps steadyPrev z (s.putElem n e vs sel) := by
  unfold putElem
  dsimp only
  split
  · refine setSel_keeps (setElem_keeps ?_ n e vs) n e sel
    exact h.regs rfl
  · exact h.regs rfl

theorem rampFinish_keeps (h : Keeps steadyPrev z s) (r : Ramp) : Keeps steadyPrev z (s.rampFinish r) :=
  (putElem_keeps h r.lane r.elem (r.vals.map fun v => v.2.2) r.sel).regs rfl

theorem targetsTake_keeps (h : Keeps steadyPrev z s) (n : Nat) : Keeps steadyPrev z (s.targetsTake n) :=
  (h.each (l := (s.calh n).targets) (g := fun s x => s.putElem n x.1 x.2) fun _ x _ hu =>
    putElem_keeps hu n x.1 x.2 []).regs rfl

theorem rampsFinish_keeps (h : Keeps steadyPrev z s) (n : Nat) : Keeps steadyPrev z (s.rampsFinish n) := by
  have htake := targetsTake_keeps (h.each (l := s.rampsOf n) (g := fun s r => s.rampFinish r) fun _ r _ hu =>
    rampFinish_keeps hu r) n
  show Keeps steadyPrev z (State.restoredCheck _ n)
  unfold restoredCheck
  split
  · exact htake.regs rfl
  · exact htake

theorem beginEpisode_keeps (h : Keeps steadyPrev z s) (n : Nat) : Keeps steadyPrev z (s.beginEpisode n) := by
  have hset := h.regs (t := s.setTx n { s.txh n with released := false, episodeAt := s.now }) rfl
  exact Keeps.post (Keeps.ite (Keeps.w hset) (Keeps.w hset))

theorem settleSquelch_keeps (h : Keeps steadyPrev z s) (n : Nat) : Keeps steadyPrev z (s.settleSquelch n) := by
  have hon : Keeps steadyPrev z ((s.w F.LANE_TX_STAT_SQUELCHED n 1).w F.LANE_TX_STAT_RAMPING n 0) := Keeps.w (Keeps.w h)
  have hoff : Keeps steadyPrev z ((s.w F.LANE_TX_STAT_SQUELCHED n 0).w F.LANE_TX_STAT_RAMPING n 1) := Keeps.w (Keeps.w h)
  unfold settleSquelch
  dsimp only
  split
  · exact Keeps.ite (beginEpisode_keeps hon n) hon
  · refine Keeps.ite ?_ h
    exact hoff.regs rfl

theorem squelch_keeps (h : Keeps steadyPrev z s) {f : Fld} (hf : steadyPrev f.id = false) (n : Nat) (b : Bool) :
    Keeps steadyPrev z (s.squelch f n b) := settleSquelch_keeps (Keeps.w h hf) n

theorem payloadStop_keeps (h : Keeps steadyPrev z s) (n : Nat) : Keeps steadyPrev z (s.payloadStop n) := by
  unfold payloadStop
  split
  · exact Keeps.w (Keeps.w h)
  · exact h

/-- Lane m, in a state change from `old` to `st`, once its two states are written. -/
def enteredMember (st : Nat) (leaves : Bool) (s : State) (m : Nat) : State :=
  let s := s.w F.LANE_STATE_TIME_TIME m (s.dieTime (dieOf m))
  let s := s.wb F.LANE_STAT_DEG_SPARE m (st == 5)
  let s := if leaves then (s.payloadStop m).w F.LANE_STAT_HOLDOVER m 0 else s
  s.squelch F.LANE_TX_STAT_SQ_LANE m (!(st == 3 || st == 4 || st == 5) || s.nearLoop m)

theorem enteredMember_keeps (h : Keeps steadyPrev z s) (st : Nat) (leaves : Bool) (m : Nat) :
    Keeps steadyPrev z (s.enteredMember st leaves m) := by
  have hset : Keeps steadyPrev z ((s.w F.LANE_STATE_TIME_TIME m (s.dieTime (dieOf m))).wb F.LANE_STAT_DEG_SPARE m (st == 5)) :=
    Keeps.w (Keeps.w h)
  refine squelch_keeps ?_ (by decide) m _
  exact Keeps.ite (Keeps.w (payloadStop_keeps hset m)) hset

/-- What follows once the members have changed state. -/
def laneEntered (s : State) (n old st cause : Nat) (leaves counted : Bool) : State :=
  let s := if leaves && counted then s.inc F.LANE_DOWN_COUNT n else s
  let s := if leaves then s.setLaneh n { s.laneh n with resume := none } else s
  s.post n 0x1001 [(1, old), (1, st), (1, cause)]

theorem laneEntered_keeps (h : Keeps steadyPrev z s) (n old st cause : Nat) (leaves counted : Bool) :
    Keeps steadyPrev z (s.laneEntered n old st cause leaves counted) := by
  refine Keeps.post ?_
  have hcount : Keeps steadyPrev z (if (leaves && counted) = true then s.inc F.LANE_DOWN_COUNT n else s) :=
    Keeps.ite (Keeps.w h) h
  refine Keeps.ite ?_ hcount
  exact hcount.regs rfl

/-- The lane leaves TRACK or DEGRADED for state `st`. -/
def leavesTrack (s : State) (n st : Nat) : Bool :=
  (s.laneState n == 4 || s.laneState n == 5) && !(st == 4 || st == 5)

/-- A state change, member by member. -/
theorem setLane_eq (s : State) (n st cause : Nat) (counted : Bool) :
    s.setLane n st cause counted = (s.each (s.members n) fun u m => enteredMember st (s.leavesTrack n st)
      ((u.w F.LANE_STAT_PREV_STATE m (s.laneState n)).w F.LANE_STAT_STATE m st) m).laneEntered
        n (s.laneState n) st cause (s.leavesTrack n st) counted := rfl

/-- A state change of a lane writes where the lane came from and no field that says how it stands on its host lanes. -/
theorem setLane_keeps (h : Keeps steady z s) (n st cause : Nat) (c : Bool) : Keeps steady z (s.setLane n st cause c) := by
  rw [setLane_eq]
  refine Keeps.trans ?_ ((laneEntered_keeps (Keeps.refl _ _) n _ st cause _ c).mono steadyPrev_of_steady)
  refine h.each fun u m _ hu => ?_
  exact (Keeps.w (Keeps.w hu)).trans ((enteredMember_keeps (Keeps.refl _ _) st _ m).mono steadyPrev_of_steady)

/-- The lane's state before the change, in the field that keeps it. -/
theorem setLane_prev (s : State) {n : Nat} (h : s.fused n = false) (st cause : Nat) (c : Bool) :
    (s.setLane n st cause c).r F.LANE_STAT_PREV_STATE n = s.laneState n % 2 ^ F.LANE_STAT_PREV_STATE.width := by
  have hmembers : s.members n = [n] := by simp [members, h]
  rw [setLane_eq, hmembers]
  refine (laneEntered_keeps (Keeps.refl _ _) n _ st cause _ c _ n (by decide)).trans ?_
  refine (enteredMember_keeps (Keeps.refl _ _) st _ n _ n (by decide)).trans ?_
  rw [r_w_ne _ _ (by decide), r_w_same]

theorem abortWaiters_keeps (h : Keeps steadyPrev z s) (x : Wait) (st : Status) : Keeps steadyPrev z (s.abortWaiters x st) :=
  h.regs rfl

/-- Once the state has changed, entry into DRAIN writes none of the fields. -/
theorem toDrain_keeps (s : State) (n cause : Nat) : Keeps steadyPrev (s.setLane n 6 cause) (s.toDrain n cause) := by
  unfold toDrain
  refine Keeps.each ?_ fun u m _ hu => ?_
  · exact cancelFull_keeps (fgAbandon_keeps (acqIdle_keeps ((Keeps.refl _ _).regs (setLaneh_regs ..)) n) n) n
  · refine abortWaiters_keeps (abortWaiters_keeps (abortWaiters_keeps ?_ _ _) _ _) _ _
    exact (rampsFinish_keeps hu m).regs (setAdc_regs ..)

/-- Entry into DRAIN keeps where the lane came from. -/
theorem toDrain_prev (s : State) {n : Nat} (h : s.fused n = false) (cause : Nat) :
    (s.toDrain n cause).r F.LANE_STAT_PREV_STATE n = s.laneState n % 2 ^ F.LANE_STAT_PREV_STATE.width :=
  (toDrain_keeps s n cause _ n (by decide)).trans (s.setLane_prev h 6 cause true)

end

end State

end Sys2Proof.Machine
end

section
/-! PROOF. LANE_DISABLE (R237): where a lane comes from, of a lane whose register does not hold a value of its field. -/

namespace Sys2Proof.Machine

open Sys2Proof

namespace State

theorem await_regs (s : State) (q i : Nat) (ws : List Wait) : (s.await q i ws).regs = s.regs := by
  unfold await
  split
  · exact finish_regs ..
  · rfl

theorem each_one {α : Type} (s : State) (a : α) (g : State → α → State) : s.each [a] g = g s a := rfl

/-- A lane with no enable pending that is neither OFF nor in DRAIN goes there, its restore cancelled. -/
theorem disableLane_up {s : State} {n : Nat} (hf : s.fused n = false) (h0 : s.laneState n ≠ 0) (h6 : s.laneState n ≠ 6)
    (he : s.r F.LANE_STAT_ENABLE_PENDING n = 0) :
    s.disableLane n = (s.w F.LANE_STAT_RESTORE_PENDING n 0).toDrain n 1 := by
  have hcancel : s.cancelEnable n .aborted = s := if_neg (by simp [on, he])
  have hmembers : s.members n = [n] := by simp [members, hf]
  have hstate : (s.w F.LANE_STAT_RESTORE_PENDING n 0).laneState n = s.laneState n := r_w_ne _ _ (by decide)
  rw [disableLane, hcancel, hmembers]
  exact if_neg (by rw [each_one, hstate]; simp [h0, h6])

/-- LANE_DISABLE of such a lane alone writes into PREV_STATE what fits there of the lane's state. -/
theorem laneDisable_prev {s : State} {j : Job} {n : Nat} (hj : lanesOnly j = true) (hl : s.leads j.items = [n])
    (hf : s.fused n = false) (h0 : s.laneState n ≠ 0) (h6 : s.laneState n ≠ 6) (he : s.r F.LANE_STAT_ENABLE_PENDING n = 0) :
    (s.laneDisable j).r F.LANE_STAT_PREV_STATE n = s.laneState n % 2 ^ F.LANE_STAT_PREV_STATE.width := by
  have hdrain : ((s.w F.LANE_STAT_RESTORE_PENDING n 0).toDrain n 1).r F.LANE_STAT_PREV_STATE n =
      s.laneState n % 2 ^ F.LANE_STAT_PREV_STATE.width := by
    have hfused : (s.w F.LANE_STAT_RESTORE_PENDING n 0).fused n = false := by
      rw [fused, on, r_w_ne _ _ (by decide)]
      exact hf
    rw [toDrain_prev _ hfused, laneState, r_w_ne _ _ (by decide), laneState]
  rw [laneDisable, if_neg (by simp [hj]), hl]
  refine (r_congr (await_regs (s.each [n] disableLane) _ _ _) _ _).trans ?_
  rw [each_one, disableLane_up hf h0 h6 he, hdrain]

/-- LANE_DISABLE of lane 0, started. -/
def disableJob : Job :=
  { ring := 0, idx := 0, desc := [0x12] ++ List.replicate 31 0 ++ [0, 0, 1, 0] ++ List.replicate 28 0, phase := .started }

/-- In RUN the register file holds 9 in STATE of lane 0, a field of three bits. -/
def laneStateNine : State :=
  { regs := Tab.set (Regs.set [] F.SYS_STATE_STATE 0 DevState.run.code) F.LANE_STAT_STATE.id [(0, 9)] [],
    jobs := [disableJob] }

theorem laneStateNine_state : laneStateNine.laneState 0 = 9 := by decide

theorem exec_laneStateNine : exec (.laneDisable 0 0) laneStateNine = .next (laneStateNine.laneDisable disableJob) := by
  show actJob 0x12 0 0 laneStateNine (fun j s => s.laneDisable j) = _
  exact actJob_started (by decide) (by decide)

theorem laneStateNine_prev : (laneStateNine.laneDisable disableJob).r F.LANE_STAT_PREV_STATE 0 = 1 := by
  rw [laneDisable_prev (by decide) (by decide) (by decide) (by decide) (by decide) (by decide), laneStateNine_state]
  decide

end State

/-- Refutes O22: LANE_DISABLE of a lane whose STATE holds 9 leaves PREV_STATE 1, since that field has three bits, and the
statement wants 9. The statement asks for no register file that holds only values of its fields. -/
theorem not_laneSwitch : ¬ Obligations.LaneSwitch := by
  unfold Obligations.LaneSwitch
  rintro ⟨-, hdisable⟩
  obtain ⟨-, hup, -⟩ := hdisable 0 0 State.laneStateNine State.disableJob (by decide) (by decide) (by decide)
  obtain ⟨t, ht, -, -, hprev, -⟩ := hup 0 (by decide) (by decide) (by decide) (by decide) (by decide)
  cases State.exec_laneStateNine.symm.trans ht
  rw [State.laneStateNine_prev, State.laneStateNine_state] at hprev
  exact absurd hprev (by decide)

end Sys2Proof.Machine
end

section
/-! PROOF. A lane that leaves OFF (R230, R245): on a host lane whose CDR has lock already, a lane in L100 shows alignment there
at once. -/

namespace Sys2Proof.Machine

open Sys2Proof

namespace State

section
variable {z s : State}

theorem feModes_keeps (h : Keeps steadyPrev z s) (n : Nat) : Keeps steadyPrev z (s.feModes n) := h.regs rfl

theorem agcCfgTake_keeps (h : Keeps steadyPrev z s) (n : Nat) : Keeps steadyPrev z (s.agcCfgTake n) := h.regs rfl

theorem ctleDone_keeps (h : Keeps steadyPrev z s) (n : Nat) : Keeps steadyPrev z (s.ctleDone n) := h.regs rfl

theorem vgaDone_keeps (h : Keeps steadyPrev z s) (n : Nat) : Keeps steadyPrev z (s.vgaDone n) := h.regs rfl

theorem frontEndFromCfg_keeps (h : Keeps steadyPrev z s) (n : Nat) : Keeps steadyPrev z (s.frontEndFromCfg n) := by
  unfold frontEndFromCfg
  refine vgaDone_keeps (ctleDone_keeps (agcCfgTake_keeps (Keeps.regs ?_ (setAdc_regs ..)) n) n) n
  exact feModes_keeps (Keeps.w (Keeps.w h)) n

theorem convStart_keeps (h : Keeps steadyPrev z s) (m : Nat) : Keeps steadyPrev z (s.convStart m) := by
  unfold convStart
  have hclear := (h.regs (setAdc_regs s m { maps := (s.adch m).maps })).regs
    (setEq_regs (s.setAdc m { maps := (s.adch m).maps }) m { (s.setAdc m { maps := (s.adch m).maps }).eqh m with snrs := [] })
  have hfront := frontEndFromCfg_keeps (Keeps.w (f := F.LANE_FE_STAT_SIG_PRESENT) (i := m) (v := 0)
    (Keeps.w (f := F.LANE_FE_STAT_FE_ON) (i := m)
      (v := (!fusedOdd ((s.setAdc m { maps := (s.adch m).maps }).setEq m
        { (s.setAdc m { maps := (s.adch m).maps }).eqh m with snrs := [] }) m).toNat) hclear)) m
  refine Keeps.w (Keeps.ite ?_ (Keeps.w ?_))
  all_goals exact Keeps.w (Keeps.w (Keeps.w hfront))

theorem chainStart_keeps (h : Keeps steadyPrev z s) (n : Nat) : Keeps steadyPrev z (s.chainStart n) := by
  unfold chainStart
  exact (Keeps.w (Keeps.w (Keeps.w h))).regs (setTx_regs ..)

theorem toCal_keeps (h : Keeps steady z s) (n cause : Nat) : Keeps steady z (s.toCal n cause) := by
  unfold toCal
  refine Keeps.regs ?_ (setCal_regs ..)
  refine Keeps.trans ?_ ((cancelFull_keeps (acqIdle_keeps (Keeps.refl _ _) n) n).mono steadyPrev_of_steady)
  exact Keeps.w (setLane_keeps h n 1 cause true)

theorem gbxSettle_keeps (h : Keeps steadyPrev z s) (n m : Nat) (quiet : Bool) : Keeps steadyPrev z (s.gbxSettle n m quiet) := by
  have hskew : ∀ (t : State) (c : Bool) (l : List (Nat × Nat)), Keeps steadyPrev z t →
      Keeps steadyPrev z (if c then t.post (t.lead n) 0x1503 l else t) := fun _ _ _ ht => Keeps.ite ht.post ht
  unfold gbxSettle
  refine Keeps.ite (Keeps.post (hskew _ _ _ ?_)) (Keeps.ite (Keeps.post (Keeps.w (hskew _ _ _ ?_))) (hskew _ _ _ ?_))
  all_goals exact Keeps.w (Keeps.w (Keeps.w (Keeps.w h)))

/-- What the margins' evaluation writes. -/
def marginFields : List Fld :=
  [F.SYS_ISL_MARGIN_MARGIN, F.SYS_ISL_MARGIN_BELOW_TARGET, F.SYS_ISL_MARGIN_AT_CAP, F.SYS_ISL_MARGIN_CRITICAL]

theorem marginFlags_keeps {K : Nat → Bool} (hK : ∀ f ∈ marginFields, K f.id = false) (h : Keeps K z s) (i : Nat) :
    Keeps K z (s.marginFlags i) := by
  have hcapField : K F.SYS_ISL_MARGIN_AT_CAP.id = false := hK _ (by decide)
  have hcritical : K F.SYS_ISL_MARGIN_CRITICAL.id = false := hK _ (by decide)
  have hlow : ∀ t, Keeps K z t → Keeps K z (t.marginLow i) := by
    intro t ht
    unfold marginLow
    split
    · exact ht
    · refine Keeps.post ?_
      exact ht.regs rfl
  have hcapped : Keeps K z (s.marginCapped i) := by
    have hcap : Keeps K z (s.w F.SYS_ISL_MARGIN_AT_CAP i 1) := Keeps.w h hcapField
    exact Keeps.ite hcap (Keeps.ite (Keeps.post (Keeps.w (hlow _ hcap) hcritical)) (hlow _ hcap))
  have hrestored : Keeps K z (s.marginRestored i) := by
    have hclear : Keeps K z ((s.w F.SYS_ISL_MARGIN_AT_CAP i 0).w F.SYS_ISL_MARGIN_CRITICAL i 0) :=
      Keeps.w (Keeps.w h hcapField) hcritical
    refine Keeps.ite (Keeps.post ?_) hclear
    exact hclear.regs rfl
  exact Keeps.ite hrestored (Keeps.ite hcapped (Keeps.w h hcapField))

theorem marginsSettle_keeps {K : Nat → Bool} (hK : ∀ f ∈ marginFields, K f.id = false) (h : Keeps K z s) :
    Keeps K z s.marginsSettle := by
  refine h.each fun u i _ hu => marginFlags_keeps hK ?_ i
  have hset : Keeps K z ((u.w F.SYS_ISL_MARGIN_MARGIN i (u.marginAt i)).wb F.SYS_ISL_MARGIN_BELOW_TARGET i
      (decide (u.marginAt i < u.minMargin i))) := Keeps.w (Keeps.w hu (hK _ (by decide))) (hK _ (by decide))
  refine Keeps.ite ?_ hset
  exact hset.regs rfl

end

/-- Lane n is in L100 by LANE_CFG, and host lane m is its A, with lock of its CDR. -/
structure LockedA (s : State) (n m : Nat) : Prop where
  alone : s.fused n = false
  valid : s.on F.XBAR_MAP_A_VALID n = true
  mapped : s.r F.XBAR_MAP_A n = m
  role : s.r F.HSL_STAT_ROLE m = 1
  owner : s.r F.HSL_STAT_OWNER m = n
  lock : s.on F.HSL_STAT_CDR_LOCK m = true
  mode : s.r F.LANE_CFG_MODE n = 3

/-- The loopback and the mode set on lane n come into force. -/
def configured (s : State) (n : Nat) : State :=
  (s.w F.LANE_STAT_LOOPBACK n (s.r F.LANE_CFG_LOOPBACK n)).w F.LANE_STAT_MODE n (s.r F.LANE_CFG_MODE n)

theorem configured_r (s : State) {f : Fld} (hl : f.id ≠ F.LANE_STAT_LOOPBACK.id) (hm : f.id ≠ F.LANE_STAT_MODE.id) (n i : Nat) :
    (s.configured n).r f i = s.r f i := (r_w_ne _ _ hm).trans (r_w_ne _ _ hl)

theorem alignFollows_eq {s : State} {n : Nat} (h : (s.on F.XBAR_MAP_A_VALID n && s.bitForBit (s.r F.XBAR_MAP_A n) &&
    s.on F.HSL_STAT_CDR_LOCK (s.r F.XBAR_MAP_A n)) = true) :
    s.alignFollows n = (s.w F.HSL_STAT_ALIGNED (s.r F.XBAR_MAP_A n) 1).gbxSettle n (s.r F.XBAR_MAP_A n) false := if_pos h

/-- Alignment follows the lock of the CDR where nothing the lane's start writes says otherwise. -/
theorem alignFollows_aligned {s u : State} {n m : Nat} (h : s.LockedA n m) (hu : Keeps steady (s.configured n) u) :
    (u.alignFollows n).r F.HSL_STAT_ALIGNED m = 1 := by
  have hread : ∀ f i, f ∈ hostReads → f.id ≠ F.LANE_STAT_MODE.id → f.id ≠ F.LANE_STAT_LOOPBACK.id → u.r f i = s.r f i := by
    intro f i hf hm hl
    refine (hu f i ?_).trans (s.configured_r hl hm n i)
    rw [steady, List.contains_iff_mem]
    exact List.mem_map_of_mem hf
  have hmapped : u.r F.XBAR_MAP_A n = m := (hread _ n (by decide) (by decide) (by decide)).trans h.mapped
  have hvalid : u.on F.XBAR_MAP_A_VALID n = true := by
    rw [on, hread _ n (by decide) (by decide) (by decide)]
    exact h.valid
  have hlock : u.on F.HSL_STAT_CDR_LOCK m = true := by
    rw [on, hread _ m (by decide) (by decide) (by decide)]
    exact h.lock
  have hmode : u.laneMode n = 3 := by
    rw [laneMode, hu _ n (by decide), configured, r_w_same, h.mode]
    rfl
  have hbit : u.bitForBit m = true := by
    rw [bitForBit, hread F.HSL_STAT_ROLE m (by decide) (by decide) (by decide), h.role,
      hread F.HSL_STAT_OWNER m (by decide) (by decide) (by decide), h.owner, hmode]
    rfl
  have hkeeps := gbxSettle_keeps (Keeps.refl steadyPrev (u.w F.HSL_STAT_ALIGNED m 1)) n m false
  rw [alignFollows_eq (by rw [hmapped, hvalid, hbit, hlock]; rfl), hmapped, hkeeps _ m (by decide), r_w_same]
  decide

theorem each_members {s : State} {n : Nat} (h : s.fused n = false) (g : State → Nat → State) :
    s.each (s.members n) g = g s n := by
  have hmembers : s.members n = [n] := by simp [members, h]
  rw [hmembers, each_one]

theorem leaveOff_eq (s : State) (n cause : Nat) : s.leaveOff n cause =
    ((s.each (s.members n) fun s m => ((s.configured m).convStart m).chainStart m).toCal n cause).each
      (((s.each (s.members n) fun s m => ((s.configured m).convStart m).chainStart m).toCal n cause).members n)
      fun s m => (s.alignFollows m).resolve (.laneUp m) := rfl

/-- A lane in L100 that leaves OFF on such a host lane shows it aligned. -/
theorem leaveOff_aligned {s : State} {n m : Nat} (h : s.LockedA n m) (cause : Nat) :
    (s.leaveOff n cause).r F.HSL_STAT_ALIGNED m = 1 := by
  have hstarted : Keeps steady (s.configured n) ((((s.configured n).convStart n).chainStart n).toCal n cause) :=
    toCal_keeps ((chainStart_keeps (convStart_keeps (Keeps.refl _ _) n) n).mono steadyPrev_of_steady) n cause
  have hfused : ((((s.configured n).convStart n).chainStart n).toCal n cause).fused n = false := by
    rw [fused, on, hstarted _ n (by decide), configured_r _ (by decide) (by decide)]
    exact h.alone
  rw [leaveOff_eq, each_members h.alone, each_members hfused]
  exact (r_congr (resolve_regs ..) _ _).trans (alignFollows_aligned h hstarted)

/-- A raise of lane n that R236 does not refuse by now, and that is no restore, lets it leave OFF. -/
theorem upGo_leaves {s : State} {n cause : Nat} (hr : (s.raiseDrop (upChange n cause)).enableRefusal n = none)
    (hc : cause ≠ 7) (hf : s.fused n = false) : s.upGo n cause =
      (((s.raiseDrop (upChange n cause)).w F.LANE_STAT_RESTORE_PENDING n 0).leaveOff n cause).marginsSettle := by
  have hf' : (s.raiseDrop (upChange n cause)).fused n = false := hf
  rw [upGo, hr]
  dsimp only
  rw [if_neg (by simp [hc]), each_members hf']

/-- In RUN lane 0 waits for its rate in L100; the CDR of its host lane 0 has lock. -/
def lockedRaise : State :=
  { regs := (((Regs.set [] F.SYS_STATE_STATE 0 DevState.run.code).set F.LANE_CFG_MODE 0 3).set F.LANE_STAT_MODE 0 3).set
      F.HSL_STAT_CDR_LOCK 0 1,
    fab := { raises := [{ change := .lane 0 1, islands := [], from_ := 0 }] } }

/-- Lane 0 with its raise gone and no restore pending. -/
def lockedGo : State := (lockedRaise.raiseDrop (upChange 0 1)).w F.LANE_STAT_RESTORE_PENDING 0 0

theorem lockedGo_lockedA : lockedGo.LockedA 0 0 :=
  ⟨by decide, by decide, by decide, by decide, by decide, by decide, by decide⟩

theorem exec_lockedRaise : exec (.rateRaiseReady (.lane 0 1)) lockedRaise = .next (lockedGo.leaveOff 0 1).marginsSettle := by
  have hlive : lockedRaise.live = true := by decide
  have hraise : lockedRaise.raise? (.lane 0 1) = some { change := .lane 0 1, islands := [], from_ := 0 } := by decide
  have hup : lockedRaise.upGo 0 1 = (lockedGo.leaveOff 0 1).marginsSettle := upGo_leaves (by decide) (by decide) (by decide)
  show whenLive lockedRaise (fun s => s.rateReady (.lane 0 1)) = _
  rw [whenLive, hlive, if_pos rfl, rateReady, hraise, ← hup]
  rfl

theorem lockedRaise_aligned : (lockedGo.leaveOff 0 1).marginsSettle.r F.HSL_STAT_ALIGNED 0 = 1 := by
  rw [marginsSettle_keeps (by decide) (Keeps.refl steadyPrev (lockedGo.leaveOff 0 1)) _ 0 (by decide)]
  exact leaveOff_aligned lockedGo_lockedA 1

end State

/-- Refutes O23: a lane in L100 that leaves OFF on a host lane whose CDR has lock already sets ALIGNED there (R245), and the
statement lets no register outside the lanes and the margins change. -/
theorem not_rateRaise : ¬ Obligations.RateRaise := by
  unfold Obligations.RateRaise
  intro h
  obtain ⟨hready, -⟩ := h 0 State.lockedRaise _ (by decide) (by decide : State.lockedRaise.raise? (.lane 0 1) =
    some { change := .lane 0 1, islands := [], from_ := 0 }) (by decide) (by decide) (by decide)
  obtain ⟨t, ht, -, -, -, -, -, -, -, hblocks, -⟩ := hready (by decide)
  have hnext := Host.Outcome.next.inj (State.exec_lockedRaise.symm.trans ht)
  rw [← hnext] at hblocks
  have hsame := hblocks F.HSL_STAT_ALIGNED 0 (by decide) (by decide)
  rw [State.lockedRaise_aligned] at hsame
  exact absurd hsame (by decide)

end Sys2Proof.Machine
end

section
/-! PROOF. FAULT entry, its stop actions (R352, R371, R438): what each of them writes. -/

namespace Sys2Proof.Machine

open Sys2Proof

/-- The numbers of the lanes' and the host lanes' fields, and of the fields `l`. -/
def faultKeeps (l : List Fld) (k : Nat) : Bool := laneBlock (k / 512) || hostBlock (k / 512) || (l.map Fld.id).contains k

theorem Keeps.sub {l l' : List Fld} {z s : State} (h : Keeps (faultKeeps l') z s)
    (hl : ∀ k ∈ l.map Fld.id, k ∈ l'.map Fld.id := by decide) :
    Keeps (faultKeeps l) z s := by
  refine h.mono fun k hk => ?_
  simp only [faultKeeps, Bool.or_eq_true, List.contains_iff_mem] at hk ⊢
  exact hk.imp id fun hm => hl _ hm

/-- A field of the list reads as before. -/
theorem Keeps.read {l : List Fld} {z s : State} (h : Keeps (faultKeeps l) z s) {f : Fld} (hf : f ∈ l) (i : Nat) :
    s.r f i = z.r f i := by
  refine h f i ?_
  rw [faultKeeps, Bool.or_eq_true, List.contains_iff_mem]
  exact .inr (List.mem_map_of_mem hf)

/-- An invariant of the steps of a fold holds after it. -/
theorem each_inv {α : Type} {P : State → Prop} {s : State} {l : List α} {g : State → α → State} (h : P s)
    (hg : ∀ u a, P u → P (g u a)) : P (s.each l g) := by
  induction l generalizing s with
  | nil => exact h
  | cons a l ih => exact ih (hg s a h)

/-- A fold whose step at `a` gives field `f` the value `V a` there, and no other, gives each index of the list its value. -/
theorem each_r {l : List Nat} {g : State → Nat → State} {f : Fld} {V : Nat → Nat} {Inv : State → Prop} {s : State} (hs : Inv s)
    (hg : ∀ u a, Inv u → Inv (g u a)) (hr : ∀ u a i, Inv u → (g u a).r f i = if i = a then V a else u.r f i) (i : Nat) :
    (s.each l g).r f i = if i ∈ l then V i else s.r f i := by
  induction l generalizing s with
  | nil => simp [State.each]
  | cons a l ih =>
    refine (ih (hg s a hs)).trans ?_
    by_cases hi : i ∈ l
    · rw [if_pos hi, if_pos (List.mem_cons_of_mem a hi)]
    · rw [if_neg hi, hr s a i hs]
      by_cases ha : i = a
      · subst ha
        rw [if_pos rfl, if_pos List.mem_cons_self]
      · rw [if_neg ha, if_neg (by simp [ha, hi])]

namespace State

theorem r_w_at (s : State) (f : Fld) (a v i : Nat) : (s.w f a v).r f i = if i = a then v % 2 ^ f.width else s.r f i := by
  by_cases h : i = a
  · subst h
    rw [if_pos rfl, r_w_same]
  · rw [if_neg h, r_w_index s v h]

/-! ### What is kept -/

/-- The record of a fault. -/
def recordFields : List Fld :=
  [F.SYS_FAULT_CAUSE_VALID, F.SYS_FAULT_CAUSE_PREV_STATE, F.SYS_FAULT_CAUSE_CAUSE, F.SYS_FAULT_CAUSE_DETAIL,
    F.SYS_FAULT_TIME_TIME]

/-- What no stop action before the batts' end writes, beside the record. -/
def inputFields : List Fld := [F.HK_DAC_CFG_CLEAR, F.CAP_BATT_STAT_STATE]

/-- What Hatband shows in FAULT. -/
def scanFields : List Fld := [F.HB_CONV_STAT_STATE, F.HB_EXC_STAT_ON]

/-- What the housekeeping outputs show in FAULT. -/
def outputFields : List Fld := [F.HK_DAC_STAT_OUT, F.HK_DAC_STAT_SLEWING, F.HK_PWM_STAT_PIN, F.HK_PWM_STAT_STATE]

/-! ### Hatband -/

/-- From `z` to `s` the registers that `K` accepts read as before, and only registers and Hatband's own record move. -/
structure HatOnly (K : Nat → Bool) (z s : State) : Prop where
  keeps : Keeps K z s
  parts : ∃ regs hb, s = { z with regs := regs, hb := hb }

namespace HatOnly

variable {K : Nat → Bool} {z s t : State}

theorem refl (K : Nat → Bool) (s : State) : HatOnly K s s := ⟨Keeps.refl K s, s.regs, s.hb, rfl⟩

theorem w (h : HatOnly K z s) {f : Fld} {i v : Nat} (hf : K f.id = false := by decide) : HatOnly K z (s.w f i v) := by
  obtain ⟨hk, regs, hb, rfl⟩ := h
  exact ⟨hk.w hf, _, hb, rfl⟩

theorem setConv (h : HatOnly K z s) (c : Nat) (x : ConvH) : HatOnly K z (s.setConv c x) := by
  obtain ⟨hk, regs, hb, rfl⟩ := h
  exact ⟨hk.regs rfl, regs, _, rfl⟩

theorem trans (h : HatOnly K z s) (k : HatOnly K s t) : HatOnly K z t := by
  obtain ⟨hk, regs, hb, rfl⟩ := h
  obtain ⟨kk, regs', hb', rfl⟩ := k
  exact ⟨hk.trans kk, regs', hb', rfl⟩

theorem ite (hs : HatOnly K z s) (ht : HatOnly K z t) {c : Prop} {_ : Decidable c} : HatOnly K z (if c then s else t) := by
  split
  · exact hs
  · exact ht

end HatOnly

/-- What giving up a visit keeps. -/
def visitKeeps : Nat → Bool := faultKeeps (recordFields ++ inputFields ++ scanFields)

/-- What Hatband's stop keeps. -/
def hatbandKeeps : Nat → Bool := faultKeeps (recordFields ++ inputFields)

section
variable {z s : State}

theorem ptEffects_hatOnly (h : HatOnly visitKeeps z s) (p old new : Nat) : HatOnly visitKeeps z (s.ptEffects p old new) := by
  have hset : HatOnly visitKeeps z (if old / 1024 % 256 != new / 1024 % 256 then s.settle p (ptN new) else s) :=
    HatOnly.ite (HatOnly.w h) h
  have hrange := HatOnly.w (f := F.HB_PT_STAT_RANGE) (i := p) (v := ptRange new) hset
  have hhold : HatOnly visitKeeps z (if ptAuto new then (State.w _ F.HB_PT_STAT_HOLD p 0).w F.HB_PT_STAT_UP p 0 else _) :=
    HatOnly.ite (HatOnly.w (HatOnly.w hrange)) hrange
  exact HatOnly.ite hset (HatOnly.ite (HatOnly.w hhold) hhold)

theorem dropVisit_hatOnly (h : HatOnly visitKeeps z s) (c : Nat) : HatOnly visitKeeps z (s.dropVisit c) := by
  unfold dropVisit
  dsimp only
  split
  · exact h
  · have hbus : ∀ t, HatOnly visitKeeps z t → HatOnly visitKeeps z (if t.hbBus = c + 1 then t.w F.HB_STAT_BUS 0 0 else t) :=
      fun _ ht => HatOnly.ite (HatOnly.w ht) ht
    refine hbus _ ?_
    split
    · exact ptEffects_hatOnly (HatOnly.w (h.setConv c _)) _ _ _
    · exact HatOnly.w (h.setConv c _)

end

/-- Converter c shows STOPPED and has nothing left to do. -/
def convGone (s : State) (c : Nat) : State :=
  let s := ((s.w F.HB_CONV_STAT_STATE c 0).w F.HB_CONV_STAT_ENABLE_PENDING c 0).w F.HB_CONV_STAT_SELFCAL c 0
  s.setConv c { s.convh c with urgents := [], cal := none, prev := none }

/-- Converter c in FAULT. -/
def convFault (s : State) (c : Nat) : State := ((if s.convState c = 1 then s.convStopping c else s).dropVisit c).convGone c

theorem hbFault_eq (s : State) : s.hbFault =
    (((s.each [0, 1] convFault).w F.HB_EXC_STAT_ON 0 0).w F.HB_EXC_STAT_IN_RANGE 0 0).w F.HB_EXC_STAT_LIMIT 0 0 := rfl

theorem HatOnly.of_visit {z s t : State} (h : HatOnly hatbandKeeps z s) (k : HatOnly visitKeeps s t) :
    HatOnly hatbandKeeps z t := by
  obtain ⟨hk, regs, hb, rfl⟩ := h
  obtain ⟨kk, regs', hb', rfl⟩ := k
  exact ⟨hk.trans (kk.sub (l := recordFields ++ inputFields)), regs', hb', rfl⟩

theorem dropVisit_state (s : State) (c i : Nat) : (s.dropVisit c).r F.HB_CONV_STAT_STATE i = s.r F.HB_CONV_STAT_STATE i :=
  (dropVisit_hatOnly (HatOnly.refl visitKeeps s) c).keeps _ i (by decide)

theorem convStopping_spec (s : State) (c : Nat) : HatOnly hatbandKeeps s (s.convStopping c) ∧
    ∀ i, i ≠ c → (s.convStopping c).r F.HB_CONV_STAT_STATE i = s.r F.HB_CONV_STAT_STATE i := by
  have hdrop : HatOnly visitKeeps s (if (s.convh c).visit.any (s.busWaits c) then s.dropVisit c else s) :=
    HatOnly.ite (dropVisit_hatOnly (HatOnly.refl _ s) c) (HatOnly.refl _ s)
  refine ⟨(HatOnly.w ((HatOnly.refl _ s).of_visit hdrop)).setConv c _, fun i hi => ?_⟩
  refine (r_w_index _ 2 hi).trans (hdrop.keeps _ i (by decide))

theorem convGone_spec (s : State) (c : Nat) : HatOnly hatbandKeeps s (s.convGone c) ∧
    ∀ i, (s.convGone c).r F.HB_CONV_STAT_STATE i = if i = c then 0 else s.r F.HB_CONV_STAT_STATE i := by
  refine ⟨(HatOnly.w (HatOnly.w (HatOnly.w (HatOnly.refl _ s)))).setConv c _, fun i => ?_⟩
  exact (r_w_ne _ _ (by decide)).trans ((r_w_ne _ _ (by decide)).trans (r_w_at ..))

/-- A converter that is given up shows STOPPED, and the other one what it did. -/
theorem convFault_spec (s : State) (c : Nat) : HatOnly hatbandKeeps s (s.convFault c) ∧
    ∀ i, (s.convFault c).r F.HB_CONV_STAT_STATE i = if i = c then 0 else s.r F.HB_CONV_STAT_STATE i := by
  obtain ⟨hstop, hothers⟩ := s.convStopping_spec c
  have hran : HatOnly hatbandKeeps s (if s.convState c = 1 then s.convStopping c else s) :=
    HatOnly.ite hstop (HatOnly.refl _ s)
  have hdrop := hran.of_visit (dropVisit_hatOnly (HatOnly.refl visitKeeps _) c)
  obtain ⟨hgone, hstate⟩ := convGone_spec ((if s.convState c = 1 then s.convStopping c else s).dropVisit c) c
  refine ⟨hdrop.trans hgone, fun i => (hstate i).trans ?_⟩
  by_cases hi : i = c
  · rw [if_pos hi, if_pos hi]
  · rw [if_neg hi, if_neg hi, dropVisit_state]
    split
    · exact hothers i hi
    · rfl

/-- Hatband in FAULT (R352). -/
theorem hbFault_spec (s : State) : HatOnly hatbandKeeps s s.hbFault ∧
    (∀ c, c < 2 → s.hbFault.r F.HB_CONV_STAT_STATE c = 0) ∧ s.hbFault.r F.HB_EXC_STAT_ON = 0 := by
  have hconv : HatOnly hatbandKeeps s (s.each [0, 1] convFault) :=
    each_inv (HatOnly.refl _ s) fun u c hu => hu.trans (u.convFault_spec c).1
  have hstate : ∀ c, (s.each [0, 1] convFault).r F.HB_CONV_STAT_STATE c =
      if c ∈ [0, 1] then 0 else s.r F.HB_CONV_STAT_STATE c :=
    each_r (Inv := fun _ => True) (V := fun _ => 0) trivial (fun _ _ _ => trivial) fun u a i _ => (u.convFault_spec a).2 i
  rw [hbFault_eq]
  refine ⟨HatOnly.w (HatOnly.w (HatOnly.w hconv)), fun c hc => ?_, ?_⟩
  · have hmem : c ∈ [0, 1] := by simp; omega
    rw [r_w_ne _ _ (by decide), r_w_ne _ _ (by decide), r_w_ne _ _ (by decide), hstate, if_pos hmem]
  · exact (r_w_ne _ _ (by decide)).trans ((r_w_ne _ _ (by decide)).trans (r_w_same ..))

end State
end Sys2Proof.Machine
end

section
/-! PROOF. FAULT entry, the stop actions after Hatband's (R371, R438, R451), and the state they leave. -/

namespace Sys2Proof.Machine

open Sys2Proof

namespace State

/-! ### The housekeeping outputs -/

/-- DAC c in FAULT, and PWM output p. -/
def dacFault (s : State) (c : Nat) : State :=
  ((s.w F.HK_DAC_STAT_CLAMP c 0).w F.HK_DAC_STAT_SLEWING c 0).w F.HK_DAC_STAT_OUT c (s.r F.HK_DAC_CFG_CLEAR c)
def pwmFault (s : State) (p : Nat) : State :=
  ((s.w F.HK_PWM_STAT_STATE p 0).w F.HK_PWM_STAT_PIN p 0).w F.HK_PWM_STAT_ENABLE_PENDING p 0

theorem hkFault_eq (s : State) : s.hkFault = (s.each (List.range 48) dacFault).each (List.range 24) pwmFault := rfl

theorem dacFault_keeps (s : State) (c : Nat) : Keeps visitKeeps s (s.dacFault c) := Keeps.w (Keeps.w (Keeps.w (Keeps.refl _ s)))

theorem pwmFault_keeps (s : State) (p : Nat) :
    Keeps (faultKeeps (recordFields ++ inputFields ++ scanFields ++ [F.HK_DAC_STAT_OUT, F.HK_DAC_STAT_SLEWING])) s
      (s.pwmFault p) := Keeps.w (Keeps.w (Keeps.w (Keeps.refl _ s)))

theorem dacFault_out (s : State) (c i : Nat) : (s.dacFault c).r F.HK_DAC_STAT_OUT i =
    if i = c then s.r F.HK_DAC_CFG_CLEAR c % 65536 else s.r F.HK_DAC_STAT_OUT i := by
  rw [dacFault, r_w_at, r_w_ne _ _ (by decide), r_w_ne _ _ (by decide)]
  rfl

theorem dacFault_slewing (s : State) (c i : Nat) : (s.dacFault c).r F.HK_DAC_STAT_SLEWING i =
    if i = c then 0 else s.r F.HK_DAC_STAT_SLEWING i := by
  rw [dacFault, r_w_ne _ _ (by decide), r_w_at, r_w_ne _ _ (by decide)]
  rfl

theorem pwmFault_pin (s : State) (p i : Nat) : (s.pwmFault p).r F.HK_PWM_STAT_PIN i =
    if i = p then 0 else s.r F.HK_PWM_STAT_PIN i := by
  rw [pwmFault, r_w_ne _ _ (by decide), r_w_at, r_w_ne _ _ (by decide)]
  rfl

theorem pwmFault_state (s : State) (p i : Nat) : (s.pwmFault p).r F.HK_PWM_STAT_STATE i =
    if i = p then 0 else s.r F.HK_PWM_STAT_STATE i := by
  rw [pwmFault, r_w_ne _ _ (by decide), r_w_ne _ _ (by decide), r_w_at]
  rfl

/-- The outputs after their stop: DAC codes at their clear codes, PWM pins low. -/
theorem hkFault_outputs (s : State) :
    (∀ c, c < 48 → s.hkFault.r F.HK_DAC_STAT_OUT c = s.r F.HK_DAC_CFG_CLEAR c % 65536 ∧
      s.hkFault.r F.HK_DAC_STAT_SLEWING c = 0) ∧
    (∀ p, p < 24 → s.hkFault.r F.HK_PWM_STAT_PIN p = 0 ∧ s.hkFault.r F.HK_PWM_STAT_STATE p = 0) := by
  have hclear : ∀ (u : State) (a : Nat), (∀ i, u.r F.HK_DAC_CFG_CLEAR i = s.r F.HK_DAC_CFG_CLEAR i) →
      ∀ i, (u.dacFault a).r F.HK_DAC_CFG_CLEAR i = s.r F.HK_DAC_CFG_CLEAR i :=
    fun u a hu i => ((u.dacFault_keeps a) _ i (by decide)).trans (hu i)
  have hout := each_r (s := s) (l := List.range 48) (V := fun i => s.r F.HK_DAC_CFG_CLEAR i % 65536) (fun _ => rfl) hclear
    fun u a i hu => (u.dacFault_out a i).trans (by rw [hu a])
  have hslew := each_r (s := s) (l := List.range 48) (Inv := fun _ => True) (V := fun _ => 0) trivial (fun _ _ _ => trivial)
    fun u a i _ => u.dacFault_slewing a i
  have hpwm := (Keeps.refl _ (s.each (List.range 48) dacFault)).each (l := List.range 24) fun u p _ hu =>
    hu.trans (u.pwmFault_keeps p)
  have hpin := each_r (s := s.each (List.range 48) dacFault) (l := List.range 24) (Inv := fun _ => True) (V := fun _ => 0)
    trivial (fun _ _ _ => trivial) fun u a i _ => u.pwmFault_pin a i
  have hstate := each_r (s := s.each (List.range 48) dacFault) (l := List.range 24) (Inv := fun _ => True) (V := fun _ => 0)
    trivial (fun _ _ _ => trivial) fun u a i _ => u.pwmFault_state a i
  rw [hkFault_eq]
  refine ⟨fun c hc => ⟨?_, ?_⟩, fun p hp => ⟨(hpin p).trans ?_, (hstate p).trans ?_⟩⟩
  · rw [hpwm _ c (by decide), hout, if_pos (List.mem_range.2 hc)]
  · rw [hpwm _ c (by decide), hslew, if_pos (List.mem_range.2 hc)]
  · exact if_pos (List.mem_range.2 hp)
  · exact if_pos (List.mem_range.2 hp)

theorem hkFault_only (s : State) : Keeps visitKeeps s s.hkFault ∧ RegsOnly s s.hkFault := by
  rw [hkFault_eq]
  constructor
  · refine ((Keeps.refl _ s).each fun u c _ hu => hu.trans (u.dacFault_keeps c)).each fun u p _ hu => hu.trans ?_
    exact (u.pwmFault_keeps p).sub
  · refine each_inv (each_inv (RegsOnly.refl s) fun u c hu => ?_) fun u p hu => ?_
    · exact ((hu.w ..).w ..).w ..
    · exact ((hu.w ..).w ..).w ..

/-! ### Batts, NVM, telemetry, Plank and transfers -/

/-- What the stop actions after the outputs' keep. -/
def tailKeeps : Nat → Bool := faultKeeps (recordFields ++ scanFields ++ outputFields)

theorem battEnd_only (s : State) (b : Nat) : Keeps tailKeeps s (s.battEnd b 8) ∧
    ∃ regs cap held occ, s.battEnd b 8 = { s with regs := regs, cap := cap, held := held, occ := occ } := by
  obtain ⟨f, v, bt, items, hf, he⟩ := s.battEnd_eq b (cause := 8) (by decide)
  rw [he]
  constructor
  · refine Keeps.post (Keeps.w (Keeps.w (Keeps.w ?_ ?_)))
    · exact (Keeps.refl _ s).regs rfl
    · rcases hf with rfl | rfl <;> decide
  · obtain ⟨held, occ, hp⟩ := post_exists ((((({ s with cap := { s.cap with batts := bt } } : State).w f 0 v).w
      F.CAP_BATT_STAT_STATE b 3).w F.CAP_BATT_STAT_END_CAUSE b 8)) capSrc 0x4002 items
    exact ⟨_, _, held, occ, hp⟩

theorem battsEnd_only (s : State) (p : Nat → Bool) : Keeps tailKeeps s (s.battsEnd p 8) ∧
    ∃ regs cap held occ, s.battsEnd p 8 = { s with regs := regs, cap := cap, held := held, occ := occ } := by
  refine each_inv (P := fun t => Keeps tailKeeps s t ∧
    ∃ regs cap held occ, t = { s with regs := regs, cap := cap, held := held, occ := occ })
    ⟨Keeps.refl _ s, s.regs, s.cap, s.held, s.occ, rfl⟩ ?_
  rintro u b ⟨hk, regs, cap, held, occ, rfl⟩
  obtain ⟨hk', regs', cap', held', occ', he⟩ := battEnd_only { s with regs := regs, cap := cap, held := held, occ := occ } b
  exact ⟨hk.trans hk', regs', cap', held', occ', he⟩

/-- Without a batt that is armed or written none ends. -/
theorem battsEnd_none {s : State} (h : allBatts.any s.battActive = false) (p : Nat → Bool) (cause : Nat) :
    s.battsEnd p cause = s := by
  have hnil : (allBatts.filter fun b => s.battActive b && p b) = [] := by
    rw [List.filter_eq_nil_iff]
    intro b hb hact
    rw [List.any_eq_false] at h
    rw [Bool.and_eq_true] at hact
    exact h b hb hact.1
  rw [battsEnd, hnil]
  rfl

/-- The bank as a stop of commit r leaves it. -/
def nvmCut (s : State) (r : Running) : State :=
  match r.phase with
  | .programming => ({ s.programPages r s.pagesWritten with fresh := s.fresh + 1 } : State).otherShow
  | .erasing => ({ s.erasePages r.target s.pagesWritten with fresh := s.fresh + 1 } : State).otherShow
  | .erasingLog => ({ s.erasePages 1 s.pagesWritten with fresh := s.fresh + 1 } : State).otherShow
  | _ => s

/-- Nothing runs and nothing waits. -/
def nvmIdle (s : State) : State := { s with nvm := { s.nvm with running := none, queue := [] } }

theorem nvmStop_running {s : State} {r : Running} (h : s.nvm.running = some r) : s.nvmStop false = (s.nvmCut r).nvmIdle := by
  rw [nvmStop, h]
  rfl

theorem otherShow_keeps {z s : State} (h : Keeps tailKeeps z s) : Keeps tailKeeps z s.otherShow := Keeps.w h

theorem nvmCut_keeps (s : State) (r : Running) : Keeps tailKeeps s (s.nvmCut r) := by
  unfold nvmCut
  split
  · exact otherShow_keeps ((Keeps.refl _ s).regs rfl)
  · exact otherShow_keeps ((Keeps.refl _ s).regs rfl)
  · exact otherShow_keeps ((Keeps.refl _ s).regs rfl)
  · exact Keeps.refl _ s

/-- The stop of programming writes what the bank that is not active shows, and nothing runs after it. -/
theorem nvmStop_only (s : State) : Keeps tailKeeps s (s.nvmStop false) ∧ (s.nvmStop false).nvm.running = none := by
  cases hr : s.nvm.running with
  | none =>
    rw [nvmStop_idle hr]
    exact ⟨Keeps.refl _ s, hr⟩
  | some r =>
    rw [nvmStop_running hr]
    exact ⟨(s.nvmCut_keeps r).regs rfl, rfl⟩

/-- Telemetry's stop. -/
def subsEnd (s : State) : State := s.each (List.range 64) subEnd

theorem subEnd_state (s : State) (k i : Nat) : (s.subEnd k).r F.SYS_TLM_STAT_STATE i =
    if i = k then 0 else s.r F.SYS_TLM_STAT_STATE i := by
  refine (r_w_ne _ _ (by decide)).trans ((r_w_at ..).trans ?_)
  rfl

theorem subsEnd_state (s : State) {k : Nat} (hk : k < 64) : s.subsEnd.r F.SYS_TLM_STAT_STATE k = 0 := by
  have hstate := each_r (s := s) (l := List.range 64) (g := subEnd) (Inv := fun _ => True) (V := fun _ => 0) trivial
    (fun _ _ _ => trivial) fun u a i _ => u.subEnd_state a i
  exact (hstate k).trans (if_pos (List.mem_range.2 hk))

theorem subsEnd_only (s : State) : Keeps tailKeeps s s.subsEnd ∧
    ∃ regs subs, s.subsEnd = { s with regs := regs, subs := subs } := by
  refine each_inv (P := fun t => Keeps tailKeeps s t ∧ ∃ regs subs, t = { s with regs := regs, subs := subs })
    ⟨Keeps.refl _ s, s.regs, s.subs, rfl⟩ ?_
  rintro u k ⟨hk, regs, subs, rfl⟩
  refine ⟨Keeps.w (Keeps.w ?_), _, _, rfl⟩
  exact hk.regs rfl

/-- What FAULT shows of telemetry, the outputs, Hatband and the cause. -/
def faultShown : Nat → Bool := faultKeeps (recordFields ++ scanFields ++ outputFields ++ [F.SYS_TLM_STAT_STATE])

/-- The stop of BIST, Plank, copies and transfers. -/
def worksEnd (s : State) : State :=
  { s.w F.SYS_BIST_STAT_RUNNING 0 0 with
    plank := { s.plank with waiting := [], engines := [] }
    cap := { s.cap with reads := [] }
    msp := { s.msp with xfers := [] }
    fab := { s.fab with raises := s.fab.raises.filter fun r =>
      !(match r.change with | .bist _ _ _ => true | .lane _ _ => false) } }

theorem faultStop_eq (s : State) : s.faultStop = s.subsEnd.worksEnd := rfl

theorem worksEnd_keeps (s : State) : Keeps faultShown s s.worksEnd :=
  Keeps.regs (s := s.w F.SYS_BIST_STAT_RUNNING 0 0) (Keeps.w (Keeps.refl _ s)) rfl

/-- The stop of telemetry, BIST, Plank, copies and transfers. -/
theorem faultStop_spec (s : State) : Keeps tailKeeps s s.faultStop ∧
    (∀ k, k < 64 → s.faultStop.r F.SYS_TLM_STAT_STATE k = 0) ∧ s.faultStop.plank.engines = [] ∧
    s.faultStop.plank.waiting = [] ∧ s.faultStop.msp.xfers = [] ∧
    ∃ regs subs plank cap msp fab,
      s.faultStop = { s with regs := regs, subs := subs, plank := plank, cap := cap, msp := msp, fab := fab } := by
  obtain ⟨hkeeps, regs, subs, hends⟩ := s.subsEnd_only
  rw [faultStop_eq]
  refine ⟨hkeeps.trans s.subsEnd.worksEnd_keeps.sub, fun k hk => (s.subsEnd.worksEnd_keeps _ k (by decide)).trans
    (s.subsEnd_state hk), rfl, rfl, rfl, ?_⟩
  rw [hends]
  exact ⟨_, _, _, _, _, _, rfl⟩

/-- A change of the device's state: HOST of SAFE's causes, and the two states. -/
theorem setDev_spec (s : State) (d : DevState) : Keeps faultShown s (s.setDev d) ∧ RegsOnly s (s.setDev d) ∧
    (s.setDev d).dev = d := by
  have hcause : Keeps faultShown s (if s.dev == .safe then s.w F.SYS_SAFE_CAUSE_HOST 0 0 else s) ∧
      RegsOnly s (if s.dev == .safe then s.w F.SYS_SAFE_CAUSE_HOST 0 0 else s) := by
    split
    · exact ⟨Keeps.w (Keeps.refl _ s), (RegsOnly.refl s).w ..⟩
    · exact ⟨Keeps.refl _ s, RegsOnly.refl s⟩
  refine ⟨Keeps.w (Keeps.w hcause.1), (hcause.2.w ..).w .., ?_⟩
  rw [dev, setDev, r_w_same]
  cases d <;> rfl

end State
end Sys2Proof.Machine
end

section
/-! PROOF. FAULT entry as a whole (R437, R438): the record, then every stop action, then the state. -/

namespace Sys2Proof.Machine

open Sys2Proof

namespace State

/-- Everything in operation stops, and the device shows FAULT. -/
def allStopped (s : State) : State :=
  (((s.hbFault.hkFault.battsEnd (fun _ => true) 8).nvmStop false).faultStop).setDev .fault

/-- What has stopped in `t`, entered from `s`, and what the stop keeps. -/
structure Stopped (s t : State) : Prop where
  dev : t.dev = .fault
  keeps : Keeps (faultKeeps recordFields) s t
  dacs : ∀ c, c < 48 → t.r F.HK_DAC_STAT_OUT c = s.r F.HK_DAC_CFG_CLEAR c % 65536 ∧ t.r F.HK_DAC_STAT_SLEWING c = 0
  pwms : ∀ p, p < 24 → t.r F.HK_PWM_STAT_PIN p = 0 ∧ t.r F.HK_PWM_STAT_STATE p = 0
  converters : ∀ c, c < 2 → t.r F.HB_CONV_STAT_STATE c = 0
  excitation : t.r F.HB_EXC_STAT_ON = 0
  telemetry : ∀ k, k < 64 → t.r F.SYS_TLM_STAT_STATE k = 0
  engines : t.plank.engines = []
  waiting : t.plank.waiting = []
  xfers : t.msp.xfers = []
  running : t.nvm.running = none
  parts : ∃ regs hb cap held occ nvm fresh subs plank msp fab,
    t = { s with regs := regs, hb := hb, cap := cap, held := held, occ := occ, nvm := nvm, fresh := fresh, subs := subs,
                 plank := plank, msp := msp, fab := fab }
  still : allBatts.any s.battActive = false → t.held = s.held ∧ t.occ = s.occ

/-- Hatband and the housekeeping outputs stop. -/
def outputsStopped (s : State) : State := s.hbFault.hkFault

theorem outputsStopped_spec (s : State) : Keeps hatbandKeeps s s.outputsStopped ∧
    (∀ c, c < 48 → s.outputsStopped.r F.HK_DAC_STAT_OUT c = s.r F.HK_DAC_CFG_CLEAR c % 65536 ∧
      s.outputsStopped.r F.HK_DAC_STAT_SLEWING c = 0) ∧
    (∀ p, p < 24 → s.outputsStopped.r F.HK_PWM_STAT_PIN p = 0 ∧ s.outputsStopped.r F.HK_PWM_STAT_STATE p = 0) ∧
    (∀ c, c < 2 → s.outputsStopped.r F.HB_CONV_STAT_STATE c = 0) ∧ s.outputsStopped.r F.HB_EXC_STAT_ON = 0 ∧
    ∃ regs hb, s.outputsStopped = { s with regs := regs, hb := hb } := by
  obtain ⟨⟨hkeeps, regs, hb, hparts⟩, hconv, hexc⟩ := s.hbFault_spec
  obtain ⟨hk, hregs⟩ := s.hbFault.hkFault_only
  obtain ⟨hdac, hpwm⟩ := s.hbFault.hkFault_outputs
  have hscan : ∀ f i, f ∈ scanFields → s.hbFault.hkFault.r f i = s.hbFault.r f i :=
    fun f i hf => Keeps.read hk (by simp [hf]) i
  refine ⟨hkeeps.trans hk.sub, fun c hc => ?_, hpwm, fun c hc => (hscan _ c (by decide)).trans (hconv c hc),
    (hscan _ 0 (by decide)).trans hexc, ?_⟩
  · rw [← hkeeps.read (by decide) c]
    exact hdac c hc
  · obtain ⟨regs', hp⟩ := hregs
    exact ⟨regs', hb, hp.trans (by rw [hparts])⟩

/-- Captures, programming, telemetry, BIST, Plank and transfers stop. -/
def worksStopped (s : State) : State := ((s.battsEnd (fun _ => true) 8).nvmStop false).faultStop

theorem worksStopped_spec (s : State) : Keeps tailKeeps s s.worksStopped ∧
    (∀ k, k < 64 → s.worksStopped.r F.SYS_TLM_STAT_STATE k = 0) ∧ s.worksStopped.plank.engines = [] ∧
    s.worksStopped.plank.waiting = [] ∧ s.worksStopped.msp.xfers = [] ∧ s.worksStopped.nvm.running = none ∧
    (∃ regs cap held occ nvm fresh subs plank msp fab,
      s.worksStopped = { s with regs := regs, cap := cap, held := held, occ := occ, nvm := nvm, fresh := fresh, subs := subs,
                                plank := plank, msp := msp, fab := fab }) ∧
    (allBatts.any s.battActive = false → s.worksStopped.held = s.held ∧ s.worksStopped.occ = s.occ) := by
  obtain ⟨hbatt, regs₁, cap₁, held, occ, heq₁⟩ := s.battsEnd_only fun _ => true
  obtain ⟨hnvm, hrun⟩ := (s.battsEnd (fun _ => true) 8).nvmStop_only
  obtain ⟨regs₂, nvm, fresh, heq₂⟩ := (s.battsEnd (fun _ => true) 8).nvmStop_exists
  obtain ⟨hstop, htlm, heng, hwait, hxfer, regs₃, subs, plank, cap, msp, fab, heq₃⟩ :=
    ((s.battsEnd (fun _ => true) 8).nvmStop false).faultStop_spec
  refine ⟨(hbatt.trans hnvm).trans hstop, htlm, heng, hwait, hxfer, ?_, ?_, fun hb => ?_⟩
  · rw [worksStopped, heq₃]
    exact hrun
  · refine ⟨regs₃, cap, held, occ, nvm, fresh, subs, plank, msp, fab, ?_⟩
    rw [worksStopped, heq₃, heq₂, heq₁]
  · rw [worksStopped, heq₃, heq₂, battsEnd_none hb]
    exact ⟨rfl, rfl⟩

theorem battActive_congr {s t : State} (h : ∀ i, t.r F.CAP_BATT_STAT_STATE i = s.r F.CAP_BATT_STAT_STATE i) :
    t.battActive = s.battActive := by
  funext b
  rw [battActive, battState, h, battActive, battState]

/-- Everything stops: each part of it, and what is left alone. -/
theorem allStopped_stopped (s : State) : s.Stopped s.allStopped := by
  obtain ⟨hkeeps₁, hdac, hpwm, hconv, hexc, regs₁, hb, heq₁⟩ := s.outputsStopped_spec
  obtain ⟨hkeeps₂, htlm, heng, hwait, hxfer, hrun, ⟨regs₂, cap, held, occ, nvm, fresh, subs, plank, msp, fab, heq₂⟩, hstill⟩ :=
    s.outputsStopped.worksStopped_spec
  obtain ⟨hkeeps₃, ⟨regs₃, heq₃⟩, hdev⟩ := s.outputsStopped.worksStopped.setDev_spec .fault
  have hshown : ∀ f i, f ∈ scanFields ++ outputFields →
      (s.outputsStopped.worksStopped.setDev .fault).r f i = s.outputsStopped.r f i := by
    intro f i hf
    have htail : f ∈ recordFields ++ scanFields ++ outputFields := by
      rw [List.append_assoc]
      exact List.mem_append_right _ hf
    exact (hkeeps₃.read (List.mem_append_left _ htail) i).trans (hkeeps₂.read htail i)
  show s.Stopped (s.outputsStopped.worksStopped.setDev .fault)
  generalize s.outputsStopped.worksStopped = u at *
  refine ⟨hdev, (hkeeps₁.sub.trans hkeeps₂.sub).trans hkeeps₃.sub, fun c hc => ?_, fun p hp => ?_, fun c hc => ?_, ?_,
    fun k hk => ?_, ?_, ?_, ?_, ?_, ?_, fun hb => ?_⟩
  · rw [hshown _ c (by decide), hshown _ c (by decide)]
    exact hdac c hc
  · rw [hshown _ p (by decide), hshown _ p (by decide)]
    exact hpwm p hp
  · rw [hshown _ c (by decide)]
    exact hconv c hc
  · rw [hshown _ 0 (by decide)]
    exact hexc
  · rw [hkeeps₃.read (by decide) k]
    exact htlm k hk
  · rw [heq₃]
    exact heng
  · rw [heq₃]
    exact hwait
  · rw [heq₃]
    exact hxfer
  · rw [heq₃]
    exact hrun
  · refine ⟨regs₃, hb, cap, held, occ, nvm, fresh, subs, plank, msp, fab, ?_⟩
    rw [heq₃, heq₂, heq₁]
  · have hact : allBatts.any s.outputsStopped.battActive = false := by
      rw [battActive_congr fun i => hkeeps₁.read (by decide) i]
      exact hb
    obtain ⟨hheld, hocc⟩ := hstill hact
    rw [heq₃]
    refine ⟨hheld.trans ?_, hocc.trans ?_⟩ <;> rw [heq₁]

end State
end Sys2Proof.Machine
end

section
/-! PROOF. FAULT entry (R437, R438): what the device shows once the entry is done, where no transition was under way. -/

namespace Sys2Proof.Machine

open Sys2Proof

namespace State

theorem lastFail_only (s : State) : Keeps (faultKeeps inputFields) s s.lastFail ∧ RegsOnly s s.lastFail ∧
    (∀ f i, f.id ≠ F.SYS_BOOT_STAT_LAST_FAIL.id → s.lastFail.r f i = s.r f i) := by
  unfold lastFail
  dsimp only
  split
  · exact ⟨Keeps.w (Keeps.refl _ s), (RegsOnly.refl s).w .., fun f i hf => r_w_ne _ _ hf⟩
  · exact ⟨Keeps.refl _ s, RegsOnly.refl s, fun _ _ _ => rfl⟩

theorem faultRecord_only (s : State) (c d : Nat) : Keeps (faultKeeps inputFields) s (s.faultRecord c d) ∧
    RegsOnly s (s.faultRecord c d) :=
  ⟨Keeps.w (Keeps.w (Keeps.w (Keeps.w (Keeps.w (Keeps.refl _ s))))), (((((RegsOnly.refl s).w ..).w ..).w ..).w ..).w ..⟩

/-- What the record of a fault says. -/
structure Recorded (t : State) (cause detail time : Nat) : Prop where
  valid : t.r F.SYS_FAULT_CAUSE_VALID = 1
  cause : t.r F.SYS_FAULT_CAUSE_CAUSE = cause
  detail : t.r F.SYS_FAULT_CAUSE_DETAIL = detail
  time : t.r F.SYS_FAULT_TIME_TIME = time

theorem Recorded.of_keeps {s t : State} {c d n : Nat} (h : s.Recorded c d n) (hk : Keeps (faultKeeps recordFields) s t) :
    t.Recorded c d n := by
  obtain ⟨hv, hc, hd, ht⟩ := h
  exact ⟨(hk.read (by decide) 0).trans hv, (hk.read (by decide) 0).trans hc, (hk.read (by decide) 0).trans hd,
    (hk.read (by decide) 0).trans ht⟩

theorem faultRecord_recorded (s : State) {c d : Nat} (hc : c < 256) (hd : d < 256) :
    (s.faultRecord c d).Recorded c d (s.sysTime % 2 ^ 64) := by
  have htime : ((s.w F.SYS_FAULT_CAUSE_VALID 0 1).w F.SYS_FAULT_CAUSE_PREV_STATE 0 s.dev.code).sysTime = s.sysTime :=
    (r_w_ne _ _ (by decide)).trans (r_w_ne _ _ (by decide))
  unfold faultRecord
  refine ⟨?_, ?_, ?_, ?_⟩
  · rw [r_w_ne _ _ (by decide), r_w_ne _ _ (by decide), r_w_ne _ _ (by decide), r_w_ne _ _ (by decide), r_w_same]
    rfl
  · rw [r_w_ne _ _ (by decide), r_w_ne _ _ (by decide), r_w_same]
    exact Nat.mod_eq_of_lt hc
  · rw [r_w_ne _ _ (by decide), r_w_same]
    exact Nat.mod_eq_of_lt hd
  · rw [r_w_same, htime]
    rfl

theorem faultRecord_prev (s : State) (c d : Nat) : (s.faultRecord c d).r F.SYS_FAULT_CAUSE_PREV_STATE = s.dev.code := by
  unfold faultRecord
  rw [r_w_ne _ _ (by decide), r_w_ne _ _ (by decide), r_w_ne _ _ (by decide), r_w_same]
  cases s.dev <;> rfl

/-- The registers as they stand are kept for the dump. -/
def snapped (s : State) : State :=
  { s with sys := { s.sys with snap := s.regs, snapNs := s.poweredNs, tag := 0, dump := none, dumped := false } }

/-- FAULT entry once the transitions under way have ended. -/
def faultRest (s : State) (c d : Nat) : State := (s.lastFail.faultRecord c d).allStopped.snapped

/-- Marking the fault writes none of the registers that the stop actions start from. -/
theorem marked_only (s : State) (c d : Nat) : Keeps (faultKeeps inputFields) s (s.lastFail.faultRecord c d) ∧
    RegsOnly s (s.lastFail.faultRecord c d) := by
  obtain ⟨hkeeps, ⟨regs, hregs⟩, -⟩ := s.lastFail_only
  obtain ⟨hkeeps', regs', hregs'⟩ := s.lastFail.faultRecord_only c d
  exact ⟨hkeeps.trans hkeeps', regs', hregs'.trans (by rw [hregs])⟩

theorem lastFail_read (s : State) : s.lastFail.dev = s.dev ∧ s.lastFail.sysTime = s.sysTime :=
  ⟨dev_congr (s.lastFail_only.2.2 _ _ (by decide)), s.lastFail_only.2.2 _ _ (by decide)⟩

theorem snapped_recorded {s : State} {c d n : Nat} (h : s.Recorded c d n) : s.snapped.Recorded c d n :=
  h.of_keeps ((Keeps.refl _ s).regs rfl)

theorem faultRest_recorded (s : State) {c d : Nat} (hc : c < 256) (hd : d < 256) :
    (s.faultRest c d).Recorded c d (s.sysTime % 2 ^ 64) := by
  have hrec := (s.lastFail.faultRecord_recorded hc hd).of_keeps (allStopped_stopped _).keeps
  rw [s.lastFail_read.2] at hrec
  exact snapped_recorded hrec

theorem snapped_dev (s : State) : s.snapped.dev = s.dev := rfl

theorem faultRest_dev (s : State) (c d : Nat) : (s.faultRest c d).dev = .fault :=
  (snapped_dev _).trans (allStopped_stopped _).dev

theorem snapped_snapNs (s : State) : s.snapped.sys.snapNs = s.poweredNs := rfl

theorem faultRest_dumped (s : State) (c d : Nat) : (s.faultRest c d).sys.dumped = false := rfl

/-- FAULT entered from `s`, with nothing under way: what stands in `t` apart from the record's cause. -/
structure Faulted (s t : State) : Prop where
  prev : t.r F.SYS_FAULT_CAUSE_PREV_STATE = s.dev.code
  snap : t.sys.snap = t.regs
  tag : t.sys.tag = 0
  dump : t.sys.dump = none
  snapNs : t.sys.snapNs = s.poweredNs
  stopped : ∃ u v, s.RegsOnly u ∧ Keeps (faultKeeps inputFields) s u ∧ u.Stopped v ∧ t = v.snapped

theorem faultRest_faulted (s : State) (c d : Nat) : s.Faulted (s.faultRest c d) := by
  obtain ⟨hkeeps, hregs⟩ := s.marked_only c d
  have hstop := allStopped_stopped (s.lastFail.faultRecord c d)
  have hns : (s.lastFail.faultRecord c d).allStopped.poweredNs = s.poweredNs := by
    obtain ⟨regs, hb, cap, held, occ, nvm, fresh, subs, plank, msp, fab, hparts⟩ := hstop.parts
    obtain ⟨regs', hregs⟩ := hregs
    rw [hparts, hregs]
  have hprev := (s.lastFail.faultRecord_prev c d).trans (congrArg DevState.code s.lastFail_read.1)
  unfold faultRest
  generalize (s.lastFail.faultRecord c d).allStopped = v at *
  refine ⟨?_, rfl, rfl, rfl, (snapped_snapNs _).trans hns, _, _, hregs, hkeeps, hstop, rfl⟩
  exact (r_congr rfl _ _).trans ((hstop.keeps.read (by decide) 0).trans hprev)

end State
end Sys2Proof.Machine
end

section
/-! PROOF. FAULT entry (R437, R438): the statement's clauses for an entry with nothing under way. -/

namespace Sys2Proof.Machine

open Sys2Proof

namespace State

variable {s t : State}

theorem Faulted.outputs (h : s.Faulted t) :
    (∀ c, c < 48 → t.r F.HK_DAC_STAT_OUT c = s.r F.HK_DAC_CFG_CLEAR c % 65536 ∧ t.r F.HK_DAC_STAT_SLEWING c = 0) ∧
    (∀ p, p < 24 → t.r F.HK_PWM_STAT_PIN p = 0 ∧ t.r F.HK_PWM_STAT_STATE p = 0) ∧
    (∀ c, c < 2 → t.r F.HB_CONV_STAT_STATE c = 0) ∧ t.r F.HB_EXC_STAT_ON = 0 ∧
    (∀ k, k < 64 → t.r F.SYS_TLM_STAT_STATE k = 0) := by
  obtain ⟨u, v, -, hkeeps, hstop, rfl⟩ := h.stopped
  refine ⟨fun c hc => ?_, hstop.pwms, hstop.converters, hstop.excitation, hstop.telemetry⟩
  rw [← hkeeps.read (by decide) c]
  exact hstop.dacs c hc

theorem Faulted.works (h : s.Faulted t) : t.plank.engines = [] ∧ t.plank.waiting = [] ∧ t.msp.xfers = [] ∧
    t.nvm.running = none := by
  obtain ⟨u, v, -, -, hstop, rfl⟩ := h.stopped
  exact ⟨hstop.engines, hstop.waiting, hstop.xfers, hstop.running⟩

theorem Faulted.still (h : s.Faulted t) (hb : allBatts.any s.battActive = false) :
    t.held = s.held ∧ t.hostMem = s.hostMem ∧ t.occ = s.occ := by
  obtain ⟨u, v, ⟨regs, hu⟩, hkeeps, hstop, rfl⟩ := h.stopped
  obtain ⟨hheld, hocc⟩ := hstop.still (by rw [battActive_congr fun i => hkeeps.read (by decide) i]; exact hb)
  obtain ⟨_, _, _, _, _, _, _, _, _, _, _, hv⟩ := hstop.parts
  refine ⟨hheld.trans ?_, ?_, hocc.trans ?_⟩
  · rw [hu]
  · rw [snapped, hv, hu]
  · rw [hu]

theorem Faulted.others (h : s.Faulted t) : t.now = s.now ∧ t.pending = s.pending ∧ t.rings = s.rings ∧ t.pcie = s.pcie ∧
    t.lane = s.lane ∧ t.host = s.host ∧ t.tx = s.tx ∧ t.adc = s.adc ∧ t.eq = s.eq ∧ t.fec = s.fec ∧ t.pool = s.pool ∧
    t.cal = s.cal ∧ t.tap = s.tap := by
  obtain ⟨u, v, ⟨regs, rfl⟩, -, hstop, rfl⟩ := h.stopped
  obtain ⟨_, _, _, _, _, _, _, _, _, _, _, rfl⟩ := hstop.parts
  exact ⟨rfl, rfl, rfl, rfl, rfl, rfl, rfl, rfl, rfl, rfl, rfl, rfl, rfl⟩

/-- A field of a lane or a host lane is among those kept. -/
theorem faultKeeps_block {f : Fld} (hlo : f.lo < 512) (h : (laneBlock f.base || hostBlock f.base) = true) (l : List Fld) :
    faultKeeps l f.id = true := by
  have hbase : f.id / 512 = f.base := by
    rw [Fld.id]
    omega
  rw [faultKeeps, hbase, h, Bool.true_or]

theorem Faulted.blocks (h : s.Faulted t) : onlyBlocks (fun b => !(laneBlock b) && !(hostBlock b)) s t := by
  obtain ⟨u, v, -, hkeeps, hstop, rfl⟩ := h.stopped
  intro f i hlo hf
  have hblock : (laneBlock f.base || hostBlock f.base) = true := by
    cases hl : laneBlock f.base <;> cases hh : hostBlock f.base <;> simp_all
  exact (hstop.keeps f i (faultKeeps_block hlo hblock _)).trans (hkeeps f i (faultKeeps_block hlo hblock _))

end State
end Sys2Proof.Machine
end

section
/-! PROOF. The transitions that complete before FAULT entry (R88) leave SYS_TIME alone. -/

namespace Sys2Proof.Machine

open Sys2Proof

namespace State

/-- The number of SYS_TIME. -/
def clock (k : Nat) : Bool := k == F.SYS_TIME_TIME.id

theorem sysTime_of_keeps {z s : State} (h : Keeps clock z s) : s.sysTime = z.sysTime := h _ 0 (by decide)

section
variable {z s : State}

theorem setDev_clock (h : Keeps clock z s) (d : DevState) : Keeps clock z (s.setDev d) :=
  Keeps.w (Keeps.w (Keeps.ite (Keeps.w h) h))

theorem enterState_clock (h : Keeps clock z s) (d : DevState) : Keeps clock z (s.enterState d) :=
  Keeps.post (setDev_clock h d)

theorem bootEntered_clock (h : Keeps clock z s) : Keeps clock z s.bootEntered := by
  have hshut : ∀ (t : State) (l : List (Nat × Nat)), Keeps clock z t → Keeps clock z
      (if t.sys.shutPost then ({ t with sys := { t.sys with shutPost := false } } : State).post thermalSrc 0x7004 l else t) := by
    intro t l ht
    refine Keeps.ite (Keeps.post ?_) ht
    exact ht.regs rfl
  unfold bootEntered
  exact hshut _ _ (Keeps.w (Keeps.ite (Keeps.post (Keeps.post (Keeps.w h))) (Keeps.post (Keeps.w h))))

theorem autoSafe_clock (h : Keeps clock z s) : Keeps clock z s.autoSafe := by
  refine Keeps.ite ?_ h
  exact h.regs rfl

theorem raiseStart_clock (h : Keeps clock z s) (c : Change) : Keeps clock z (s.raiseStart c) := by
  refine marginsSettle_keeps (by decide) ?_
  exact h.regs rfl

theorem restoreCheck_clock (h : Keeps clock z s) (n : Nat) : Keeps clock z (s.restoreCheck n) := by
  have hrefused : Keeps clock z (s.restoreRefused n) := Keeps.post (h.each fun _ _ _ hu => Keeps.w hu)
  unfold restoreCheck
  split
  · split
    · exact hrefused
    · exact Keeps.ite h (raiseStart_clock h _)
  · exact h

theorem runEntered_clock (h : Keeps clock z s) : Keeps clock z s.runEntered := by
  have hdown : Keeps clock z (s.w F.SYS_SAFE_CAUSE_LINK_DOWN 0 1) := Keeps.w h
  exact Keeps.ite (autoSafe_clock hdown) (h.each fun _ n _ hu => restoreCheck_clock hu n)

theorem safeEntered_clock (h : Keeps clock z s) : Keeps clock z s.safeEntered :=
  h.each fun _ _ _ hu => hu.regs (setCal_regs ..)

theorem entered_clock (h : Keeps clock z s) (old d : DevState) : Keeps clock z (s.entered old d) := by
  cases d with
  | setup => exact Keeps.ite (bootEntered_clock h) h
  | run => exact runEntered_clock h
  | safe => exact safeEntered_clock h
  | _ => exact h

theorem transStep_clock (h : Keeps clock z s) : Keeps clock z s.transStep := by
  unfold transStep
  split
  · exact h
  · refine entered_clock (enterState_clock ?_ _) _ _
    exact h.regs rfl

theorem transAll_clock (h : Keeps clock z s) : Keeps clock z s.transAll :=
  transStep_clock (transStep_clock (transStep_clock h))

end

end State
end Sys2Proof.Machine
end

section
/-! PROOF. The fatal conditions (R437, R438, R88). -/

namespace Sys2Proof.Machine

open Sys2Proof

namespace State

/-- The device's state and the record of a fault. -/
def entryFields : List Fld := F.SYS_STATE_STATE :: recordFields

/-- An access error touches neither the state nor the record of a fault. -/
theorem accErr_spec (s : State) (e : ErrBits) (src addr : Nat) (bar2 : Bool) :
    Keeps (faultKeeps entryFields) s (s.accErr e src addr bar2) ∧ (s.accErr e src addr bar2).sys = s.sys := by
  have hw : ∀ (t : State) {f : Fld} (v : Nat), faultKeeps entryFields f.id = false →
      Keeps (faultKeeps entryFields) s t ∧ t.sys = s.sys →
      Keeps (faultKeeps entryFields) s (t.w f 0 v) ∧ (t.w f 0 v).sys = s.sys := fun t f v hf ht => ⟨Keeps.w ht.1 hf, ht.2⟩
  have hset : ∀ (t : State) (b : Bool) {f : Fld}, faultKeeps entryFields f.id = false →
      Keeps (faultKeeps entryFields) s t ∧ t.sys = s.sys →
      Keeps (faultKeeps entryFields) s (if b then t.w f 0 1 else t) ∧ (if b then t.w f 0 1 else t).sys = s.sys := by
    intro t b f hf ht
    split
    · exact hw t 1 hf ht
    · exact ht
  have hbits := hset _ e.partialAcc (f := F.SYS_ACC_ERR_PARTIAL) (by decide)
    (hset _ e.badValue (f := F.SYS_ACC_ERR_BAD_VALUE) (by decide)
      (hset _ e.lkWrite (f := F.SYS_ACC_ERR_LK_WRITE) (by decide)
        (hset s e.unmapped (f := F.SYS_ACC_ERR_UNMAPPED) (by decide) ⟨Keeps.refl _ s, rfl⟩)))
  unfold accErr
  split
  · exact ⟨Keeps.refl _ s, rfl⟩
  · dsimp only
    split
    · have hfirst := hw _ (addr) (f := F.SYS_ACC_ERR_ADDR_ADDR) (by decide)
        (hw _ bar2.toNat (f := F.SYS_ACC_ERR_ADDR_IN_BAR2) (by decide)
          (hw _ src (f := F.SYS_ACC_ERR_MASTER) (by decide) hbits))
      exact ⟨hfirst.1.post, (by simp only [post_sys]; exact hfirst.2)⟩
    · exact hw _ 1 (by decide) hbits

/-- FAULT is entered, for the cause and with the detail that the record says, at time n. -/
structure Entered (t : State) (cause detail time : Nat) : Prop where
  dev : t.dev = .fault
  recorded : t.Recorded cause detail time
  dumped : t.sys.dumped = false

theorem faultRest_entered (s : State) {c d : Nat} (hc : c < 256) (hd : d < 256) :
    (s.faultRest c d).Entered c d (s.sysTime % 2 ^ 64) :=
  ⟨s.faultRest_dev c d, s.faultRest_recorded hc hd, s.faultRest_dumped c d⟩

theorem Entered.accErr {t : State} {c d n : Nat} (h : t.Entered c d n) (e : ErrBits) (src addr : Nat) (bar2 : Bool) :
    (t.accErr e src addr bar2).Entered c d n := by
  obtain ⟨hkeeps, hsys⟩ := t.accErr_spec e src addr bar2
  exact ⟨(dev_congr (hkeeps.read (by decide) 0)).trans h.dev, h.recorded.of_keeps hkeeps.sub, hsys ▸ h.dumped⟩

/-- A transition under way completes before the entry; one to SAFE of this instant is given up. -/
def faultAct (c d : Nat) (s : State) : State := s.safeWithdraw.transAll.faultRest c d

theorem faultEnter_eq {s : State} (h : s.live = true) (c d : Nat) : s.faultEnter c d = s.outranking (faultAct c d) := by
  rw [faultEnter, if_neg (by simp [h])]
  rfl

theorem faultAct_entered {z s : State} (h : Keeps clock z s) {c d : Nat} (hc : c < 256) (hd : d < 256) :
    (faultAct c d s).Entered c d (z.sysTime % 2 ^ 64) := by
  have hclock : Keeps clock z s.safeWithdraw.transAll := transAll_clock (h.regs rfl)
  rw [← sysTime_of_keeps hclock]
  exact faultRest_entered _ hc hd

theorem reqWithdraw_clock (s : State) (req : Nat) : Keeps clock s (s.reqWithdraw req) := by
  have hsys : ∀ y, Keeps clock s { s with sys := y } := fun _ => (Keeps.refl _ s).regs rfl
  exact Keeps.ite (Keeps.w (hsys _)) (hsys _)

/-- From a device at work a fatal condition enters FAULT, whatever transition is under way. -/
theorem faultEnter_entered {s : State} (h : s.live = true) {c d : Nat} (hc : c < 256) (hd : d < 256) :
    (s.faultEnter c d).Entered c d (s.sysTime % 2 ^ 64) := by
  rw [faultEnter_eq h, outranking]
  split
  · exact faultAct_entered (Keeps.refl _ s) hc hd
  · rename_i m req _
    have hentered := faultAct_entered (s.reqWithdraw_clock req) hc hd
    have hfrozen : (faultAct c d (s.reqWithdraw req)).frozen = true := by rw [frozen, hentered.dev]; rfl
    dsimp only
    rw [if_pos hfrozen]
    exact hentered.accErr _ _ _ _

theorem safeWithdraw_quiet {s : State} (h : s.sys.trans = []) : s.safeWithdraw = s := by
  have hsys : { s.sys with trans := [] } = s.sys := by rw [← h]
  rw [safeWithdraw, h, List.filter_nil, hsys]

/-- With no transition under way the entry is the record and the stop. -/
theorem faultEnter_quiet {s : State} (h : s.live = true) (ht : s.sys.trans = []) (c d : Nat) :
    s.faultEnter c d = s.faultRest c d := by
  rw [faultEnter_eq h, outranking_quiet ht, faultAct, safeWithdraw_quiet ht, transAll_quiet ht]

theorem live_not_fault {s : State} (h : s.live = true) : s.dev ≠ .fault := by
  intro hd
  simp [live, hd] at h

theorem fatal_live {s : State} (h : s.live = true) (c d : Nat) : s.fatal c d = s.faultEnter c d :=
  if_neg (by simp [live_not_fault h])

end State
end Sys2Proof.Machine
end

section
/-! PROOF. Entry into FAULT (R88, R437, R438), the statement. -/

namespace Sys2Proof.Machine

open Sys2Proof

namespace State

/-- The condition comes in the instant of a FAULT entry, with a lower code than the one recorded (R437). -/
def Outdone (s : State) (c : Nat) : Prop :=
  s.dev = .fault ∧ s.r F.SYS_FAULT_TIME_TIME = s.sysTime ∧ s.sys.dumped = false ∧ c < s.r F.SYS_FAULT_CAUSE_CAUSE

theorem outdone_iff (s : State) (c : Nat) : (s.dev == .fault && s.r F.SYS_FAULT_TIME_TIME == s.sysTime && !s.sys.dumped &&
    decide (c < s.r F.SYS_FAULT_CAUSE_CAUSE)) = true ↔ s.Outdone c := by
  simp [Outdone, and_assoc]

/-- The lower code takes the place of the one recorded. -/
def rerecord (s : State) (c d : Nat) : State := (s.w F.SYS_FAULT_CAUSE_CAUSE 0 c).w F.SYS_FAULT_CAUSE_DETAIL 0 d

theorem fatal_outdone {s : State} {c : Nat} (h : s.Outdone c) (d : Nat) : s.fatal c d =
    { s.rerecord c d with sys := { s.sys with
        snap := (s.sys.snap.set F.SYS_FAULT_CAUSE_CAUSE 0 c).set F.SYS_FAULT_CAUSE_DETAIL 0 d } } :=
  if_pos ((s.outdone_iff c).2 h)

/-- Otherwise a device that is not at work ignores the condition. -/
theorem fatal_ignored {s : State} {c : Nat} (hl : s.live = false) (h : ¬ s.Outdone c) (d : Nat) : s.fatal c d = s := by
  refine (if_neg fun e => h ((s.outdone_iff c).1 e)).trans ?_
  rw [faultEnter, if_pos (by simp [hl])]

theorem rerecord_reads (s : State) {c d : Nat} (hc : c < 256) (hd : d < 256) :
    (s.rerecord c d).r F.SYS_FAULT_CAUSE_CAUSE = c ∧ (s.rerecord c d).r F.SYS_FAULT_CAUSE_DETAIL = d := by
  refine ⟨(r_w_ne _ _ (by decide)).trans ((r_w_same ..).trans ?_), (r_w_same ..).trans ?_⟩
  · exact Nat.mod_eq_of_lt hc
  · exact Nat.mod_eq_of_lt hd

/-- DETAIL of cause PLL names the first PLL of the mask. -/
theorem pllDetail_eq (s : State) {m : Fin 16} (h : m ≠ 0) : s.pllDetail m =
    (if bitAt m 0 then 0 else if bitAt m 1 then 1 else if bitAt m 2 then 2 else 3) + 4 * s.sys.lrefAbsent.toNat := by
  have hfind : ∀ m : Fin 16, m ≠ 0 → ((List.range 4).find? (bitAt m)).getD 0 =
      if bitAt m 0 then 0 else if bitAt m 1 then 1 else if bitAt m 2 then 2 else 3 := by decide
  rw [pllDetail, hfind m h]

theorem exec_pllLockTimeout {s : State} {m : Fin 16} (h : m ≠ 0) : exec (.pllLockTimeout m) s = .next (s.fatal 5
    ((if bitAt m 0 then 0 else if bitAt m 1 then 1 else if bitAt m 2 then 2 else 3) + 4 * s.sys.lrefAbsent.toNat)) := by
  rw [← pllDetail_eq s h]
  exact congrArg Host.Outcome.next (if_neg h)

theorem pllDetail_lt (s : State) (m : Fin 16) :
    (if bitAt m 0 then 0 else if bitAt m 1 then 1 else if bitAt m 2 then 2 else 3) + 4 * s.sys.lrefAbsent.toNat < 256 := by
  have habsent := Bool.toNat_le s.sys.lrefAbsent
  split
  · omega
  · split
    · omega
    · split <;> omega

/-- What a fatal condition does outside BOOT, SETUP, RUN and SAFE. -/
theorem fatal_silent {s : State} {i : Instr} {c d : Nat} (hl : s.live = false) (hi : exec i s = .next (s.fatal c d))
    (hc : c < 256) (hd : d < 256) : ∃ t, exec i s = .next t ∧
      (s.Outdone c → t.r F.SYS_FAULT_CAUSE_CAUSE = c ∧ t.r F.SYS_FAULT_CAUSE_DETAIL = d ∧
        t = { s with regs := t.regs, sys := { s.sys with snap := t.sys.snap } } ∧
        onlyRegs [(F.SYS_FAULT_CAUSE_CAUSE, 0), (F.SYS_FAULT_CAUSE_DETAIL, 0)] s t) ∧ (¬ s.Outdone c → t = s) := by
  refine ⟨_, hi, fun hout => ?_, fun hnot => fatal_ignored hl hnot d⟩
  obtain ⟨hcause, hdetail⟩ := s.rerecord_reads hc hd
  rw [fatal_outdone hout]
  exact ⟨hcause, hdetail, rfl, (((onlyRegs.refl _ s).w _ (by decide)).w _ (by decide)).regs rfl⟩

end State

/-- Settles O55: a fatal condition ends the transitions under way, records itself and stops everything; each stop action
writes registers of its own. -/
theorem faultEntry : Obligations.FaultEntry := by
  unfold Obligations.FaultEntry
  refine ⟨fun s hs => ?_, fun e c m s hl hm x hx => ?_⟩
  · intro faulted comes
    have hcomes : ∀ (i : Instr) (c d : Nat), exec i s = .next (s.fatal c d) → c < 256 → d < 256 → comes i c d := by
      intro i c d hi hc hd
      rw [State.fatal_live hs] at hi
      obtain ⟨hdev, ⟨hvalid, hcause, hdetail, htime⟩, hdumped⟩ := State.faultEnter_entered hs hc hd
      refine ⟨_, hi, hdev, hvalid, hcause, hdetail, htime, hdumped, fun ht => ?_⟩
      have hfaulted : s.Faulted (s.faultEnter c d) := State.faultEnter_quiet hs ht c d ▸ s.faultRest_faulted c d
      obtain ⟨hdacs, hpwms, hconv, hexc, htlm⟩ := hfaulted.outputs
      obtain ⟨heng, hwait, hxfer, hrun⟩ := hfaulted.works
      obtain ⟨hnow, hpending, hrings, hpcie, hlane, hhost, htx, hadc, heq, hfec, hpool, hcal, htap⟩ := hfaulted.others
      exact ⟨hdev, hvalid, hcause, hdetail, hfaulted.prev, htime, hdacs, hpwms, hconv, hexc, htlm, heng, hwait, hxfer, hrun,
        hfaulted.snap, hfaulted.tag, hfaulted.dump, hdumped, hfaulted.still, hfaulted.snapNs, hnow, hpending, hrings, hpcie,
        hlane, hhost, htx, hadc, heq, hfec, hpool, hcal, htap, hfaulted.blocks⟩
    exact ⟨fun e => hcomes _ _ _ rfl (by decide) (by cases e <;> decide), hcomes _ _ _ rfl (by decide) (by decide),
      fun c => hcomes _ _ _ rfl (by decide) c.isLt, ⟨s, rfl, rfl⟩,
      fun m hm => hcomes _ _ _ (State.exec_pllLockTimeout hm) (by decide) (s.pllDetail_lt m)⟩
  · simp only [List.mem_cons, List.not_mem_nil, or_false] at hx
    obtain rfl | rfl | rfl | rfl := hx
    · exact State.fatal_silent (c := 4) hl rfl (by decide) (by cases e <;> decide)
    · exact State.fatal_silent hl rfl (by decide) (by decide)
    · exact State.fatal_silent (c := 6) hl rfl (by decide) c.isLt
    · exact State.fatal_silent (c := 5) hl (State.exec_pllLockTimeout hm) (by decide) (s.pllDetail_lt m)

end Sys2Proof.Machine
end
